-- ==== Sys2Proof/Word.lean ====
section
/-! DEFINITION. The word types of the QW48 (R2, R34): bytes, 32-bit lanes and instruction words, 64-bit registers. -/

namespace Sys2Proof

/-- One byte; multi-byte values are little-endian (R2). -/
abbrev Byte := BitVec 8

/-- A 32-bit lane of a vector register or accumulator, and an instruction word (R60, R92). -/
abbrev Lane := BitVec 32

/-- A 64-bit scalar register, fabric address or control register (R89, R97). -/
abbrev Word := BitVec 64

end Sys2Proof
end

