-- ==== Sys2Proof/Config.lean ====
section
/-! DEFINITION. What the manual leaves open (free values, opaque and without a body) and the module's fixed figures. -/

namespace Sys2Proof.Config

/-- An unpredictable choice (R4): which of two allowed values is taken. The first argument is `State.fresh`,
the second tells apart the choices of one step. Used by R73, R163, R192, R264, R268, R328, R394. Log 5. -/
opaque pick : Nat → Nat → Bool

/-- Delay in cc beyond the formula latency of a message: back-pressure, conflicts and arrival order (R55, R205,
R215, R308). Log 6. -/
opaque delay : Nat → Nat

/-- The path between a core and an edge home, host port or the module manager, in cc (R205, R338: not architected), from the
field beside which the port lies (R387; 48 for the manager) and `State.fresh`. Log 6. -/
opaque rimLeg : Nat → Nat → Nat

/-- Time of a CXL.mem or CXL.io access, of a table walk, and of the manager's service, in cc (R205, R267, R338).
Log 6. -/
opaque deviceTime : Nat → Nat

/-- Times of the launch path that R336 leaves open, in cc: placement, open wave, seeds, close wave. Log 6. -/
opaque launchTime : Nat → Nat

/-- Duration of a management command (R343), of a freeze step (R272) and of a bring-up stage, in cc. Log 6. -/
opaque firmwareTime : Nat → Nat

/-- Accesses of a core's local store that bank conflicts delay in a cc (R189, R363): the model's latencies assume none. Log 67. -/
opaque bankConflicts : Nat → Nat

/-- The coin of a draw whose masses are infinite in a way that R56 does not name, from u and the masses. Log 66. -/
opaque coin : Nat → Nat → Nat → Bool

/-- Logical columns and rows of the full array (R8, R9). -/
def cols : Nat := 480

/-- Logical rows (R8). -/
def rows : Nat := 440

/-- Bytes of a local store (R188). -/
def storeBytes : Nat := 0x30000

/-- Which port is what in the port map of a module as it leaves manufacture (R387): 1 memory, 2 host, 0 unused. Log 3. -/
def portKind (p : Nat) : Nat :=
  if p = 0 then 1 else if p = 2 then 2 else 0

end Sys2Proof.Config
end

