-- ==== Sys2Proof/Syntax.lean ====
section
/-! DEFINITION. The instruction words (R60 to R68) and the events (95) of the QW48 as data: operands are decoded here
to registers, sizes, orders and scopes, so that no later file sees a raw field. -/

namespace Sys2Proof

/-- A scalar register field: 0-15 select g0-g15, 16-31 select t0-t15 (R62). -/
inductive SReg where
  | g (n : Fin 16)
  | t (n : Fin 16)
  deriving DecidableEq, Repr

/-- p0-p7 (R62). -/
abbrev PReg := Fin 8
/-- m0-m7 (R62). -/
abbrev MReg := Fin 8
/-- v0-v15 (R62). -/
abbrev VNum := Fin 16
/-- a0-a3 or k0-k3 (R62). -/
abbrev ANum := Fin 4
/-- g0-g15 where a vector field names a scalar (R142). -/
abbrev GNum := Fin 16

/-- Stall count S, guard negate GN and guard predicate GP (R60, R61). -/
structure Head where
  stall : BitVec 2
  neg : Bool
  gp : PReg
  deriving DecidableEq, Repr

/-- S 0 and the guard that always holds. -/
def Head.default : Head := ⟨0, false, 0⟩

/-- Memory orders (R65). -/
inductive Order where
  | rlx | acq | rel | ar
  deriving DecidableEq, Repr

/-- Scopes (R21, R65); the group id goes with `.grp`. -/
inductive Scope where
  | core
  | grp (gid : Byte)
  | part
  | mod
  deriving DecidableEq, Repr

/-- Data formats (R34). -/
inductive Fmt where
  | i8 | i16 | i32 | i64 | f32 | bf16 | e4m3 | e5m2 | qb8 | qb4 | q4 | l4 | ba32
  deriving DecidableEq, Repr

/-- Rounding modes (R39). -/
inductive Rm where
  | rne | rtz | rdn | rup | sr | dyn
  deriving DecidableEq, Repr

/-- The X22 field of an IMM long form, when there is one (R65). -/
inductive ImmX where
  | none
  | imm (x : BitVec 22)
  deriving DecidableEq, Repr

/-- The fields of an ORD long form (R65). -/
structure OrdPfx where
  ord : Order
  scope : Scope
  ofx : BitVec 10
  deriving DecidableEq, Repr

/-- An ORD long form, when there is one. -/
inductive OrdX where
  | none
  | ord (p : OrdPfx)
  deriving DecidableEq, Repr

/-- RLD and RST take an IMM or an ORD long form (R67, R206). -/
inductive RemX where
  | none
  | imm (x : BitVec 22)
  | ord (p : OrdPfx)
  deriving DecidableEq, Repr

/-- The fields of a VEC long form (R65). -/
structure VecPfx where
  fmt2 : Fmt
  rm : Rm
  sat : Bool
  sb : Bool
  xb : SReg
  imm8 : Byte
  deriving DecidableEq, Repr

/-- A VEC long form, when there is one. -/
inductive VecX where
  | none
  | vec (p : VecPfx)
  deriving DecidableEq, Repr

/-- ME and MK: the mask that governs the lanes, when there is one (R63). -/
inductive MaskX where
  | all
  | by (m : MReg)
  deriving DecidableEq, Repr

def ImmX.present : ImmX → Bool
  | .none => false
  | .imm _ => true
def OrdX.present : OrdX → Bool
  | .none => false
  | .ord _ => true
def RemX.present : RemX → Bool
  | .none => false
  | _ => true
def VecX.present : VecX → Bool
  | .none => false
  | .vec _ => true

/-- Sizes of LD and RLD (R63). -/
inductive LdSize where
  | i8 | u8 | i16 | u16 | i32 | u32 | i64
  deriving DecidableEq, Repr

/-- Sizes of ST and RST (R63). -/
inductive StSize where
  | b8 | b16 | b32 | b64
  deriving DecidableEq, Repr

/-- The decode faults of R69 that a word alone decides (STALL is decided at issue). -/
inductive DecodeFault where
  | illop | illfn | illfmt | rsvbits | longform | illcsr
  deriving DecidableEq, Repr

/-- An agent that requests and messages name: a core by its logical index (R12), an edge home or a host port by its
port number (R262), the module manager (R338). -/
inductive Node where
  | core (i : Nat)
  | port (p : Nat)
  | mgr
  deriving DecidableEq, Repr

/-- A management command as the host writes it (R343): the port, the TAG, the argument words, and PREEMPT's optional
entry to resume. -/
structure MailCmd where
  port : Nat
  tag : BitVec 32
  a0 : Word
  a1 : Word
  a2 : Word
  opt : Option Word
  deriving DecidableEq, Repr

/-- What a port's training attempt finds (R393, R394): the lanes and rate reached, the GiB of its devices, and whether
the devices are the ones it had, with their contents kept. -/
structure Training where
  up : Bool
  width : BitVec 5
  rate : BitVec 2
  gib : BitVec 24
  sameDevice : Bool
  deriving DecidableEq, Repr

/-- What a bring-up stage observes (R393): at stage 1 the changes that firmware has made to the port map since the last bring-up
(R387) and the link voltages of the field columns (R396), self-test failures (physical
key py * 480 + px) and margins at stage 2, trainings of the ports at stages 4 and 5. -/
structure BringUpObs where
  failed : List Nat
  marginal : List Nat
  ports : List (Nat × Training)
  map : List (Nat × Nat)
  linkMv : List (Nat × Nat)
  deriving DecidableEq, Repr

/-- One island's sensors (R364): hottest temperature, slack, and the re-plan that firmware settles on when the slack is
below 25 ps (R365): steps of 5 mV and of 13 MHz, and the slack reached. -/
structure IslandReading where
  island : Nat
  temp : BitVec 16
  slack : BitVec 16
  steps : List (BitVec 16)
  deriving DecidableEq, Repr

/-- Where a soft error strikes (R190, R194, R376, R185): a local-store word, with the data bits flipped; a register; a
row of the matrix registers; a table; the shadow store; a device's memory; a TLB, a field's translation cache, a fetch buffer; a
router's buffer that holds a message's flit. -/
inductive SoftErr where
  | store (c word : Nat) (flip : Word)
  | gReg (c : Nat) (n : Fin 16)
  | tReg (c : Nat) (sl : Fin 8) (n : Fin 16)
  | vReg (c : Nat) (n : Fin 16)
  | mReg (c : Nat) (n : Fin 8)
  | accLane (c : Nat) (a : Fin 4) (lane : Fin 256) (flip : Lane)
  | plane (c : Nat) (stationary : Bool) (bit : Nat)
  | codebook (c : Nat) (k : Fin 4) (bit : Nat)
  | table (c : Nat)
  | shadow (c : Nat)
  | device (p : Nat) (addr : Nat)
  | tlb (c n : Nat)
  | fieldCache (fld n : Nat)
  | fetchBuf (c addr : Nat)
  | flit (id : Nat)
  deriving DecidableEq, Repr

/-- The steps of the QW48: one constructor per row of the table of operations and events. The events of the
module come first (95), each with the item it concerns; the instruction words follow (R60 to R68), each with its head and
decoded operands. -/
inductive Instr where
  /-- SLOT_SELECTION (R317): With no slot RUNNING and a slot READY, the core selects one by priority, wait and number. -/
  | slotSelection (c : Nat)
  /-- PRIORITY_RAISE (R318): A READY slot's age counter reaches 65,536 and its priority is raised one level. -/
  | priorityRaise (c : Nat) (sl : Fin 8)
  /-- WAIT_LIMIT_EXPIRY (R122): The time limit of a WAIT, WAITA or LWAIT passes and the slot becomes READY. -/
  | waitLimitExpiry (c : Nat) (sl : Fin 8)
  /-- RESULT_WRITE (R75): A scoreboarded local result (load, division, conversion, reduction) or a delayed store lands and clears pending state. -/
  | resultWrite (c id : Nat)
  /-- SFU_SERVICE_START (R152): The head SFU request starts service and takes its RNG values. -/
  | sfuServiceStart (c : Nat)
  /-- SFU_RESULT_WRITE (R152): An SFU request writes its result in queue order, ORs its flags and frees its entry. -/
  | sfuResultWrite (c : Nat)
  /-- MATRIX_DISPATCH (R160): A queued matrix command is dispatched to its pipe when its conditions hold. -/
  | matrixDispatch (c : Nat)
  /-- MATRIX_COMPLETION (R162): A matrix command commits its destination and ORs its flags into the issuing slot's FFLAGS. -/
  | matrixCompletion (c id : Nat)
  /-- DRAINING_END (R124): The last outstanding work of a DRAINING slot completes; the slot becomes FREE and returns its tokens. -/
  | drainingEnd (c : Nat) (sl : Fin 8)
  /-- MESSAGE_ARRIVAL (R312): A message arrives at a door and is refused, held or placed. -/
  | messageArrival (c : Nat) (msg : BitVec 320)
  /-- WRITE_REQUEST_SERVICE (R294): A home serves a write-like request once, using its requester table and reply cache. -/
  | writeRequestService (id : Nat)
  /-- READ_REQUEST_SERVICE (R214): A home serves an idempotent remote read and returns the data. -/
  | readRequestService (id : Nat)
  /-- CXL_MEM_COMPLETION (R212): An edge home receives the completion of its CXL.mem request and performs the event. -/
  | cxlMemCompletion (id : Nat)
  /-- HOST_PORT_COMPLETION (R212): A host port receives a CXL.io completion or write acknowledgement. -/
  | hostPortCompletion (id : Nat)
  /-- HOST_READ_TIMEOUT (R389): A host-window read without completion after 500 µs ends with XLATE. -/
  | hostReadTimeout (id : Nat)
  /-- REPLY_ARRIVAL (R293): A reply reaches its requester and ends, fails or defers the request. -/
  | replyArrival (id : Nat)
  /-- RETRY_TIMER_EXPIRY (R293): A request's attempt timer expires; it is retransmitted or ends unknown or FABRIC_LOST. -/
  | retryTimerExpiry (n : Node) (id : Nat)
  /-- REQUEST_AGE_DISCARD (R294): A router or home discards a request older than 64 µs. -/
  | requestAgeDiscard (id : Nat)
  /-- REPLY_ENTRY_AGEING (R297): A DONE reply-cache entry becomes freeable 1,088 µs after its TIME and is freed. -/
  | replyEntryAgeing (n : Node) (i : Nat)
  /-- REQUESTER_ENTRY_AGEING (R297): A requester entry becomes freeable 64 µs after LAST and is freed. -/
  | requesterEntryAgeing (n : Node) (i : Nat)
  /-- TRANSLATION_WALK_COMPLETE (R267): A page-table walk completes and the waiting accesses proceed or fault. -/
  | translationWalkComplete (c id : Nat)
  /-- PARTIAL_ARRIVAL (R281): A route partial arrives at a router and is combined, forwarded or discarded. -/
  | partialArrival (id : Nat)
  /-- ROUTE_DELIVERY (R282): A closed round is delivered into the local store or to a door after its OP delay. -/
  | routeDelivery (c id : Nat)
  /-- RENORMALISE_NOTICE_ARRIVAL (R284): A renormalise notice reaches a router, which records the floor and passes it on if changed. -/
  | renormaliseNoticeArrival (id : Nat)
  /-- GRANT_ARRIVAL (R247): A token grant reaches the target core and is accepted or refused. -/
  | grantArrival (id : Nat)
  /-- GRANT_OUTCOME (R240): The grant's outcome reaches the home, which keeps, reverts or marks the leaf UNCERTAIN. -/
  | grantOutcome (id : Nat)
  /-- REVOKE_NOTICE_ARRIVAL (R245): A revoke notice removes the named held entries at a holder core. -/
  | revokeNoticeArrival (id : Nat)
  /-- DEATH_DECLARATION (R252): The module manager declares a core or edge home dead and sends death notices. -/
  | deathDeclaration (n : Node)
  /-- DEATH_NOTICE_ARRIVAL (R253): A death notice makes leaves lent to the dead core LOST, or held entries of a dead home LOST. -/
  | deathNoticeArrival (id : Nat)
  /-- COPY_ACTIVATION (R328): A waiting copy takes a free active position. -/
  | copyActivation (c : Nat)
  /-- COPY_UNIT_SEND (R328): The copy engine sends one 256-byte unit every 8 cc. -/
  | copyUnitSend (c : Nat)
  /-- COPY_COMPLETION_WRITE (R330): When every unit is acknowledged the engine writes the completion word. -/
  | copyCompletionWrite (c id : Nat)
  /-- COPY_DEADLINE (R330): A copy's deadline passes; it is marked LATE, or abandoned under DLA. -/
  | copyDeadline (c id : Nat)
  /-- COPY_CLASS_RAISE (R329): An offload copy is raised to the data class. -/
  | copyClassRaise (c id : Nat)
  /-- LAUNCH_STORE (R335): A host stores a 64-byte launch record, which is accepted and journalled or refused. -/
  | launchStore (port : Nat) (r : Vector (BitVec 64) 8)
  /-- SUBMIT_SERVICE (R338): The module manager decides a SUBMIT as a port store and replies. -/
  | submitService (id : Nat)
  /-- PLACEMENT (R336): The module manager places the first waiting launch on free fields and writes PLACED. -/
  | placement
  /-- OPEN_WAVE (R88): Dispatch hardware multicasts the image and resets the partition's cores. -/
  | openWave (e : Nat)
  /-- LOAD_COMPLETE (R24): Load-complete is combined across the partition and STATE becomes RUNNING. -/
  | loadComplete (e : Nat)
  /-- SEED_INJECTION (R334): Dispatch hardware injects the next seed into door 0. -/
  | seedInjection (e : Nat)
  /-- CLOSE_WAVE (R25): Quiescence is detected; the exit is signalled, journalled and the fields freed. -/
  | closeWave (e : Nat)
  /-- HANG_MONITOR_SAMPLE (R345): Every 1 ms the monitor kills a partition that made no progress for its HANG limit. -/
  | hangMonitorSample
  /-- PREEMPT (R340): Management command that sets HALTING for a pre-emptible partition. -/
  | preempt (q : MailCmd)
  /-- CORE_HALT (R340): A core whose slots are halt-ready and queues empty halts. -/
  | coreHalt (c : Nat)
  /-- HALT_COMPLETE (R340): All cores halted: live ranges spilled, shadow contexts swapped, STATE SAVED. -/
  | haltComplete (e : Nat)
  /-- HALTFAIL (R342): The partition has not halted 10 ms after HALTING; the pre-emption is abandoned. -/
  | haltfail (e : Nat)
  /-- RESUME (R341): Management command that restores a SAVED partition. -/
  | resume (q : MailCmd)
  /-- KILL (R346): Management command that kills a partition. -/
  | kill (q : MailCmd)
  /-- SHOOTDOWN (R268): Management command that drops cached translations of a range. -/
  | shootdown (q : MailCmd)
  /-- CLEARRET (R270): Management command that returns a RETIRED physical core to SPARE. -/
  | clearret (q : MailCmd)
  /-- READBIND (R344): Management command that returns a binding entry. -/
  | readbind (q : MailCmd)
  /-- FREE (R344): Management command that frees a CLOSED or FAILED slot-table entry. -/
  | free (q : MailCmd)
  /-- HOST_WINDOW_WRITE (R390): A host write to any other part of the device window is discarded. -/
  | hostWindowWrite (port off : Nat) (data : List (BitVec 8))
  /-- RETIREMENT_START (R272): A failing core's range is frozen, issue halted and open rounds forwarded early. -/
  | retirementStart (c : Nat)
  /-- RETIREMENT_COPY (R272): After the queues drain, state is copied to the spare, rebound and unfrozen. -/
  | retirementCopy (c : Nat)
  /-- RETIREMENT_TIMEOUT (R272): A retirement not complete within 100 µs ends with the core declared dead. -/
  | retirementTimeout (c : Nat)
  /-- EDGE_HOME_RESTART (R300): An edge home restarts with empty tables and a new incarnation. -/
  | edgeHomeRestart (p : Nat)
  /-- PORT_LINK_LOSS (R394): A trained edge port loses its link. -/
  | portLinkLoss (p : Nat)
  /-- PORT_RETRAIN_ATTEMPT (R394): Every 1 s a down port attempts retraining. -/
  | portRetrainAttempt (p : Nat) (r : Training)
  /-- POWER_GOOD (R393): Power-good starts bring-up at stage 1. -/
  | powerGood
  /-- BRING_UP_STAGE (R393): A bring-up stage completes, STAGE is written and the next stage starts. -/
  | bringUpStage (o : BringUpObs)
  /-- ISLAND_MONITOR_READ (R364): Every second firmware reads the path monitors and writes the island records. -/
  | islandMonitorRead (rs : List IslandReading)
  /-- ISLAND_CLOCK_CHANGE (R365): A planned FMHZ change takes effect at a 1 ms boundary of TIME. -/
  | islandClockChange (i : Nat)
  /-- POWER_LIMIT_STEP (R397): While power exceeds its limit, every island is lowered or later raised by 13 MHz each 1 ms. -/
  | powerLimitStep (amps watts : BitVec 32)
  /-- THERMAL_THROTTLE_STEP (R397): An island at or above 100 °C is lowered by 13 MHz each 1 ms. -/
  | thermalThrottleStep (i : Nat) (temp : BitVec 16)
  /-- OVERTEMP_SHUTDOWN (R397): A temperature at or above 110 °C kills every partition and lowers the rails. -/
  | overtempShutdown (i : Nat) (temp : BitVec 16)
  /-- PATROL_SCRUB (R190): The scrubber reads and corrects local-store words at least every 100 ms. -/
  | patrolScrub (c word : Nat)
  /-- FLIT_CRC_DROP (R31): A flit whose CRC fails is dropped at the receiving router. -/
  | flitCrcDrop (id : Nat)
  /-- FLIT_AGE_PRIORITY (R307): A flit that has waited 1,024 cc at a port is sent next whatever its class. -/
  | flitAgePriority (id : Nat)
  /-- NOT_AN_INSTRUCTION (R69): The RUNNING slot issues a word or pair that is not an instruction and takes a decode fault (ILLOP, ILLFN and the like). -/
  | notAnInstruction (f : DecodeFault)
  /-- FETCH_PAST_LOCAL_STORE (R113): The pc of the RUNNING slot advances sequentially past 0x2_FFFC, and the fetch faults with LRANGE and FADDR 0x3_0000. -/
  | fetchPastLocalStore
  /-- SOFT_ERROR (R190): A soft error flips one or more stored bits of a local-store, register, table or shadow-store word. -/
  | softError (e : SoftErr)
  /-- POWER_GOOD_LOSS (R396): Power-good is lost, and the regulators lower the domains in the reverse order of bring-up. -/
  | powerGoodLoss
  /-- HDM_DECODER_BASE_WRITE (R389): Host software programs the base of a host port's HDM decoder, which places the port's 4 MiB device window. -/
  | hdmDecoderBaseWrite (port : Nat) (base : BitVec 64)
  /-- FENCE_CLEAR_COMMAND (R398): A management-firmware command clears a persisted field fence, subject to the field passing self-test. -/
  | fenceClearCommand (fld : Nat) (pass : Bool)
  /-- EXTERNAL_SEGMENT_DECLARATION (R259): Management firmware makes or frees an EXT entry of an edge home at the request of host software. -/
  | externalSegmentDeclaration (port : Nat) (base limit : BitVec 64) (make : Bool)
  /-- ADD (R102): Writes a + b modulo 2^64 to d. -/
  | add (h : Head) (d a b : SReg)
  /-- SUB (R102): Writes a - b modulo 2^64 to d. -/
  | sub (h : Head) (d a b : SReg)
  /-- AND (R102): Writes the bitwise AND of a and b to d. -/
  | and (h : Head) (d a b : SReg)
  /-- OR (R102): Writes the bitwise OR of a and b to d. -/
  | or (h : Head) (d a b : SReg)
  /-- XOR (R102): Writes the bitwise XOR of a and b to d. -/
  | xor (h : Head) (d a b : SReg)
  /-- SLL (R102): Shifts a left by b[5:0] into d. -/
  | sll (h : Head) (d a b : SReg)
  /-- SRL (R102): Shifts a right logically by b[5:0] into d. -/
  | srl (h : Head) (d a b : SReg)
  /-- SRA (R102): Shifts a right arithmetically by b[5:0] into d. -/
  | sra (h : Head) (d a b : SReg)
  /-- MIN (R102): Writes the signed minimum of a and b to d. -/
  | min (h : Head) (d a b : SReg)
  /-- MAX (R102): Writes the signed maximum of a and b to d. -/
  | max (h : Head) (d a b : SReg)
  /-- MINU (R102): Writes the unsigned minimum of a and b to d. -/
  | minu (h : Head) (d a b : SReg)
  /-- MAXU (R102): Writes the unsigned maximum of a and b to d. -/
  | maxu (h : Head) (d a b : SReg)
  /-- MUL (R102): Writes the low 64 bits of a times b to d, latency 3. -/
  | mul (h : Head) (d a b : SReg)
  /-- MULH (R102): Writes the high 64 bits of the signed product to d. -/
  | mulh (h : Head) (d a b : SReg)
  /-- MULHU (R102): Writes the high 64 bits of the unsigned product to d. -/
  | mulhu (h : Head) (d a b : SReg)
  /-- DIV (R103): Starts a scoreboarded signed division of a by b, truncating toward zero. -/
  | div (h : Head) (d a b : SReg)
  /-- DIVU (R103): Starts a scoreboarded unsigned division of a by b. -/
  | divu (h : Head) (d a b : SReg)
  /-- REM (R103): Starts a scoreboarded signed remainder of a by b. -/
  | rem (h : Head) (d a b : SReg)
  /-- REMU (R103): Starts a scoreboarded unsigned remainder of a by b. -/
  | remu (h : Head) (d a b : SReg)
  /-- ADDS (R102): Writes the saturated signed sum to d and sets SAT when it clamps. -/
  | adds (h : Head) (d a b : SReg)
  /-- SUBS (R102): Writes the saturated signed difference to d and sets SAT when it clamps. -/
  | subs (h : Head) (d a b : SReg)
  /-- CLZ (R102): Writes the number of leading zero bits of a to d. -/
  | clz (h : Head) (d a : SReg)
  /-- POPC (R102): Writes the number of one bits of a to d. -/
  | popc (h : Head) (d a : SReg)
  /-- ANDN (R102): Writes a AND NOT b to d. -/
  | andn (h : Head) (d a b : SReg)
  /-- ORN (R102): Writes a OR NOT b to d. -/
  | orn (h : Head) (d a b : SReg)
  /-- ADDI (R104): Writes a plus the immediate to d. -/
  | addi (h : Head) (x : ImmX) (d a : SReg) (imm : BitVec 10)
  /-- ANDI (R104): Writes a AND the immediate to d. -/
  | andi (h : Head) (x : ImmX) (d a : SReg) (imm : BitVec 10)
  /-- ORI (R104): Writes a OR the immediate to d. -/
  | ori (h : Head) (x : ImmX) (d a : SReg) (imm : BitVec 10)
  /-- XORI (R104): Writes a XOR the immediate to d. -/
  | xori (h : Head) (x : ImmX) (d a : SReg) (imm : BitVec 10)
  /-- SLLI (R104): Shifts a left by the immediate count SH. -/
  | slli (h : Head) (d a : SReg) (sh : BitVec 6)
  /-- SRLI (R104): Shifts a right logically by SH. -/
  | srli (h : Head) (d a : SReg) (sh : BitVec 6)
  /-- SRAI (R104): Shifts a right arithmetically by SH. -/
  | srai (h : Head) (d a : SReg) (sh : BitVec 6)
  /-- RORI (R104): Rotates a right by SH bits. -/
  | rori (h : Head) (d a : SReg) (sh : BitVec 6)
  /-- LI (R104): Writes the sign-extended immediate to d. -/
  | li (h : Head) (x : ImmX) (d : SReg) (imm : BitVec 10)
  /-- LIH (R104): Writes the low half of a with the immediate's low 32 bits placed in the upper half. -/
  | lih (h : Head) (x : ImmX) (d a : SReg) (imm : BitVec 10)
  /-- CMP_EQ (R107): Sets predicate d to a = b. -/
  | cmpEq (h : Head) (d : PReg) (a b : SReg)
  /-- CMP_NE (R107): Sets predicate d to a != b. -/
  | cmpNe (h : Head) (d : PReg) (a b : SReg)
  /-- CMP_LT (R107): Sets predicate d to signed a < b. -/
  | cmpLt (h : Head) (d : PReg) (a b : SReg)
  /-- CMP_GE (R107): Sets predicate d to signed a >= b. -/
  | cmpGe (h : Head) (d : PReg) (a b : SReg)
  /-- CMP_LTU (R107): Sets predicate d to unsigned a < b. -/
  | cmpLtu (h : Head) (d : PReg) (a b : SReg)
  /-- CMP_GEU (R107): Sets predicate d to unsigned a >= b. -/
  | cmpGeu (h : Head) (d : PReg) (a b : SReg)
  /-- CMP_BITS (R107): Sets predicate d when a AND b is non-zero. -/
  | cmpBits (h : Head) (d : PReg) (a b : SReg)
  /-- CMP_NBITS (R107): Sets predicate d when a AND b is zero. -/
  | cmpNbits (h : Head) (d : PReg) (a b : SReg)
  /-- CMPI_EQ (R107): Sets predicate d to a = immediate. -/
  | cmpiEq (h : Head) (x : ImmX) (d : PReg) (a : SReg) (imm : BitVec 7)
  /-- CMPI_NE (R107): Sets predicate d to a != immediate. -/
  | cmpiNe (h : Head) (x : ImmX) (d : PReg) (a : SReg) (imm : BitVec 7)
  /-- CMPI_LT (R107): Sets predicate d to signed a < immediate. -/
  | cmpiLt (h : Head) (x : ImmX) (d : PReg) (a : SReg) (imm : BitVec 7)
  /-- CMPI_GE (R107): Sets predicate d to signed a >= immediate. -/
  | cmpiGe (h : Head) (x : ImmX) (d : PReg) (a : SReg) (imm : BitVec 7)
  /-- CMPI_LTU (R107): Sets predicate d to unsigned a < immediate. -/
  | cmpiLtu (h : Head) (x : ImmX) (d : PReg) (a : SReg) (imm : BitVec 7)
  /-- CMPI_GEU (R107): Sets predicate d to unsigned a >= immediate. -/
  | cmpiGeu (h : Head) (x : ImmX) (d : PReg) (a : SReg) (imm : BitVec 7)
  /-- CMPI_BITS (R107): Sets predicate d when a AND immediate is non-zero. -/
  | cmpiBits (h : Head) (x : ImmX) (d : PReg) (a : SReg) (imm : BitVec 7)
  /-- CMPI_NBITS (R107): Sets predicate d when a AND immediate is zero. -/
  | cmpiNbits (h : Head) (x : ImmX) (d : PReg) (a : SReg) (imm : BitVec 7)
  /-- PAND (R108): Writes pa AND pb to predicate d. -/
  | pand (h : Head) (d a b : PReg)
  /-- POR (R108): Writes pa OR pb to predicate d. -/
  | por (h : Head) (d a b : PReg)
  /-- PXOR (R108): Writes pa XOR pb to predicate d. -/
  | pxor (h : Head) (d a b : PReg)
  /-- PANDN (R108): Writes pa AND NOT pb to predicate d. -/
  | pandn (h : Head) (d a b : PReg)
  /-- PNOT (R108): Writes NOT pa to predicate d. -/
  | pnot (h : Head) (d a : PReg)
  /-- PMOV (R108): Copies pa to predicate d. -/
  | pmov (h : Head) (d a : PReg)
  /-- PSET (R108): Writes 1 to predicate d. -/
  | pset (h : Head) (d : PReg)
  /-- PCLR (R108): Writes 0 to predicate d. -/
  | pclr (h : Head) (d : PReg)
  /-- SEXT8 (R105): Sign-extends a[7:0] into d. -/
  | sext8 (h : Head) (d a : SReg)
  /-- SEXT16 (R105): Sign-extends a[15:0] into d. -/
  | sext16 (h : Head) (d a : SReg)
  /-- SEXT32 (R105): Sign-extends a[31:0] into d. -/
  | sext32 (h : Head) (d a : SReg)
  /-- ZEXT8 (R105): Zero-extends a[7:0] into d. -/
  | zext8 (h : Head) (d a : SReg)
  /-- ZEXT16 (R105): Zero-extends a[15:0] into d. -/
  | zext16 (h : Head) (d a : SReg)
  /-- ZEXT32 (R105): Zero-extends a[31:0] into d. -/
  | zext32 (h : Head) (d a : SReg)
  /-- BSWAP (R105): Reverses the eight bytes of a into d. -/
  | bswap (h : Head) (d a : SReg)
  /-- CTZ (R105): Writes the number of trailing zero bits of a to d. -/
  | ctz (h : Head) (d a : SReg)
  /-- PEER (R106): Builds the peer-window base of core (a, b). -/
  | peer (h : Head) (d a b : SReg)
  /-- PEERO (R106): Moves peer address a by the dx, dy displacement in b, modulo 512. -/
  | peero (h : Head) (d a b : SReg)
  /-- PIDX (R106): Extracts the logical core index from peer address a. -/
  | pidx (h : Head) (d a : SReg)
  /-- MAND (R136): Writes ma AND mb to mask d. -/
  | mand (h : Head) (d a b : MReg)
  /-- MOR (R136): Writes ma OR mb to mask d. -/
  | mor (h : Head) (d a b : MReg)
  /-- MXOR (R136): Writes ma XOR mb to mask d. -/
  | mxor (h : Head) (d a b : MReg)
  /-- MANDN (R136): Writes ma AND NOT mb to mask d. -/
  | mandn (h : Head) (d a b : MReg)
  /-- MNOT (R136): Writes NOT ma to mask d. -/
  | mnot (h : Head) (d a : MReg)
  /-- MSET (R136): Copies scalar a into mask d. -/
  | mset (h : Head) (d : MReg) (a : SReg)
  /-- MGET (R136): Copies mask a into scalar d. -/
  | mget (h : Head) (d : SReg) (a : MReg)
  /-- MPOP (R136): Writes the number of set bits of mask a to d. -/
  | mpop (h : Head) (d : SReg) (a : MReg)
  /-- MFIRST (R136): Writes the index of the lowest set bit of mask a, or 64, to d. -/
  | mfirst (h : Head) (d : SReg) (a : MReg)
  /-- B (R112): Branches to the pc-relative target. -/
  | b (h : Head) (off : BitVec 20)
  /-- CALL (R112): Writes the return address to t15 and branches to the pc-relative target. -/
  | call (h : Head) (off : BitVec 20)
  /-- JR (R112): Jumps to the address in a; the first taken JR after trap entry clears INTRAP. -/
  | jr (h : Head) (a : SReg)
  /-- JALR (R112): Writes the return address to d and jumps to a. -/
  | jalr (h : Head) (d a : SReg)
  /-- RET (R112): Jumps to the address in t15. -/
  | ret (h : Head)
  /-- LOOP_REG (R115): Starts a hardware loop on lc0 or lc1 with the count from a scalar register. -/
  | loopReg (h : Head) (lv : Bool) (ca : SReg) (len : BitVec 13)
  /-- LOOP_IMM (R115): Starts a hardware loop on lc0 or lc1 with an immediate count. -/
  | loopImm (h : Head) (x : ImmX) (lv : Bool) (ca : BitVec 5) (len : BitVec 13)
  /-- WAIT (R120): Waits until every outstanding operation of the slot completes or the limit passes. -/
  | wait (h : Head) (d a : SReg)
  /-- WAITA (R121): Waits until an own-window 64-bit word reaches at least b, with an optional limit. -/
  | waita (h : Head) (o : OrdX) (d a b : SReg)
  /-- YIELD (R123): Moves the slot from RUNNING to READY and restarts its ageing wait. -/
  | yield (h : Head)
  /-- END (R124): Ends the task; the slot becomes FREE, or DRAINING while work is outstanding. -/
  | endTask (h : Head)
  /-- TRAP (R125): Raises SWTRAP with FADDR set to a. -/
  | trap (h : Head) (a : SReg)
  /-- ISYNC (R126): Waits for the slot's earlier local-store writes and discards the fetch buffer. -/
  | isync (h : Head)
  /-- NOP (R127): Changes nothing but the pc. -/
  | nop (h : Head)
  /-- CSRW (R128): Writes a control register and returns its old value. -/
  | csrw (h : Head) (d a : SReg) (csr : BitVec 10)
  /-- CSRS (R128): Sets bits of a control register and returns its old value. -/
  | csrs (h : Head) (d a : SReg) (csr : BitVec 10)
  /-- CSRC (R128): Clears bits of a control register and returns its old value. -/
  | csrc (h : Head) (d a : SReg) (csr : BitVec 10)
  /-- LD (R196): Loads a sign- or zero-extended value of size SZ from the local store. -/
  | ld (h : Head) (x : ImmX) (d a : SReg) (sz : LdSize) (off : BitVec 7)
  /-- ST (R196): Stores the low bytes of d of size SZ to the local store. -/
  | st (h : Head) (x : ImmX) (d a : SReg) (sz : StSize) (off : BitVec 7)
  /-- VLD (R198): Loads 256 bytes into the lanes of a vector register. -/
  | vld (h : Head) (x : ImmX) (d : VNum) (a : SReg) (off : BitVec 7)
  /-- VST (R198): Stores the 64 lanes of a vector register as 256 bytes. -/
  | vst (h : Head) (x : ImmX) (d : VNum) (a : SReg) (off : BitVec 7)
  /-- VGATH_I32 (R199): Gathers one 32-bit word per enabled lane from the local store. -/
  | vgathI32 (h : Head) (d : VNum) (a : SReg) (b : VNum) (mk : MaskX)
  /-- VSCAT_I32 (R199): Scatters one 32-bit word per enabled lane to the local store. -/
  | vscatI32 (h : Head) (d : VNum) (a : SReg) (b : VNum) (mk : MaskX)
  /-- VGATH_I16 (R199): Gathers one zero-extended 16-bit value per enabled lane. -/
  | vgathI16 (h : Head) (d : VNum) (a : SReg) (b : VNum) (mk : MaskX)
  /-- VSCAT_I16 (R199): Scatters bits [15:0] of each enabled lane. -/
  | vscatI16 (h : Head) (d : VNum) (a : SReg) (b : VNum) (mk : MaskX)
  /-- QLD_QB8 (R200): Loads a QB8 block's mantissas and header into a vector register. -/
  | qldQb8 (h : Head) (d : VNum) (a b : SReg)
  /-- QLD_QB4 (R200): Loads a QB4 block's mantissas and header into a vector register. -/
  | qldQb4 (h : Head) (d : VNum) (a b : SReg)
  /-- QST_QB8 (R200): Stores a QB8 block's mantissas and header from a vector register. -/
  | qstQb8 (h : Head) (d : VNum) (a b : SReg)
  /-- QST_QB4 (R200): Stores a QB4 block's mantissas and header from a vector register. -/
  | qstQb4 (h : Head) (d : VNum) (a b : SReg)
  /-- RLD (R206): Issues a remote load of size SZ to the home of a fabric address. -/
  | rld (h : Head) (x : RemX) (d a : SReg) (sz : LdSize) (off : BitVec 7)
  /-- RST (R206): Issues a write-like remote store of size SZ with identity and serial. -/
  | rst (h : Head) (x : RemX) (d a : SReg) (sz : StSize) (off : BitVec 7)
  /-- ATOM_ADD (R208): Atomically adds b to the word at a and returns the old value. -/
  | atomAdd (h : Head) (o : OrdX) (d a b : SReg) (w : Bool)
  /-- ATOM_SUB (R208): Atomically subtracts b from the word at a and returns the old value. -/
  | atomSub (h : Head) (o : OrdX) (d a b : SReg) (w : Bool)
  /-- ATOM_AND (R208): Atomically ANDs b into the word at a. -/
  | atomAnd (h : Head) (o : OrdX) (d a b : SReg) (w : Bool)
  /-- ATOM_OR (R208): Atomically ORs b into the word at a. -/
  | atomOr (h : Head) (o : OrdX) (d a b : SReg) (w : Bool)
  /-- ATOM_XOR (R208): Atomically XORs b into the word at a. -/
  | atomXor (h : Head) (o : OrdX) (d a b : SReg) (w : Bool)
  /-- ATOM_MIN (R208): Atomically keeps the signed minimum of the word and b. -/
  | atomMin (h : Head) (o : OrdX) (d a b : SReg) (w : Bool)
  /-- ATOM_MAX (R208): Atomically keeps the signed maximum of the word and b. -/
  | atomMax (h : Head) (o : OrdX) (d a b : SReg) (w : Bool)
  /-- ATOM_MINU (R208): Atomically keeps the unsigned minimum of the word and b. -/
  | atomMinu (h : Head) (o : OrdX) (d a b : SReg) (w : Bool)
  /-- ATOM_MAXU (R208): Atomically keeps the unsigned maximum of the word and b. -/
  | atomMaxu (h : Head) (o : OrdX) (d a b : SReg) (w : Bool)
  /-- ATOM_SWAP (R208): Atomically replaces the word with b and returns the old value. -/
  | atomSwap (h : Head) (o : OrdX) (d a b : SReg) (w : Bool)
  /-- ATOM_CAS (R208): Atomically writes b when the word equals d, returning the old value. -/
  | atomCas (h : Head) (o : OrdX) (d a b : SReg) (w : Bool)
  /-- ATOM_FADD_F32 (R208): Atomically adds an FP32 value to a 32-bit word under RNE. -/
  | atomFaddF32 (h : Head) (o : OrdX) (d a b : SReg)
  /-- ATOM_BADD (R209): Adds a BA32 addend block to a sill block at a core home and returns its header. -/
  | atomBadd (h : Head) (o : OrdX) (d a b : SReg)
  /-- FENCE_ACQ (R210): Holds the slot until its earlier reads in scope have returned. -/
  | fenceAcq (h : Head) (sc : Scope)
  /-- FENCE_REL (R210): Holds the slot until its earlier writes in scope are performed and acknowledged. -/
  | fenceRel (h : Head) (sc : Scope)
  /-- FENCE_AR (R210): Holds the slot under both the acquire and the release conditions. -/
  | fenceAr (h : Head) (sc : Scope)
  /-- RVLD (R207): Issues a remote load of 256 bytes into a vector register. -/
  | rvld (h : Head) (o : OrdX) (d : VNum) (a b : SReg)
  /-- RVST (R207): Issues a write-like remote store of a vector register's 256 bytes. -/
  | rvst (h : Head) (o : OrdX) (d : VNum) (a b : SReg)
  /-- TDECL (R239): Declares a new token region at a core or edge home. -/
  | tdecl (h : Head) (a b : SReg)
  /-- TLEND (R240): Lends the write token of a leaf to a target slot, after the implied flush. -/
  | tlend (h : Head) (a b : SReg)
  /-- TRET (R241): Returns a held write token to its home. -/
  | tret (h : Head) (a : SReg)
  /-- TSPLIT (R242): Splits a HOME leaf into two HOME children at the split point. -/
  | tsplit (h : Head) (a b : SReg)
  /-- TJOIN (R242): Joins the two HOME children of a SPLIT entry. -/
  | tjoin (h : Head) (a : SReg)
  /-- TSHARE (R243): Grants a named or anonymous read share of a leaf to a target. -/
  | tshare (h : Head) (a b : SReg)
  /-- TUNSH (R243): Gives back a read share to the home. -/
  | tunsh (h : Head) (a : SReg)
  /-- TQRY (R244): Returns the home report or the held report covering a byte. -/
  | tqry (h : Head) (d a b : SReg)
  /-- TRECL (R245): Recalls a lent or shared token home by force. -/
  | trecl (h : Head) (a : SReg)
  /-- TCLEAN (R246): Resolves a TAINTED or LOST region or frees a declared one. -/
  | tclean (h : Head) (a b : SReg)
  /-- SEND (R319): Sends up to 32 payload bytes to a door of a target core. -/
  | send (h : Head) (o : OrdX) (d : BitVec 3) (a b : SReg)
  /-- SENDR (R320): Injects a partial into a route at the core's own router. -/
  | sendr (h : Head) (o : OrdX) (a b : SReg)
  /-- DOOR (R321): Rewrites, opens or closes a door of the issuing core and returns the old entry. -/
  | door (h : Head) (o : OrdX) (d a b : SReg)
  /-- DOORQ (R322): Returns a door entry with the core's free slots and held entries. -/
  | doorq (h : Head) (o : OrdX) (d a : SReg)
  /-- SUBMIT (R338): Sends a launch record to the module manager and later writes the result word. -/
  | submit (h : Head) (o : OrdX) (a b : SReg)
  /-- CKPT (R339): Records a checkpoint and live-range table, stopping the slot when its partition is HALTING. -/
  | ckpt (h : Head) (o : OrdX) (a b : SReg)
  /-- CPY (R327): Checks and queues a one-row copy described by a 32-byte descriptor. -/
  | cpy (h : Head) (o : OrdX) (a b : SReg)
  /-- CPYQ (R332): Returns free copy entries, active copies and the slot's unfinished copies. -/
  | cpyq (h : Head) (d : SReg)
  /-- CPYX (R327): Checks and queues a strided multi-row copy described by a 48-byte descriptor. -/
  | cpyx (h : Head) (o : OrdX) (a b : SReg)
  /-- VADD_I32 (R137): Adds 32-bit lanes modulo 2^32. -/
  | vaddI32 (h : Head) (x : VecX) (d a b : VNum) (mk : MaskX)
  /-- VSUB_I32 (R137): Subtracts 32-bit lanes. -/
  | vsubI32 (h : Head) (x : VecX) (d a b : VNum) (mk : MaskX)
  /-- VMUL_I32 (R137): Multiplies 32-bit lanes, keeping the low bits. -/
  | vmulI32 (h : Head) (x : VecX) (d a b : VNum) (mk : MaskX)
  /-- VMULH_I32 (R137): Writes the high 32 bits of the signed lane products. -/
  | vmulhI32 (h : Head) (x : VecX) (d a b : VNum) (mk : MaskX)
  /-- VMIN_I32 (R137): Signed lane minimum. -/
  | vminI32 (h : Head) (x : VecX) (d a b : VNum) (mk : MaskX)
  /-- VMAX_I32 (R137): Signed lane maximum. -/
  | vmaxI32 (h : Head) (x : VecX) (d a b : VNum) (mk : MaskX)
  /-- VAND (R137): Bitwise AND of lanes. -/
  | vand (h : Head) (x : VecX) (d a b : VNum) (mk : MaskX)
  /-- VOR (R137): Bitwise OR of lanes. -/
  | vor (h : Head) (x : VecX) (d a b : VNum) (mk : MaskX)
  /-- VXOR (R137): Bitwise XOR of lanes. -/
  | vxor (h : Head) (x : VecX) (d a b : VNum) (mk : MaskX)
  /-- VSLL (R137): Shifts lanes left by b[4:0]. -/
  | vsll (h : Head) (x : VecX) (d a b : VNum) (mk : MaskX)
  /-- VSRL (R137): Shifts lanes right logically by b[4:0]. -/
  | vsrl (h : Head) (x : VecX) (d a b : VNum) (mk : MaskX)
  /-- VSRA (R137): Shifts lanes right arithmetically by b[4:0]. -/
  | vsra (h : Head) (x : VecX) (d a b : VNum) (mk : MaskX)
  /-- VADDS_I32 (R137): Saturating 32-bit lane addition. -/
  | vaddsI32 (h : Head) (x : VecX) (d a b : VNum) (mk : MaskX)
  /-- VSUBS_I32 (R137): Saturating 32-bit lane subtraction. -/
  | vsubsI32 (h : Head) (x : VecX) (d a b : VNum) (mk : MaskX)
  /-- VABS_I32 (R137): Absolute value of signed 32-bit lanes. -/
  | vabsI32 (h : Head) (x : VecX) (d a : VNum) (mk : MaskX)
  /-- VMINU_I32 (R137): Unsigned 32-bit lane minimum. -/
  | vminuI32 (h : Head) (x : VecX) (d a b : VNum) (mk : MaskX)
  /-- VADD_F32 (R138): Rounded FP32 lane addition. -/
  | vaddF32 (h : Head) (x : VecX) (d a b : VNum) (mk : MaskX)
  /-- VSUB_F32 (R138): Rounded FP32 lane subtraction. -/
  | vsubF32 (h : Head) (x : VecX) (d a b : VNum) (mk : MaskX)
  /-- VMUL_F32 (R138): Rounded FP32 lane multiplication. -/
  | vmulF32 (h : Head) (x : VecX) (d a b : VNum) (mk : MaskX)
  /-- VFMA_F32 (R138): Fused a times b plus d in FP32 lanes. -/
  | vfmaF32 (h : Head) (x : VecX) (d a b : VNum) (mk : MaskX)
  /-- VFMS_F32 (R138): Fused a times b minus d in FP32 lanes. -/
  | vfmsF32 (h : Head) (x : VecX) (d a b : VNum) (mk : MaskX)
  /-- VMIN_F32 (R138): FP32 lane minimum. -/
  | vminF32 (h : Head) (x : VecX) (d a b : VNum) (mk : MaskX)
  /-- VMAX_F32 (R138): FP32 lane maximum. -/
  | vmaxF32 (h : Head) (x : VecX) (d a b : VNum) (mk : MaskX)
  /-- VABS_F32 (R138): Clears the sign of FP32 lanes. -/
  | vabsF32 (h : Head) (x : VecX) (d a : VNum) (mk : MaskX)
  /-- VNEG_F32 (R138): Inverts the sign of FP32 lanes. -/
  | vnegF32 (h : Head) (x : VecX) (d a : VNum) (mk : MaskX)
  /-- VFNMA_F32 (R138): Fused d minus a times b in FP32 lanes. -/
  | vfnmaF32 (h : Head) (x : VecX) (d a b : VNum) (mk : MaskX)
  /-- VADD_I16 (R137): Adds 16-bit elements. -/
  | vaddI16 (h : Head) (x : VecX) (d a b : VNum) (mk : MaskX)
  /-- VSUB_I16 (R137): Subtracts 16-bit elements. -/
  | vsubI16 (h : Head) (x : VecX) (d a b : VNum) (mk : MaskX)
  /-- VMUL_I16 (R137): Multiplies 16-bit elements. -/
  | vmulI16 (h : Head) (x : VecX) (d a b : VNum) (mk : MaskX)
  /-- VADDS_I16 (R137): Saturating 16-bit addition. -/
  | vaddsI16 (h : Head) (x : VecX) (d a b : VNum) (mk : MaskX)
  /-- VSUBS_I16 (R137): Saturating 16-bit subtraction. -/
  | vsubsI16 (h : Head) (x : VecX) (d a b : VNum) (mk : MaskX)
  /-- VMIN_I16 (R137): Signed 16-bit minimum. -/
  | vminI16 (h : Head) (x : VecX) (d a b : VNum) (mk : MaskX)
  /-- VMAX_I16 (R137): Signed 16-bit maximum. -/
  | vmaxI16 (h : Head) (x : VecX) (d a b : VNum) (mk : MaskX)
  /-- VADD_BF16 (R138): Rounded BF16 addition. -/
  | vaddBf16 (h : Head) (x : VecX) (d a b : VNum) (mk : MaskX)
  /-- VSUB_BF16 (R138): Rounded BF16 subtraction. -/
  | vsubBf16 (h : Head) (x : VecX) (d a b : VNum) (mk : MaskX)
  /-- VMUL_BF16 (R138): Rounded BF16 multiplication. -/
  | vmulBf16 (h : Head) (x : VecX) (d a b : VNum) (mk : MaskX)
  /-- VFMA_BF16 (R138): Fused BF16 multiply-add. -/
  | vfmaBf16 (h : Head) (x : VecX) (d a b : VNum) (mk : MaskX)
  /-- VMIN_BF16 (R138): BF16 minimum. -/
  | vminBf16 (h : Head) (x : VecX) (d a b : VNum) (mk : MaskX)
  /-- VMAX_BF16 (R138): BF16 maximum. -/
  | vmaxBf16 (h : Head) (x : VecX) (d a b : VNum) (mk : MaskX)
  /-- VADD_I8 (R137): Adds 8-bit elements. -/
  | vaddI8 (h : Head) (x : VecX) (d a b : VNum) (mk : MaskX)
  /-- VSUB_I8 (R137): Subtracts 8-bit elements. -/
  | vsubI8 (h : Head) (x : VecX) (d a b : VNum) (mk : MaskX)
  /-- VADDS_I8 (R137): Saturating 8-bit addition. -/
  | vaddsI8 (h : Head) (x : VecX) (d a b : VNum) (mk : MaskX)
  /-- VSUBS_I8 (R137): Saturating 8-bit subtraction. -/
  | vsubsI8 (h : Head) (x : VecX) (d a b : VNum) (mk : MaskX)
  /-- VMIN_I8 (R137): Signed 8-bit minimum. -/
  | vminI8 (h : Head) (x : VecX) (d a b : VNum) (mk : MaskX)
  /-- VMAX_I8 (R137): Signed 8-bit maximum. -/
  | vmaxI8 (h : Head) (x : VecX) (d a b : VNum) (mk : MaskX)
  /-- VADD_E4M3 (R139): Rounded, per-element saturated E4M3 addition. -/
  | vaddE4m3 (h : Head) (x : VecX) (d a b : VNum) (mk : MaskX)
  /-- VSUB_E4M3 (R139): E4M3 subtraction. -/
  | vsubE4m3 (h : Head) (x : VecX) (d a b : VNum) (mk : MaskX)
  /-- VMUL_E4M3 (R139): E4M3 multiplication. -/
  | vmulE4m3 (h : Head) (x : VecX) (d a b : VNum) (mk : MaskX)
  /-- VMIN_E4M3 (R139): E4M3 minimum. -/
  | vminE4m3 (h : Head) (x : VecX) (d a b : VNum) (mk : MaskX)
  /-- VMAX_E4M3 (R139): E4M3 maximum. -/
  | vmaxE4m3 (h : Head) (x : VecX) (d a b : VNum) (mk : MaskX)
  /-- VADD_E5M2 (R139): E5M2 addition. -/
  | vaddE5m2 (h : Head) (x : VecX) (d a b : VNum) (mk : MaskX)
  /-- VSUB_E5M2 (R139): E5M2 subtraction. -/
  | vsubE5m2 (h : Head) (x : VecX) (d a b : VNum) (mk : MaskX)
  /-- VMUL_E5M2 (R139): E5M2 multiplication. -/
  | vmulE5m2 (h : Head) (x : VecX) (d a b : VNum) (mk : MaskX)
  /-- VMIN_E5M2 (R139): E5M2 minimum. -/
  | vminE5m2 (h : Head) (x : VecX) (d a b : VNum) (mk : MaskX)
  /-- VMAX_E5M2 (R139): E5M2 maximum. -/
  | vmaxE5m2 (h : Head) (x : VecX) (d a b : VNum) (mk : MaskX)
  /-- QUANT_QB8 (R147): Quantises 64 FP32 lanes into a QB8 block with header. -/
  | quantQb8 (h : Head) (x : VecX) (d a : VNum)
  /-- QUANT_QB4 (R147): Quantises 64 FP32 lanes into a QB4 block with header. -/
  | quantQb4 (h : Head) (x : VecX) (d a : VNum)
  /-- DEQUANT_QB8 (R147): Converts a QB8 block to FP32 lanes. -/
  | dequantQb8 (h : Head) (x : VecX) (d a : VNum) (mk : MaskX)
  /-- DEQUANT_QB4 (R147): Converts a QB4 block to FP32 lanes. -/
  | dequantQb4 (h : Head) (x : VecX) (d a : VNum) (mk : MaskX)
  /-- QTOBA_QB8 (R147): Converts a QB8 block exactly to a BA32 block. -/
  | qtobaQb8 (h : Head) (x : VecX) (d a : VNum)
  /-- QTOBA_QB4 (R147): Converts a QB4 block exactly to a BA32 block. -/
  | qtobaQb4 (h : Head) (x : VecX) (d a : VNum)
  /-- BADD (R148): Adds two BA32 blocks by BAAdd. -/
  | badd (h : Head) (x : VecX) (d a b : VNum)
  /-- BALIGN (R148): Raises a BA32 block's exponent to at least a target exponent. -/
  | balign (h : Head) (x : VecX) (d a b : VNum)
  /-- VLUT (R149): Expands nibble codes into BF16 entries of a codebook. -/
  | vlut (h : Head) (x : VecX) (d a : VNum) (kn : ANum) (mk : MaskX)
  /-- VDQW (R149): Dequantises nibble codes with per-lane scales and zero points. -/
  | vdqw (h : Head) (x : VecX) (d a b : VNum) (mk : MaskX)
  /-- VCVT_BF16_F32 (R145): Rounds FP32 lanes into a half of BF16 elements. -/
  | vcvtBf16F32 (h : Head) (x : VecX) (d a : VNum) (mk : MaskX)
  /-- VCVT_F32_BF16 (R145): Widens BF16 elements to FP32 exactly. -/
  | vcvtF32Bf16 (h : Head) (x : VecX) (d a : VNum) (mk : MaskX)
  /-- VCVT_E4M3_F32 (R145): Rounds FP32 lanes into E4M3 elements. -/
  | vcvtE4m3F32 (h : Head) (x : VecX) (d a : VNum) (mk : MaskX)
  /-- VCVT_E5M2_F32 (R145): Rounds FP32 lanes into E5M2 elements. -/
  | vcvtE5m2F32 (h : Head) (x : VecX) (d a : VNum) (mk : MaskX)
  /-- VCVT_F32_E4M3 (R145): Widens E4M3 elements to FP32. -/
  | vcvtF32E4m3 (h : Head) (x : VecX) (d a : VNum) (mk : MaskX)
  /-- VCVT_F32_E5M2 (R145): Widens E5M2 elements to FP32. -/
  | vcvtF32E5m2 (h : Head) (x : VecX) (d a : VNum) (mk : MaskX)
  /-- VCVT_E4M3_BF16 (R145): Rounds BF16 elements into E4M3. -/
  | vcvtE4m3Bf16 (h : Head) (x : VecX) (d a : VNum) (mk : MaskX)
  /-- VCVT_E5M2_BF16 (R145): Rounds BF16 elements into E5M2. -/
  | vcvtE5m2Bf16 (h : Head) (x : VecX) (d a : VNum) (mk : MaskX)
  /-- VCVT_BF16_E4M3 (R145): Widens E4M3 elements to BF16. -/
  | vcvtBf16E4m3 (h : Head) (x : VecX) (d a : VNum) (mk : MaskX)
  /-- VCVT_BF16_E5M2 (R145): Widens E5M2 elements to BF16. -/
  | vcvtBf16E5m2 (h : Head) (x : VecX) (d a : VNum) (mk : MaskX)
  /-- VCVT_I32_F32 (R145): Rounds FP32 lanes to clamped INT32. -/
  | vcvtI32F32 (h : Head) (x : VecX) (d a : VNum) (mk : MaskX)
  /-- VCVT_F32_I32 (R145): Rounds INT32 lanes to FP32. -/
  | vcvtF32I32 (h : Head) (x : VecX) (d a : VNum) (mk : MaskX)
  /-- VCVT_BF16_Q4 (R145): Widens nibble codes to BF16 values 0 to 15. -/
  | vcvtBf16Q4 (h : Head) (x : VecX) (d a : VNum) (mk : MaskX)
  /-- VCVT_I8_I32 (R145): Narrows INT32 lanes to saturated INT8. -/
  | vcvtI8I32 (h : Head) (x : VecX) (d a : VNum) (mk : MaskX)
  /-- VCVT_I32_I8 (R145): Sign-extends INT8 elements to INT32 lanes. -/
  | vcvtI32I8 (h : Head) (x : VecX) (d a : VNum) (mk : MaskX)
  /-- VEXP (R150): Queues an SFU request for a correctly rounded e^x per lane. -/
  | vexp (h : Head) (x : VecX) (d a : VNum) (mk : MaskX)
  /-- VEXP2 (R150): Queues an SFU request for 2^x per lane. -/
  | vexp2 (h : Head) (x : VecX) (d a : VNum) (mk : MaskX)
  /-- VLOG (R150): Queues an SFU request for ln x per lane. -/
  | vlog (h : Head) (x : VecX) (d a : VNum) (mk : MaskX)
  /-- VLOG2 (R150): Queues an SFU request for log2 x per lane. -/
  | vlog2 (h : Head) (x : VecX) (d a : VNum) (mk : MaskX)
  /-- VRCP (R150): Queues an SFU request for 1/x per lane. -/
  | vrcp (h : Head) (x : VecX) (d a : VNum) (mk : MaskX)
  /-- VRSQRT (R150): Queues an SFU request for 1/sqrt(x) per lane. -/
  | vrsqrt (h : Head) (x : VecX) (d a : VNum) (mk : MaskX)
  /-- VSQRT (R150): Queues an SFU request for sqrt(x) per lane. -/
  | vsqrt (h : Head) (x : VecX) (d a : VNum) (mk : MaskX)
  /-- VDIV (R150): Queues an SFU request for a/b per lane. -/
  | vdiv (h : Head) (x : VecX) (d a b : VNum) (mk : MaskX)
  /-- VTANH (R150): Queues an SFU request for tanh x per lane. -/
  | vtanh (h : Head) (x : VecX) (d a : VNum) (mk : MaskX)
  /-- VSIGM (R150): Queues an SFU request for the logistic function per lane. -/
  | vsigm (h : Head) (x : VecX) (d a : VNum) (mk : MaskX)
  /-- VERF (R150): Queues an SFU request for erf x per lane. -/
  | verf (h : Head) (x : VecX) (d a : VNum) (mk : MaskX)
  /-- VSIN (R150): Queues an SFU request for sin x per lane. -/
  | vsin (h : Head) (x : VecX) (d a : VNum) (mk : MaskX)
  /-- VCOS (R150): Queues an SFU request for cos x per lane. -/
  | vcos (h : Head) (x : VecX) (d a : VNum) (mk : MaskX)
  /-- VPERM (R141): Permutes lanes of va by indices in vb. -/
  | vperm (h : Head) (x : VecX) (d a b : VNum) (mk : MaskX)
  /-- VBCAST (R141): Broadcasts one lane of va to every lane. -/
  | vbcast (h : Head) (x : VecX) (d a : VNum) (mk : MaskX)
  /-- VBCAST_SCALAR (R141): Broadcasts the low 32 bits of a scalar register to every lane. -/
  | vbcastScalar (h : Head) (x : VecPfx) (d : VNum) (mk : MaskX)
  /-- VROT (R141): Rotates lanes by an amount. -/
  | vrot (h : Head) (x : VecX) (d a : VNum) (mk : MaskX)
  /-- VIOTA (R141): Writes each lane's index into it. -/
  | viota (h : Head) (x : VecX) (d : VNum) (mk : MaskX)
  /-- VSEL (R141): Selects lanes from va or vb by a mask. -/
  | vsel (h : Head) (x : VecX) (d a b : VNum) (mk : MReg)
  /-- VINS (R142): Inserts a scalar's low 32 bits into one lane. -/
  | vins (h : Head) (x : VecPfx) (d : VNum)
  /-- VEXT (R142): Extracts one lane, sign-extended, to a g register. -/
  | vext (h : Head) (x : VecX) (d : GNum) (a : VNum)
  /-- VHDR_WRITE (R142): Writes a vector register's header from a scalar. -/
  | vhdrWrite (h : Head) (x : VecPfx) (d : VNum)
  /-- VHDR_READ (R142): Reads a vector register's header into a g register. -/
  | vhdrRead (h : Head) (x : VecPfx) (d : GNum) (a : VNum)
  /-- VCMP_I32 (R140): Compares integer elements and writes a mask. -/
  | vcmpI32 (h : Head) (x : VecX) (d : MReg) (a b : VNum) (mk : MaskX)
  /-- VCMP_F32 (R140): Compares floating-point elements and writes a mask. -/
  | vcmpF32 (h : Head) (x : VecX) (d : MReg) (a b : VNum) (mk : MaskX)
  /-- VRSUM_F32 (R143): Tree-sums selected FP32 lanes into every lane. -/
  | vrsumF32 (h : Head) (x : VecX) (d a : VNum) (mk : MaskX)
  /-- VRSUM_I32 (R143): Tree-sums selected INT32 lanes into every lane. -/
  | vrsumI32 (h : Head) (x : VecX) (d a : VNum) (mk : MaskX)
  /-- VRMAX_F32 (R143): Tree-maximum of selected FP32 lanes into every lane. -/
  | vrmaxF32 (h : Head) (x : VecX) (d a : VNum) (mk : MaskX)
  /-- VRMAX_I32 (R143): Tree-maximum of selected signed lanes into every lane. -/
  | vrmaxI32 (h : Head) (x : VecX) (d a : VNum) (mk : MaskX)
  /-- VDRAW (R154): Queues an SFU request that forms draw leaves per lane and merges them into a record. -/
  | vdraw (h : Head) (x : VecPfx) (d a : VNum) (mk : MaskX)
  /-- DMERGE (R155): Queues an SFU request that merges two draw records by weighted coin. -/
  | dmerge (h : Head) (x : VecX) (d a b : VNum)
  /-- MMA_F8F8 (R170): Queues an FP8 by FP8 matrix multiply-accumulate. -/
  | mmaF8f8 (h : Head) (d : ANum) (a b : SReg)
  /-- MMA_B16B16 (R170): Queues a BF16 by BF16 matrix multiply-accumulate. -/
  | mmaB16b16 (h : Head) (d : ANum) (a b : SReg)
  /-- MMA_F8I4 (R170): Queues an FP8 by INT4 multiply-accumulate into a pair with row sums. -/
  | mmaF8i4 (h : Head) (d : Bool) (a b : SReg)
  /-- MMA_B16I4 (R170): Queues a BF16 by INT4 multiply-accumulate into a pair with row sums. -/
  | mmaB16i4 (h : Head) (d : Bool) (a b : SReg)
  /-- MMA_B16L4 (R170): Queues a BF16 by LUT4 multiply-accumulate into a pair. -/
  | mmaB16l4 (h : Head) (d : Bool) (a b : SReg)
  /-- MMA_QB8 (R173): Queues a QB8 block multiply-accumulate into BA32 blocks. -/
  | mmaQb8 (h : Head) (d : ANum) (a b : SReg)
  /-- MMA_QB4 (R173): Queues a QB4 block multiply-accumulate into BA32 blocks. -/
  | mmaQb4 (h : Head) (d : ANum) (a b : SReg)
  /-- MLDW (R165): Queues a load of the shadow plane ws from the local store by a layout word. -/
  | mldw (h : Head) (a b : SReg)
  /-- MSWAP (R168): Queues the exchange of wa and ws. -/
  | mswap (h : Head)
  /-- MLDK (R169): Queues the copy of lanes 0-7 of a vector into a codebook. -/
  | mldk (h : Head) (d : ANum) (a : VNum)
  /-- MCOLQ (R176): Queues per-column scale and zero-point correction of an accumulator pair. -/
  | mcolq (h : Head) (d : Bool) (a b : VNum)
  /-- MZERO (R178): Queues the reset of an accumulator to zero. -/
  | mzero (h : Head) (d : ANum)
  /-- MMOVA_TO_VECTOR (R184): Queues a move of an accumulator block to a vector register with BA32 header. -/
  | mmovaToVector (h : Head) (d : VNum) (a : ANum) (g : BitVec 2)
  /-- MMOVA_TO_ACC (R184): Queues a move of a vector register into an accumulator block. -/
  | mmovaToAcc (h : Head) (d : ANum) (a : VNum) (g : BitVec 2)
  /-- MRSUM (R177): Queues a copy of an accumulator's row sums into a vector. -/
  | mrsum (h : Head) (d : VNum) (a : ANum)
  /-- MCHK (R185): Queues a residue check of accumulator, planes and codebooks. -/
  | mchk (h : Head) (d : SReg) (a : ANum)
  /-- MSYNC (R186): Queues a marker that writes 0 to d when the slot's earlier matrix commands complete. -/
  | msync (h : Head) (d : SReg)
  /-- MDRAIN_F32 (R179): Queues a drain of accumulator rows to FP32 lanes. -/
  | mdrainF32 (h : Head) (x : VecX) (d : VNum) (a : ANum) (g : BitVec 2) (z : Bool)
  /-- MDRAIN_BF16 (R179): Queues a drain of accumulator rows to BF16 elements. -/
  | mdrainBf16 (h : Head) (x : VecX) (d : VNum) (a : ANum) (g : BitVec 2) (z : Bool)
  /-- MDRAIN_E4M3 (R179): Queues a drain of the whole accumulator to E4M3 elements. -/
  | mdrainE4m3 (h : Head) (x : VecX) (d : VNum) (a : ANum) (g : BitVec 2) (z : Bool)
  /-- MDRAIN_E5M2 (R179): Queues a drain of the whole accumulator to E5M2 elements. -/
  | mdrainE5m2 (h : Head) (x : VecX) (d : VNum) (a : ANum) (g : BitVec 2) (z : Bool)
  /-- MDRAIN_QB8 (R179): Queues a drain of four rows quantised to a QB8 block. -/
  | mdrainQb8 (h : Head) (x : VecX) (d : VNum) (a : ANum) (g : BitVec 2) (z : Bool)
  /-- MDRAIN_QB4 (R179): Queues a drain of four rows quantised to a QB4 block. -/
  | mdrainQb4 (h : Head) (x : VecX) (d : VNum) (a : ANum) (g : BitVec 2) (z : Bool)
  /-- MDRAIN_BA32 (R179): Queues a drain of one accumulator block as a BA32 block. -/
  | mdrainBa32 (h : Head) (x : VecX) (d : VNum) (a : ANum) (g : BitVec 2) (z : Bool)
  /-- LINIT (R353): Initialises all 128 bits of a latch. -/
  | linit (h : Head) (o : OrdX) (a b : SReg)
  /-- LARV (R353): Arrives at a latch with a count, settling the phase, and returns the old bits. -/
  | larv (h : Head) (o : OrdX) (d a b : SReg)
  /-- LWAIT (R356): Waits until an own-window latch leaves phase p. -/
  | lwait (h : Head) (o : OrdX) (d a b : SReg)
  /-- LTEST (R355): Reads latch bits [63:0] at the home. -/
  | ltest (h : Head) (o : OrdX) (d a : SReg)
  /-- LREG (R357): Records a membership and optionally enlarges the latch's EXP. -/
  | lreg (h : Head) (o : OrdX) (a b : SReg)
  /-- LDROP (R353): Lowers a latch's EXP by a count and optionally unregisters. -/
  | ldrop (h : Head) (o : OrdX) (a b : SReg)
  /-- LBYTES (R353): Adds a signed delta to a latch's PEND and settles. -/
  | lbytes (h : Head) (o : OrdX) (d a b : SReg)
  /-- RNGGET (R361): Writes one Rng32 value to d. -/
  | rngget (h : Head) (d : SReg)
  /-- FADD (R109): Rounded scalar FP32 addition. -/
  | fadd (h : Head) (x : VecX) (d a b : SReg)
  /-- FSUB (R109): Rounded scalar FP32 subtraction. -/
  | fsub (h : Head) (x : VecX) (d a b : SReg)
  /-- FMUL (R109): Rounded scalar FP32 multiplication. -/
  | fmul (h : Head) (x : VecX) (d a b : SReg)
  /-- FDIV (R109): Scoreboarded scalar FP32 division. -/
  | fdiv (h : Head) (x : VecX) (d a b : SReg)
  /-- FSQRT (R109): Scoreboarded scalar FP32 square root. -/
  | fsqrt (h : Head) (x : VecX) (d a : SReg)
  /-- FMA (R109): Fused a times b plus d in scalar FP32. -/
  | fma (h : Head) (x : VecX) (d a b : SReg)
  /-- FMIN (R109): Scalar FP32 minimum. -/
  | fmin (h : Head) (x : VecX) (d a b : SReg)
  /-- FMAX (R109): Scalar FP32 maximum. -/
  | fmax (h : Head) (x : VecX) (d a b : SReg)
  /-- FEQ (R109): Sets a predicate to FP32 a = b. -/
  | feq (h : Head) (x : VecX) (d : PReg) (a b : SReg)
  /-- FLT (R109): Sets a predicate to FP32 a < b. -/
  | flt (h : Head) (x : VecX) (d : PReg) (a b : SReg)
  /-- FLE (R109): Sets a predicate to FP32 a <= b. -/
  | fle (h : Head) (x : VecX) (d : PReg) (a b : SReg)
  /-- FCVTI (R110): Rounds an FP32 value to a clamped INT32 or INT64. -/
  | fcvti (h : Head) (x : VecX) (d a : SReg)
  /-- FCVTF (R110): Rounds an INT32 or INT64 value to FP32. -/
  | fcvtf (h : Head) (x : VecX) (d a : SReg)
  /-- FABS (R109): Clears the sign of an FP32 value. -/
  | fabs (h : Head) (x : VecX) (d a : SReg)
  /-- FNEG (R109): Inverts the sign of an FP32 value. -/
  | fneg (h : Head) (x : VecX) (d a : SReg)
  /-- FCLASS (R111): Writes a one-hot class of an FP32 value. -/
  | fclass (h : Head) (x : VecX) (d a : SReg)
  deriving DecidableEq, Repr

/-- Words of an instruction: 2 with a long-form word before it, else 1 (R65); events have none. -/
def Instr.words : Instr → Nat
  | .add _ _ _ _ => 1
  | .sub _ _ _ _ => 1
  | .and _ _ _ _ => 1
  | .or _ _ _ _ => 1
  | .xor _ _ _ _ => 1
  | .sll _ _ _ _ => 1
  | .srl _ _ _ _ => 1
  | .sra _ _ _ _ => 1
  | .min _ _ _ _ => 1
  | .max _ _ _ _ => 1
  | .minu _ _ _ _ => 1
  | .maxu _ _ _ _ => 1
  | .mul _ _ _ _ => 1
  | .mulh _ _ _ _ => 1
  | .mulhu _ _ _ _ => 1
  | .div _ _ _ _ => 1
  | .divu _ _ _ _ => 1
  | .rem _ _ _ _ => 1
  | .remu _ _ _ _ => 1
  | .adds _ _ _ _ => 1
  | .subs _ _ _ _ => 1
  | .clz _ _ _ => 1
  | .popc _ _ _ => 1
  | .andn _ _ _ _ => 1
  | .orn _ _ _ _ => 1
  | .addi _ x _ _ _ => (if x.present then 2 else 1)
  | .andi _ x _ _ _ => (if x.present then 2 else 1)
  | .ori _ x _ _ _ => (if x.present then 2 else 1)
  | .xori _ x _ _ _ => (if x.present then 2 else 1)
  | .slli _ _ _ _ => 1
  | .srli _ _ _ _ => 1
  | .srai _ _ _ _ => 1
  | .rori _ _ _ _ => 1
  | .li _ x _ _ => (if x.present then 2 else 1)
  | .lih _ x _ _ _ => (if x.present then 2 else 1)
  | .cmpEq _ _ _ _ => 1
  | .cmpNe _ _ _ _ => 1
  | .cmpLt _ _ _ _ => 1
  | .cmpGe _ _ _ _ => 1
  | .cmpLtu _ _ _ _ => 1
  | .cmpGeu _ _ _ _ => 1
  | .cmpBits _ _ _ _ => 1
  | .cmpNbits _ _ _ _ => 1
  | .cmpiEq _ x _ _ _ => (if x.present then 2 else 1)
  | .cmpiNe _ x _ _ _ => (if x.present then 2 else 1)
  | .cmpiLt _ x _ _ _ => (if x.present then 2 else 1)
  | .cmpiGe _ x _ _ _ => (if x.present then 2 else 1)
  | .cmpiLtu _ x _ _ _ => (if x.present then 2 else 1)
  | .cmpiGeu _ x _ _ _ => (if x.present then 2 else 1)
  | .cmpiBits _ x _ _ _ => (if x.present then 2 else 1)
  | .cmpiNbits _ x _ _ _ => (if x.present then 2 else 1)
  | .pand _ _ _ _ => 1
  | .por _ _ _ _ => 1
  | .pxor _ _ _ _ => 1
  | .pandn _ _ _ _ => 1
  | .pnot _ _ _ => 1
  | .pmov _ _ _ => 1
  | .pset _ _ => 1
  | .pclr _ _ => 1
  | .sext8 _ _ _ => 1
  | .sext16 _ _ _ => 1
  | .sext32 _ _ _ => 1
  | .zext8 _ _ _ => 1
  | .zext16 _ _ _ => 1
  | .zext32 _ _ _ => 1
  | .bswap _ _ _ => 1
  | .ctz _ _ _ => 1
  | .peer _ _ _ _ => 1
  | .peero _ _ _ _ => 1
  | .pidx _ _ _ => 1
  | .mand _ _ _ _ => 1
  | .mor _ _ _ _ => 1
  | .mxor _ _ _ _ => 1
  | .mandn _ _ _ _ => 1
  | .mnot _ _ _ => 1
  | .mset _ _ _ => 1
  | .mget _ _ _ => 1
  | .mpop _ _ _ => 1
  | .mfirst _ _ _ => 1
  | .b _ _ => 1
  | .call _ _ => 1
  | .jr _ _ => 1
  | .jalr _ _ _ => 1
  | .ret _ => 1
  | .loopReg _ _ _ _ => 1
  | .loopImm _ x _ _ _ => (if x.present then 2 else 1)
  | .wait _ _ _ => 1
  | .waita _ o _ _ _ => (if o.present then 2 else 1)
  | .yield _ => 1
  | .endTask _ => 1
  | .trap _ _ => 1
  | .isync _ => 1
  | .nop _ => 1
  | .csrw _ _ _ _ => 1
  | .csrs _ _ _ _ => 1
  | .csrc _ _ _ _ => 1
  | .ld _ x _ _ _ _ => (if x.present then 2 else 1)
  | .st _ x _ _ _ _ => (if x.present then 2 else 1)
  | .vld _ x _ _ _ => (if x.present then 2 else 1)
  | .vst _ x _ _ _ => (if x.present then 2 else 1)
  | .vgathI32 _ _ _ _ _ => 1
  | .vscatI32 _ _ _ _ _ => 1
  | .vgathI16 _ _ _ _ _ => 1
  | .vscatI16 _ _ _ _ _ => 1
  | .qldQb8 _ _ _ _ => 1
  | .qldQb4 _ _ _ _ => 1
  | .qstQb8 _ _ _ _ => 1
  | .qstQb4 _ _ _ _ => 1
  | .rld _ x _ _ _ _ => (if x.present then 2 else 1)
  | .rst _ x _ _ _ _ => (if x.present then 2 else 1)
  | .atomAdd _ o _ _ _ _ => (if o.present then 2 else 1)
  | .atomSub _ o _ _ _ _ => (if o.present then 2 else 1)
  | .atomAnd _ o _ _ _ _ => (if o.present then 2 else 1)
  | .atomOr _ o _ _ _ _ => (if o.present then 2 else 1)
  | .atomXor _ o _ _ _ _ => (if o.present then 2 else 1)
  | .atomMin _ o _ _ _ _ => (if o.present then 2 else 1)
  | .atomMax _ o _ _ _ _ => (if o.present then 2 else 1)
  | .atomMinu _ o _ _ _ _ => (if o.present then 2 else 1)
  | .atomMaxu _ o _ _ _ _ => (if o.present then 2 else 1)
  | .atomSwap _ o _ _ _ _ => (if o.present then 2 else 1)
  | .atomCas _ o _ _ _ _ => (if o.present then 2 else 1)
  | .atomFaddF32 _ o _ _ _ => (if o.present then 2 else 1)
  | .atomBadd _ o _ _ _ => (if o.present then 2 else 1)
  | .fenceAcq _ _ => 1
  | .fenceRel _ _ => 1
  | .fenceAr _ _ => 1
  | .rvld _ o _ _ _ => (if o.present then 2 else 1)
  | .rvst _ o _ _ _ => (if o.present then 2 else 1)
  | .tdecl _ _ _ => 1
  | .tlend _ _ _ => 1
  | .tret _ _ => 1
  | .tsplit _ _ _ => 1
  | .tjoin _ _ => 1
  | .tshare _ _ _ => 1
  | .tunsh _ _ => 1
  | .tqry _ _ _ _ => 1
  | .trecl _ _ => 1
  | .tclean _ _ _ => 1
  | .send _ o _ _ _ => (if o.present then 2 else 1)
  | .sendr _ o _ _ => (if o.present then 2 else 1)
  | .door _ o _ _ _ => (if o.present then 2 else 1)
  | .doorq _ o _ _ => (if o.present then 2 else 1)
  | .submit _ o _ _ => (if o.present then 2 else 1)
  | .ckpt _ o _ _ => (if o.present then 2 else 1)
  | .cpy _ o _ _ => (if o.present then 2 else 1)
  | .cpyq _ _ => 1
  | .cpyx _ o _ _ => (if o.present then 2 else 1)
  | .vaddI32 _ x _ _ _ _ => (if x.present then 2 else 1)
  | .vsubI32 _ x _ _ _ _ => (if x.present then 2 else 1)
  | .vmulI32 _ x _ _ _ _ => (if x.present then 2 else 1)
  | .vmulhI32 _ x _ _ _ _ => (if x.present then 2 else 1)
  | .vminI32 _ x _ _ _ _ => (if x.present then 2 else 1)
  | .vmaxI32 _ x _ _ _ _ => (if x.present then 2 else 1)
  | .vand _ x _ _ _ _ => (if x.present then 2 else 1)
  | .vor _ x _ _ _ _ => (if x.present then 2 else 1)
  | .vxor _ x _ _ _ _ => (if x.present then 2 else 1)
  | .vsll _ x _ _ _ _ => (if x.present then 2 else 1)
  | .vsrl _ x _ _ _ _ => (if x.present then 2 else 1)
  | .vsra _ x _ _ _ _ => (if x.present then 2 else 1)
  | .vaddsI32 _ x _ _ _ _ => (if x.present then 2 else 1)
  | .vsubsI32 _ x _ _ _ _ => (if x.present then 2 else 1)
  | .vabsI32 _ x _ _ _ => (if x.present then 2 else 1)
  | .vminuI32 _ x _ _ _ _ => (if x.present then 2 else 1)
  | .vaddF32 _ x _ _ _ _ => (if x.present then 2 else 1)
  | .vsubF32 _ x _ _ _ _ => (if x.present then 2 else 1)
  | .vmulF32 _ x _ _ _ _ => (if x.present then 2 else 1)
  | .vfmaF32 _ x _ _ _ _ => (if x.present then 2 else 1)
  | .vfmsF32 _ x _ _ _ _ => (if x.present then 2 else 1)
  | .vminF32 _ x _ _ _ _ => (if x.present then 2 else 1)
  | .vmaxF32 _ x _ _ _ _ => (if x.present then 2 else 1)
  | .vabsF32 _ x _ _ _ => (if x.present then 2 else 1)
  | .vnegF32 _ x _ _ _ => (if x.present then 2 else 1)
  | .vfnmaF32 _ x _ _ _ _ => (if x.present then 2 else 1)
  | .vaddI16 _ x _ _ _ _ => (if x.present then 2 else 1)
  | .vsubI16 _ x _ _ _ _ => (if x.present then 2 else 1)
  | .vmulI16 _ x _ _ _ _ => (if x.present then 2 else 1)
  | .vaddsI16 _ x _ _ _ _ => (if x.present then 2 else 1)
  | .vsubsI16 _ x _ _ _ _ => (if x.present then 2 else 1)
  | .vminI16 _ x _ _ _ _ => (if x.present then 2 else 1)
  | .vmaxI16 _ x _ _ _ _ => (if x.present then 2 else 1)
  | .vaddBf16 _ x _ _ _ _ => (if x.present then 2 else 1)
  | .vsubBf16 _ x _ _ _ _ => (if x.present then 2 else 1)
  | .vmulBf16 _ x _ _ _ _ => (if x.present then 2 else 1)
  | .vfmaBf16 _ x _ _ _ _ => (if x.present then 2 else 1)
  | .vminBf16 _ x _ _ _ _ => (if x.present then 2 else 1)
  | .vmaxBf16 _ x _ _ _ _ => (if x.present then 2 else 1)
  | .vaddI8 _ x _ _ _ _ => (if x.present then 2 else 1)
  | .vsubI8 _ x _ _ _ _ => (if x.present then 2 else 1)
  | .vaddsI8 _ x _ _ _ _ => (if x.present then 2 else 1)
  | .vsubsI8 _ x _ _ _ _ => (if x.present then 2 else 1)
  | .vminI8 _ x _ _ _ _ => (if x.present then 2 else 1)
  | .vmaxI8 _ x _ _ _ _ => (if x.present then 2 else 1)
  | .vaddE4m3 _ x _ _ _ _ => (if x.present then 2 else 1)
  | .vsubE4m3 _ x _ _ _ _ => (if x.present then 2 else 1)
  | .vmulE4m3 _ x _ _ _ _ => (if x.present then 2 else 1)
  | .vminE4m3 _ x _ _ _ _ => (if x.present then 2 else 1)
  | .vmaxE4m3 _ x _ _ _ _ => (if x.present then 2 else 1)
  | .vaddE5m2 _ x _ _ _ _ => (if x.present then 2 else 1)
  | .vsubE5m2 _ x _ _ _ _ => (if x.present then 2 else 1)
  | .vmulE5m2 _ x _ _ _ _ => (if x.present then 2 else 1)
  | .vminE5m2 _ x _ _ _ _ => (if x.present then 2 else 1)
  | .vmaxE5m2 _ x _ _ _ _ => (if x.present then 2 else 1)
  | .quantQb8 _ x _ _ => (if x.present then 2 else 1)
  | .quantQb4 _ x _ _ => (if x.present then 2 else 1)
  | .dequantQb8 _ x _ _ _ => (if x.present then 2 else 1)
  | .dequantQb4 _ x _ _ _ => (if x.present then 2 else 1)
  | .qtobaQb8 _ x _ _ => (if x.present then 2 else 1)
  | .qtobaQb4 _ x _ _ => (if x.present then 2 else 1)
  | .badd _ x _ _ _ => (if x.present then 2 else 1)
  | .balign _ x _ _ _ => (if x.present then 2 else 1)
  | .vlut _ x _ _ _ _ => (if x.present then 2 else 1)
  | .vdqw _ x _ _ _ _ => (if x.present then 2 else 1)
  | .vcvtBf16F32 _ x _ _ _ => (if x.present then 2 else 1)
  | .vcvtF32Bf16 _ x _ _ _ => (if x.present then 2 else 1)
  | .vcvtE4m3F32 _ x _ _ _ => (if x.present then 2 else 1)
  | .vcvtE5m2F32 _ x _ _ _ => (if x.present then 2 else 1)
  | .vcvtF32E4m3 _ x _ _ _ => (if x.present then 2 else 1)
  | .vcvtF32E5m2 _ x _ _ _ => (if x.present then 2 else 1)
  | .vcvtE4m3Bf16 _ x _ _ _ => (if x.present then 2 else 1)
  | .vcvtE5m2Bf16 _ x _ _ _ => (if x.present then 2 else 1)
  | .vcvtBf16E4m3 _ x _ _ _ => (if x.present then 2 else 1)
  | .vcvtBf16E5m2 _ x _ _ _ => (if x.present then 2 else 1)
  | .vcvtI32F32 _ x _ _ _ => (if x.present then 2 else 1)
  | .vcvtF32I32 _ x _ _ _ => (if x.present then 2 else 1)
  | .vcvtBf16Q4 _ x _ _ _ => (if x.present then 2 else 1)
  | .vcvtI8I32 _ x _ _ _ => (if x.present then 2 else 1)
  | .vcvtI32I8 _ x _ _ _ => (if x.present then 2 else 1)
  | .vexp _ x _ _ _ => (if x.present then 2 else 1)
  | .vexp2 _ x _ _ _ => (if x.present then 2 else 1)
  | .vlog _ x _ _ _ => (if x.present then 2 else 1)
  | .vlog2 _ x _ _ _ => (if x.present then 2 else 1)
  | .vrcp _ x _ _ _ => (if x.present then 2 else 1)
  | .vrsqrt _ x _ _ _ => (if x.present then 2 else 1)
  | .vsqrt _ x _ _ _ => (if x.present then 2 else 1)
  | .vdiv _ x _ _ _ _ => (if x.present then 2 else 1)
  | .vtanh _ x _ _ _ => (if x.present then 2 else 1)
  | .vsigm _ x _ _ _ => (if x.present then 2 else 1)
  | .verf _ x _ _ _ => (if x.present then 2 else 1)
  | .vsin _ x _ _ _ => (if x.present then 2 else 1)
  | .vcos _ x _ _ _ => (if x.present then 2 else 1)
  | .vperm _ x _ _ _ _ => (if x.present then 2 else 1)
  | .vbcast _ x _ _ _ => (if x.present then 2 else 1)
  | .vbcastScalar _ _ _ _ => 2
  | .vrot _ x _ _ _ => (if x.present then 2 else 1)
  | .viota _ x _ _ => (if x.present then 2 else 1)
  | .vsel _ x _ _ _ _ => (if x.present then 2 else 1)
  | .vins _ _ _ => 2
  | .vext _ x _ _ => (if x.present then 2 else 1)
  | .vhdrWrite _ _ _ => 2
  | .vhdrRead _ _ _ _ => 2
  | .vcmpI32 _ x _ _ _ _ => (if x.present then 2 else 1)
  | .vcmpF32 _ x _ _ _ _ => (if x.present then 2 else 1)
  | .vrsumF32 _ x _ _ _ => (if x.present then 2 else 1)
  | .vrsumI32 _ x _ _ _ => (if x.present then 2 else 1)
  | .vrmaxF32 _ x _ _ _ => (if x.present then 2 else 1)
  | .vrmaxI32 _ x _ _ _ => (if x.present then 2 else 1)
  | .vdraw _ _ _ _ _ => 2
  | .dmerge _ x _ _ _ => (if x.present then 2 else 1)
  | .mmaF8f8 _ _ _ _ => 1
  | .mmaB16b16 _ _ _ _ => 1
  | .mmaF8i4 _ _ _ _ => 1
  | .mmaB16i4 _ _ _ _ => 1
  | .mmaB16l4 _ _ _ _ => 1
  | .mmaQb8 _ _ _ _ => 1
  | .mmaQb4 _ _ _ _ => 1
  | .mldw _ _ _ => 1
  | .mswap _ => 1
  | .mldk _ _ _ => 1
  | .mcolq _ _ _ _ => 1
  | .mzero _ _ => 1
  | .mmovaToVector _ _ _ _ => 1
  | .mmovaToAcc _ _ _ _ => 1
  | .mrsum _ _ _ => 1
  | .mchk _ _ _ => 1
  | .msync _ _ => 1
  | .mdrainF32 _ x _ _ _ _ => (if x.present then 2 else 1)
  | .mdrainBf16 _ x _ _ _ _ => (if x.present then 2 else 1)
  | .mdrainE4m3 _ x _ _ _ _ => (if x.present then 2 else 1)
  | .mdrainE5m2 _ x _ _ _ _ => (if x.present then 2 else 1)
  | .mdrainQb8 _ x _ _ _ _ => (if x.present then 2 else 1)
  | .mdrainQb4 _ x _ _ _ _ => (if x.present then 2 else 1)
  | .mdrainBa32 _ x _ _ _ _ => (if x.present then 2 else 1)
  | .linit _ o _ _ => (if o.present then 2 else 1)
  | .larv _ o _ _ _ => (if o.present then 2 else 1)
  | .lwait _ o _ _ _ => (if o.present then 2 else 1)
  | .ltest _ o _ _ => (if o.present then 2 else 1)
  | .lreg _ o _ _ => (if o.present then 2 else 1)
  | .ldrop _ o _ _ => (if o.present then 2 else 1)
  | .lbytes _ o _ _ _ => (if o.present then 2 else 1)
  | .rngget _ _ => 1
  | .fadd _ x _ _ _ => (if x.present then 2 else 1)
  | .fsub _ x _ _ _ => (if x.present then 2 else 1)
  | .fmul _ x _ _ _ => (if x.present then 2 else 1)
  | .fdiv _ x _ _ _ => (if x.present then 2 else 1)
  | .fsqrt _ x _ _ => (if x.present then 2 else 1)
  | .fma _ x _ _ _ => (if x.present then 2 else 1)
  | .fmin _ x _ _ _ => (if x.present then 2 else 1)
  | .fmax _ x _ _ _ => (if x.present then 2 else 1)
  | .feq _ x _ _ _ => (if x.present then 2 else 1)
  | .flt _ x _ _ _ => (if x.present then 2 else 1)
  | .fle _ x _ _ _ => (if x.present then 2 else 1)
  | .fcvti _ x _ _ => (if x.present then 2 else 1)
  | .fcvtf _ x _ _ => (if x.present then 2 else 1)
  | .fabs _ x _ _ => (if x.present then 2 else 1)
  | .fneg _ x _ _ => (if x.present then 2 else 1)
  | .fclass _ x _ _ => (if x.present then 2 else 1)
  | _ => 0

/-- The head (stall count and guard) of an instruction word; events have the default head. -/
def Instr.head : Instr → Head
  | .add h _ _ _ => h
  | .sub h _ _ _ => h
  | .and h _ _ _ => h
  | .or h _ _ _ => h
  | .xor h _ _ _ => h
  | .sll h _ _ _ => h
  | .srl h _ _ _ => h
  | .sra h _ _ _ => h
  | .min h _ _ _ => h
  | .max h _ _ _ => h
  | .minu h _ _ _ => h
  | .maxu h _ _ _ => h
  | .mul h _ _ _ => h
  | .mulh h _ _ _ => h
  | .mulhu h _ _ _ => h
  | .div h _ _ _ => h
  | .divu h _ _ _ => h
  | .rem h _ _ _ => h
  | .remu h _ _ _ => h
  | .adds h _ _ _ => h
  | .subs h _ _ _ => h
  | .clz h _ _ => h
  | .popc h _ _ => h
  | .andn h _ _ _ => h
  | .orn h _ _ _ => h
  | .addi h _ _ _ _ => h
  | .andi h _ _ _ _ => h
  | .ori h _ _ _ _ => h
  | .xori h _ _ _ _ => h
  | .slli h _ _ _ => h
  | .srli h _ _ _ => h
  | .srai h _ _ _ => h
  | .rori h _ _ _ => h
  | .li h _ _ _ => h
  | .lih h _ _ _ _ => h
  | .cmpEq h _ _ _ => h
  | .cmpNe h _ _ _ => h
  | .cmpLt h _ _ _ => h
  | .cmpGe h _ _ _ => h
  | .cmpLtu h _ _ _ => h
  | .cmpGeu h _ _ _ => h
  | .cmpBits h _ _ _ => h
  | .cmpNbits h _ _ _ => h
  | .cmpiEq h _ _ _ _ => h
  | .cmpiNe h _ _ _ _ => h
  | .cmpiLt h _ _ _ _ => h
  | .cmpiGe h _ _ _ _ => h
  | .cmpiLtu h _ _ _ _ => h
  | .cmpiGeu h _ _ _ _ => h
  | .cmpiBits h _ _ _ _ => h
  | .cmpiNbits h _ _ _ _ => h
  | .pand h _ _ _ => h
  | .por h _ _ _ => h
  | .pxor h _ _ _ => h
  | .pandn h _ _ _ => h
  | .pnot h _ _ => h
  | .pmov h _ _ => h
  | .pset h _ => h
  | .pclr h _ => h
  | .sext8 h _ _ => h
  | .sext16 h _ _ => h
  | .sext32 h _ _ => h
  | .zext8 h _ _ => h
  | .zext16 h _ _ => h
  | .zext32 h _ _ => h
  | .bswap h _ _ => h
  | .ctz h _ _ => h
  | .peer h _ _ _ => h
  | .peero h _ _ _ => h
  | .pidx h _ _ => h
  | .mand h _ _ _ => h
  | .mor h _ _ _ => h
  | .mxor h _ _ _ => h
  | .mandn h _ _ _ => h
  | .mnot h _ _ => h
  | .mset h _ _ => h
  | .mget h _ _ => h
  | .mpop h _ _ => h
  | .mfirst h _ _ => h
  | .b h _ => h
  | .call h _ => h
  | .jr h _ => h
  | .jalr h _ _ => h
  | .ret h => h
  | .loopReg h _ _ _ => h
  | .loopImm h _ _ _ _ => h
  | .wait h _ _ => h
  | .waita h _ _ _ _ => h
  | .yield h => h
  | .endTask h => h
  | .trap h _ => h
  | .isync h => h
  | .nop h => h
  | .csrw h _ _ _ => h
  | .csrs h _ _ _ => h
  | .csrc h _ _ _ => h
  | .ld h _ _ _ _ _ => h
  | .st h _ _ _ _ _ => h
  | .vld h _ _ _ _ => h
  | .vst h _ _ _ _ => h
  | .vgathI32 h _ _ _ _ => h
  | .vscatI32 h _ _ _ _ => h
  | .vgathI16 h _ _ _ _ => h
  | .vscatI16 h _ _ _ _ => h
  | .qldQb8 h _ _ _ => h
  | .qldQb4 h _ _ _ => h
  | .qstQb8 h _ _ _ => h
  | .qstQb4 h _ _ _ => h
  | .rld h _ _ _ _ _ => h
  | .rst h _ _ _ _ _ => h
  | .atomAdd h _ _ _ _ _ => h
  | .atomSub h _ _ _ _ _ => h
  | .atomAnd h _ _ _ _ _ => h
  | .atomOr h _ _ _ _ _ => h
  | .atomXor h _ _ _ _ _ => h
  | .atomMin h _ _ _ _ _ => h
  | .atomMax h _ _ _ _ _ => h
  | .atomMinu h _ _ _ _ _ => h
  | .atomMaxu h _ _ _ _ _ => h
  | .atomSwap h _ _ _ _ _ => h
  | .atomCas h _ _ _ _ _ => h
  | .atomFaddF32 h _ _ _ _ => h
  | .atomBadd h _ _ _ _ => h
  | .fenceAcq h _ => h
  | .fenceRel h _ => h
  | .fenceAr h _ => h
  | .rvld h _ _ _ _ => h
  | .rvst h _ _ _ _ => h
  | .tdecl h _ _ => h
  | .tlend h _ _ => h
  | .tret h _ => h
  | .tsplit h _ _ => h
  | .tjoin h _ => h
  | .tshare h _ _ => h
  | .tunsh h _ => h
  | .tqry h _ _ _ => h
  | .trecl h _ => h
  | .tclean h _ _ => h
  | .send h _ _ _ _ => h
  | .sendr h _ _ _ => h
  | .door h _ _ _ _ => h
  | .doorq h _ _ _ => h
  | .submit h _ _ _ => h
  | .ckpt h _ _ _ => h
  | .cpy h _ _ _ => h
  | .cpyq h _ => h
  | .cpyx h _ _ _ => h
  | .vaddI32 h _ _ _ _ _ => h
  | .vsubI32 h _ _ _ _ _ => h
  | .vmulI32 h _ _ _ _ _ => h
  | .vmulhI32 h _ _ _ _ _ => h
  | .vminI32 h _ _ _ _ _ => h
  | .vmaxI32 h _ _ _ _ _ => h
  | .vand h _ _ _ _ _ => h
  | .vor h _ _ _ _ _ => h
  | .vxor h _ _ _ _ _ => h
  | .vsll h _ _ _ _ _ => h
  | .vsrl h _ _ _ _ _ => h
  | .vsra h _ _ _ _ _ => h
  | .vaddsI32 h _ _ _ _ _ => h
  | .vsubsI32 h _ _ _ _ _ => h
  | .vabsI32 h _ _ _ _ => h
  | .vminuI32 h _ _ _ _ _ => h
  | .vaddF32 h _ _ _ _ _ => h
  | .vsubF32 h _ _ _ _ _ => h
  | .vmulF32 h _ _ _ _ _ => h
  | .vfmaF32 h _ _ _ _ _ => h
  | .vfmsF32 h _ _ _ _ _ => h
  | .vminF32 h _ _ _ _ _ => h
  | .vmaxF32 h _ _ _ _ _ => h
  | .vabsF32 h _ _ _ _ => h
  | .vnegF32 h _ _ _ _ => h
  | .vfnmaF32 h _ _ _ _ _ => h
  | .vaddI16 h _ _ _ _ _ => h
  | .vsubI16 h _ _ _ _ _ => h
  | .vmulI16 h _ _ _ _ _ => h
  | .vaddsI16 h _ _ _ _ _ => h
  | .vsubsI16 h _ _ _ _ _ => h
  | .vminI16 h _ _ _ _ _ => h
  | .vmaxI16 h _ _ _ _ _ => h
  | .vaddBf16 h _ _ _ _ _ => h
  | .vsubBf16 h _ _ _ _ _ => h
  | .vmulBf16 h _ _ _ _ _ => h
  | .vfmaBf16 h _ _ _ _ _ => h
  | .vminBf16 h _ _ _ _ _ => h
  | .vmaxBf16 h _ _ _ _ _ => h
  | .vaddI8 h _ _ _ _ _ => h
  | .vsubI8 h _ _ _ _ _ => h
  | .vaddsI8 h _ _ _ _ _ => h
  | .vsubsI8 h _ _ _ _ _ => h
  | .vminI8 h _ _ _ _ _ => h
  | .vmaxI8 h _ _ _ _ _ => h
  | .vaddE4m3 h _ _ _ _ _ => h
  | .vsubE4m3 h _ _ _ _ _ => h
  | .vmulE4m3 h _ _ _ _ _ => h
  | .vminE4m3 h _ _ _ _ _ => h
  | .vmaxE4m3 h _ _ _ _ _ => h
  | .vaddE5m2 h _ _ _ _ _ => h
  | .vsubE5m2 h _ _ _ _ _ => h
  | .vmulE5m2 h _ _ _ _ _ => h
  | .vminE5m2 h _ _ _ _ _ => h
  | .vmaxE5m2 h _ _ _ _ _ => h
  | .quantQb8 h _ _ _ => h
  | .quantQb4 h _ _ _ => h
  | .dequantQb8 h _ _ _ _ => h
  | .dequantQb4 h _ _ _ _ => h
  | .qtobaQb8 h _ _ _ => h
  | .qtobaQb4 h _ _ _ => h
  | .badd h _ _ _ _ => h
  | .balign h _ _ _ _ => h
  | .vlut h _ _ _ _ _ => h
  | .vdqw h _ _ _ _ _ => h
  | .vcvtBf16F32 h _ _ _ _ => h
  | .vcvtF32Bf16 h _ _ _ _ => h
  | .vcvtE4m3F32 h _ _ _ _ => h
  | .vcvtE5m2F32 h _ _ _ _ => h
  | .vcvtF32E4m3 h _ _ _ _ => h
  | .vcvtF32E5m2 h _ _ _ _ => h
  | .vcvtE4m3Bf16 h _ _ _ _ => h
  | .vcvtE5m2Bf16 h _ _ _ _ => h
  | .vcvtBf16E4m3 h _ _ _ _ => h
  | .vcvtBf16E5m2 h _ _ _ _ => h
  | .vcvtI32F32 h _ _ _ _ => h
  | .vcvtF32I32 h _ _ _ _ => h
  | .vcvtBf16Q4 h _ _ _ _ => h
  | .vcvtI8I32 h _ _ _ _ => h
  | .vcvtI32I8 h _ _ _ _ => h
  | .vexp h _ _ _ _ => h
  | .vexp2 h _ _ _ _ => h
  | .vlog h _ _ _ _ => h
  | .vlog2 h _ _ _ _ => h
  | .vrcp h _ _ _ _ => h
  | .vrsqrt h _ _ _ _ => h
  | .vsqrt h _ _ _ _ => h
  | .vdiv h _ _ _ _ _ => h
  | .vtanh h _ _ _ _ => h
  | .vsigm h _ _ _ _ => h
  | .verf h _ _ _ _ => h
  | .vsin h _ _ _ _ => h
  | .vcos h _ _ _ _ => h
  | .vperm h _ _ _ _ _ => h
  | .vbcast h _ _ _ _ => h
  | .vbcastScalar h _ _ _ => h
  | .vrot h _ _ _ _ => h
  | .viota h _ _ _ => h
  | .vsel h _ _ _ _ _ => h
  | .vins h _ _ => h
  | .vext h _ _ _ => h
  | .vhdrWrite h _ _ => h
  | .vhdrRead h _ _ _ => h
  | .vcmpI32 h _ _ _ _ _ => h
  | .vcmpF32 h _ _ _ _ _ => h
  | .vrsumF32 h _ _ _ _ => h
  | .vrsumI32 h _ _ _ _ => h
  | .vrmaxF32 h _ _ _ _ => h
  | .vrmaxI32 h _ _ _ _ => h
  | .vdraw h _ _ _ _ => h
  | .dmerge h _ _ _ _ => h
  | .mmaF8f8 h _ _ _ => h
  | .mmaB16b16 h _ _ _ => h
  | .mmaF8i4 h _ _ _ => h
  | .mmaB16i4 h _ _ _ => h
  | .mmaB16l4 h _ _ _ => h
  | .mmaQb8 h _ _ _ => h
  | .mmaQb4 h _ _ _ => h
  | .mldw h _ _ => h
  | .mswap h => h
  | .mldk h _ _ => h
  | .mcolq h _ _ _ => h
  | .mzero h _ => h
  | .mmovaToVector h _ _ _ => h
  | .mmovaToAcc h _ _ _ => h
  | .mrsum h _ _ => h
  | .mchk h _ _ => h
  | .msync h _ => h
  | .mdrainF32 h _ _ _ _ _ => h
  | .mdrainBf16 h _ _ _ _ _ => h
  | .mdrainE4m3 h _ _ _ _ _ => h
  | .mdrainE5m2 h _ _ _ _ _ => h
  | .mdrainQb8 h _ _ _ _ _ => h
  | .mdrainQb4 h _ _ _ _ _ => h
  | .mdrainBa32 h _ _ _ _ _ => h
  | .linit h _ _ _ => h
  | .larv h _ _ _ _ => h
  | .lwait h _ _ _ _ => h
  | .ltest h _ _ _ => h
  | .lreg h _ _ _ => h
  | .ldrop h _ _ _ => h
  | .lbytes h _ _ _ _ => h
  | .rngget h _ => h
  | .fadd h _ _ _ _ => h
  | .fsub h _ _ _ _ => h
  | .fmul h _ _ _ _ => h
  | .fdiv h _ _ _ _ => h
  | .fsqrt h _ _ _ => h
  | .fma h _ _ _ _ => h
  | .fmin h _ _ _ _ => h
  | .fmax h _ _ _ _ => h
  | .feq h _ _ _ _ => h
  | .flt h _ _ _ _ => h
  | .fle h _ _ _ _ => h
  | .fcvti h _ _ _ => h
  | .fcvtf h _ _ _ => h
  | .fabs h _ _ _ => h
  | .fneg h _ _ _ => h
  | .fclass h _ _ _ => h
  | _ => Head.default

/-- Events that come from outside the module's logic (hosts, firmware decisions, ports, sensors, soft errors, power):
they happen when an input of `State.inputs` names them. Every other event happens when the state makes it due. -/
def Instr.isBoundary : Instr → Bool
  | .deathDeclaration _ => true
  | .launchStore _ _ => true
  | .preempt _ => true
  | .resume _ => true
  | .kill _ => true
  | .shootdown _ => true
  | .clearret _ => true
  | .readbind _ => true
  | .free _ => true
  | .hostWindowWrite _ _ _ => true
  | .retirementStart _ => true
  | .edgeHomeRestart _ => true
  | .portLinkLoss _ => true
  | .portRetrainAttempt _ _ => true
  | .powerGood => true
  | .bringUpStage _ => true
  | .islandMonitorRead _ => true
  | .powerLimitStep _ _ => true
  | .thermalThrottleStep _ _ => true
  | .overtempShutdown _ _ => true
  | .patrolScrub _ _ => true
  | .flitCrcDrop _ => true
  | .flitAgePriority _ => true
  | .softError _ => true
  | .powerGoodLoss => true
  | .hdmDecoderBaseWrite _ _ => true
  | .fenceClearCommand _ _ => true
  | .externalSegmentDeclaration _ _ _ _ => true
  | _ => false

end Sys2Proof
end

