-- ==== Sys2Proof/Machine/State.lean ====
section
/-! DEFINITION. The state of a QW48 module as plain data: its cores with their registers, memories, tables, queues and
counters (R28, R89, R229, R261, R288, R306, R325, R348), its fields, ports and edge homes, and the module manager's tables.
Sparse tables are lists of (index, entry) with rising indices that list only the entries in use. -/

namespace Sys2Proof.Machine

/-! ## How a step can stop -/

/-- Model faults. Architected faults are next states (trap entry R372), so a model fault is raised only when exec is
asked for something that is not happening. Step never raises one. -/
inductive Fault where
  /-- An instruction word is executed while the current core has no RUNNING slot (R18): raised by every instruction's
  meaning. Safe: the hardware issues from the RUNNING slot only. -/
  | noRunningSlot
  /-- An event is performed whose item does not exist in the state (no such core, message, request, queue entry, port
  or partition): raised by the events' meanings. Safe: the event cannot occur there. -/
  | noSuchItem
  deriving DecidableEq, Repr

/-- Refusals: a row of the table without a meaning. -/
inductive Refusal where
  /-- Raised by exec's arm of an instruction that is not modelled yet. Safe: nothing is claimed of it. -/
  | notModelled (mnemonic : String)
  deriving DecidableEq, Repr

/-! ## Fault causes -/

/-- The causes of R367. -/
inductive Cause where
  | illop | illfn | illfmt | rsvbits | longform | stall | illcsr
  | lalign | lrange
  | tnone | tlost | targs | tperm | tstate | tfull | thfull | toverlap | trefused | tnotheld | tfetch
  | ralign | raddr | rpart | xlate | fabricLost | route | dclosed | dfull | rcfull | frozen | restarted
  | nvtrap | dztrap | oftrap | uftrap | sattrap | nxtrap
  | margs | cargs
  | largs | loverrun | lbroken | lgroup | lmfull | lnotreg
  | swtrap | loopnest | scope | dargs
  | uels | uefetch | uereg | uexlate | ueremote | uecore
  deriving DecidableEq, Repr

/-! ## Registers -/

/-- A vector register: 64 lanes and a header (R92). -/
structure VReg where
  lanes : Vector Lane 64
  header : Word
  deriving DecidableEq, Repr

/-- An accumulator: lane (r, c) at index 16 r + c, row sums, and an exponent and a class for each block (R95). -/
structure Acc where
  lanes : Vector Lane 256
  rs : Vector Lane 16
  x : Vector (BitVec 16) 4
  cls : Vector (BitVec 2) 4
  deriving DecidableEq, Repr

/-- A register that can be pending or in flight (R73, R75); `kb` is a codebook as VLUT reads it (R159). -/
inductive RegId where
  | g (n : Fin 16)
  | t (slot : Fin 8) (n : Fin 16)
  | p (slot : Fin 8) (n : Fin 8)
  | v (n : Fin 16)
  | m (n : Fin 8)
  | kb (n : Fin 4)
  deriving DecidableEq, Repr

/-- A register's whole value (R73: a vector register with its header). -/
inductive RegVal where
  | word (w : Word)
  | pred (b : Bool)
  | vec (v : VReg)
  deriving DecidableEq, Repr

/-- A fixed-latency write in flight: the register already holds the new value, `old` is the one before, and the write
lands at core cycle `lands` (R72, R73). -/
structure Inflight where
  reg : RegId
  lands : Nat
  old : RegVal
  deriving DecidableEq, Repr

/-- A scoreboarded result of the core itself, written at core cycle `due` (R72, R75); flags are ORed and enabled ones
trap then (R114, R135). `pc` is the instruction's address. -/
structure Result where
  id : Nat
  slot : Fin 8
  reg : RegId
  val : RegVal
  due : Nat
  issued : Nat
  flags : BitVec 6
  trapEn : BitVec 6
  pc : Nat
  /-- it returns the value of a local load (R210) -/
  isLoad : Bool
  deriving DecidableEq, Repr

/-- A local store issued and not yet performed (R196, R197). -/
structure StoreBuf where
  id : Nat
  slot : Fin 8
  addr : Nat
  data : List Byte
  due : Nat
  issued : Nat
  deriving DecidableEq, Repr

/-- The RNG of a core (R57). -/
structure Rng where
  key : Word
  ctr : Word
  mode : BitVec 4
  deriving DecidableEq, Repr

/-! ## Task slots -/

/-- Slot states with the codes of R306. -/
inductive SlotState where
  | free | ready | running | waiting | draining | saved
  deriving DecidableEq, Repr

/-- A wait in progress: its destination and limit (TIME in ns), and what it watches (R120, R121, R356). -/
inductive Wait where
  | all (d : SReg) (limit : Option Nat)
  | word (d : SReg) (limit : Option Nat) (addr : Nat) (value : Word)
  | latch (d : SReg) (limit : Option Nat) (addr : Nat) (phase : BitVec 4)
  deriving DecidableEq, Repr

/-- One level of hardware loop: active bit and captured bounds (R115). -/
structure LoopLevel where
  active : Bool
  start : Nat
  last : Nat
  deriving DecidableEq, Repr

/-- The slot items of R89, R97, R306 and R372. `pc`, `ls` and `le` are local-store offsets. -/
structure Slot where
  pc : Nat
  t : Vector Word 16
  p : Vector Bool 8
  lc : Vector (BitVec 32) 2
  ls : BitVec 18
  le : BitVec 18
  loop : Vector LoopLevel 2
  inner : Fin 2
  fflags : BitVec 6
  frm : BitVec 3
  ftrap : BitVec 6
  schk : Bool
  tcause : Byte
  faddr : Word
  door : BitVec 5
  prio : BitVec 2
  intrap : Bool
  st : SlotState
  /-- core cycle from which the age counter counts (R318) -/
  ageFrom : Nat
  /-- core cycle at which the slot became READY (R317) -/
  readyAt : Nat
  wait : Option Wait
  /-- the state a SAVED slot resumes in, and its age then (R316, R318) -/
  savedAs : SlotState
  savedAge : Nat
  /-- stopped at a CKPT while HALTING (R339) -/
  stopped : Bool
  /-- Kill has begun (R374) -/
  killed : Bool
  /-- core cycle of the latest trap entry or placement (R372) -/
  trapAt : Option Nat
  /-- core cycle before which the slot does not issue (R71) -/
  nextIssue : Nat
  /-- END was executed: returns and drops are due when the slot becomes FREE (R124, R256) -/
  ended : Bool
  deriving DecidableEq, Repr

/-! ## Engine queues of a core -/

/-- The functions of OP 0x36 (R150) and the two draw requests (R154, R155). -/
inductive SfuFn where
  | exp | exp2 | log | log2 | rcp | rsqrt | sqrt | div | tanh | sigm | erf | sin | cos
  | draw | dmerge
  deriving DecidableEq, Repr

/-- An SFU request with the operands captured at issue (R152). -/
structure SfuReq where
  slot : Fin 8
  fn : SfuFn
  d : VNum
  old : VReg
  a : VReg
  b : VReg
  mask : Word
  rm : Rm
  trapEn : BitVec 6
  issued : Nat
  pc : Nat
  /-- the core cycle of its service start, once begun, and the first at which its result may be written -/
  start : Option Nat
  writeAt : Nat
  result : VReg
  flags : BitVec 6
  deriving DecidableEq, Repr

/-- The modes of MMA (R170). -/
inductive MmaMode where
  | f8f8 | b16b16 | f8i4 | b16i4 | b16l4 | qb8 | qb4
  deriving DecidableEq, Repr

/-- The outputs of MDRAIN (R179). -/
inductive DrainFmt where
  | f32 | bf16 | e4m3 | e5m2 | qb8 | qb4 | ba32
  deriving DecidableEq, Repr

/-- A matrix command with the scalar and vector operands read at issue (R158). -/
inductive MCmd where
  | mma (mode : MmaMode) (an : ANum) (a : Nat) (b : Word)
  | mldw (a : Nat) (b : Word)
  | mswap
  | mldk (k : ANum) (va : VReg)
  | mcolq (an : ANum) (va vb : VReg)
  | mzero (an : ANum)
  | toVector (vd : VNum) (an : ANum) (g : Fin 4)
  | toAcc (an : ANum) (va : VReg) (g : Fin 4)
  | mrsum (vd : VNum) (an : ANum)
  | mchk (d : SReg) (an : ANum)
  | msync (d : SReg)
  | mdrain (out : DrainFmt) (vd : VNum) (an : ANum) (g : Nat) (z ba : Bool) (rm : Rm) (sat : Bool)
  deriving DecidableEq, Repr

/-- A local store's contents, and any device's: the canonical sparse form of `Memory`. -/
abbrev Mem := List Host.Cell

/-- A command of the matrix queue, or one dispatched and not complete (R157 to R162). -/
structure MEntry where
  id : Nat
  slot : Fin 8
  cmd : MCmd
  trapEn : BitVec 6
  issued : Nat
  pc : Nat
  dispatched : Bool
  completeAt : Nat
  /-- of a command that reads the local store: the store at issue and after each write since, oldest first (R163) -/
  snap : List Mem
  /-- what a drain computed at its dispatch: the vector result and the flags -/
  result : Option VReg
  flags : BitVec 6
  deriving DecidableEq, Repr

/-- A copy in the copy queue (R325 to R331). -/
structure Copy where
  id : Nat
  slot : Fin 8
  src : Nat
  dst : Nat
  cw : Nat
  dl : Nat
  ncw : Bool
  dla : Bool
  offload : Bool
  len : Nat
  rows : Nat
  dstr : Nat
  sstr : Nat
  value : Word
  issuedNs : Nat
  issued : Nat
  active : Bool
  /-- units begun, units written or given to a write request, units acknowledged -/
  begun : Nat
  sent : Nat
  ended : Nat
  /-- units whose source bytes have returned and that wait for their turn or for room (R303, R328) -/
  ready : List (Nat × List Byte)
  /-- the deadline has passed, and the copy was abandoned then -/
  late : Bool
  abandoned : Bool
  /-- the completion write has been sent -/
  completing : Bool
  /-- of a source in the own window: the store at issue and after each write to the source since, oldest first (R328) -/
  snap : List Mem
  /-- a copy of a live range at a halt or a resumption: the memory port of the spill area, whose side of the copy it gives as
  device addresses (R340, R341) -/
  spill : Option Nat
  deriving DecidableEq, Repr

/-! ## Requests, replies and messages -/

/-- The read-modify-writes of R208. -/
inductive AtomOp where
  | add | sub | and | or | xor | min | max | minu | maxu | swap | cas | fadd
  deriving DecidableEq, Repr

/-- The token requests of R238. -/
inductive TokOp where
  | decl | lend | ret | split | join | share | unsh | recl | clean
  deriving DecidableEq, Repr

/-- The latch requests of R353, the drop of a membership at END (R358) and BREAK (R359). -/
inductive LatchOp where
  | init | arv | reg | drop | bytes | endDrop | brk
  deriving DecidableEq, Repr

/-- What a request asks of its home. Addresses are the home's own: a local-store offset or a device address; before its
walk completes, the fabric address. `svc` is the service time at a core home (R205). -/
inductive ROp where
  | load (addr n svc : Nat)
  | store (addr : Nat) (data : List Byte) (svc : Nat)
  /-- a completion write: b, its deadline as TIME in ns, and whether the copy was abandoned (R330) -/
  | cword (addr : Nat) (value : Word) (deadline : Option Nat) (abandoned : Bool)
  | atom (op : AtomOp) (w32 : Bool) (addr : Nat) (b d : Word)
  | badd (addr : Nat) (block : List Byte)
  /-- a token request: the fabric address a, b, the EPOCH of the issuer's held entry when there is one, its KIND (R240, R243) -/
  | tok (op : TokOp) (addr va : Nat) (b : Word) (epoch : Option Byte) (kind : BitVec 2)
  | tqry (addr : Nat)
  | send (msg : BitVec 320)
  | latch (op : LatchOp) (addr : Nat) (b : Word)
  /-- a grant: BASE and SIZE in 256-byte units of fabric addresses (R234) -/
  | grant (slot : Fin 8) (base size : Nat) (epoch : Byte) (kind : BitVec 2)
  | killRet (addr : Nat) (epoch : Byte)
  | partialTo (rt : Fin 64) (ofs : Nat) (payload : List Byte) (inPort : Nat)
  | submit (record : Vector Word 8) (prio : BitVec 2)
  deriving DecidableEq, Repr

/-- What becomes of a request's reply at its requester. -/
inductive Sink where
  | quiet
  | scalar (r : RegId) (sz : LdSize)
  | vector (n : Fin 16)
  /-- DATA, zero-extended from 32 bits when the flag is set -/
  | data (r : RegId) (w32 : Bool)
  /-- TDECL at an edge home: the reserved held entry -/
  | heldEntry (i base size : Nat)
  /-- the SUBMIT result word and the record's TAG (R338) -/
  | submitWord (off : Nat) (tag : BitVec 32)
  /-- LREG and LDROP with UNREG: the membership changes when the operation completes (R357) -/
  | membership (addr : Nat) (count : Nat)
  | unregister (addr : Nat) (count : Nat)
  | copyRead (copy unit : Nat)
  | copyUnit (copy : Nat)
  | copyDone (copy : Nat)
  /-- a grant: the home entry it belongs to, the named position it recorded if any, its kind, and the request or message that
  waits for its outcome -/
  | grantFor (entry : Nat) (named : Option (Fin 4)) (kind : BitVec 2) (waiter : Nat)
  | transfer
  deriving DecidableEq, Repr

/-- A cached translation (R266): the fabric range of its page or descriptor, its target, its permissions, and the part of the range for
which it answers: where no lower-numbered descriptor covers it (R263). -/
structure Xlate where
  base : Nat
  limit : Nat
  port : Nat
  target : Nat
  r : Bool
  w : Bool
  lo : Nat
  hi : Nat
  deriving DecidableEq, Repr

/-- A table walk that a request waits for (R267): the module time at which it completes, none while it waits in the miss queue;
the access that it translates, what it read, and whether a shootdown makes it start again (R268). -/
structure Walk where
  due : Option Nat
  va : Nat
  write : Bool
  found : Xlate
  again : Bool
  deriving DecidableEq, Repr

/-- A remote request entry of a core, or a request of an engine, edge home or router (R203, R293). -/
structure Req where
  id : Nat
  rid : BitVec 22
  slot : Fin 8
  ser : BitVec 32
  op : ROp
  home : Node
  /-- write-like: it carries the exactly-once header (R291) -/
  wr : Bool
  subject : BitVec 21
  sink : Sink
  /-- attempt number, 0 before the first transmission, then 1 to 8; µs of the first transmission; module time in cc at which
  the running timer expires -/
  att : Nat
  fts : BitVec 16
  due : Nat
  /-- core cycle of issue, the resume rule's stamp -/
  issued : Nat
  faddr : Word
  /-- the bytes of the access, a memory event: fabric addresses, the own window as the core's own peer range (R203, R236) -/
  lo : Nat
  hi : Nat
  /-- the scope of an acquire that holds later events (R218) -/
  acq : Option Scope
  walk : Option Walk
  /-- it awaits the home logic of its own core or a grant's outcome: no message, no timer (R202, R236) -/
  localWait : Bool
  /-- its first transmission waits for room: among the 256 serials of its identity (R290), or for a unit at its home (R303) -/
  waits : Bool
  /-- the last incarnation heard (R301) -/
  inc : Byte
  /-- class code of R98: 1 control .. 6 offload -/
  cls : BitVec 3
  deriving DecidableEq, Repr

/-- What a message in flight is. -/
inductive Body where
  /-- a request: identity, serial, acknowledged distance, attempt, FTS and STS in µs (R291), subject (R400) -/
  | request (rid : BitVec 22) (ser : BitVec 32) (ackd : Nat) (att : Nat) (fts sts : BitVec 16) (subject : BitVec 21)
      (wr : Bool) (reqId : Nat) (op : ROp)
  | reply (rid : BitVec 22) (ser : BitVec 32) (reqId : Nat) (inc status : Byte) (data : Word) (bytes : List Byte)
  | revoke (ident : BitVec 21) (base : Nat) (size : Nat)
  | death (n : Node) (gen : BitVec 32)
  | renorm (rt : Fin 64) (ofs : Nat) (x : BitVec 16)
  deriving DecidableEq, Repr

/-- A message between agents: when it was sent, when its formula latency ends, and when it arrives (cc). -/
structure Packet where
  id : Nat
  src : Node
  dst : Node
  sentAt : Nat
  base : Nat
  arrive : Nat
  body : Body
  /-- at an edge home or host port: accepted, and waiting for its device completion -/
  atDevice : Bool
  /-- what its completed 64-byte requests to the device returned, none of a failed one, oldest first (R388) -/
  lines : List (Option (List Byte))
  cls : BitVec 3
  /-- a flit of it has a bad CRC: the next router drops it (R31) -/
  crcBad : Bool
  /-- when it leaves its sender (cc), and its flits: 0 for what stays inside a core (R205) -/
  leave : Nat
  nflits : Nat
  /-- when its wait at the port where it is began, at the latest (R307) -/
  since : Nat
  deriving DecidableEq, Repr

/-! ## Tables -/

/-- States of a home token entry (R231); FREE entries are not listed. -/
inductive TokState where
  | home | lent | shared | split | tainted | lost | uncertain
  deriving DecidableEq, Repr

/-- A home token entry of a core (R231) or an edge home (R232). Bounds are in the home's granules: 256 bytes or 4 KiB. -/
structure HomeTok where
  st : TokState
  base : Nat
  limit : Nat
  parent : Option Nat
  holder : BitVec 21
  epoch : Byte
  named : Vector (Option (BitVec 21)) 4
  anon : Nat
  susp : Bool
  dslot : Fin 8
  rel : Bool
  decl : BitVec 21
  /-- the slot-table entry of the declarer's partition, at an edge home -/
  part : Nat
  ext : Bool
  /-- a grant of this entry awaits its reply (R240) -/
  granting : Bool
  /-- withdraw when next HOME (R256) -/
  withdraw : Bool
  deriving DecidableEq, Repr

/-- A held-token entry (R234): BASE and SIZE in 256-byte units. -/
structure HeldTok where
  base : Nat
  size : Nat
  epoch : Byte
  slot : Fin 8
  kind : BitVec 2
  lost : Bool
  /-- the edge home that granted it, if one did (R254) -/
  port : Option Nat
  /-- reserved for a TDECL at an edge home, not yet valid (R239) -/
  reserved : Bool
  deriving DecidableEq, Repr

/-- A reply cache entry in use (R295). -/
structure ReplyEnt where
  rid : BitVec 22
  ser : BitVec 32
  done : Bool
  status : Byte
  data : Word
  time : BitVec 16
  /-- TIME in ns at the reply, for ageing (R297) -/
  timeNs : Nat
  deriving DecidableEq, Repr

/-- A requester table entry in use (R296). -/
structure Requester where
  rid : BitVec 22
  floor : BitVec 32
  last : BitVec 16
  lastNs : Nat
  deriving DecidableEq, Repr

/-- The exactly-once tables of a home (R288). -/
structure Once where
  cache : List (Nat × ReplyEnt)
  reqs : List (Nat × Requester)
  inc : Byte
  deriving DecidableEq, Repr

/-- A membership (R357). -/
structure Member where
  addr : Nat
  slot : Fin 8
  count : Nat
  deriving DecidableEq, Repr

/-- An open round of a route (R281): `free` is the module time at which its latest combine ends. -/
structure Round where
  rt : Fin 64
  ofs : Nat
  acc : Option (List Byte)
  k : Nat
  free : Nat
  deriving DecidableEq, Repr

/-- The router whose transfer brought a partial: its node and identity, and the transfer's serial and request. -/
structure Sender where
  node : Node
  rid : BitVec 22
  ser : BitVec 32
  reqId : Nat
  deriving DecidableEq, Repr

/-- A delivery to come at a core's own router (R282), and whose transfer brought its last partial, when it was a neighbour's. -/
structure Delivery where
  id : Nat
  due : Nat
  rt : Fin 64
  ofs : Nat
  payload : List Byte
  sender : Option Sender
  deriving DecidableEq, Repr

/-- A floor that a router keeps for a route (R284). -/
structure Floor where
  rt : Fin 64
  ofs : Nat
  x : BitVec 16
  deriving DecidableEq, Repr

/-- A rectangle of logical cores, bounds inclusive (R86). -/
structure Rect where
  xlo : Nat
  ylo : Nat
  xhi : Nat
  yhi : Nat
  deriving DecidableEq, Repr

/-- A group of the group store (R279). -/
structure Group where
  gid : Byte
  rects : List Rect
  deriving DecidableEq, Repr

/-- The live-range register (R325). -/
structure Lrt where
  valid : Bool
  ckid : BitVec 16
  addr : Nat
  deriving DecidableEq, Repr

/-- The registers of a core that its slots share, and its slots (R89, R97). -/
structure Regs where
  g : Vector Word 16
  v : Vector VReg 16
  m : Vector Word 8
  wa : BitVec 32768
  ws : BitVec 32768
  acc : Vector Acc 4
  kb : Vector (BitVec 256) 4
  slots : Vector Slot 8
  rng : Rng
  amax : Lane
  /-- AMAX updates of drains in progress: core cycle and value (R182) -/
  amaxQ : List (Nat × Lane)
  finj : Word
  pmsel : BitVec 32
  /-- a selection written in this cc, which takes effect in the next (R363) -/
  pmselNew : Option (BitVec 32)
  pmc : Vector Word 4
  part : BitVec 36
  groups : List Group
  /-- GEOM as the running partition sees it (R99) -/
  geom : BitVec 25
  /-- registers whose stored bits are bad (R376) -/
  badRegs : List RegId
  /-- rows out of step with their check residue, numbered as MCHK's result bits: (accumulator or 4 for the shared
  rows, row), and by how much modulo 1,023 (R185) -/
  badRows : List ((Fin 5 × Nat) × Nat)
  deriving DecidableEq, Repr

/-- The tables of a core that are swapped at pre-emption (R28). -/
structure Tables where
  home : List (Nat × HomeTok)
  held : List (Nat × HeldTok)
  once : Once
  doors : Vector (BitVec 32) 32
  routes : Vector Word 64
  msgs : List (BitVec 320)
  members : List (Nat × Member)
  lrt : Lrt
  deriving DecidableEq, Repr

/-- One saved context of non-store state (R194). -/
structure Context where
  regs : Regs
  tables : Tables
  entry : Nat
  /-- the live ranges at the halt (R340, R341): base and length -/
  ranges : List (Nat × Nat)
  /-- an uncorrectable error has struck it -/
  bad : Bool
  deriving DecidableEq, Repr

/-- A logical core. -/
structure Core where
  regs : Regs
  tables : Tables
  mem : Mem
  /-- local-store words with uncorrectable check bits (R190) -/
  badWords : List Nat
  /-- words with one flipped bit, which the next read corrects, and the flipped bit -/
  soft : List (Nat × Word)
  /-- words overwritten by the core itself since the last ISYNC or slot change, with the word before (R192) -/
  stale : List (Nat × Lane)
  stores : List StoreBuf
  inflight : List Inflight
  results : List Result
  sfu : List SfuReq
  /-- core cycles: the earliest start of the next SFU service, and the earliest next SFU write (R152) -/
  sfuNext : Nat
  sfuWrite : Nat
  matrix : List MEntry
  computeFree : Nat
  loadFree : Nat
  lastDispatch : Nat
  fpFree : Nat
  /-- module time before which the atomic unit takes no further work (R205) -/
  atomNext : Nat
  copies : List Copy
  copyNext : Nat
  /-- the copy whose unit was sent last -/
  copyTurn : Nat
  reqs : List Req
  /-- the first-level TLB, oldest entry first (R266) -/
  tlb : List Xlate
  /-- serial counters: slots 0-7, then copy engine, router, token agent (R288) -/
  next : Vector (BitVec 32) 11
  rounds : List Round
  deliveries : List Delivery
  floors : List Floor
  /-- messages that reached the door logic and are to be performed (R312) -/
  doorIn : List (BitVec 320)
  shadow : Option Context
  /-- slot-table entry of the partition the core serves -/
  entry : Nat
  halted : Bool
  /-- the live ranges that a halt saves: base and length (R340) -/
  live : List (Nat × Nat)
  frozen : Bool
  /-- core cycle of the last instruction issued (R317) -/
  lastIssue : Option Nat
  /-- module time of the last copy unit performed or message held (R345) -/
  lastWork : Nat
  /-- core cycle before which no instruction issues: the one after a write of the special-function unit, or after a grant (R153,
  R385) -/
  issueFrom : Nat
  /-- the slot whose YIELD the next selection decides (R123) -/
  yielded : Option (Fin 8)
  /-- a hold at issue: the module time of the next try, and whether the scoreboard holds (R75) -/
  held : Option (Nat × Bool)
  /-- the core's cycle count minus its island's, kept when the core moves to a spare on another island (R272) -/
  cycOff : Int
  /-- the last turn of the patrol scrubber (R190) -/
  scrubbed : Nat
  deriving DecidableEq, Repr

/-! ## Ports and edge homes -/

/-- An edge port with its edge home or host port (R261, R386 to R394). -/
structure Port where
  kind : Nat
  up : Bool
  width : BitVec 5
  rate : BitVec 2
  cap : BitVec 24
  unmap : Bool
  failed : Bool
  tries : Nat
  mem : Mem
  poison : List Nat
  toks : List (Nat × HomeTok)
  once : Once
  /-- TIME of the last restart in ns, if any, and RSTT (R300) -/
  restartNs : Option Nat
  rstt : BitVec 16
  reqs : List Req
  next : BitVec 32
  hdm : Word
  result : Word
  /-- the mailbox's response word and the word of READBIND (R343, R344) -/
  response : Word
  readbind : Word
  retryAt : Nat
  /-- retrained at a changed device: it stays down until the next bring-up (R394) -/
  changed : Bool
  /-- the lanes of the training before a loss of the link (R394) -/
  lastWidth : BitVec 5
  deriving DecidableEq, Repr

/-! ## Fields and translation -/

/-- A reticle field (R7, R261): the pages in its translation cache, oldest first, and its range store (R266). -/
structure Field where
  cache : List Xlate
  ranges : List Xlate
  /-- a partition has been placed since the halt of the SAVED one (R341) -/
  placedSince : Bool
  deriving DecidableEq, Repr

/-! ## Launches -/

/-- A seed (R334): the core's logical index, LEN and payload. -/
structure Seed where
  core : Nat
  len : Nat
  payload : BitVec 256
  deriving DecidableEq, Repr

/-- States of a slot-table entry (R287). -/
inductive PartState where
  | free | placed | loading | running | halting | saved | resuming | closed | failed
  deriving DecidableEq, Repr

/-- The steps of R340 after the halt of a partition's cores, which R341 takes from the second on. -/
inductive SwapStep where
  | none | spill | refill | swap
  deriving DecidableEq, Repr

/-- A slot-table entry (R286) with the launch's journal number and the run's own records. -/
structure PartEntry where
  tag : BitVec 32
  reason : Byte
  st : PartState
  prio : BitVec 2
  fyhi : Nat
  fxhi : Nat
  fylo : Nat
  fxlo : Nat
  image : Word
  gtab : Word
  seedsAt : Word
  nseed : Nat
  root : Word
  rtab : Word
  pre : Bool
  hang : Byte
  nrange : Nat
  seq : Nat
  /-- seeds still to inject, as read at placement (R334) -/
  seeds : List Seed
  groups : List (Nat × List Rect)
  /-- TIME in ns of the last sample at which the hang monitor saw progress (R345) -/
  progressNs : Nat
  /-- TIME in ns when HALTING was written, the SPILL address, the entry to resume, the port and tag that asked -/
  haltNs : Nat
  spill : Word
  resumeEntry : Option Nat
  /-- how far the halt or the resumption has come: not begun, live ranges on their way out, on their way back, contexts in exchange
  (R340, R341) -/
  swapStep : SwapStep
  asker : Option (Nat × BitVec 32)
  /-- a kill has been asked for, with its REASON -/
  killing : Option Byte
  /-- module time before which the next stage does not happen (R336) -/
  waitUntil : Nat
  /-- words of device memory written since the partition's latest shootdown, with what they held: a walk may still read it (R268) -/
  oldWords : List ((Nat × Nat) × Nat)
  /-- edge homes' entries that its end has left TAINTED, LOST or UNCERTAIN: port and entry (R259) -/
  left : List (Nat × Nat)
  deriving DecidableEq, Repr

/-- A waiting launch: its SEQ and record (R333, R336). -/
structure Launch where
  seq : Nat
  record : Vector Word 8
  deriving DecidableEq, Repr

/-- A journal entry (R337). -/
structure Journal where
  seq : Nat
  tag : BitVec 32
  code : Byte
  st : BitVec 4
  prio : BitVec 2
  entry : BitVec 6
  fields : BitVec 12
  accepted : Word
  changed : Word
  deriving DecidableEq, Repr

/-- A fault report of 32 bytes (R370). -/
abbrev Report := Vector Word 4

/-- An island: its record (R364) and the base from which its cores' cycles are counted. -/
structure Island where
  fmhz : Nat
  vmv : Nat
  temp : BitVec 16
  slack : BitVec 16
  plans : BitVec 32
  gen : BitVec 32
  tplan : Word
  /-- the clock and the voltage that take effect at the next 1 ms boundary, and the slack that they give (R365) -/
  planned : Nat
  vplan : Nat
  splan : Option (BitVec 16)
  /-- steps of 13 MHz by which power and temperature lower the clock (R397) -/
  lowered : Nat
  cooled : Nat
  /-- it has been at or above 100 °C and not yet below 95 °C -/
  hot : Bool
  /-- the 1 ms boundary of TIME at which its temperature was last acted on (R397) -/
  stepMs : Nat
  /-- cycles counted up to module time baseAt -/
  baseCyc : Nat
  baseAt : Nat
  deriving DecidableEq, Repr

/-- The domains of the regulators in the order in which they are raised (R396). -/
inductive Domain where
  | arrays | logic | links | phys
  deriving DecidableEq, Repr

/-- The binding table and the records, from which the link class table is computed (R269, R270, R276). -/
structure BindTables where
  bindgen : BitVec 32
  bind : List (Nat × Word)
  phys : List (Nat × Byte)
  fence : BitVec 48
  cols : Nat
  deriving DecidableEq, Repr

/-- The module manager and its tables. -/
structure Manager where
  power : Bool
  boots : BitVec 32
  stage : Nat
  ready : Bool
  amps : BitVec 32
  watts : BitVec 32
  fence : BitVec 48
  cols : Nat
  bindgen : BitVec 32
  /-- binding entries, physical records and link classes that differ from the nominal ones (R269, R270, R276) -/
  bind : List (Nat × Word)
  phys : List (Nat × Byte)
  links : List (Nat × BitVec 32)
  /-- the tables when bring-up computed the link class entries that `links` does not list -/
  linkBase : BindTables
  /-- the persisted port map: 1 memory, 2 host, 0 unused (R387) -/
  portMap : Vector Nat 64
  /-- the domains raised, the last raised first, and the link voltage of each field column in mV (R396) -/
  rails : List Domain
  linkMv : Vector Nat 8
  table : Vector PartEntry 48
  queue : List Launch
  journal : List (Nat × Journal)
  jseq : Nat
  log : List (Nat × Report)
  logseq : Nat
  once : Once
  dead : List Node
  /-- retirements in progress: logical index, spare's physical key, TIME in ns of the freeze (R272) -/
  retiring : List (Nat × Nat × Nat)
  hangNs : Nat
  /-- TIME in ns since which WATTS has been above 40,000, if it is (R397) -/
  overNs : Option Nat
  /-- the 1 ms boundary of TIME at which the power was last acted on (R397) -/
  stepMs : Nat
  /-- a shootdown in progress: the port and TAG that asked, and the requests that used dropped translations (R268) -/
  shoot : Option (Nat × BitVec 32 × List Nat)
  deriving DecidableEq, Repr

/-- An input from outside the module: it happens when the module time reaches `time`. -/
structure Input where
  time : Nat
  event : Instr
  deriving DecidableEq, Repr

/-- The module. -/
structure State where
  /-- module time in cc of the 1.3 GHz reference clock: the CYCLE counter (R362) -/
  now : Nat
  cores : List (Nat × Core)
  ports : Vector Port 64
  fields : Vector Field 48
  islands : Vector Island 96
  mgr : Manager
  net : List Packet
  /-- serial counter, incarnation and shadow store of cores without an active partition, by logical index (R288, R194) -/
  idle : List (Nat × Core)
  inputs : List Input
  /-- model's own: the core whose instruction is executed, a counter of identities, a counter of free choices -/
  cur : Nat
  nextId : Nat
  fresh : Nat
  deriving DecidableEq, Repr

/-! ## Reset -/

def VReg.reset : VReg := ⟨Vector.replicate 64 0, 0x0000010000000000⟩

def Acc.reset : Acc := ⟨Vector.replicate 256 0, Vector.replicate 16 0, Vector.replicate 4 0, Vector.replicate 4 1⟩

def LoopLevel.reset : LoopLevel := ⟨false, 0, 0⟩

/-- The slot items at the open wave (R90); values before any placement: log 1. -/
def Slot.reset : Slot where
  pc := 0
  t := Vector.replicate 16 0
  p := Vector.replicate 8 false
  lc := Vector.replicate 2 0
  ls := 0
  le := 0
  loop := Vector.replicate 2 LoopLevel.reset
  inner := 0
  fflags := 0
  frm := 0
  ftrap := 0
  schk := false
  tcause := 0
  faddr := 0
  door := 0
  prio := 0
  intrap := false
  st := .free
  ageFrom := 0
  readyAt := 0
  wait := none
  savedAs := .free
  savedAge := 0
  stopped := false
  killed := false
  trapAt := none
  nextIssue := 0
  ended := false

def Rng.reset : Rng := ⟨0, 0, 0⟩

/-- The shared registers and slots at the open wave (R89, R97); `part`, `groups` and `geom` are set by it. -/
def Regs.reset : Regs where
  g := Vector.replicate 16 0
  v := Vector.replicate 16 VReg.reset
  m := Vector.replicate 8 0
  wa := 0
  ws := 0
  acc := Vector.replicate 4 Acc.reset
  kb := Vector.replicate 4 0
  slots := Vector.replicate 8 Slot.reset
  rng := Rng.reset
  amax := 0
  amaxQ := []
  finj := 0
  pmsel := 0
  pmselNew := none
  pmc := Vector.replicate 4 0
  part := 0
  groups := []
  geom := 0x1B801E0
  badRegs := []
  badRows := []

def Once.reset : Once := ⟨[], [], 0⟩

def Tables.reset : Tables where
  home := []
  held := []
  once := Once.reset
  doors := Vector.replicate 32 0
  routes := Vector.replicate 64 0
  msgs := []
  members := []
  lrt := ⟨false, 0, 0⟩

/-- A core as the open wave leaves it before its image is loaded (R88). -/
def Core.reset : Core where
  regs := Regs.reset
  tables := Tables.reset
  mem := []
  badWords := []
  soft := []
  stale := []
  stores := []
  inflight := []
  results := []
  sfu := []
  sfuNext := 0
  sfuWrite := 0
  matrix := []
  computeFree := 0
  loadFree := 0
  lastDispatch := 0
  fpFree := 0
  atomNext := 0
  copies := []
  copyNext := 0
  copyTurn := 0
  reqs := []
  tlb := []
  next := Vector.replicate 11 0
  rounds := []
  deliveries := []
  floors := []
  doorIn := []
  shadow := none
  entry := 0
  halted := false
  live := []
  frozen := false
  lastIssue := none
  lastWork := 0
  issueFrom := 0
  yielded := none
  held := none
  cycOff := 0
  scrubbed := 0

def Port.reset (p : Nat) : Port where
  kind := Config.portKind p
  up := false
  width := 0
  rate := 0
  cap := 0
  unmap := false
  failed := false
  tries := 0
  mem := []
  poison := []
  toks := []
  once := Once.reset
  restartNs := none
  rstt := 0
  reqs := []
  next := 0
  hdm := 0
  result := 0
  response := 0
  readbind := 0
  retryAt := 0
  changed := false
  lastWidth := 0

def Field.reset : Field := ⟨[], [], false⟩

def PartEntry.reset : PartEntry where
  tag := 0
  reason := 0
  st := .free
  prio := 0
  fyhi := 0
  fxhi := 0
  fylo := 0
  fxlo := 0
  image := 0
  gtab := 0
  seedsAt := 0
  nseed := 0
  root := 0
  rtab := 0
  pre := false
  hang := 0
  nrange := 0
  seq := 0
  seeds := []
  groups := []
  progressNs := 0
  haltNs := 0
  spill := 0
  resumeEntry := none
  swapStep := .none
  asker := none
  killing := none
  waitUntil := 0
  oldWords := []
  left := []

/-- Log 3: the island records before bring-up writes them. -/
def Island.reset : Island where
  fmhz := 1300
  vmv := 750
  temp := 250
  slack := 40
  plans := 0
  gen := 0
  tplan := 0
  planned := 1300
  vplan := 750
  splan := none
  lowered := 0
  cooled := 0
  hot := false
  stepMs := 0
  baseCyc := 0
  baseAt := 0

/-- Log 3: the persisted tables of a module as it leaves manufacture. -/
def Manager.reset : Manager where
  power := false
  boots := 0
  stage := 0
  ready := false
  amps := 0
  watts := 0
  fence := 0
  cols := Config.cols
  bindgen := 0
  bind := []
  phys := []
  links := []
  linkBase := ⟨0, [], [], 0, Config.cols⟩
  portMap := Vector.ofFn fun p => Config.portKind p.val
  rails := []
  linkMv := Vector.replicate 8 780
  table := Vector.replicate 48 PartEntry.reset
  queue := []
  journal := []
  jseq := 0
  log := []
  logseq := 0
  once := Once.reset
  dead := []
  retiring := []
  hangNs := 0
  overNs := none
  stepMs := 0
  shoot := none

/-- The module at power-on, before power-good (R393): no core holds a partition, the tables are empty, the persisted
state is that of log 3. -/
def State.reset : State where
  now := 0
  cores := []
  ports := Vector.ofFn fun p => Port.reset p.val
  fields := Vector.replicate 48 Field.reset
  islands := Vector.replicate 96 Island.reset
  mgr := Manager.reset
  net := []
  idle := []
  inputs := []
  cur := 0
  nextId := 0
  fresh := 0

end Sys2Proof.Machine
end

