-- ==== Sys2Proof/Machine/Bits.lean ====
section
/-! DEFINITION. Helpers on plain data that every later file uses: association lists with rising keys, vectors rebuilt from
lists, little-endian bytes (R2), sign extension and the saturations of R35 and R102. -/

namespace Sys2Proof.Machine

/-! ## Association lists with rising keys -/

/-- The entry with key `k`. -/
def aget {α : Type} (k : Nat) : List (Nat × α) → Option α
  | [] => none
  | (i, a) :: l => if k = i then some a else aget k l

/-- The list with key `k` set, keys kept rising. -/
def aset {α : Type} (k : Nat) (a : α) : List (Nat × α) → List (Nat × α)
  | [] => [(k, a)]
  | (i, b) :: l =>
    if k < i then (k, a) :: (i, b) :: l
    else if k = i then (k, a) :: l
    else (i, b) :: aset k a l

/-- The list without key `k`. -/
def adel {α : Type} (k : Nat) : List (Nat × α) → List (Nat × α)
  | [] => []
  | (i, b) :: l => if k = i then l else (i, b) :: adel k l

/-- The entry with key `k` changed by `f`, when there is one. -/
def amod {α : Type} (k : Nat) (f : α → α) : List (Nat × α) → List (Nat × α)
  | [] => []
  | (i, b) :: l => if k = i then (i, f b) :: l else (i, b) :: amod k f l

/-- The least index below `n` that the list does not hold. -/
def afree {α : Type} (n : Nat) (l : List (Nat × α)) : Option Nat :=
  (List.range n).find? fun i => (aget i l).isNone

/-! ## Vectors -/

/-- The vector of `f 0 .. f (n-1)`. -/
def vgen {α : Type} {n : Nat} (f : Fin n → α) : Vector α n :=
  ⟨((List.finRange n).map f).toArray, by simp⟩

def vmap {α β : Type} {n : Nat} (f : α → β) (v : Vector α n) : Vector β n :=
  ⟨(v.toList.map f).toArray, by simp⟩

/-- The element at `i`, or `d` beyond the end. -/
def vat {α : Type} {n : Nat} (v : Vector α n) (i : Nat) (d : α) : α :=
  v.toList.getD i d

/-- Threads a state through the indices of a vector in increasing order. -/
def vfoldGen {α σ : Type} {n : Nat} (f : Fin n → σ → α × σ) (s : σ) : Vector α n × σ :=
  let go := (List.finRange n).foldl (fun (acc : List α × σ) i => let (a, t) := f i acc.2; (a :: acc.1, t)) ([], s)
  if h : go.1.reverse.length = n then (⟨go.1.reverse.toArray, by simpa using h⟩, go.2)
  else
    -- never taken: the fold adds one element for each index
    (vgen fun i => (f i s).1, s)

/-! ## Bytes -/

/-- The low `n` bytes of `v`, lowest first (R2). -/
def bytesLE : Nat → Nat → List Byte
  | 0, _ => []
  | n + 1, v => BitVec.ofNat 8 v :: bytesLE n (v / 256)

/-- The number that bytes hold, lowest first. -/
def ofBytes : List Byte → Nat
  | [] => 0
  | b :: l => b.toNat + 256 * ofBytes l

/-- The list padded with zero bytes, or cut, to length `n`. -/
def fitBytes (n : Nat) (l : List Byte) : List Byte :=
  l.take n ++ List.replicate (n - l.length) 0

/-! ## Numbers -/

/-- Bits [lo + len - 1 : lo] as a number. -/
def bits {w : Nat} (v : BitVec w) (lo len : Nat) : Nat :=
  (v.extractLsb' lo len).toNat

/-- `v` with bits [lo + len - 1 : lo] replaced. -/
def putBits {w : Nat} (v : BitVec w) (lo len : Nat) (x : Nat) : BitVec w :=
  let m : BitVec w := BitVec.ofNat w (2 ^ len - 1) <<< lo
  (v &&& ~~~m) ||| ((BitVec.ofNat w x <<< lo) &&& m)

/-- Sign extension of the low `n` bits to 64. -/
def sextTo64 (n : Nat) (v : Word) : Word := (v.setWidth n).signExtend 64

/-- Clamp of an exact value to signed `w` bits, and whether it clamped (R35, R102). -/
def satSigned (w : Nat) (v : Int) : BitVec w × Bool :=
  if v < -(2 ^ (w - 1) : Int) then (BitVec.ofInt w (-(2 ^ (w - 1) : Int)), true)
  else if v > 2 ^ (w - 1) - 1 then (BitVec.ofInt w (2 ^ (w - 1) - 1), true)
  else (BitVec.ofInt w v, false)

/-- Number of significant bits. -/
def bitLen (n : Nat) : Nat := if n = 0 then 0 else n.log2 + 1

/-- Integer square root by bits, `k` the number of result bits to try. -/
def isqrtBits : Nat → Nat → Nat → Nat
  | 0, _, r => r
  | k + 1, n, r =>
    let c := r + 2 ^ k
    isqrtBits k n (if c * c ≤ n then c else r)

def isqrt (n : Nat) : Nat := isqrtBits (n.log2 / 2 + 1) n 0

/-- Ceiling division. -/
def cdiv (a b : Nat) : Nat := (a + b - 1) / b

end Sys2Proof.Machine
end

