-- ==== Sys2Proof/Machine/Fp.lean ====
section
/-! DEFINITION. Floating point (R36 to R42) on exact values, and the random-number mixer (R57, R58). -/

namespace Sys2Proof.Machine

/-- An exact value: NaN, an infinity, or ±m·2^e with the sign kept on zero. A value between two representable ones that has
no finite expansion here is held with an odd last bit far below any rounding position. -/
inductive Num where
  | nan
  | inf (neg : Bool)
  | fin (neg : Bool) (m : Nat) (e : Int)
  deriving DecidableEq, Repr

/-- The rounding modes of R39 after DYN is resolved. -/
inductive RMode where
  | rne | rtz | rdn | rup | sr
  deriving DecidableEq, Repr

/-- A binary format (R36): precision, exponent of the smallest normal, and magnitude bits of the largest finite value, of
infinity when there is one, and of the canonical NaN. -/
structure FpFmt where
  p : Nat
  emin : Int
  width : Nat
  maxBits : Nat
  infBits : Option Nat
  nanBits : Nat
  deriving DecidableEq, Repr

def fp32 : FpFmt := ⟨24, -126, 32, 0x7F7FFFFF, some 0x7F800000, 0x7FC00000⟩
def bf16 : FpFmt := ⟨8, -126, 16, 0x7F7F, some 0x7F80, 0x7FC0⟩
def e4m3 : FpFmt := ⟨4, -6, 8, 0x7E, none, 0x7F⟩
def e5m2 : FpFmt := ⟨3, -14, 8, 0x7B, some 0x7C, 0x7E⟩

/-! ## Flags (R98) and the generator (R57) -/

def flagNX : BitVec 6 := 1
def flagUF : BitVec 6 := 2
def flagOF : BitVec 6 := 4
def flagDZ : BitVec 6 := 8
def flagNV : BitVec 6 := 16
def flagSAT : BitVec 6 := 32

/-- Rng32 (R57): the value and the generator after it. -/
def Rng.next (g : Rng) : Lane × Rng :=
  if g.mode.extractLsb' 0 2 = 1#2 then
    let pos := g.mode.extractLsb' 2 2
    let e : Lane := match pos.toNat with
      | 0 => g.key.extractLsb' 0 32
      | 1 => g.key.extractLsb' 32 32
      | 2 => g.ctr.extractLsb' 0 32
      | _ => g.ctr.extractLsb' 32 32
    (e, { g with mode := (pos + 1) ++ (1#2) })
  else
    let z := g.ctr ^^^ g.key
    let z := z * 0xD6E8FEB86659FD93
    let z := z ^^^ (z >>> 32)
    let z := z * 0xA3B195354A39B70D
    let z := z ^^^ (z >>> 29)
    let z := (z + g.key) * 0x8F3A6C1D52E4B97B
    let z := z ^^^ (z >>> 32)
    (z.extractLsb' 0 32, { g with ctr := g.ctr + 1 })

/-- The generator and the flags that an instruction threads through its elements (R42, R58). -/
structure Fx where
  rng : Rng
  flags : BitVec 6
  deriving DecidableEq, Repr

def Fx.raise (x : Fx) (f : BitVec 6) : Fx := { x with flags := x.flags ||| f }

/-- The r of R41: taken from the generator under SR, whatever the value; 0 in the other modes. -/
def Fx.draw (x : Fx) (rm : RMode) : Nat × Fx :=
  match rm with
  | .sr => let (v, g) := x.rng.next; (bits v 0 16, { x with rng := g })
  | _ => (0, x)

/-! ## Encodings -/

/-- Exponent of the least bit of the subnormals. -/
def FpFmt.qmin (f : FpFmt) : Int := f.emin - (f.p - 1 : Nat)

/-- The value of an encoding (R36, R37). -/
def Num.ofBits (f : FpFmt) (w : Nat) : Num :=
  let neg := w / 2 ^ (f.width - 1) % 2 = 1
  let b := w % 2 ^ (f.width - 1)
  let isNan := match f.infBits with
    | some i => decide (i < b)
    | none => decide (b = f.nanBits)
  if isNan then .nan
  else if f.infBits = some b then .inf neg
  else
    let ex := b / 2 ^ (f.p - 1)
    let fr := b % 2 ^ (f.p - 1)
    if ex = 0 then .fin neg fr f.qmin else .fin neg (fr + 2 ^ (f.p - 1)) (f.qmin + (ex - 1 : Nat))

/-- The sign bit of a format. -/
def FpFmt.sign (f : FpFmt) (neg : Bool) : Nat := if neg then 2 ^ (f.width - 1) else 0

def FpFmt.zero (f : FpFmt) (neg : Bool) : Nat := f.sign neg
def FpFmt.maxFinite (f : FpFmt) (neg : Bool) : Nat := f.sign neg + f.maxBits

/-- ±∞, which E4M3 does not have: there the NaN code with the sign (R37). -/
def FpFmt.infinity (f : FpFmt) (neg : Bool) : Nat := f.sign neg + f.infBits.getD f.nanBits

/-! ## Rounding (R40, R41) -/

/-- m·2^e as a multiple of 2^q by a mode, with R41's r, and whether it is inexact. -/
def roundAt (m : Nat) (e q : Int) (neg : Bool) (rm : RMode) (r : Nat) : Nat × Bool :=
  if e ≥ q then (m * 2 ^ (e - q).toNat, false)
  else
    let sh := (q - e).toNat
    let n := m / 2 ^ sh
    let rem := m % 2 ^ sh
    let half := 2 ^ (sh - 1)
    let up := match rm with
      | .rne => decide (half < rem) || (decide (rem = half) && decide (n % 2 = 1))
      | .rtz => false
      | .rdn => neg && decide (rem ≠ 0)
      | .rup => !neg && decide (rem ≠ 0)
      | .sr => decide (2 ^ 16 ≤ rem * 2 ^ 16 / 2 ^ sh + r)
    (if up then n + 1 else n, decide (rem ≠ 0))

/-- The overflow result of a mode (R40); `big`: |v| exceeds the largest finite value. -/
def overflowResult (f : FpFmt) (neg : Bool) (rm : RMode) (big : Bool) : Nat :=
  let toInf := match rm with
    | .rne => true
    | .rtz => false
    | .rdn => neg
    | .rup => !neg
    | .sr => big
  if toInf then f.infinity neg else f.maxFinite neg

/-- Overflow of a finite value (R40). -/
def overflow (f : FpFmt) (neg : Bool) (rm : RMode) (sat big : Bool) : Nat × BitVec 6 :=
  if f.width = 8 && sat then (f.maxFinite neg, flagSAT ||| flagNX)
  else if f.infBits.isNone then (f.infinity neg, flagOF ||| flagNX)
  else (overflowResult f neg rm big, flagOF ||| flagNX)

/-- Round of a finite non-zero value. -/
def roundFin (f : FpFmt) (neg : Bool) (m : Nat) (e : Int) (rm : RMode) (sat : Bool) (r : Nat) : Nat × BitVec 6 :=
  let top : Int := e + (m.log2 : Nat)
  let qU := top - (f.p - 1 : Nat)
  let q := if qU < f.qmin then f.qmin else qU
  let (n, inexact) := roundAt m e q neg rm r
  let mag := n + (q - f.qmin).toNat * 2 ^ (f.p - 1)
  if f.maxBits < mag then
    let (t, _) := roundAt m e q neg .rtz 0
    let big := decide (f.maxBits < t + (q - f.qmin).toNat * 2 ^ (f.p - 1))
      || (decide (t + (q - f.qmin).toNat * 2 ^ (f.p - 1) = f.maxBits) && inexact)
    overflow f neg rm sat big
  else
    let (nU, _) := roundAt m e qU neg rm r
    let tiny := decide (top < f.emin) && !(decide (top = f.emin - 1) && decide (nU = 2 ^ f.p))
    (f.sign neg + mag, if inexact then (if tiny then flagUF ||| flagNX else flagNX) else 0)

/-- Round(v, fmt, rm, sat) of R40 and R41. Under SR it takes one value of the generator whatever v is. -/
def round (f : FpFmt) (v : Num) (rm : RMode) (sat : Bool) (x : Fx) : Nat × Fx :=
  let (r, x) := x.draw rm
  match v with
  | .nan => (f.nanBits, x)
  | .inf neg =>
    if f.infBits.isNone then
      if sat then (f.maxFinite neg, x.raise flagSAT) else (f.infinity neg, x.raise flagNV)
    else (f.infinity neg, x)
  | .fin neg m e =>
    if m = 0 then (f.zero neg, x)
    else
      let (b, fl) := roundFin f neg m e rm sat r
      (b, x.raise fl)

/-- RoundInt of a finite value (R45): the integer and NX; other values give 0 (their users treat them before). -/
def roundInt (v : Num) (rm : RMode) (x : Fx) : Int × Fx :=
  let (r, x) := x.draw rm
  match v with
  | .fin neg m e =>
    let (n, inexact) := roundAt m e 0 neg rm r
    ((if neg then -(n : Int) else (n : Int)), if inexact then x.raise flagNX else x)
  | _ => (0, x)

/-- Conversion to a signed integer of `w` bits (R40): clamped with NV alone (log 8); NaN gives 0 with NV. -/
def roundToInt (w : Nat) (v : Num) (rm : RMode) (x : Fx) : Int × Fx :=
  let lo : Int := -(2 ^ (w - 1) : Int)
  let hi : Int := 2 ^ (w - 1) - 1
  match v with
  | .nan => let (_, y) := x.draw rm; (0, y.raise flagNV)
  | .inf neg => let (_, y) := x.draw rm; (if neg then lo else hi, y.raise flagNV)
  | .fin _ _ _ =>
    let (n, y) := roundInt v rm { x with flags := 0 }
    if n < lo then (lo, { rng := y.rng, flags := x.flags ||| flagNV })
    else if hi < n then (hi, { rng := y.rng, flags := x.flags ||| flagNV })
    else (n, { rng := y.rng, flags := x.flags ||| y.flags })

/-! ## Exact operations; the second component is NV or DZ (R40) -/

/-- The exact value of an integer. -/
def Num.ofInt (i : Int) : Num := .fin (decide (i < 0)) i.natAbs 0

def Num.neg : Num → Num
  | .nan => .nan
  | .inf s => .inf !s
  | .fin s m e => .fin (!s) m e

def Num.abs : Num → Num
  | .nan => .nan
  | .inf _ => .inf false
  | .fin _ m e => .fin false m e

/-- ±m·2^e in units of 2^q, for q ≤ e. -/
def scaled (neg : Bool) (m : Nat) (e q : Int) : Int :=
  let v : Int := ((m * 2 ^ (e - q).toNat : Nat) : Int)
  if neg then -v else v

/-- Sum; an exact zero is +0, or −0 under RDN, unless both operands are zeros of one sign. -/
def Num.add (a b : Num) (rm : RMode) : Num × BitVec 6 :=
  match a, b with
  | .nan, _ => (.nan, 0)
  | _, .nan => (.nan, 0)
  | .inf s, .inf t => if s = t then (.inf s, 0) else (.nan, flagNV)
  | .inf s, .fin _ _ _ => (.inf s, 0)
  | .fin _ _ _, .inf t => (.inf t, 0)
  | .fin s m e, .fin t n f =>
    let q := if e ≤ f then e else f
    let v := scaled s m e q + scaled t n f q
    if v = 0 then
      if m = 0 && n = 0 && s = t then (.fin s 0 0, 0) else (.fin (rm = .rdn) 0 0, 0)
    else (.fin (decide (v < 0)) v.natAbs q, 0)

def Num.mul (a b : Num) : Num × BitVec 6 :=
  match a, b with
  | .nan, _ => (.nan, 0)
  | _, .nan => (.nan, 0)
  | .inf s, .inf t => (.inf (s != t), 0)
  | .inf s, .fin t n _ => if n = 0 then (.nan, flagNV) else (.inf (s != t), 0)
  | .fin s m _, .inf t => if m = 0 then (.nan, flagNV) else (.inf (s != t), 0)
  | .fin s m e, .fin t n f => (.fin (s != t) (m * n) (e + f), 0)

/-- a × b + c, exact. -/
def Num.fma (a b c : Num) (rm : RMode) : Num × BitVec 6 :=
  let (p, f1) := a.mul b
  let (v, f2) := p.add c rm
  (v, f1 ||| f2)

/-- Quotient, with an odd last bit when the division leaves a remainder. -/
def Num.div (a b : Num) : Num × BitVec 6 :=
  match a, b with
  | .nan, _ => (.nan, 0)
  | _, .nan => (.nan, 0)
  | .inf _, .inf _ => (.nan, flagNV)
  | .inf s, .fin t _ _ => (.inf (s != t), 0)
  | .fin s _ _, .inf t => (.fin (s != t) 0 0, 0)
  | .fin s m e, .fin t n f =>
    if n = 0 then
      if m = 0 then (.nan, flagNV) else (.inf (s != t), flagDZ)
    else if m = 0 then (.fin (s != t) 0 0, 0)
    else
      let k := 96 + bitLen n
      let q := m * 2 ^ k / n
      let odd := if m * 2 ^ k % n = 0 then 0 else 1
      (.fin (s != t) (2 * q + odd) (e - f - (k : Nat) - 1), 0)

/-- Square root, with an odd last bit when it is irrational. -/
def Num.sqrt (a : Num) : Num × BitVec 6 :=
  match a with
  | .nan => (.nan, 0)
  | .inf s => if s then (.nan, flagNV) else (.inf false, 0)
  | .fin s m e =>
    if m = 0 then (.fin s 0 0, 0)
    else if s then (.nan, flagNV)
    else
      let m := if e % 2 = 0 then m else 2 * m
      let e := if e % 2 = 0 then e else e - 1
      let big := m * 2 ^ 192
      let r := isqrt big
      (.fin false (2 * r + (if r * r = big then 0 else 1)) ((e - 192) / 2 - 1), 0)

/-- −1, 0 or 1 for less, equal, greater; none when a NaN takes part. −0 equals +0. -/
def Num.cmp (a b : Num) : Option Int :=
  let rank : Num → Int := fun
    | .inf true => -1
    | .inf false => 1
    | _ => 0
  match a, b with
  | .nan, _ => none
  | _, .nan => none
  | .fin s m e, .fin t n f =>
    let q := if e ≤ f then e else f
    some (scaled s m e q - scaled t n f q).sign
  | a, b => some (rank a - rank b).sign

def Num.isNan : Num → Bool
  | .nan => true
  | _ => false

/-- Whether an encoding has its sign bit set. -/
def FpFmt.isNeg (f : FpFmt) (w : Nat) : Bool := decide (w / 2 ^ (f.width - 1) % 2 = 1)

/-- MIN and MAX (R38): NaN if either operand is NaN; −0 below +0. -/
def fpMinMax (f : FpFmt) (isMax : Bool) (a b : Nat) : Nat :=
  match (Num.ofBits f a).cmp (Num.ofBits f b) with
  | none => f.nanBits
  | some c =>
    let aLess := decide (c < 0) || (decide (c = 0) && f.isNeg a && !f.isNeg b)
    if aLess != isMax then a else b

/-- ABS and NEG: NaN gives the canonical NaN (R37, R109). -/
def fpAbs (f : FpFmt) (a : Nat) : Nat :=
  if (Num.ofBits f a).isNan then f.nanBits else a % 2 ^ (f.width - 1)

def fpNeg (f : FpFmt) (a : Nat) : Nat :=
  if (Num.ofBits f a).isNan then f.nanBits
  else f.sign (!f.isNeg a) + a % 2 ^ (f.width - 1)

/-! ## Rounded operations on encodings (R38): one rounding, the flags of the operation and of the rounding -/

def fpAdd (f : FpFmt) (a b : Nat) (rm : RMode) (sat : Bool) (x : Fx) : Nat × Fx :=
  let (v, fl) := (Num.ofBits f a).add (Num.ofBits f b) rm
  round f v rm sat (x.raise fl)

def fpSub (f : FpFmt) (a b : Nat) (rm : RMode) (sat : Bool) (x : Fx) : Nat × Fx :=
  let (v, fl) := (Num.ofBits f a).add (Num.ofBits f b).neg rm
  round f v rm sat (x.raise fl)

def fpMul (f : FpFmt) (a b : Nat) (rm : RMode) (sat : Bool) (x : Fx) : Nat × Fx :=
  let (v, fl) := (Num.ofBits f a).mul (Num.ofBits f b)
  round f v rm sat (x.raise fl)

/-- ±(a × b) ± d with one rounding. -/
def fpFma (f : FpFmt) (negProd negAdd : Bool) (a b d : Nat) (rm : RMode) (sat : Bool) (x : Fx) : Nat × Fx :=
  let (p, f1) := (Num.ofBits f a).mul (Num.ofBits f b)
  let p := if negProd then p.neg else p
  let c := if negAdd then (Num.ofBits f d).neg else Num.ofBits f d
  let (v, f2) := p.add c rm
  round f v rm sat (x.raise (f1 ||| f2))

def fpDiv (f : FpFmt) (a b : Nat) (rm : RMode) (sat : Bool) (x : Fx) : Nat × Fx :=
  let (v, fl) := (Num.ofBits f a).div (Num.ofBits f b)
  round f v rm sat (x.raise fl)

def fpSqrt (f : FpFmt) (a : Nat) (rm : RMode) (x : Fx) : Nat × Fx :=
  let (v, fl) := (Num.ofBits f a).sqrt
  round f v rm false (x.raise fl)

/-- Conversion between formats. -/
def fpConv (src dst : FpFmt) (a : Nat) (rm : RMode) (sat : Bool) (x : Fx) : Nat × Fx :=
  round dst (Num.ofBits src a) rm sat x

/-- The class bit of FCLASS (R111). -/
def fpClass (a : Nat) : Nat :=
  let neg := fp32.isNeg a
  match Num.ofBits fp32 a with
  | .nan => 256
  | .inf _ => if neg then 1 else 128
  | .fin _ m _ =>
    if m = 0 then (if neg then 8 else 16)
    else if m < 2 ^ 23 then (if neg then 4 else 32)
    else (if neg then 2 else 64)

end Sys2Proof.Machine
end

