-- ==== Sys2Proof/Machine/Transc.lean ====
section
/-! DEFINITION. The functions of the special-function unit (R150, R151) as correctly rounded values: fixed-point series with a
stated error bound, tried at rising precision until the bound decides every bit that a rounding of R40 or R41 can see. -/

namespace Sys2Proof.Machine

/-! ## Series in fixed point: a value v is held as v·2^p, each operation within one unit -/

/-- Σ ± z^(2i+1) / (2i+1), i from 0: atan z when `alt`, else atanh z; `t` is the running power, `z2` is z². -/
def atanSeries (alt : Bool) (p : Nat) (z2 : Int) : Nat → Nat → Int → Int → Int
  | 0, _, _, acc => acc
  | k + 1, i, t, acc =>
    let d := t / ((2 * i + 1 : Nat) : Int)
    atanSeries alt p z2 k (i + 1) (t * z2 / 2 ^ p) (if alt && i % 2 = 1 then acc - d else acc + d)

/-- Σ r^i / i! from term `i` on. -/
def expSeries (p : Nat) (r : Int) : Nat → Nat → Int → Int → Int
  | 0, _, _, acc => acc
  | k + 1, i, t, acc => expSeries p r k (i + 1) (t * r / 2 ^ p / ((i + 1 : Nat) : Int)) (acc + t)

/-- Σ (−1)^i t_i with t_{i+1} = t_i · r2 / ((j+1)(j+2)), j rising by 2: sine from j = 1, cosine from j = 0. -/
def sinSeries (p : Nat) (r2 : Int) : Nat → Nat → Int → Int → Int
  | 0, _, _, acc => acc
  | k + 1, j, t, acc => sinSeries p r2 k (j + 2) (-(t * r2 / 2 ^ p) / (((j + 1) * (j + 2) : Nat) : Int)) (acc + t)

/-- Σ (−1)^i x2^i / (i! (2i+1)). -/
def erfSeries (p : Nat) (x2 : Int) : Nat → Nat → Int → Int → Int
  | 0, _, _, acc => acc
  | k + 1, i, t, acc =>
    erfSeries p x2 k (i + 1) (-(t * x2 / 2 ^ p) / ((i + 1 : Nat) : Int)) (acc + t / ((2 * i + 1 : Nat) : Int))

/-- atanh or atan of 1/n. -/
def atanInv (alt : Bool) (p n : Nat) : Int :=
  let z : Int := 2 ^ p / (n : Int)
  atanSeries alt p (z * z / 2 ^ p) (p / 2) 0 z 0

def ln2Fix (p : Nat) : Int := 2 * atanInv false p 3
def piFix (p : Nat) : Int := 16 * atanInv true p 5 - 4 * atanInv true p 239

/-- ±m·2^e in fixed point, rounded down. -/
def toFix (p : Nat) (neg : Bool) (m : Nat) (e : Int) : Int :=
  let s := e + (p : Nat)
  let v : Int := if 0 ≤ s then ((m * 2 ^ s.toNat : Nat) : Int) else ((m / 2 ^ (-s).toNat : Nat) : Int)
  if neg then -v else v

/-- e^x for x in fixed point: a fixed-point mantissa near 1 and a binary exponent. -/
def expFix (p : Nat) (x : Int) : Int × Int :=
  let l := ln2Fix p
  let k := (2 * x + l) / (2 * l)
  (expSeries p (x - k * l) (p / 2) 0 (2 ^ p) 0, k)

/-- ln (m·2^e) for m > 0. -/
def lnFix (p : Nat) (m : Nat) (e : Int) : Int :=
  let b := m.log2
  -- y = m / 2^b in [1, 2), halved when above 1.5
  let up := decide (3 * 2 ^ b < 2 * m)
  let d : Int := ((2 ^ (if up then b + 1 else b) : Nat) : Int)
  let k : Int := e + ((if up then b + 1 else b : Nat) : Int)
  let z := ((m : Int) - d) * 2 ^ p / ((m : Int) + d)
  k * ln2Fix p + 2 * atanSeries false p (z * z / 2 ^ p) (p / 2) 0 z 0

/-! ## From a bounded approximation to a value with all its visible bits -/

/-- The error bound of every evaluation below, in units of the last place. -/
def fixErr : Int := 2 ^ 32

/-- The value lies strictly within (a ± fixErr)·2^s: its leading 64 bits, when the bound decides them. -/
def settle (neg : Bool) (a s : Int) : Option Num :=
  let lo := (a - fixErr).toNat
  let hi := (a + fixErr).toNat
  if lo.log2 < 64 then none
  else
    let g := lo.log2 - 63
    if lo / 2 ^ g = hi / 2 ^ g then some (.fin neg (2 * (lo / 2 ^ g) + 1) (s + (g : Nat) - 1)) else none

/-- Just above and just below a value ±m·2^e, by less than any rounding of FP32 can see; a value so small that only its
sign and its being non-zero count; one beyond every finite FP32 value. -/
def justAbove (neg : Bool) (m : Nat) (e : Int) : Num := .fin neg (m * 2 ^ 80 + 1) (e - 80)
def justBelow (neg : Bool) (m : Nat) (e : Int) : Num := .fin neg (m * 2 ^ 80 - 1) (e - 80)
def vanishing : Num := .fin false 1 (-400)
def enormous : Num := .fin false 1 400

/-- Whether m·2^e < 2^k. -/
def below2 (m : Nat) (e k : Int) : Bool := decide (e + ((bitLen m : Nat) : Int) ≤ k)
/-- Whether m·2^e ≥ n, for a small natural n. -/
def atLeast (m : Nat) (e : Int) (n : Nat) : Bool :=
  if 0 ≤ e then decide (n ≤ m * 2 ^ (min e 200).toNat) else decide (n * 2 ^ (-e).toNat ≤ m)

/-- One approximation at precision p for a finite non-zero x = ±m·2^e: a sign, and a value within fixErr of a multiple of a power
of two. -/
def approx (fn : SfuFn) (p : Nat) (neg : Bool) (m : Nat) (e : Int) : Bool × Int × Int :=
  let x := toFix p neg m e
  let one : Int := 2 ^ p
  match fn with
  | .exp => let (a, k) := expFix p x; (false, a, k - (p : Nat))
  | .exp2 =>
    let k := (2 * x + one) / (2 * one)
    let a := expSeries p ((x - k * one) * ln2Fix p / one) (p / 2) 0 one 0
    (false, a, k - (p : Nat))
  | .log => let l := lnFix p m e; (decide (l < 0), (l.natAbs : Int), -(p : Nat))
  | .log2 =>
    let l := lnFix p m e * one / ln2Fix p
    (decide (l < 0), (l.natAbs : Int), -(p : Nat))
  | .tanh =>
    let (a, k) := expFix p (toFix p false m (e + 1))
    let u := a * 2 ^ k.toNat
    (neg, (u - one) * one / (u + one), -(p : Nat))
  | .sigm =>
    -- with w = e^(-|x|): 1/(1+w), or w/(1+w) for a negative x; w = 2^(p+k')/u
    let (a, k) := expFix p (toFix p false m e)
    let u := a * 2 ^ k.toNat
    if neg then (false, one * one * 2 ^ k.toNat / (u + one), -(p : Nat) - k)
    else (false, u * one / (u + one), -(p : Nat))
  | .erf =>
    -- 128 more bits inside, since the terms of the series reach e^36
    let w := p + 128
    let xw := toFix w neg m e
    let y := erfSeries w (xw * xw / 2 ^ w) w 0 (2 ^ w) 0 / 2 ^ 128
    -- 2/sqrt(pi): sqrt(pi)·2^p = isqrt(pi·2^p·2^p)
    let sp : Int := ((isqrt (piFix p * one).toNat : Nat) : Int)
    (neg, ((m : Int) * (2 * y * one / sp)), e - (p : Nat))
  | .sin | .cos =>
    -- reduction by quarter turns, with room for the largest FP32 exponent
    let w := p + 160
    let half := piFix w / 2
    let xw := toFix w neg m e
    let j := (2 * xw + half) / (2 * half)
    let r := (xw - j * half) / 2 ^ 160
    let q := (j + (if fn = .cos then 1 else 0)) % 4
    let r2 := r * r / one
    let v := if q % 2 = 0 then sinSeries p r2 (p / 2) 1 r 0 else sinSeries p r2 (p / 2) 0 one 0
    let v := if q ≥ 2 then -v else v
    (decide (v < 0), (v.natAbs : Int), -(p : Nat))
  | _ => (false, 0, 0)

/-- The attempts at rising precision. A value that 2,048 bits did not tell from a multiple of its 64th bit would be taken as
just above the approximation itself (log 7). -/
def transcSearch (fn : SfuFn) (neg : Bool) (m : Nat) (e : Int) : Num :=
  let at_ (p : Nat) : Option Num :=
    let r := approx fn p neg m e
    settle r.1 r.2.1 r.2.2
  match [192, 384, 1024, 2048].findSome? at_ with
  | some v => v
  | none =>
    let r := approx fn 2048 neg m e
    .fin r.1 (2 * r.2.1.toNat + 1) (r.2.2 - 1)

/-- The exact function value of a finite non-zero x, with every bit that FP32 rounding can see (R150); the exact cases of
R151 are exact. -/
def transc (fn : SfuFn) (neg : Bool) (m : Nat) (e : Int) : Num :=
  match fn with
  | .exp =>
    if below2 m e (-60) then (if neg then justBelow false 1 0 else justAbove false 1 0)
    else if atLeast m e 130 then (if neg then vanishing else enormous)
    else transcSearch fn neg m e
  | .exp2 =>
    if below2 m e (-60) then (if neg then justBelow false 1 0 else justAbove false 1 0)
    else if atLeast m e 200 then (if neg then vanishing else enormous)
    else if 0 ≤ e then
      let n : Int := ((m * 2 ^ e.toNat : Nat) : Int)
      .fin false 1 (if neg then -n else n)
    else if m % 2 ^ (-e).toNat = 0 then
      let n : Int := ((m / 2 ^ (-e).toNat : Nat) : Int)
      .fin false 1 (if neg then -n else n)
    else transcSearch fn neg m e
  | .log => if m = 2 ^ m.log2 && decide (e + ((m.log2 : Nat) : Int) = 0) then .fin false 0 0 else transcSearch fn neg m e
  | .log2 => if m = 2 ^ m.log2 then Num.ofInt (e + ((m.log2 : Nat) : Int)) else transcSearch fn neg m e
  | .tanh =>
    if below2 m e (-22) then justBelow neg m e
    else if atLeast m e 20 then justBelow neg 1 0
    else transcSearch fn neg m e
  | .sigm =>
    if below2 m e (-50) then (if neg then justBelow false 1 (-1) else justAbove false 1 (-1))
    else if atLeast m e 120 then (if neg then vanishing else justBelow false 1 0)
    else if atLeast m e 40 && !neg then justBelow false 1 0
    else transcSearch fn neg m e
  | .erf => if atLeast m e 6 then justBelow neg 1 0 else transcSearch fn neg m e
  | .sin => if below2 m e (-22) then justBelow neg m e else transcSearch fn neg m e
  | .cos => if below2 m e (-22) then justBelow false 1 0 else transcSearch fn neg m e
  | _ => .nan

/-- The value of a one-operand function with its special cases (R151); the second component is NV or DZ. -/
def sfuValue (fn : SfuFn) (a : Num) : Num × BitVec 6 :=
  match fn, a with
  | _, .nan => (.nan, 0)
  | .rcp, a => (Num.fin false 1 0).div a
  | .sqrt, a => a.sqrt
  | .exp, .inf s | .exp2, .inf s => (if s then .fin false 0 0 else .inf false, 0)
  | .log, .inf s | .log2, .inf s => if s then (.nan, flagNV) else (.inf false, 0)
  | .rsqrt, .inf s => if s then (.nan, flagNV) else (.fin false 0 0, 0)
  | .tanh, .inf s | .erf, .inf s => (.fin s 1 0, 0)
  | .sigm, .inf s => (if s then .fin false 0 0 else .fin false 1 0, 0)
  | .sin, .inf _ | .cos, .inf _ => (.nan, flagNV)
  | fn, .fin s m e =>
    if m = 0 then
      match fn with
      | .exp | .exp2 | .cos => (.fin false 1 0, 0)
      | .log | .log2 => (.inf true, flagDZ)
      | .rsqrt => (.inf s, flagDZ)
      | .sigm => (.fin false 1 (-1), 0)
      | _ => (.fin s 0 0, 0)
    else if s && (fn = .log || fn = .log2 || fn = .rsqrt) then (.nan, flagNV)
    else if fn = .rsqrt then
      let m := if e % 2 = 0 then m else 2 * m
      let e := if e % 2 = 0 then e else e - 1
      let k := 100 + bitLen m
      let q := 2 ^ (2 * k) / m
      let r := isqrt q
      (.fin false (2 * r + (if r * r * m = 2 ^ (2 * k) then 0 else 1)) (-(k : Nat) - e / 2 - 1), 0)
    else (transc fn s m e, 0)
  | _, _ => (.nan, 0)

/-- Exp of R56: e^y correctly rounded to FP32 by RNE, on encodings, with its flags. -/
def expRne (y : Nat) (x : Fx) : Nat × Fx :=
  round fp32 (sfuValue .exp (Num.ofBits fp32 y)).1 .rne false x

end Sys2Proof.Machine
end

