-- ==== Sys2Proof/Machine/Block.lean ====
section
/-! DEFINITION. Block floating point (R43 to R49), BA32 blocks and BAAdd (R50), tree reduction (R54) and draw records (R56). -/

namespace Sys2Proof.Machine

/-! ## QB blocks -/

/-- Mantissa width of QB8 and QB4. -/
def qbWidth (is8 : Bool) : Nat := if is8 then 8 else 4

/-- The signed low `w` bits of a lane. -/
def lowSigned (w : Nat) (l : Lane) : Int := (l.setWidth w).toInt

/-- μ of the pair of element i (R43). -/
def headerMu (h : Word) (i : Nat) : Nat := if h.getLsbD (8 + i / 2) then 1 else 0

/-- Qval as an exact value, for a block whose class is normal or zero; NaN otherwise (R43). -/
def qval (h : Word) (m : Int) (i w : Nat) : Num :=
  match bits h 40 2 with
  | 1 => .fin false 0 0
  | 0 => .fin (decide (m < 0)) m.natAbs ((bits h 0 8 : Nat) - 127 - (headerMu h i : Nat) - ((w - 1 : Nat) : Int))
  | _ => .nan

/-- The exact value of |x| below 2^k. -/
def numBelow (x : Num) (k : Int) : Bool :=
  match x with
  | .fin _ m e => m = 0 || below2 m e k
  | _ => false

/-- m·2^e lies below one half. -/
def belowHalf (m : Nat) (e : Int) : Bool := if 0 ≤ e + 1 then m == 0 else decide (m < 2 ^ (-(e + 1)).toNat)

/-- One element of Quantise: the scaled value rounded and clamped; UF when a non-zero element below half of one unit becomes zero
with E = 0 (R45). -/
def quantElem (v : Num) (k : Int) (lim : Int) (e0 : Bool) (rm : RMode) (x : Fx) : Int × Fx :=
  match v with
  | .fin s m e =>
    let (q, x) := roundInt (.fin s m (e + k)) rm x
    let (q, x) := if lim < q then (lim, x.raise flagNX) else if q < -lim then (-lim, x.raise flagNX) else (q, x)
    (q, if q = 0 && m ≠ 0 && e0 && belowHalf m (e + k) then x.raise flagUF else x)
  | _ => let (_, x) := x.draw rm; (0, x)

/-- Exponent of the largest magnitude: floor(log2 a), none when every value is zero. -/
def maxLog2 (xs : List Num) : Option Int :=
  xs.foldl (fun acc v => match v with
    | .fin _ m e =>
      if m = 0 then acc
      else
        let t := e + ((m.log2 : Nat) : Int)
        match acc with
        | none => some t
        | some u => some (if u < t then t else u)
    | _ => acc) none

/-- Quantise (R45) of 64 exact values: header and lanes. Under SR it takes 64 values whatever it returns. -/
def quantiseNum (vs : List Num) (w : Nat) (rm : RMode) (x : Fx) : VReg × Fx :=
  let burn (x : Fx) : Fx := vs.foldl (fun y _ => (y.draw rm).2) x
  let finite := vs.all fun v => match v with
    | .fin _ _ _ => true
    | _ => false
  if !finite then (⟨Vector.replicate 64 0, 0x20000000000⟩, (burn x).raise flagNV)
  else
    match maxLog2 vs with
    | none => (⟨Vector.replicate 64 0, 0x10000000000⟩, burn x)
    | some t =>
      let e0 := t + 128
      let x := if 255 < e0 then x.raise flagSAT else x
      let e : Int := if 255 < e0 then 255 else if e0 < 0 then 0 else e0
      let lim : Int := 2 ^ (w - 1) - 1
      let mu (j : Nat) : Bool :=
        numBelow (vs.getD (2 * j) .nan) (e - 128) && numBelow (vs.getD (2 * j + 1) .nan) (e - 128)
      let (lanes, x) := vfoldGen (n := 64) (fun i x =>
        let k : Int := 127 + (if mu (i.val / 2) then 1 else 0) + ((w - 1 : Nat) : Int) - e
        let (q, x) := quantElem (vs.getD i.val .nan) k lim (decide (e = 0)) rm x
        (BitVec.ofInt 32 q, x)) x
      let muBits : Nat := (List.range 32).foldl (fun acc j => if mu j then acc + 2 ^ j else acc) 0
      (⟨lanes, BitVec.ofNat 64 (e.toNat + muBits * 256)⟩, x)

/-- Quantise of 64 FP32 lanes. -/
def quantise (xs : List Lane) (w : Nat) (rm : RMode) (x : Fx) : VReg × Fx :=
  quantiseNum (xs.map fun l => Num.ofBits fp32 l.toNat) w rm x

/-- Dequantise of one element (R45): exact but for −2^128. -/
def dequantElem (h : Word) (l : Lane) (i w : Nat) (x : Fx) : Lane × Fx :=
  let x := if bits h 40 2 = 3 then x.raise flagNV else x
  let (r, x) := round fp32 (qval h (lowSigned w l) i w) .rne false x
  (BitVec.ofNat 32 r, x)

/-! ## BA32 blocks -/

/-- Classes of a block (R48). -/
inductive BaCls where
  | normal | zero | nan
  deriving DecidableEq, Repr

/-- A BA32 block with its contribution count. -/
structure Ba where
  lanes : List Int
  x : Int
  cls : BaCls
  cnt : Nat
  deriving DecidableEq, Repr

/-- Class codes: 11 is consumed as NaN (R48, R146). -/
def BaCls.ofCode (c : Nat) : BaCls :=
  match c with
  | 0 => .normal
  | 1 => .zero
  | _ => .nan

def BaCls.code : BaCls → Nat
  | .normal => 0
  | .zero => 1
  | .nan => 2

def Ba.nanBlock (cnt : Nat) : Ba := ⟨List.replicate 64 0, 0, .nan, cnt⟩

/-- The block a vector register holds (R146). -/
def Ba.ofVec (v : VReg) : Ba :=
  ⟨v.lanes.toList.map BitVec.toInt, (v.header.extractLsb' 0 16).toInt, BaCls.ofCode (bits v.header 40 2),
    bits v.header 16 16⟩

/-- The register form of a block (R146). -/
def Ba.toVec (b : Ba) : VReg :=
  ⟨vgen fun i => BitVec.ofInt 32 (b.lanes.getD i.val 0),
    BitVec.ofNat 64 ((BitVec.ofInt 16 b.x).toNat + b.cnt * 2 ^ 16 + b.cls.code * 2 ^ 40)⟩

/-- The 272 bytes of a sill block (R48). -/
def Ba.ofSill (bs : List Byte) : Ba :=
  let lane (i : Nat) : Int := (BitVec.ofNat 32 (ofBytes ((bs.drop (4 * i)).take 4))).toInt
  let h := ofBytes ((bs.drop 256).take 16)
  ⟨(List.range 64).map lane, (BitVec.ofNat 16 h).toInt, BaCls.ofCode (h / 2 ^ 32 % 4), h / 2 ^ 16 % 2 ^ 16⟩

def Ba.toSill (b : Ba) : List Byte :=
  (b.lanes.flatMap fun l => bytesLE 4 (BitVec.ofInt 32 l).toNat)
    ++ bytesLE 16 ((BitVec.ofInt 16 b.x).toNat + b.cnt * 2 ^ 16 + b.cls.code * 2 ^ 32)

/-- QTOBA (R49, R147). -/
def qtoba (v : VReg) (w : Nat) (x : Fx) : Ba × Fx :=
  match bits v.header 40 2 with
  | 1 => (⟨List.replicate 64 0, 0, .zero, 1⟩, x)
  | 0 =>
    let lane (i : Nat) : Int := lowSigned w (vat v.lanes i 0) * 2 ^ (1 - headerMu v.header i)
    (⟨(List.range 64).map lane, (bits v.header 0 8 : Nat) - 127 - (w : Int), .normal, 1⟩, x)
  | c => (Ba.nanBlock 1, if c = 3 then x.raise flagNV else x)

/-- v·2^e rounded to a multiple of 2^q by RNE, and whether it is inexact. -/
def rneAt (v : Int) (e q : Int) : Int × Bool :=
  let (n, inexact) := roundAt v.natAbs e q false .rne 0
  (if v < 0 then -(n : Int) else (n : Int), inexact)

/-- The largest lane of a BA32 block. -/
def laneMax : Int := 2 ^ 31 - 1

/-- BAAdd (R50) of a target and an addend with per-lane exponents; `floor` is R52's. The flags NX and SAT are returned. -/
def baAdd (t a : Ba) (xa : Nat → Int) (floor : Option Int) : Ba × BitVec 6 :=
  let cnt := min (t.cnt + a.cnt) 0xFFFF
  if t.cls = .nan || a.cls = .nan then (Ba.nanBlock cnt, 0)
  else if a.cls = .zero then ({ t with cnt := cnt }, 0)
  else
    let tz := decide (t.cls = .zero)
    let lo0 : Int := if tz then -32768 else t.x
    let lo := match floor with
      | some f => if lo0 < f then f else lo0
      | none => lo0
    let e0 := (List.range 64).foldl (fun m i => if xa i < m then xa i else m) (if tz then xa 0 else t.x)
    let sums := (List.range 64).map fun i =>
      (if tz then 0 else t.lanes.getD i 0 * 2 ^ (t.x - e0).toNat) + a.lanes.getD i 0 * 2 ^ (xa i - e0).toNat
    let big := sums.foldl (fun m s => max m s.natAbs) 0
    let fit : Int := e0 + ((bitLen big : Nat) : Int) - 31
    let x1 := if big = 0 then lo else if lo < fit then fit else lo
    let x := if laneMax < (rneAt (big : Int) e0 x1).1 then x1 + 1 else x1
    let sat := decide (32767 < x)
    let x := if sat then 32767 else x
    let rounded := sums.map fun s => rneAt s e0 x
    let clamp (v : Int) : Int := if laneMax < v then laneMax else if v < -laneMax then -laneMax else v
    let lanes := rounded.map fun r => clamp r.1
    let nx := rounded.any fun r => r.2
    let cls := if tz && lanes.all (fun l => decide (l = 0)) then BaCls.zero else BaCls.normal
    (⟨lanes, x, cls, cnt⟩, (if nx then flagNX else 0) ||| (if sat then flagSAT else 0))

/-- BALIGN (R148): raises the exponent to `tx`, never lowers it. -/
def baAlign (v : Ba) (tx : Int) : Ba × BitVec 6 :=
  if v.cls = .normal && decide (v.x < tx) then
    let r := v.lanes.map fun l => rneAt l v.x tx
    ({ v with lanes := r.map fun p => p.1, x := tx }, if r.any (fun p => p.2) then flagNX else 0)
  else (v, 0)

/-! ## TreeReduce (R54) -/

/-- One level: pairs of neighbours; an absent child passes the other on. -/
def treeLevel {α σ : Type} (op : α → α → σ → α × σ) : List (Option α) → σ → List (Option α) × σ
  | [], s => ([], s)
  | [a], s => ([a], s)
  | a :: b :: l, s =>
    let (r, s) := match a, b with
      | some x, some y => let (z, s) := op x y s; (some z, s)
      | some x, none => (some x, s)
      | none, y => (y, s)
    let (rest, s) := treeLevel op l s
    (r :: rest, s)

/-- Six levels over 64 lanes; none when every lane is absent. -/
def treeReduce {α σ : Type} (op : α → α → σ → α × σ) (l : List (Option α)) (s : σ) : Option α × σ :=
  let (l, s) := (List.range 6).foldl (fun (acc : List (Option α) × σ) _ => treeLevel op acc.1 acc.2) (l, s)
  ((l.head?).join, s)

/-! ## Draw records (R56) -/

/-- A draw record; `s` and `m` are FP32 encodings. -/
structure DrawRec where
  cnt : Nat
  greedy : Bool
  invalid : Bool
  poison : Bool
  none : Bool
  s : Nat
  m : Nat
  idx : Nat
  deriving DecidableEq, Repr

def DrawRec.ofBits (w : BitVec 128) : DrawRec :=
  ⟨bits w 104 24, w.getLsbD 99, w.getLsbD 98, w.getLsbD 97, w.getLsbD 96, bits w 64 32, bits w 32 32, bits w 0 32⟩

def DrawRec.toBits (r : DrawRec) : BitVec 128 :=
  let f (b : Bool) (k : Nat) : Nat := if b then 2 ^ k else 0
  BitVec.ofNat 128 (r.idx + r.m * 2 ^ 32 + r.s * 2 ^ 64 + f r.none 96 + f r.poison 97 + f r.invalid 98 + f r.greedy 99
    + r.cnt * 2 ^ 104)

/-- Rec(flags, c). -/
def DrawRec.mark (greedy invalid poison none : Bool) (c : Nat) : DrawRec :=
  ⟨c, greedy, invalid, poison, none, 0, 0xFF800000, 0xFFFFFFFF⟩

/-- The flags a draw raises (R154). -/
def drawFlags : BitVec 6 := flagOF ||| flagUF ||| flagNX

/-- An operation whose flags are kept only as far as a draw raises them. -/
def drawOp (x : Fx) (f : Fx → Nat × Fx) : Nat × Fx :=
  let (v, y) := f { x with flags := 0 }
  (v, { rng := y.rng, flags := x.flags ||| (y.flags &&& drawFlags) })

/-- DrawLeaf of logit encoding `l`, index `i` and temperature encoding `t`. -/
def drawLeaf (l i t : Nat) (x : Fx) : DrawRec × Fx :=
  let tv := Num.ofBits fp32 t
  let lv := Num.ofBits fp32 l
  let tneg := match tv with
    | .nan => true
    | .inf s => s
    | .fin s m _ => s && decide (m ≠ 0)
  let tzero := match tv with
    | .fin _ m _ => decide (m = 0)
    | _ => false
  if tneg then (DrawRec.mark false true false false 1, x)
  else if tzero then
    if lv.isNan then (DrawRec.mark true false true false 1, x)
    else if lv = .inf true then (DrawRec.mark true false false true 1, x)
    else (⟨1, true, false, false, false, 0x3F800000, l, i⟩, x)
  else
    let (z, x) := drawOp x (fpDiv fp32 l t .rne false)
    let zv := Num.ofBits fp32 z
    if zv.isNan then (DrawRec.mark false false true false 1, x)
    else if zv = .inf true then (DrawRec.mark false false false true 1, x)
    else (⟨1, false, false, false, false, 0x3F800000, z, i⟩, x)

/-- Diff(p, q). -/
def drawDiff (p q : Nat) (x : Fx) : Nat × Fx :=
  if (Num.ofBits fp32 p).cmp (Num.ofBits fp32 q) = some 0 then (0, x)
  else drawOp x (fpSub fp32 p q .rne false)

/-- u × a < b × 2^24 for finite a and b, exact. -/
def coinLess (u : Nat) (a b : Num) : Bool :=
  match a, b with
  | .fin s m e, .fin t n f => (Num.fin s (u * m) e).cmp (.fin t n (f + 24)) = some (-1)
  | _, _ => false

/-- Coin (R56). It names no outcome where a mass is −∞, which only a record that software writes brings about: free there
(log 66). -/
def drawCoin (u : Nat) (sa sb s : Nat) : Bool :=
  let va := Num.ofBits fp32 sa
  let vb := Num.ofBits fp32 sb
  let vs := Num.ofBits fp32 s
  match vs with
  | .fin _ _ _ => coinLess u vs vb
  | _ =>
    if vs.isNan || va.isNan || vb.isNan then false
    else if vb = .inf false && va ≠ .inf false then true
    else if va = .inf false && vb ≠ .inf false then false
    else if va = .inf false && vb = .inf false then decide (u < 2 ^ 23)
    else
      match va, vb with
      | .fin _ _ _, .fin _ _ _ => coinLess u (va.add vb .rne).1 vb
      | _, _ => Config.coin u sa sb

/-- S × Exp(d) rounded. -/
def drawScale (s d : Nat) (x : Fx) : Nat × Fx :=
  let (e, x) := drawOp x (expRne d)
  drawOp x (fpMul fp32 s e .rne false)

/-- DrawMerge (R56) with the value u already taken. -/
def drawMergeWith (a b : DrawRec) (u : Nat) (x : Fx) : DrawRec × Fx :=
  let c := min (a.cnt + b.cnt) 0xFFFFFF
  if a.invalid || b.invalid then (DrawRec.mark false true false false c, x)
  else if !a.none && !b.none && a.greedy != b.greedy then (DrawRec.mark false true false false c, x)
  else if a.poison || b.poison then (DrawRec.mark (a.greedy && b.greedy) false true false c, x)
  else if a.none then ({ b with cnt := c }, x)
  else if b.none then ({ a with cnt := c }, x)
  else if a.greedy then
    let cmp := (Num.ofBits fp32 b.m).cmp (Num.ofBits fp32 a.m)
    let w := if cmp = some 1 || (cmp = some 0 && decide (b.idx < a.idx)) then b else a
    ({ w with cnt := c }, x)
  else
    let m := fpMinMax fp32 true a.m b.m
    let (da, x) := drawDiff a.m m x
    let (sa, x) := drawScale a.s da x
    let (db, x) := drawDiff b.m m x
    let (sb, x) := drawScale b.s db x
    let (s, x) := drawOp x (fpAdd fp32 sa sb .rne false)
    let idx := if drawCoin u sa sb s then b.idx else a.idx
    (⟨c, false, false, false, false, s, m, idx⟩, x)

/-- DrawMerge: it takes one value of the generator, whether or not the coin is used. -/
def drawMerge (a b : DrawRec) (x : Fx) : DrawRec × Fx :=
  let (v, g) := x.rng.next
  drawMergeWith a b (bits v 0 24) { x with rng := g }

end Sys2Proof.Machine
end

