-- ==== Sys2Proof/Machine/Flags.lean ====
section
/-! DEFINITION. Cause codes (R69, R367), the order of the arithmetic traps (R369), and the flag results of the saturating
integer forms (R35, R102). -/

namespace Sys2Proof.Machine

/-- The 8-bit code of a cause (R69, R367). -/
def Cause.code : Cause → Nat
  | .illop => 0x01 | .illfn => 0x02 | .illfmt => 0x03 | .rsvbits => 0x04 | .longform => 0x05 | .stall => 0x06
  | .illcsr => 0x07
  | .lalign => 0x11 | .lrange => 0x12
  | .tnone => 0x21 | .tlost => 0x22 | .targs => 0x23 | .tperm => 0x24 | .tstate => 0x25 | .tfull => 0x26
  | .thfull => 0x27 | .toverlap => 0x28 | .trefused => 0x29 | .tnotheld => 0x2A | .tfetch => 0x2B
  | .ralign => 0x31 | .raddr => 0x32 | .rpart => 0x33 | .xlate => 0x34 | .fabricLost => 0x35 | .route => 0x36
  | .dclosed => 0x37 | .dfull => 0x38 | .rcfull => 0x39 | .frozen => 0x3A | .restarted => 0x3B
  | .nvtrap => 0x41 | .dztrap => 0x42 | .oftrap => 0x43 | .uftrap => 0x44 | .sattrap => 0x45 | .nxtrap => 0x46
  | .margs => 0x51 | .cargs => 0x52
  | .largs => 0x61 | .loverrun => 0x62 | .lbroken => 0x63 | .lgroup => 0x64 | .lmfull => 0x65 | .lnotreg => 0x66
  | .swtrap => 0x71 | .loopnest => 0x72 | .scope => 0x73 | .dargs => 0x74
  | .uels => 0x81 | .uefetch => 0x82 | .uereg => 0x83 | .uexlate => 0x84 | .ueremote => 0x85 | .uecore => 0x86

/-- Every cause, in code order. -/
def Cause.all : List Cause :=
  [.illop, .illfn, .illfmt, .rsvbits, .longform, .stall, .illcsr, .lalign, .lrange, .tnone, .tlost, .targs, .tperm, .tstate,
    .tfull, .thfull, .toverlap, .trefused, .tnotheld, .tfetch, .ralign, .raddr, .rpart, .xlate, .fabricLost, .route]
  ++ [.dclosed, .dfull, .rcfull, .frozen, .restarted, .nvtrap, .dztrap, .oftrap, .uftrap, .sattrap, .nxtrap, .margs, .cargs,
    .largs, .loverrun, .lbroken, .lgroup, .lmfull, .lnotreg, .swtrap, .loopnest, .scope, .dargs, .uels, .uefetch, .uereg,
    .uexlate, .ueremote, .uecore]

/-- The cause that a reply STATUS names (R292). -/
def Cause.ofCode (c : Nat) : Option Cause := Cause.all.find? fun x => x.code = c

/-- Group of a code: its upper nibble. -/
def Cause.group (c : Cause) : Nat := c.code / 16

/-- The cause of a decode fault (R69). -/
def Cause.ofDecode : DecodeFault → Cause
  | .illop => .illop
  | .illfn => .illfn
  | .illfmt => .illfmt
  | .rsvbits => .rsvbits
  | .longform => .longform
  | .illcsr => .illcsr

/-- The arithmetic trap of raised and enabled flags: the lowest code decides, NV, DZ, OF, UF, SAT, NX (R369). -/
def trapCause (raised : BitVec 6) : Option Cause :=
  if raised &&& flagNV ≠ 0 then some .nvtrap
  else if raised &&& flagDZ ≠ 0 then some .dztrap
  else if raised &&& flagOF ≠ 0 then some .oftrap
  else if raised &&& flagUF ≠ 0 then some .uftrap
  else if raised &&& flagSAT ≠ 0 then some .sattrap
  else if raised &&& flagNX ≠ 0 then some .nxtrap
  else none

/-- SAT when a clamp happened. -/
def satFlag (clamped : Bool) : BitVec 6 := if clamped then flagSAT else 0

/-- Sat64 of an exact sum or difference, with its flag (R102). -/
def sat64 (v : Int) : Word × BitVec 6 :=
  let (r, c) := satSigned 64 v
  (r, satFlag c)

end Sys2Proof.Machine
end

