-- ==== Sys2Proof/Machine/Memory.lean ====
section
/-! DEFINITION. Byte memories in canonical form (R188): addresses strictly rising, no zero byte listed. An unlisted address
reads 0: for a local store because the open wave leaves bytes that no segment writes at zero (R88); for device and host
memory by choice (log 2). -/

namespace Sys2Proof.Machine

/-- What an unlisted address reads as. -/
def Mem.unlisted : Byte := 0

/-- One byte. -/
def Mem.read (m : Mem) (a : Nat) : Byte :=
  match m with
  | [] => Mem.unlisted
  | (i, b) :: l => if a = i then b else if a < i then Mem.unlisted else Mem.read l a

/-- Adds one byte to a memory that does not list lower addresses; a byte equal to the unlisted one is not listed. -/
def Mem.cons (a : Nat) (b : Byte) (m : Mem) : Mem :=
  if b = Mem.unlisted then m else (a, b) :: m

/-- Writes one byte, keeping the canonical form. -/
def Mem.write (m : Mem) (a : Nat) (b : Byte) : Mem :=
  match m with
  | [] => Mem.cons a b []
  | (i, c) :: l =>
    if a < i then Mem.cons a b ((i, c) :: l)
    else if a = i then Mem.cons a b l
    else (i, c) :: Mem.write l a b

/-- `n` bytes from `a`, lowest first. -/
def Mem.readN (m : Mem) (a : Nat) : Nat → List Byte
  | 0 => []
  | n + 1 => m.read a :: Mem.readN m (a + 1) n

/-- Writes bytes from `a` up. -/
def Mem.writeN (m : Mem) (a : Nat) : List Byte → Mem
  | [] => m
  | b :: l => Mem.writeN (m.write a b) (a + 1) l

/-- The little-endian number of `n` bytes at `a` (R2). -/
def Mem.readLE (m : Mem) (a n : Nat) : Nat := ofBytes (m.readN a n)

/-- Writes `n` bytes of `v` at `a`, little-endian (R2). -/
def Mem.writeLE (m : Mem) (a n v : Nat) : Mem := m.writeN a (bytesLE n v)

/-- The canonical form: addresses strictly rising, and no entry that reads as an unlisted byte. -/
def Mem.wf : Mem → Bool
  | [] => true
  | (i, b) :: l =>
    (b != Mem.unlisted) && (match l with
      | [] => true
      | (j, _) :: _ => decide (i < j)) && Mem.wf l

end Sys2Proof.Machine
end

