-- ==== Sys2Proof/Machine/Ops.lean ====
section
/-! DEFINITION. The named operations over cores, registers and local memory that every meaning uses: time, register access
with in-flight and pending results (R71 to R77), local reads and writes with their checks (R190, R195), slots and waits,
placement at doors (R313, R314), fault reports (R370), trap entry (R372), kill (R374) and the return by JR (R373). -/

namespace Sys2Proof.Machine

/-! ## Cores -/

def State.core? (s : State) (c : Nat) : Option Core := aget c s.cores

def State.modCore (s : State) (c : Nat) (f : Core → Core) : State := { s with cores := amod c f s.cores }

/-- Column and row of a logical core index (R12). -/
def coreX (c : Nat) : Nat := c % 512
def coreY (c : Nat) : Nat := c / 512

/-- Field row of a logical row, and the first logical row of a field row (R8). -/
def fieldRow (y : Nat) : Nat := if y < 292 then y / 73 else if y < 366 then 4 else 5
def firstRow (fy : Nat) : Nat := if fy ≤ 4 then 73 * fy else 366
/-- Rows of a field row (R8). -/
def fieldRows (fy : Nat) : Nat := if fy < 4 then 73 else 74

/-- Field number 8·fy + fx of a logical core (R8). -/
def fieldOf (c : Nat) : Nat := 8 * fieldRow (coreY c) + coreX c / 60

/-- The nominal physical position (R271). -/
def nominalPos (c : Nat) : Nat × Nat :=
  let fy := fieldRow (coreY c)
  (coreX c, 75 * fy + (coreY c - firstRow fy))

/-- The binding entry of a logical core (R269): the listed one, else the nominal one of log 3; not bound in a fenced field
(R9). -/
def State.binding (s : State) (c : Nat) : Word :=
  let w : Word := match aget c s.mgr.bind with
    | some w => w
    | none =>
      if coreX c < s.mgr.cols && decide (coreY c < 440) then
        let p := nominalPos c
        BitVec.ofNat 64 (p.1 + p.2 * 2 ^ 9 + 2 ^ 26)
      else 0
  if s.mgr.fence.getLsbD (fieldOf c) then putBits w 26 1 0 else w

/-- Physical position of a logical core. -/
def State.physOf (s : State) (c : Nat) : Nat × Nat :=
  let w := s.binding c
  (bits w 0 9, bits w 9 9)

/-- The island of a physical position (R364). -/
def islandOf (p : Nat × Nat) : Nat := 2 * (8 * (p.2 / 75) + p.1 / 60) + p.1 % 60 / 30

def State.islandAt (s : State) (i : Nat) : Island := vat s.islands i Island.reset

/-! ## Time -/

/-- TIME in ns at a module time: CYCLE is within 1 of floor(1.3 × TIME) (R362). -/
def nsAt (t : Nat) : Nat := (t * 20 + 13) / 26

/-- TIME in ns. -/
def State.timeNs (s : State) : Nat := nsAt s.now

/-- µs mod 65,536 (R362). -/
def State.timeUs (s : State) : BitVec 16 := BitVec.ofNat 16 (s.timeNs / 1000)

/-- Cycles of an island at module time `now` (R5). -/
def Island.cycles (i : Island) (now : Nat) : Nat := i.baseCyc + (now - i.baseAt) * i.fmhz / 1300

/-- The cycle count of a core. -/
def State.cyc (s : State) (c : Nat) : Nat :=
  let off : Int := match s.core? c with
    | some k => k.cycOff
    | none => 0
  ((((s.islandAt (islandOf (s.physOf c))).cycles s.now : Nat) : Int) + off).toNat

/-! ## Registers -/

def Core.slot (k : Core) (sl : Fin 8) : Slot := k.regs.slots[sl]

def Core.modSlot (k : Core) (sl : Fin 8) (f : Slot → Slot) : Core :=
  { k with regs := { k.regs with slots := k.regs.slots.set sl (f k.regs.slots[sl]) } }

/-- The RUNNING slot (R18). -/
def Core.running (k : Core) : Option (Fin 8) := (List.finRange 8).find? fun i => decide ((k.slot i).st = .running)

/-- Scalar read: g0 reads 0 (R89). -/
def Core.getS (k : Core) (sl : Fin 8) : SReg → Word
  | .g n => if n = 0 then 0 else k.regs.g[n]
  | .t n => (k.slot sl).t[n]

/-- Scalar write: a write to g0 is discarded (R62). -/
def Core.setS (k : Core) (sl : Fin 8) (r : SReg) (v : Word) : Core :=
  match r with
  | .g n => if n = 0 then k else { k with regs := { k.regs with g := k.regs.g.set n v } }
  | .t n => k.modSlot sl fun x => { x with t := x.t.set n v }

/-- Predicate read: p0 reads 1 (R89). -/
def Core.getP (k : Core) (sl : Fin 8) (n : PReg) : Bool := if n = 0 then true else (k.slot sl).p[n]

/-- Predicate write: a write to p0 is discarded (R62). -/
def Core.setP (k : Core) (sl : Fin 8) (n : PReg) (v : Bool) : Core :=
  if n = 0 then k else k.modSlot sl fun x => { x with p := x.p.set n v }

def Core.getV (k : Core) (n : VNum) : VReg := k.regs.v[n]
def Core.setV (k : Core) (n : VNum) (v : VReg) : Core := { k with regs := { k.regs with v := k.regs.v.set n v } }
def Core.getM (k : Core) (n : MReg) : Word := k.regs.m[n]
def Core.setM (k : Core) (n : MReg) (v : Word) : Core := { k with regs := { k.regs with m := k.regs.m.set n v } }

/-- The register a scalar field names. -/
def sid (sl : Fin 8) : SReg → RegId
  | .g n => .g n
  | .t n => .t sl n

/-- Registers that never hold a written value (R62): no hazard arises on them. -/
def RegId.hardwired : RegId → Bool
  | .g n => decide (n = 0)
  | .p _ n => decide (n = 0)
  | _ => false

def Core.getReg (k : Core) : RegId → RegVal
  | .g n => .word (k.getS 0 (.g n))
  | .t sl n => .word (k.getS sl (.t n))
  | .p sl n => .pred (k.getP sl n)
  | .v n => .vec (k.getV n)
  | .m n => .word (k.getM n)
  | .kb n => .word (k.regs.kb[n].setWidth 64)

/-- Writes a register and clears its bad bits (R376). -/
def Core.setReg (k : Core) (r : RegId) (v : RegVal) : Core :=
  let k := { k with regs := { k.regs with badRegs := k.regs.badRegs.filter fun x => x ≠ r } }
  match r, v with
  | .g n, .word w => k.setS 0 (.g n) w
  | .t sl n, .word w => k.setS sl (.t n) w
  | .p sl n, .pred b => k.setP sl n b
  | .v n, .vec x => k.setV n x
  | .m n, .word w => k.setM n w
  | _, _ => k

/-! ## Results in flight and pending (R72 to R75) -/

/-- A fixed-latency write issued at `cyc`: the register takes the new value, and until `cyc + lat` a record keeps the old
one. A latency of 1 lands before any later issue (R71). -/
def Core.writeFixed (k : Core) (r : RegId) (v : RegVal) (lat cyc : Nat) : Core :=
  if r.hardwired then k
  else
    let old := k.getReg r
    let k := k.setReg r v
    if lat ≤ 1 then k else { k with inflight := k.inflight ++ [⟨r, cyc + lat, old⟩] }

/-- The destination register of a matrix command that has one outside the matrix registers, or its codebook (R159). -/
def MCmd.dest (sl : Fin 8) : MCmd → Option RegId
  | .toVector vd _ _ => some (.v vd)
  | .mrsum vd _ => some (.v vd)
  | .mchk d _ => some (sid sl d)
  | .msync d => some (sid sl d)
  | .mdrain _ vd _ _ _ _ _ _ => some (.v vd)
  | .mldk k _ => some (.kb k)
  | _ => none

/-- The register a request's reply writes. -/
def Sink.dest : Sink → Option RegId
  | .scalar r _ => some r
  | .vector n => some (.v n)
  | .data r _ => some r
  | _ => none

/-- Registers with a scoreboarded write outstanding (R75). -/
def Core.pendingRegs (k : Core) : List RegId :=
  k.results.map (fun r => r.reg) ++ k.sfu.map (fun r => RegId.v r.d) ++ k.matrix.filterMap (fun m => m.cmd.dest m.slot)
    ++ k.reqs.filterMap (fun r => r.sink.dest)

def Core.isPending (k : Core) (r : RegId) : Bool := !r.hardwired && k.pendingRegs.contains r

/-- A fixed-latency write to the register has not landed at `cyc` (R73). -/
def Core.inFlight (k : Core) (r : RegId) (cyc : Nat) : Bool :=
  k.inflight.any fun x => decide (x.reg = r) && decide (cyc < x.lands)

/-- The core without the records of landed writes. -/
def Core.land (k : Core) (cyc : Nat) : Core := { k with inflight := k.inflight.filter fun x => decide (cyc < x.lands) }

/-- The register file as the RUNNING slot's read sees it: with SCHK.EN = 0, for each write in flight the old or the new value
(R73, log 5); with SCHK.EN = 1 such a read faults, and what is held meanwhile goes by the new value. A longer write that a later
one has passed counts as in flight until it would have landed (log 62). -/
def Core.view (k : Core) (fresh : Nat) : Core :=
  if k.running.any fun sl => (k.slot sl).schk then k
  else (k.inflight.zipIdx).foldr (fun (x : Inflight × Nat) v => if Config.pick fresh x.2 then v.setReg x.1.reg x.1.old else v) k

/-! ## Counting (R363) -/

/-- Adds `n` to every counter whose selected event is `ev`; a selection written in this cc counts from the next. -/
def Core.count (k : Core) (ev n : Nat) : Core :=
  if k.regs.pmsel = 0 then k
  else
    let p : Vector Word 4 := vgen fun i =>
      if bits k.regs.pmsel (8 * i.val) 8 = ev then k.regs.pmc[i] + BitVec.ofNat 64 n else k.regs.pmc[i]
    { k with regs := { k.regs with pmc := p } }

/-! ## Local store: rights, errors, reads and writes -/

/-- The home leaf that covers a local-store offset (R230). -/
def Tables.leafAt (t : Tables) (a : Nat) : Option (Nat × HomeTok) :=
  t.home.find? fun e => decide (e.2.st ≠ .split) && decide (e.2.base ≤ a / 256) && decide (a / 256 < e.2.limit)

/-- The rights of R195 and R233 for one byte: PRIVATE and HOME allow both, SHARED reads only. -/
def Tables.byteAllowed (t : Tables) (write : Bool) (a : Nat) : Bool :=
  match t.leafAt a with
  | none => true
  | some (_, e) => decide (e.st = .home) || (!write && decide (e.st = .shared))

/-- 256-byte granules that a range touches. -/
def granules (a n : Nat) : List Nat :=
  if n = 0 then [] else (List.range ((a + n - 1) / 256 - a / 256 + 1)).map fun i => (a / 256 + i) * 256

/-- The rights for every byte of a range. -/
def Core.allowed (k : Core) (write : Bool) (a n : Nat) : Bool :=
  (granules a n).all fun g => k.tables.byteAllowed write g

/-- 64-bit words that a range touches. -/
def wordsOf (a n : Nat) : List Nat :=
  if n = 0 then [] else (List.range ((a + n - 1) / 8 - a / 8 + 1)).map fun i => a / 8 + i

/-- A read corrects the single-bit errors of a range, and counts them (R190). -/
def Core.correct (k : Core) (a n : Nat) : Core :=
  if k.soft.isEmpty then k
  else
    let hit := k.soft.filter fun e => (wordsOf a n).contains e.1
    ({ k with soft := k.soft.filter fun e => !(wordsOf a n).contains e.1 } : Core).count 16 hit.length

/-- A read of a range: errors corrected, and at most one injection by FINJ KIND 3 or 4 (R377). -/
def Core.injectRead (k : Core) (a n : Nat) : Core :=
  let k := k.correct a n
  let f := k.regs.finj
  let kind := bits f 1 3
  let word := bits f 40 15
  if f.getLsbD 0 && (kind = 3 || kind = 4) && (wordsOf a n).contains word then
    let skip := bits f 16 8
    if skip ≠ 0 then { k with regs := { k.regs with finj := putBits f 16 8 (skip - 1) } }
    else
      let k := { k with regs := { k.regs with finj := putBits f 0 1 0 } }
      if kind = 3 then k.count 16 1
      else { k with badWords := if k.badWords.contains word then k.badWords else word :: k.badWords }
  else k

/-- The reads of a write: of the first and the last word of its range, where it covers them in part (R190, R377). -/
def Core.injectPartial (k : Core) (a n : Nat) : Core :=
  let k := if a % 8 ≠ 0 then k.injectRead (a / 8 * 8) 8 else k
  if (a + n) % 8 ≠ 0 && (a % 8 = 0 || decide ((a + n) / 8 ≠ a / 8)) then k.injectRead ((a + n) / 8 * 8) 8 else k

/-- The address of the first word of a range with an uncorrectable error, if any (R190). -/
def Core.badIn (k : Core) (a n : Nat) : Option Nat :=
  ((wordsOf a n).find? fun w => k.badWords.contains w).map fun w => 8 * w

/-- The first bad word that a slot's read meets: a word that a store of the slot covers whole is read from that store (R190,
R197). -/
def Core.badView (k : Core) (sl : Fin 8) (a n : Nat) : Option Nat :=
  ((wordsOf a n).find? fun w => k.badWords.contains w &&
    !(k.stores.any fun b => decide (b.slot = sl) && decide (b.addr ≤ 8 * w) && decide (8 * w + 8 ≤ b.addr + b.data.length))).map
    fun w => 8 * w

/-- Words that a write covers only in part: the write fails when one of them is bad (R190). -/
def Core.badPartial (k : Core) (a n : Nat) : Option Nat :=
  ((wordsOf a n).find? fun w => k.badWords.contains w && !(decide (a ≤ 8 * w) && decide (8 * w + 8 ≤ a + n))).map fun w =>
    8 * w

/-- The bytes of the store with the core's own stores that are not yet performed forwarded (R197). -/
def Core.memView (k : Core) (sl : Fin 8) : Mem :=
  k.stores.foldl (fun m b => if b.slot = sl then m.writeN b.addr b.data else m) k.mem

/-! ## Slots -/

/-- Work of a slot that WAIT awaits (R120). -/
def Core.outstanding (k : Core) (sl : Fin 8) : Bool :=
  k.results.any (fun r => decide (r.slot = sl)) || k.sfu.any (fun r => decide (r.slot = sl))
    || k.matrix.any (fun m => decide (m.slot = sl) && (match m.cmd with
        | .mldk _ _ => false
        | c => (c.dest sl).isSome))
    || k.reqs.any (fun r => decide (r.slot = sl) && !r.rid.getLsbD 21)

/-- Work that keeps an ended slot DRAINING (R124, R331). -/
def Core.working (k : Core) (sl : Fin 8) : Bool :=
  k.outstanding sl || k.matrix.any (fun m => decide (m.slot = sl)) || k.copies.any (fun c => decide (c.slot = sl))
    || k.stores.any (fun b => decide (b.slot = sl))

/-- What happens when no slot is RUNNING any more: results land and the fetch buffer drops its words (R76, R192). -/
def Core.leave (k : Core) : Core := { k with inflight := [], stale := [], held := none }

/-- Entry to READY at a cycle: the age counter restarts (R318). -/
def Slot.toReady (x : Slot) (cyc : Nat) : Slot := { x with st := .ready, ageFrom := cyc, readyAt := cyc, wait := none }

/-- A WAITING slot's wait ends with a value for its destination. -/
def Core.endWait (k : Core) (sl : Fin 8) (d : SReg) (v : Word) (cyc : Nat) : Core :=
  (k.setReg (sid sl d) (.word v)).modSlot sl fun x => x.toReady cyc

/-- WAITs whose slot has nothing outstanding any more end with 0 (R120); a halted core freezes its waits (R340). -/
def Core.settleWaits (k : Core) (cyc : Nat) : Core :=
  if k.halted then k else (List.finRange 8).foldl (fun k sl =>
    match (k.slot sl).wait with
    | some (.all d _) => if (k.slot sl).st = .waiting && !k.outstanding sl then k.endWait sl d 0 cyc else k
    | _ => k) k

def State.settleWaits (s : State) (c : Nat) : State := s.modCore c fun k => k.settleWaits (s.cyc c)

/-! ## Doors: placement (R312 to R314) -/

/-- A door is dispatchable (R312). -/
def doorOpen (d : BitVec 32) : Bool := d ≠ 0 && d.getLsbD 27 && decide (bits d 30 2 ≠ 3)

def doorPrio (d : BitVec 32) : BitVec 2 := d.extractLsb' 28 2
def doorHandler (d : BitVec 32) : Nat := bits d 0 16 * 4
def doorPend (d : BitVec 32) : Nat := bits d 16 8

def msgDoor (m : BitVec 320) : Nat := bits m 29 5

/-- The message of R311: payload bytes past LEN are 0. -/
def mkMsg (payload : BitVec 256) (rid : BitVec 22) (kind len door : Nat) (us : BitVec 16) : BitVec 320 :=
  BitVec.ofNat 256 (payload.toNat % 2 ^ (8 * len)) ++ (rid ++ BitVec.ofNat 2 kind ++ BitVec.ofNat 6 len ++ BitVec.ofNat 5 door ++ us ++ (0 : BitVec 13) : BitVec 64)

/-- The bad bits of a slot's t registers that are written as a group are cleared (R376). -/
def Core.clearT (k : Core) (sl : Fin 8) (written : Fin 16 → Bool) : Core :=
  { k with regs := { k.regs with badRegs := k.regs.badRegs.filter fun r => match r with
      | .t s n => decide (s ≠ sl) || !written n
      | _ => true } }

/-- Place (R313): the slot is READY 3 cc later. -/
def Core.place (k : Core) (m : BitVec 320) (sl : Fin 8) (cyc : Nat) : Core :=
  let d := vat k.tables.doors (msgDoor m) 0
  let pay (i : Nat) : Word := m.extractLsb' (64 + 64 * i) 64
  let form := bits d 30 2
  let t : Vector Word 16 := vgen fun i =>
    if i.val = 4 then m.extractLsb' 0 64
    else if form = 0 && decide (i.val < 4) then pay i.val
    else if form = 1 && decide (i.val < 2) then pay i.val
    else 0
  ((k.clearT sl fun _ => true).modSlot sl fun _ => { Slot.reset with
      pc := doorHandler d, t := t, door := BitVec.ofNat 5 (msgDoor m), prio := doorPrio d, st := .ready,
      ageFrom := cyc + 3, readyAt := cyc + 3, trapAt := some cyc }).count 18 1

/-- The lowest FREE slot. -/
def Core.freeSlot (k : Core) : Option (Fin 8) := (List.finRange 8).find? fun i => decide ((k.slot i).st = .free)

/-- The held message that R314 takes: lowest PRIO of its door, then earliest, then lowest door. -/
def Core.nextHeld (k : Core) : Option (BitVec 320) :=
  let ok := k.tables.msgs.filter fun m => doorOpen (vat k.tables.doors (msgDoor m) 0)
  let prio (m : BitVec 320) : Nat := (doorPrio (vat k.tables.doors (msgDoor m) 0)).toNat
  ok.foldl (fun best m =>
    match best with
    | none => some m
    | some b => if prio m < prio b then some m else some b) none

/-- One held message into one FREE slot. -/
def Core.dispatchOne (k : Core) (cyc : Nat) : Core :=
  match k.freeSlot, k.nextHeld with
  | some sl, some m =>
    let n := msgDoor m
    let d := vat k.tables.doors n 0
    let k := k.place m sl cyc
    { k with tables := { k.tables with
        msgs := k.tables.msgs.erase m
        doors := k.tables.doors.setIfInBounds n (putBits d 16 8 (doorPend d - 1)) } }
  | _, _ => k

/-- The partition a core serves. -/
def State.partOf (s : State) (k : Core) : PartEntry := vat s.mgr.table k.entry PartEntry.reset

/-- Placements go on only while the partition is not being halted, saved or resumed (R312). -/
def State.placing (s : State) (k : Core) : Bool :=
  match (s.partOf k).st with
  | .halting | .saved | .resuming => (s.partOf k).killing.isSome
  | _ => true

/-- R314: while a slot is FREE and a held message can be taken. -/
def State.dispatchHeld (s : State) (c : Nat) : State :=
  s.modCore c fun k =>
    if s.placing k then (List.range 8).foldl (fun k _ => k.dispatchOne (s.cyc c)) k else k

/-! ## Fault reports and the fault log (R370, R375) -/

/-- What a fault carries besides its cause. -/
structure FaultInfo where
  faddr : Word
  /-- resume address -/
  rpc : Nat
  /-- core cycle of issue of the operation that faults, when it is not the instruction now issuing -/
  issued : Option Nat
  unk : Bool
  inc : Byte
  ser : BitVec 32
  rid : BitVec 22
  deriving DecidableEq, Repr

/-- A fault of the instruction now issuing. -/
def FaultInfo.here (faddr : Word) (rpc : Nat) : FaultInfo := ⟨faddr, rpc, none, false, 0, 0, 0⟩

/-- The report (R370). -/
def State.report (s : State) (c : Nat) (sl : Fin 8) (code : Nat) (kill core drn : Bool) (f : FaultInfo) : Report :=
  let b (x : Bool) (i : Nat) : Nat := if x then 2 ^ i else 0
  let (px, py) := s.physOf c
  let w0 := code * 2 ^ 56 + b f.unk 55 + b kill 54 + b core 53 + b drn 52 + sl.val * 2 ^ 49
    + f.rpc % 2 ^ 18 * 2 ^ 29 + py * 2 ^ 9 + px
  let w2 := s.mgr.bindgen.toNat * 2 ^ 32 + c % 2 ^ 18 * 2 ^ 14 + f.inc.toNat
  let w3 := f.ser.toNat * 2 ^ 32 + f.rid.toNat * 2 ^ 10
  #v[BitVec.ofNat 64 w0, f.faddr, BitVec.ofNat 64 w2, BitVec.ofNat 64 w3]

/-- Log(rep) (R375). -/
def State.logReport (s : State) (r : Report) : State :=
  { s with mgr := { s.mgr with log := aset (s.mgr.logseq % 4096) r s.mgr.log, logseq := s.mgr.logseq + 1 } }

/-- A core fault report (R375). -/
def State.coreReport (s : State) (c : Nat) (code : Cause) (f : FaultInfo) : State :=
  s.logReport (s.report c 0 code.code false true false f)

/-! ## Cancellation, kill and trap entry (R372, R374) -/

/-- The SFU request in service at a cycle: the last that has started, until its service ends (R152). -/
def Core.sfuServing (k : Core) (cyc : Nat) : Option SfuReq :=
  if cyc < k.sfuNext then (k.sfu.filter fun r => r.start.isSome).getLast? else none

/-- Cancels a slot's unwritten SFU requests (R152), undispatched matrix commands (R162) and waiting copies (R331). When the
request in service, or the next to be served, is cancelled, service passes on in the following cycle. -/
def Core.cancelWork (k : Core) (sl : Fin 8) (cyc : Nat) : Core :=
  let own (r : Option SfuReq) : Bool := r.any fun x => decide (x.slot = sl)
  { k with
    sfu := k.sfu.filter fun r => decide (r.slot ≠ sl)
    sfuNext := if own (k.sfuServing cyc) then cyc + 1
      else if own (k.sfu.find? fun r => r.start.isNone) then max k.sfuNext (cyc + 1) else k.sfuNext
    matrix := k.matrix.filter fun m => decide (m.slot ≠ sl) || m.dispatched
    copies := k.copies.filter fun x => decide (x.slot ≠ sl) || x.active }

/-- Kill(s) begins (R374): the slot is DRAINING until its remaining work ends. -/
def State.kill (s : State) (c : Nat) (sl : Fin 8) : State :=
  let cyc := s.cyc c
  s.modCore c fun k =>
    if (k.slot sl).killed || decide ((k.slot sl).st = .free) then k
    else
      let k := if (k.slot sl).st = .running then k.leave else k
      (k.cancelWork sl cyc).modSlot sl fun x => { x with st := .draining, killed := true, wait := none }

/-- Trap entry proper: the last part of Fault (R372). The slot's fixed-latency results land (R76). -/
def Core.enterTrap (k : Core) (sl : Fin 8) (code : Nat) (faddr : Word) (rep : Report) (us : BitVec 16) (cyc : Nat) : Core :=
  let d := vat k.tables.doors 31 0
  let k := if (k.slot sl).st = .running then k.leave else k
  let k := (k.cancelWork sl cyc).clearT sl fun n => decide (n.val < 5)
  let m := mkMsg 0 0 3 32 31 us
  k.modSlot sl fun x => { x with
    tcause := BitVec.ofNat 8 code, faddr := faddr, pc := doorHandler d
    t := ((((x.t.set 0 rep[0]).set 1 rep[1]).set 2 rep[2]).set 3 rep[3]).set 4 (m.extractLsb' 0 64)
    door := 31, prio := doorPrio d, intrap := true, st := .ready, ageFrom := cyc, readyAt := cyc, wait := none
    stopped := false, trapAt := some cyc }

/-- The operation was issued before the slot's latest trap entry (R372): an instruction that issued in the cycle of the entry
issued before it, since the handler issues later. -/
def FaultInfo.early (f : FaultInfo) (x : Slot) : Bool :=
  match f.issued, x.trapAt with
  | some i, some t => decide (i ≤ t)
  | _, _ => false

/-- Fault(s, code, faddr, rpc) of R372: log, kill or trap entry. -/
def State.faultSlot (s : State) (c : Nat) (sl : Fin 8) (cause : Cause) (f : FaultInfo) : State :=
  match s.core? c with
  | none => s
  | some k =>
    let x := k.slot sl
    let code := cause.code
    if f.early x || x.st = .free || x.st = .saved then s.logReport (s.report c sl code false true false f)
    else if x.st = .draining then
      if cause.group = 4 then s.logReport (s.report c sl code false true true f)
      else (s.logReport (s.report c sl code true false true f)).kill c sl
    else if x.intrap || !doorOpen (vat k.tables.doors 31 0) then
      (s.logReport (s.report c sl code true false false f)).kill c sl
    else
      let rep := s.report c sl code false false false f
      let t := s.modCore c fun k => k.enterTrap sl code f.faddr rep s.timeUs (s.cyc c)
      if cause.group = 8 then t.logReport rep else t

/-- Flags of an operation that completes apart from its issue (R100, R114, R135): ORed into FFLAGS, and a trap on those
enabled at issue. `rpc` is the slot's next instruction. -/
def State.raiseFlags (s : State) (c : Nat) (sl : Fin 8) (flags en : BitVec 6) (pc issued : Nat) : State :=
  let s := s.modCore c fun k => k.modSlot sl fun x => { x with fflags := x.fflags ||| flags }
  match trapCause (flags &&& en), s.core? c with
  | some cause, some k =>
    s.faultSlot c sl cause ⟨BitVec.ofNat 64 pc, (k.slot sl).pc, some issued, false, 0, 0, 0⟩
  | _, _ => s

/-- The return from a trap (R373): the first taken JR after trap entry clears INTRAP. -/
def Core.trapReturn (k : Core) (sl : Fin 8) : Core := k.modSlot sl fun x => { x with intrap := false }

/-! ## Performing local writes -/

/-- A slot that watches a word or a latch sees a write to its bytes (R121, R356): the satisfying value, LBROKEN, or an
uncorrectable word; none when it goes on waiting. -/
def Core.watchResult (k : Core) (sl : Fin 8) (lo hi : Nat) : Option (SReg × Except Cause Word × Nat) :=
  if (k.slot sl).st ≠ .waiting || k.halted then none
  else
    match (k.slot sl).wait with
    | some (.word d _ a v) =>
      if lo < a + 8 && decide (a < hi) then
        if (k.badIn a 8).isSome then some (d, .error .uels, a)
        else
          let w := BitVec.ofNat 64 (k.mem.readLE a 8)
          if v.toNat ≤ w.toNat then some (d, .ok w, a) else none
      else none
    | some (.latch d _ a p) =>
      if lo < a + 16 && decide (a < hi) then
        if (k.badIn a 16).isSome then some (d, .error .uels, a)
        else
          let w : Word := BitVec.ofNat 64 (k.mem.readLE a 8)
          if w.getLsbD 4 then some (d, .error .lbroken, a)
          else if w.extractLsb' 0 4 ≠ p then some (d, .ok w, a) else none
      else none
    | _ => none

/-- The read that a watching slot makes of what it watches, when a write touches it (R377). -/
def Core.watchRead (k : Core) (sl : Fin 8) (lo hi : Nat) : Core :=
  if (k.slot sl).st ≠ .waiting || k.halted then k
  else
    match (k.slot sl).wait with
    | some (.word _ _ a _) => if lo < a + 8 && decide (a < hi) then k.injectRead a 8 else k
    | some (.latch _ _ a _) => if lo < a + 16 && decide (a < hi) then k.injectRead a 16 else k
    | _ => k

/-- Wakes the slots of a core that watch bytes in [lo, hi). -/
def State.wakeWatchers (s : State) (c : Nat) (lo hi : Nat) : State :=
  (List.finRange 8).foldl (fun s sl =>
    let s := s.modCore c fun k => k.watchRead sl lo hi
    match s.core? c with
    | none => s
    | some k =>
      match k.watchResult sl lo hi with
      | none => s
      | some (d, .ok w, _) => s.modCore c fun k => k.endWait sl d w (s.cyc c)
      | some (_, .error e, a) => s.faultSlot c sl e (FaultInfo.here (BitVec.ofNat 64 a) (k.slot sl).pc)) s

/-- The store with the stores of a slot forwarded that were issued by a cycle and are not yet performed. -/
def Core.memBy (k : Core) (m : Mem) (sl : Fin 8) (cyc : Nat) : Mem :=
  k.stores.foldl (fun m b => if b.slot = sl && decide (b.issued ≤ cyc) then m.writeN b.addr b.data else m) m

/-- A copy reads bytes of [lo, hi) at its source. -/
def Copy.reads (x : Copy) (lo hi : Nat) : Bool :=
  (List.range x.rows).any fun r => decide (x.src + r * x.sstr < hi) && decide (lo < x.src + r * x.sstr + x.len)

/-- A write performed in a local store: bytes, check bits of wholly covered words (R190), and what commands of the matrix unit
and copies may have read before it (R163, R328). -/
def Core.writeMem (k : Core) (a : Nat) (bs : List Byte) : Core :=
  { k with
    mem := k.mem.writeN a bs
    copies := k.copies.map fun x =>
      if x.snap.isEmpty || !x.reads a (a + bs.length) then x
      else { x with snap := x.snap ++ [k.memBy (k.mem.writeN a bs) x.slot x.issued] }
    matrix := k.matrix.map fun e =>
      if e.snap.isEmpty then e else { e with snap := e.snap ++ [k.memBy (k.mem.writeN a bs) e.slot e.issued] }
    soft := k.soft.filter fun e => !(wordsOf a bs.length).contains e.1
    badWords := k.badWords.filter fun w => !(decide (a ≤ 8 * w) && decide (8 * w + 8 ≤ a + bs.length)) }

def State.writeLocal (s : State) (c : Nat) (a : Nat) (bs : List Byte) : State :=
  (s.modCore c fun k => k.writeMem a bs).wakeWatchers c a (a + bs.length)

/-- Instruction words that a write by the core itself changes: the fetch buffer may still hold the old ones (R192). -/
def Core.noteStale (k : Core) (a : Nat) (bs : List Byte) : Core :=
  let m' := k.mem.writeN a bs
  let ws := if bs.isEmpty then [] else (List.range ((a + bs.length - 1) / 4 - a / 4 + 1)).map fun i => 4 * (a / 4 + i)
  let olds := ws.filterMap fun w =>
    let o := BitVec.ofNat 32 (k.mem.readLE w 4)
    if k.mem.readLE w 4 = m'.readLE w 4 || k.stale.contains (w, o) then none else some (w, o)
  { k with stale := k.stale ++ olds }

/-- A write by a slot or the copy engine of the core itself. -/
def State.writeOwn (s : State) (c : Nat) (a : Nat) (bs : List Byte) : State :=
  (s.modCore c fun k => k.noteStale a bs).writeLocal c a bs

/-- One word of instruction as the fetch gives it: after an own store to code, the old word or the new (R192, log 5). -/
def Core.fetchWord (k : Core) (fresh a : Nat) : Lane :=
  let now := BitVec.ofNat 32 (k.mem.readLE a 4)
  (k.stale.zipIdx).foldr (fun (x : (Nat × Lane) × Nat) w =>
    if x.1.1 = a && Config.pick fresh (1000 + x.2) then x.1.2 else w) now

/-! ## The answer of an instruction's effect -/

/-- What the effect of an issuing instruction comes to, after its guard and operand holds. -/
inductive Res where
  /-- held at issue: tried again in the next cc, or after the next event -/
  | hold
  /-- held by the scoreboard (R75) -/
  | pending
  /-- a fault of steps 1 to 4 of R369: nothing is performed, the resume address is the instruction's own -/
  | fault (c : Cause) (faddr : Word)
  /-- done: the next instruction follows, after a back-edge decision; the flags raised -/
  | ok (s : State) (flags : BitVec 6)
  /-- done, with a fault at execution: the resume address is the next instruction -/
  | late (s : State) (c : Cause) (faddr : Word)
  /-- the pc moves to a target; `taken`: it costs the cycle of a taken branch -/
  | goto (s : State) (target : Nat) (taken : Bool)
  /-- the slot stopped issuing for good: no decision is made -/
  | stop (s : State)

/-- BackEdge (R116) of an instruction whose last word is at `last`: the slot with its next pc. -/
def Slot.backEdge (x : Slot) (last : Nat) : Slot :=
  let decides (x : Slot) (lv : Fin 2) : Bool := (x.loop[lv]).active && decide ((x.loop[lv]).last = last)
  let exit (x : Slot) (lv : Fin 2) : Slot :=
    { x with lc := x.lc.set lv 0, loop := x.loop.set lv { x.loop[lv] with active := false } }
  let again (x : Slot) (lv : Fin 2) : Slot := { x with lc := x.lc.set lv (x.lc[lv] - 1), pc := (x.loop[lv]).start }
  let a := x.inner
  let b := 1 - x.inner
  let outer (x : Slot) : Slot :=
    if decides x b then
      if x.lc[b] ≤ 1 then { exit x b with pc := last + 4 } else again x b
    else { x with pc := last + 4 }
  if decides x a then
    if x.lc[a] ≤ 1 then outer (exit x a) else again x a
  else outer x

/-- Where the next instruction of a slot may issue (R71): an instruction that occupies issue for longer has already moved
`nextIssue`. -/
def Core.issued (k : Core) (sl : Fin 8) (cyc extra : Nat) : Core :=
  ({ k with lastIssue := some cyc, held := none }.modSlot sl fun x => { x with nextIssue := max x.nextIssue (cyc + 1) + extra }).count 2 1

/-- Fetch faults of the words from `pc` (R369 step 1): TFETCH, then UEFETCH, with the word's address. -/
def Core.fetchFault (k : Core) (pc words : Nat) : Option (Cause × Nat) :=
  let ws := (List.range words).map fun i => pc + 4 * i
  match ws.find? fun a => !k.tables.byteAllowed false a with
  | some a => some (.tfetch, a)
  | none =>
    match ws.find? fun a => k.badWords.contains (a / 8) with
    | some a => some (.uefetch, a)
    | none => none

/-- What an instruction needs of the scoreboard: registers read, and registers written. -/
structure Uses where
  reads : List RegId
  writes : List RegId

/-- Completes the issue of an instruction at `pc` whose last word is at `last`. A trap on flags that a fixed-latency form raises is
entered in its issue cycle (R135, log 63). -/
def State.finish (s : State) (c : Nat) (sl : Fin 8) (stall : Nat) (pc last : Nat) (r : Res) : State :=
  let cyc := s.cyc c
  match r with
  | .hold => s.modCore c fun k => { k with held := some (s.now + 1, false) }
  | .pending => s.modCore c fun k => { k with held := some (s.now + 1, true) }
  | .fault cause faddr =>
    (s.modCore c fun k => k.issued sl cyc 0).faultSlot c sl cause (FaultInfo.here faddr pc)
  | .ok t flags =>
    let t := t.modCore c fun k => (k.issued sl cyc stall).modSlot sl fun x => { x with fflags := x.fflags ||| flags }
    match t.core? c with
    | none => t
    | some k =>
      match trapCause (flags &&& (k.slot sl).ftrap) with
      | some cause => t.faultSlot c sl cause (FaultInfo.here (BitVec.ofNat 64 pc) (last + 4))
      | none => t.modCore c fun k => k.modSlot sl fun x => x.backEdge last
  | .late t cause faddr =>
    (t.modCore c fun k => k.issued sl cyc stall).faultSlot c sl cause (FaultInfo.here faddr (last + 4))
  | .goto t target taken =>
    t.modCore c fun k =>
      (k.issued sl cyc (if taken then stall + 1 else stall)).modSlot sl fun x => { x with pc := target }
  | .stop t => t.modCore c fun k => ({ k with lastIssue := some cyc, held := none } : Core).count 2 1

/-- The context an instruction's effect sees: its core, slot and cycle, the address of its first and last word, and the
register file that its reads return. -/
structure Ctx where
  c : Nat
  sl : Fin 8
  cyc : Nat
  pc : Nat
  last : Nat
  rd : Core

/-- Issue of one instruction or pair of the RUNNING slot of the current core (R61, R71 to R77, R369): fetch faults, holds on
pending registers and of the instruction's own, and in the cycle in which it does issue STALL, uncorrectable registers, then its
effect. A false guard leaves only the check of the guard read, the issue cycle and the back-edge decision. -/
def issue (h : Head) (words : Nat) (uses : Fin 8 → Uses) (body : Ctx → State → Res) (s : State) :
    Host.Outcome State Fault Refusal :=
  let c := s.cur
  match s.core? c with
  | none => .fault .noRunningSlot
  | some k0 =>
    match k0.running with
    | none => .fault .noRunningSlot
    | some sl =>
      let cyc := s.cyc c
      let pc := (k0.slot sl).pc
      let last := pc + 4 * (words - 1)
      let s1 := s.modCore c fun k => (k.land cyc).injectRead pc (4 * words)
      match s1.core? c with
      | none => .fault .noRunningSlot
      | some k =>
        let done (r : Res) : Host.Outcome State Fault Refusal := .next (s1.finish c sl h.stall.toNat pc last r)
        let schk := (k.slot sl).schk
        let guardId := RegId.p sl h.gp
        match k.fetchFault pc words with
        | some (cause, a) => done (.fault cause (BitVec.ofNat 64 a))
        | none =>
          let guardStalls := schk && !guardId.hardwired && k.inFlight guardId cyc
          let v := k.view s.fresh
          let s2 := if k.inflight.isEmpty && k0.stale.isEmpty then s1 else { s1 with fresh := s1.fresh + 1 }
          if v.getP sl h.gp == h.neg then
            if guardStalls then done (.fault .stall (BitVec.ofNat 64 pc))
            else .next (s2.finish c sl h.stall.toNat pc last (.ok s2 0))
          else
            let u := uses sl
            if (u.reads ++ u.writes).any fun r => k.isPending r then .next (s.finish c sl 0 pc last .pending)
            else
              match body ⟨c, sl, cyc, pc, last, v⟩ s2 with
              | .hold => .next (s.finish c sl 0 pc last .hold)
              | r =>
                if guardStalls || (schk && u.reads.any fun r => k.inFlight r cyc) then done (.fault .stall (BitVec.ofNat 64 pc))
                else if u.reads.any fun r => k.regs.badRegs.contains r then done (.fault .uereg (BitVec.ofNat 64 pc))
                else .next (s2.finish c sl h.stall.toNat pc last r)

end Sys2Proof.Machine
end

