-- ==== Sys2Proof/Machine/Operands.lean ====
section
/-! DEFINITION. Operand forms: immediates (R64), prefix fields and their defaults (R65, R66), masks and packed elements (R92,
R93, R144), and the registers that each form reads and writes. -/

namespace Sys2Proof.Machine

/-! ## Immediates (R64) -/

/-- The immediate of format I. -/
def immI (x : ImmX) (imm : BitVec 10) : Word :=
  match x with
  | .none => imm.signExtend 64
  | .imm hi => (hi ++ imm).signExtend 64

/-- The immediate of CMPI. -/
def immCmp (x : ImmX) (imm : BitVec 7) : Word :=
  match x with
  | .none => imm.signExtend 64
  | .imm hi => (hi ++ imm).signExtend 64

/-- The offset of format M, in units of the access size. -/
def offM (x : ImmX) (off : BitVec 7) : Word :=
  match x with
  | .none => off.signExtend 64
  | .imm hi => (hi ++ off).signExtend 64

/-- The offset of RLD and RST: OFX:OFF7 under an ORD prefix. -/
def offRem (x : RemX) (off : BitVec 7) : Word :=
  match x with
  | .none => off.signExtend 64
  | .imm hi => (hi ++ off).signExtend 64
  | .ord p => (p.ofx ++ off).signExtend 64

/-- The count of LOOP with I = 1. -/
def loopCount (x : ImmX) (ca : BitVec 5) : Nat :=
  match x with
  | .none => ca.toNat
  | .imm hi => (hi ++ ca).toNat

/-- ORD and SCOPE in force: .rlx and .part without a prefix (R66). -/
def ordOf : OrdX → Order × Scope
  | .none => (.rlx, .part)
  | .ord p => (p.ord, p.scope)

def ordRem : RemX → Order × Scope
  | .ord p => (p.ord, p.scope)
  | _ => (.rlx, .part)

/-! ## Fields of the VEC prefix (R65, R66) -/

/-- A rounding code of FRM; codes 5 to 7 are never held (R39). -/
def frmMode (frm : BitVec 3) : RMode :=
  match frm.toNat with
  | 1 => .rtz
  | 2 => .rdn
  | 3 => .rup
  | 4 => .sr
  | _ => .rne

/-- The mode in force: DYN is FRM. -/
def resolveRm (rm : Rm) (frm : BitVec 3) : RMode :=
  match rm with
  | .rne => .rne
  | .rtz => .rtz
  | .rdn => .rdn
  | .rup => .rup
  | .sr => .sr
  | .dyn => frmMode frm

def vxRm (x : VecX) : Rm :=
  match x with
  | .none => .dyn
  | .vec p => p.rm

def vxSat (x : VecX) : Bool :=
  match x with
  | .none => true
  | .vec p => p.sat

def vxImm8 (x : VecX) : Nat :=
  match x with
  | .none => 0
  | .vec p => p.imm8.toNat

/-- FMT2, or the instruction's own format. -/
def vxFmt (x : VecX) (own : Fmt) : Fmt :=
  match x with
  | .none => own
  | .vec p => p.fmt2

/-- The scalar that replaces VB, when there is one. -/
def vxScalar (x : VecX) : Option SReg :=
  match x with
  | .none => none
  | .vec p => if p.sb then some p.xb else none

/-- The mode in force for an instruction of slot `sl`. -/
def Ctx.mode (x : Ctx) (rm : Rm) : RMode := resolveRm rm (x.rd.slot x.sl).frm

/-- The VB operand: a vector register, or the low 32 bits of the scalar in every lane. -/
def Ctx.vb (x : Ctx) (p : VecX) (b : VNum) : VReg :=
  match vxScalar p with
  | some r => ⟨Vector.replicate 64 ((x.rd.getS x.sl r).setWidth 32), VReg.reset.header⟩
  | none => x.rd.getV b

/-- The lanes a mask enables. -/
def Ctx.mask (x : Ctx) (mk : MaskX) : Word :=
  match mk with
  | .all => BitVec.allOnes 64
  | .by m => x.rd.getM m

/-- The generator before an instruction, with no flag raised. -/
def Ctx.fx (x : Ctx) (s : State) : Fx :=
  match s.core? x.c with
  | some k => ⟨k.regs.rng, 0⟩
  | none => ⟨Rng.reset, 0⟩

/-! ## Packed elements (R92) -/

/-- Element `j` of width `w` in a lane. -/
def laneElem (w : Nat) (l : Lane) (j : Nat) : Nat := bits l (w * j) w

/-- Element `e` of width `w` in a register. -/
def vecElem (w : Nat) (v : Vector Lane 64) (e : Nat) : Nat := laneElem w (vat v (e / (32 / w)) 0) (e % (32 / w))

/-- A lane with element `j` replaced. -/
def setLaneElem (w : Nat) (l : Lane) (j x : Nat) : Lane := putBits l (w * j) w x

/-- Computes every element of the enabled lanes of `d` in increasing element order; a disabled lane is kept, raises no flag
and takes no value of the generator (R132). -/
def mapElems (w : Nat) (mask : Word) (d : Vector Lane 64) (f : Nat → Fx → Nat × Fx) (x : Fx) : Vector Lane 64 × Fx :=
  vfoldGen (fun (i : Fin 64) x =>
    if mask.getLsbD i.val then
      (List.range (32 / w)).foldl (fun (acc : Lane × Fx) j =>
        let (r, y) := f (i.val * (32 / w) + j) acc.2
        (setLaneElem w acc.1 j r, y)) (d[i], x)
    else (d[i], x)) x

/-- Computes chosen elements of `d` in increasing element order: `f e` answers none for an element that is not written. -/
def mapSome (w : Nat) (mask : Word) (d : Vector Lane 64) (f : Nat → Option (Fx → Nat × Fx)) (x : Fx) :
    Vector Lane 64 × Fx :=
  vfoldGen (fun (i : Fin 64) x =>
    if mask.getLsbD i.val then
      (List.range (32 / w)).foldl (fun (acc : Lane × Fx) j =>
        match f (i.val * (32 / w) + j) with
        | some g => let (r, y) := g acc.2; (setLaneElem w acc.1 j r, y)
        | none => acc) (d[i], x)
    else (d[i], x)) x

/-- Nibble `j` of a register (R144). -/
def vecNibble (v : Vector Lane 64) (j : Nat) : Nat := bits (vat v (j / 8) 0) (4 * (j % 8)) 4

/-! ## Registers read and written -/

def usesRRR (d a b : SReg) (sl : Fin 8) : Uses := ⟨[sid sl a, sid sl b], [sid sl d]⟩
def usesRR (d a : SReg) (sl : Fin 8) : Uses := ⟨[sid sl a], [sid sl d]⟩
/-- A destination that is read as well. -/
def usesRRRd (d a b : SReg) (sl : Fin 8) : Uses := ⟨[sid sl a, sid sl b, sid sl d], [sid sl d]⟩
def usesAB (a b : SReg) (sl : Fin 8) : Uses := ⟨[sid sl a, sid sl b], []⟩
def usesA (a : SReg) (sl : Fin 8) : Uses := ⟨[sid sl a], []⟩
def usesD (d : SReg) (sl : Fin 8) : Uses := ⟨[], [sid sl d]⟩
def usesNone (_ : Fin 8) : Uses := ⟨[], []⟩

def maskRegs (mk : MaskX) : List RegId :=
  match mk with
  | .all => []
  | .by m => [.m m]

def scalarRegs (x : VecX) (sl : Fin 8) : List RegId :=
  match vxScalar x with
  | some r => [sid sl r]
  | none => []

/-- VB or the scalar that replaces it. -/
def vbRegs (x : VecX) (b : VNum) (sl : Fin 8) : List RegId :=
  match vxScalar x with
  | some r => [sid sl r]
  | none => [.v b]

/-- A masked write keeps the disabled lanes, so it reads its destination as far as a hold goes; `rd`: the instruction itself
reads it (R73). -/
def usesV (x : VecX) (d a b : VNum) (mk : MaskX) (rd : Bool) (sl : Fin 8) : Uses :=
  ⟨[RegId.v a] ++ vbRegs x b sl ++ maskRegs mk ++ (if rd then [RegId.v d] else []), [.v d]⟩

def usesV2 (d a : VNum) (mk : MaskX) (_ : Fin 8) : Uses := ⟨[RegId.v a] ++ maskRegs mk, [.v d]⟩

/-! ## Sizes (R63) -/

def ldBytes : LdSize → Nat
  | .i8 | .u8 => 1
  | .i16 | .u16 => 2
  | .i32 | .u32 => 4
  | .i64 => 8

/-- The loaded value, extended (R196). -/
def ldExtend (sz : LdSize) (v : Nat) : Word :=
  match sz with
  | .i8 => sextTo64 8 (BitVec.ofNat 64 v)
  | .i16 => sextTo64 16 (BitVec.ofNat 64 v)
  | .i32 => sextTo64 32 (BitVec.ofNat 64 v)
  | _ => BitVec.ofNat 64 v

def stBytes : StSize → Nat
  | .b8 => 1
  | .b16 => 2
  | .b32 => 4
  | .b64 => 8

end Sys2Proof.Machine
end

