-- ==== Sys2Proof/Machine/Scalar.lean ====
section
/-! DEFINITION. Integer, compare, predicate and mask instructions (R101 to R108, R136): one meaning for each, over the fixed
forms below. -/

namespace Sys2Proof.Machine

/-! ## Result forms -/

/-- Writes a register of the issuing core with a fixed latency (R72). -/
def State.put (s : State) (x : Ctx) (r : RegId) (v : RegVal) (lat : Nat) : State :=
  s.modCore x.c fun k => k.writeFixed r v lat x.cyc

/-- A scalar result. -/
def State.putS (s : State) (x : Ctx) (d : SReg) (v : Word) (lat : Nat) : State := s.put x (sid x.sl d) (.word v) lat

/-- A predicate result; p0 discards it (R101). -/
def State.putP (s : State) (x : Ctx) (d : PReg) (v : Bool) (lat : Nat) : State := s.put x (.p x.sl d) (.pred v) lat

/-- The scalar operand as the issuing instruction reads it. -/
def Ctx.rs (x : Ctx) (r : SReg) : Word := x.rd.getS x.sl r

/-- A new identity for a record of the state. -/
def State.newId (s : State) : State := { s with nextId := s.nextId + 1 }

/-- A scoreboarded result of the core, `lat` cycles after issue (R72, R75). -/
def State.putResult (s : State) (x : Ctx) (r : RegId) (v : RegVal) (lat : Nat) (flags : BitVec 6) (load : Bool) : State :=
  (s.modCore x.c fun k => { k with results := k.results ++
    [⟨s.nextId, x.sl, r, v, x.cyc + lat, x.cyc, flags, (k.slot x.sl).ftrap, x.pc, load⟩] }).newId

/-- A result that is not a load's. -/
def State.putLater (s : State) (x : Ctx) (r : RegId) (v : RegVal) (lat : Nat) (flags : BitVec 6) : State :=
  s.putResult x r v lat flags false

/-- d := f a b with latency `lat` and no flag (R102). -/
def aluOp (h : Head) (d a b : SReg) (lat : Nat) (f : Word → Word → Word) : State → Host.Outcome State Fault Refusal :=
  issue h 1 (usesRRR d a b) fun x s => .ok (s.putS x d (f (x.rs a) (x.rs b)) lat) 0

/-- d := f a with latency 1 and no flag. -/
def unaryOp (h : Head) (d a : SReg) (f : Word → Word) : State → Host.Outcome State Fault Refusal :=
  issue h 1 (usesRR d a) fun x s => .ok (s.putS x d (f (x.rs a)) 1) 0

/-- d := f a imm. -/
def immOp (h : Head) (x : ImmX) (d a : SReg) (imm : BitVec 10) (f : Word → Word → Word) :
    State → Host.Outcome State Fault Refusal :=
  issue h (if x.present then 2 else 1) (usesRR d a) fun c s => .ok (s.putS c d (f (c.rs a) (immI x imm)) 1) 0

/-- pd := f a b (R107). -/
def cmpOp (h : Head) (d : PReg) (a b : SReg) (f : Word → Word → Bool) : State → Host.Outcome State Fault Refusal :=
  issue h 1 (fun sl => ⟨[sid sl a, sid sl b], [.p sl d]⟩) fun x s => .ok (s.putP x d (f (x.rs a) (x.rs b)) 1) 0

/-- pd := f a imm (R107). -/
def cmpiOp (h : Head) (x : ImmX) (d : PReg) (a : SReg) (imm : BitVec 7) (f : Word → Word → Bool) :
    State → Host.Outcome State Fault Refusal :=
  issue h (if x.present then 2 else 1) (fun sl => ⟨[sid sl a], [.p sl d]⟩) fun c s =>
    .ok (s.putP c d (f (c.rs a) (immCmp x imm)) 1) 0

/-- pd := f of predicates (R108). -/
def predOp (h : Head) (d : PReg) (ps : List PReg) (f : Core → Fin 8 → Bool) : State → Host.Outcome State Fault Refusal :=
  issue h 1 (fun sl => ⟨ps.map (RegId.p sl), [.p sl d]⟩) fun x s => .ok (s.putP x d (f x.rd x.sl) 1) 0

/-- md := f of mask registers (R136). -/
def maskOp (h : Head) (d : MReg) (ms : List MReg) (f : Core → Word) : State → Host.Outcome State Fault Refusal :=
  issue h 1 (fun _ => ⟨ms.map RegId.m, [.m d]⟩) fun x s => .ok (s.put x (.m d) (.word (f x.rd)) 1) 0

/-- d := f of one mask register (R136). -/
def maskGet (h : Head) (d : SReg) (a : MReg) (f : Word → Word) : State → Host.Outcome State Fault Refusal :=
  issue h 1 (fun sl => ⟨[.m a], [sid sl d]⟩) fun x s => .ok (s.putS x d (f (x.rd.getM a)) 1) 0

/-! ## Values -/

def shAmt (b : Word) : Nat := bits b 0 6

def sraW (a : Word) (n : Nat) : Word := a.sshiftRight n

def minS (a b : Word) : Word := if b.slt a then b else a
def maxS (a b : Word) : Word := if a.slt b then b else a
def minU (a b : Word) : Word := if b.ult a then b else a
def maxU (a b : Word) : Word := if a.ult b then b else a

/-- Upper halves of the signed and unsigned products. -/
def mulhS (a b : Word) : Word := BitVec.ofInt 64 (a.toInt * b.toInt / 2 ^ 64)
def mulhU (a b : Word) : Word := BitVec.ofNat 64 (a.toNat * b.toNat / 2 ^ 64)

/-- Leading and trailing zero bits: 64 for 0 (R102, R105). -/
def clzW (a : Word) : Word := BitVec.ofNat 64 (64 - bitLen a.toNat)
def ctzW (a : Word) : Word :=
  BitVec.ofNat 64 (((List.range 64).find? fun i => a.getLsbD i).getD 64)

/-- Number of one bits. -/
def popW (a : Word) : Word := BitVec.ofNat 64 ((List.range 64).countP fun i => a.getLsbD i)

/-- The eight bytes reversed (R105). -/
def bswapW (a : Word) : Word := BitVec.ofNat 64 (ofBytes (bytesLE 8 a.toNat).reverse)

/-- The quotient of R103 by a signed or unsigned division, before truncation to 64 bits; none for the cases of 4 cc. -/
def quotient (signed : Bool) (a b : Word) : Option Int :=
  if b = 0 || (signed && decide (a.toInt = -(2 ^ 63)) && decide (b.toInt = -1)) then none
  else if signed then some (a.toInt.tdiv b.toInt) else some ((a.toNat / b.toNat : Nat) : Int)

/-- Cycles of a division (R103). -/
def divTime (signed : Bool) (a b : Word) : Nat :=
  match quotient signed a b with
  | none => 4
  | some q => 4 + (bitLen q.natAbs + 1) / 2

/-- Quotient and remainder of R103. -/
def divValue (signed : Bool) (a b : Word) : Word :=
  match quotient signed a b with
  | some q => BitVec.ofInt 64 q
  | none => if b = 0 then BitVec.allOnes 64 else a

def remValue (signed : Bool) (a b : Word) : Word :=
  match quotient signed a b with
  | some q =>
    if signed then BitVec.ofInt 64 (a.toInt - q * b.toInt) else BitVec.ofInt 64 ((a.toNat : Int) - q * (b.toNat : Int))
  | none => if b = 0 then a else 0

/-- A division: scoreboarded (R103). -/
def divOp (h : Head) (d a b : SReg) (signed : Bool) (f : Bool → Word → Word → Word) :
    State → Host.Outcome State Fault Refusal :=
  issue h 1 (usesRRR d a b) fun x s =>
    .ok (s.putLater x (sid x.sl d) (.word (f signed (x.rs a) (x.rs b))) (divTime signed (x.rs a) (x.rs b)) 0) 0

/-- ADDS and SUBS: Sat64 with its flag (R102). -/
def satOp (h : Head) (d a b : SReg) (f : Int → Int → Int) : State → Host.Outcome State Fault Refusal :=
  issue h 1 (usesRRR d a b) fun x s =>
    let r := sat64 (f (x.rs a).toInt (x.rs b).toInt)
    .ok (s.putS x d r.1 1) r.2

/-- PEERO (R106). -/
def peeroW (a b : Word) : Word :=
  let cx := (bits a 18 9 + bits b 0 16) % 512
  let cy := (bits a 27 9 + bits b 16 16) % 512
  putBits (putBits a 18 9 cx) 27 9 cy

/-- PEER (R106). -/
def peerW (a b : Word) : Word := BitVec.ofNat 64 (0x1000000000 + bits b 0 9 * 2 ^ 27 + bits a 0 9 * 2 ^ 18)

/-! ## OP 0x01 (R102, R103) -/

/-- ADD. -/
def execAdd (h : Head) (d a b : SReg) : State → Host.Outcome State Fault Refusal :=
  aluOp h d a b 1 (fun a b => a + b)

/-- SUB. -/
def execSub (h : Head) (d a b : SReg) : State → Host.Outcome State Fault Refusal :=
  aluOp h d a b 1 (fun a b => a - b)

/-- AND. -/
def execAnd (h : Head) (d a b : SReg) : State → Host.Outcome State Fault Refusal :=
  aluOp h d a b 1 (fun a b => a &&& b)

/-- OR. -/
def execOr (h : Head) (d a b : SReg) : State → Host.Outcome State Fault Refusal :=
  aluOp h d a b 1 (fun a b => a ||| b)

/-- XOR. -/
def execXor (h : Head) (d a b : SReg) : State → Host.Outcome State Fault Refusal :=
  aluOp h d a b 1 (fun a b => a ^^^ b)

/-- SLL by b[5:0]. -/
def execSll (h : Head) (d a b : SReg) : State → Host.Outcome State Fault Refusal :=
  aluOp h d a b 1 (fun a b => a <<< shAmt b)

/-- SRL by b[5:0]. -/
def execSrl (h : Head) (d a b : SReg) : State → Host.Outcome State Fault Refusal :=
  aluOp h d a b 1 (fun a b => a >>> shAmt b)

/-- SRA by b[5:0]. -/
def execSra (h : Head) (d a b : SReg) : State → Host.Outcome State Fault Refusal :=
  aluOp h d a b 1 (fun a b => sraW a (shAmt b))

/-- MIN by s(). -/
def execMin (h : Head) (d a b : SReg) : State → Host.Outcome State Fault Refusal :=
  aluOp h d a b 1 minS

/-- MAX by s(). -/
def execMax (h : Head) (d a b : SReg) : State → Host.Outcome State Fault Refusal :=
  aluOp h d a b 1 maxS

/-- MINU. -/
def execMinu (h : Head) (d a b : SReg) : State → Host.Outcome State Fault Refusal :=
  aluOp h d a b 1 minU

/-- MAXU. -/
def execMaxu (h : Head) (d a b : SReg) : State → Host.Outcome State Fault Refusal :=
  aluOp h d a b 1 maxU

/-- MUL: the low half, L 3. -/
def execMul (h : Head) (d a b : SReg) : State → Host.Outcome State Fault Refusal :=
  aluOp h d a b 3 (fun a b => a * b)

/-- MULH, L 3. -/
def execMulh (h : Head) (d a b : SReg) : State → Host.Outcome State Fault Refusal :=
  aluOp h d a b 3 mulhS

/-- MULHU, L 3. -/
def execMulhu (h : Head) (d a b : SReg) : State → Host.Outcome State Fault Refusal :=
  aluOp h d a b 3 mulhU

/-- ANDN. -/
def execAndn (h : Head) (d a b : SReg) : State → Host.Outcome State Fault Refusal :=
  aluOp h d a b 1 (fun a b => a &&& ~~~b)

/-- ORN. -/
def execOrn (h : Head) (d a b : SReg) : State → Host.Outcome State Fault Refusal :=
  aluOp h d a b 1 (fun a b => a ||| ~~~b)

/-- PEER: the peer-window base of core (a, b) (R106). -/
def execPeer (h : Head) (d a b : SReg) : State → Host.Outcome State Fault Refusal :=
  aluOp h d a b 1 peerW

/-- PEERO: a moved by the displacement in b (R106). -/
def execPeero (h : Head) (d a b : SReg) : State → Host.Outcome State Fault Refusal :=
  aluOp h d a b 1 peeroW

/-- DIV (R103). -/
def execDiv (h : Head) (d a b : SReg) : State → Host.Outcome State Fault Refusal :=
  divOp h d a b true divValue

/-- DIVU (R103). -/
def execDivu (h : Head) (d a b : SReg) : State → Host.Outcome State Fault Refusal :=
  divOp h d a b false divValue

/-- REM (R103). -/
def execRem (h : Head) (d a b : SReg) : State → Host.Outcome State Fault Refusal :=
  divOp h d a b true remValue

/-- REMU (R103). -/
def execRemu (h : Head) (d a b : SReg) : State → Host.Outcome State Fault Refusal :=
  divOp h d a b false remValue

/-- ADDS. -/
def execAdds (h : Head) (d a b : SReg) : State → Host.Outcome State Fault Refusal :=
  satOp h d a b fun a b => a + b

/-- SUBS. -/
def execSubs (h : Head) (d a b : SReg) : State → Host.Outcome State Fault Refusal :=
  satOp h d a b fun a b => a - b

/-- CLZ. -/
def execClz (h : Head) (d a : SReg) : State → Host.Outcome State Fault Refusal :=
  unaryOp h d a (clzW)

/-- POPC. -/
def execPopc (h : Head) (d a : SReg) : State → Host.Outcome State Fault Refusal :=
  unaryOp h d a (popW)

/-- SEXT8 (R105). -/
def execSext8 (h : Head) (d a : SReg) : State → Host.Outcome State Fault Refusal :=
  unaryOp h d a (sextTo64 8)

/-- SEXT16 (R105). -/
def execSext16 (h : Head) (d a : SReg) : State → Host.Outcome State Fault Refusal :=
  unaryOp h d a (sextTo64 16)

/-- SEXT32 (R105). -/
def execSext32 (h : Head) (d a : SReg) : State → Host.Outcome State Fault Refusal :=
  unaryOp h d a (sextTo64 32)

/-- ZEXT8 (R105). -/
def execZext8 (h : Head) (d a : SReg) : State → Host.Outcome State Fault Refusal :=
  unaryOp h d a (fun a => a &&& 0xFF)

/-- ZEXT16 (R105). -/
def execZext16 (h : Head) (d a : SReg) : State → Host.Outcome State Fault Refusal :=
  unaryOp h d a (fun a => a &&& 0xFFFF)

/-- ZEXT32 (R105). -/
def execZext32 (h : Head) (d a : SReg) : State → Host.Outcome State Fault Refusal :=
  unaryOp h d a (fun a => a &&& 0xFFFFFFFF)

/-- BSWAP (R105). -/
def execBswap (h : Head) (d a : SReg) : State → Host.Outcome State Fault Refusal :=
  unaryOp h d a (bswapW)

/-- CTZ (R105). -/
def execCtz (h : Head) (d a : SReg) : State → Host.Outcome State Fault Refusal :=
  unaryOp h d a (ctzW)

/-- PIDX: zext64(a[35:18]) (R106). -/
def execPidx (h : Head) (d a : SReg) : State → Host.Outcome State Fault Refusal :=
  unaryOp h d a (fun a => BitVec.ofNat 64 (bits a 18 18))

/-! ## Immediates (R104) -/

/-- ADDI. -/
def execAddi (h : Head) (x : ImmX) (d a : SReg) (imm : BitVec 10) : State → Host.Outcome State Fault Refusal :=
  immOp h x d a imm (fun a i => a + i)

/-- ANDI. -/
def execAndi (h : Head) (x : ImmX) (d a : SReg) (imm : BitVec 10) : State → Host.Outcome State Fault Refusal :=
  immOp h x d a imm (fun a i => a &&& i)

/-- ORI. -/
def execOri (h : Head) (x : ImmX) (d a : SReg) (imm : BitVec 10) : State → Host.Outcome State Fault Refusal :=
  immOp h x d a imm (fun a i => a ||| i)

/-- XORI. -/
def execXori (h : Head) (x : ImmX) (d a : SReg) (imm : BitVec 10) : State → Host.Outcome State Fault Refusal :=
  immOp h x d a imm (fun a i => a ^^^ i)

/-- LIH: imm[31:0] above the low half of a. -/
def execLih (h : Head) (x : ImmX) (d a : SReg) (imm : BitVec 10) : State → Host.Outcome State Fault Refusal :=
  immOp h x d a imm (fun a i => (a &&& 0xFFFFFFFF) ||| (i <<< 32))

/-- LI. -/
def execLi (h : Head) (x : ImmX) (d : SReg) (imm : BitVec 10) : State → Host.Outcome State Fault Refusal :=
  issue h (if x.present then 2 else 1) (usesD d) fun c s => .ok (s.putS c d (immI x imm) 1) 0

/-- SLLI. -/
def execSlli (h : Head) (d a : SReg) (sh : BitVec 6) : State → Host.Outcome State Fault Refusal :=
  unaryOp h d a (fun a => a <<< sh.toNat)

/-- SRLI. -/
def execSrli (h : Head) (d a : SReg) (sh : BitVec 6) : State → Host.Outcome State Fault Refusal :=
  unaryOp h d a (fun a => a >>> sh.toNat)

/-- SRAI. -/
def execSrai (h : Head) (d a : SReg) (sh : BitVec 6) : State → Host.Outcome State Fault Refusal :=
  unaryOp h d a (fun a => sraW a sh.toNat)

/-- RORI: a rotated right. -/
def execRori (h : Head) (d a : SReg) (sh : BitVec 6) : State → Host.Outcome State Fault Refusal :=
  unaryOp h d a (fun a => a.rotateRight sh.toNat)

/-! ## Compares (R107) -/

/-- CMP.EQ. -/
def execCmpEq (h : Head) (d : PReg) (a b : SReg) : State → Host.Outcome State Fault Refusal :=
  cmpOp h d a b (fun a b => decide (a = b))

/-- CMP.NE. -/
def execCmpNe (h : Head) (d : PReg) (a b : SReg) : State → Host.Outcome State Fault Refusal :=
  cmpOp h d a b (fun a b => decide (a ≠ b))

/-- CMP.LT. -/
def execCmpLt (h : Head) (d : PReg) (a b : SReg) : State → Host.Outcome State Fault Refusal :=
  cmpOp h d a b (fun a b => a.slt b)

/-- CMP.GE. -/
def execCmpGe (h : Head) (d : PReg) (a b : SReg) : State → Host.Outcome State Fault Refusal :=
  cmpOp h d a b (fun a b => !a.slt b)

/-- CMP.LTU. -/
def execCmpLtu (h : Head) (d : PReg) (a b : SReg) : State → Host.Outcome State Fault Refusal :=
  cmpOp h d a b (fun a b => a.ult b)

/-- CMP.GEU. -/
def execCmpGeu (h : Head) (d : PReg) (a b : SReg) : State → Host.Outcome State Fault Refusal :=
  cmpOp h d a b (fun a b => !a.ult b)

/-- CMP.BITS. -/
def execCmpBits (h : Head) (d : PReg) (a b : SReg) : State → Host.Outcome State Fault Refusal :=
  cmpOp h d a b (fun a b => decide (a &&& b ≠ 0))

/-- CMP.NBITS. -/
def execCmpNbits (h : Head) (d : PReg) (a b : SReg) : State → Host.Outcome State Fault Refusal :=
  cmpOp h d a b (fun a b => decide (a &&& b = 0))

/-- CMPI.EQ. -/
def execCmpiEq (h : Head) (x : ImmX) (d : PReg) (a : SReg) (imm : BitVec 7) : State → Host.Outcome State Fault Refusal :=
  cmpiOp h x d a imm (fun a b => decide (a = b))

/-- CMPI.NE. -/
def execCmpiNe (h : Head) (x : ImmX) (d : PReg) (a : SReg) (imm : BitVec 7) : State → Host.Outcome State Fault Refusal :=
  cmpiOp h x d a imm (fun a b => decide (a ≠ b))

/-- CMPI.LT. -/
def execCmpiLt (h : Head) (x : ImmX) (d : PReg) (a : SReg) (imm : BitVec 7) : State → Host.Outcome State Fault Refusal :=
  cmpiOp h x d a imm (fun a b => a.slt b)

/-- CMPI.GE. -/
def execCmpiGe (h : Head) (x : ImmX) (d : PReg) (a : SReg) (imm : BitVec 7) : State → Host.Outcome State Fault Refusal :=
  cmpiOp h x d a imm (fun a b => !a.slt b)

/-- CMPI.LTU. -/
def execCmpiLtu (h : Head) (x : ImmX) (d : PReg) (a : SReg) (imm : BitVec 7) : State → Host.Outcome State Fault Refusal :=
  cmpiOp h x d a imm (fun a b => a.ult b)

/-- CMPI.GEU. -/
def execCmpiGeu (h : Head) (x : ImmX) (d : PReg) (a : SReg) (imm : BitVec 7) : State → Host.Outcome State Fault Refusal :=
  cmpiOp h x d a imm (fun a b => !a.ult b)

/-- CMPI.BITS. -/
def execCmpiBits (h : Head) (x : ImmX) (d : PReg) (a : SReg) (imm : BitVec 7) : State → Host.Outcome State Fault Refusal :=
  cmpiOp h x d a imm (fun a b => decide (a &&& b ≠ 0))

/-- CMPI.NBITS. -/
def execCmpiNbits (h : Head) (x : ImmX) (d : PReg) (a : SReg) (imm : BitVec 7) : State → Host.Outcome State Fault Refusal :=
  cmpiOp h x d a imm (fun a b => decide (a &&& b = 0))

/-! ## Predicates (R108) -/

/-- PAND. -/
def execPand (h : Head) (d a b : PReg) : State → Host.Outcome State Fault Refusal :=
  predOp h d [a, b] fun k sl => k.getP sl a && k.getP sl b

/-- POR. -/
def execPor (h : Head) (d a b : PReg) : State → Host.Outcome State Fault Refusal :=
  predOp h d [a, b] fun k sl => k.getP sl a || k.getP sl b

/-- PXOR. -/
def execPxor (h : Head) (d a b : PReg) : State → Host.Outcome State Fault Refusal :=
  predOp h d [a, b] fun k sl => k.getP sl a != k.getP sl b

/-- PANDN. -/
def execPandn (h : Head) (d a b : PReg) : State → Host.Outcome State Fault Refusal :=
  predOp h d [a, b] fun k sl => k.getP sl a && !k.getP sl b

/-- PNOT. -/
def execPnot (h : Head) (d a : PReg) : State → Host.Outcome State Fault Refusal :=
  predOp h d [a] fun k sl => !k.getP sl a

/-- PMOV. -/
def execPmov (h : Head) (d a : PReg) : State → Host.Outcome State Fault Refusal :=
  predOp h d [a] fun k sl => k.getP sl a

/-- PSET. -/
def execPset (h : Head) (d : PReg) : State → Host.Outcome State Fault Refusal :=
  predOp h d [] fun _ _ => true

/-- PCLR. -/
def execPclr (h : Head) (d : PReg) : State → Host.Outcome State Fault Refusal :=
  predOp h d [] fun _ _ => false

/-! ## Masks (R136) -/

/-- MAND. -/
def execMand (h : Head) (d a b : MReg) : State → Host.Outcome State Fault Refusal :=
  maskOp h d [a, b] fun k => k.getM a &&& k.getM b

/-- MOR. -/
def execMor (h : Head) (d a b : MReg) : State → Host.Outcome State Fault Refusal :=
  maskOp h d [a, b] fun k => k.getM a ||| k.getM b

/-- MXOR. -/
def execMxor (h : Head) (d a b : MReg) : State → Host.Outcome State Fault Refusal :=
  maskOp h d [a, b] fun k => k.getM a ^^^ k.getM b

/-- MANDN. -/
def execMandn (h : Head) (d a b : MReg) : State → Host.Outcome State Fault Refusal :=
  maskOp h d [a, b] fun k => k.getM a &&& ~~~k.getM b

/-- MNOT. -/
def execMnot (h : Head) (d a : MReg) : State → Host.Outcome State Fault Refusal :=
  maskOp h d [a] fun k => ~~~k.getM a

/-- MSET. -/
def execMset (h : Head) (d : MReg) (a : SReg) : State → Host.Outcome State Fault Refusal :=
  issue h 1 (fun sl => ⟨[sid sl a], [.m d]⟩) fun x s => .ok (s.put x (.m d) (.word (x.rs a)) 1) 0

/-- MGET. -/
def execMget (h : Head) (d : SReg) (a : MReg) : State → Host.Outcome State Fault Refusal :=
  maskGet h d a (fun m => m)

/-- MPOP. -/
def execMpop (h : Head) (d : SReg) (a : MReg) : State → Host.Outcome State Fault Refusal :=
  maskGet h d a (popW)

/-- MFIRST. -/
def execMfirst (h : Head) (d : SReg) (a : MReg) : State → Host.Outcome State Fault Refusal :=
  maskGet h d a (ctzW)

end Sys2Proof.Machine
end

