-- ==== Sys2Proof/Machine/Fabric.lean ====
section
/-! DEFINITION. The fabric as a core sees it: windows and peer addresses (R11, R12), links and legs (R15, R16, R276), flits
(R401), identities (R234, R289), translation (R262 to R267), the requester's and the home's token checks (R195, R233, R235),
scopes (R21, R216) and the holds of order and overlap (R203, R217, R218). -/

namespace Sys2Proof.Machine

/-! ## Windows (R11, R12) -/

/-- Where a fabric address lies: an offset of the own window, a core's index and byte of its 256 KiB stride, a CXL or host
window, or a fault row. -/
inductive Window where
  | own (ofs : Nat)
  | peer (index byte : Nat)
  | cxl
  | host
  | bad
  deriving DecidableEq, Repr

def windowOf (a : Nat) : Window :=
  if a < 0x30000 then .own a
  else if a < 0x1000000000 then .bad
  else if a < 0x2000000000 then .peer ((a - 0x1000000000) / 2 ^ 18) (a % 2 ^ 18)
  else if a < 0x100000000000 then .bad
  else if a < 0x300000000000 then .cxl
  else if a < 0x400000000000 then .bad
  else if a < 0x800000000000 then .host
  else .bad

/-- The first address of a core's peer window. -/
def peerBase (c : Nat) : Nat := 0x1000000000 + c * 2 ^ 18

/-- Field (fx, fy) is fenced (R398). -/
def State.fenced (s : State) (fld : Nat) : Bool := s.mgr.fence.getLsbD fld

/-- A logical core that R12 accepts: inside the advertised array and not in a fenced field. After a shrink in service the array is what the
module advertises now, whatever GEOM the running partition still reads (R99, log 74). -/
def State.coreOk (s : State) (c : Nat) : Bool :=
  decide (coreX c < s.mgr.cols) && decide (coreY c < Config.rows) && !s.fenced (fieldOf c)

/-- A rectangle holds a logical core. -/
def Rect.holds (r : Rect) (c : Nat) : Bool :=
  decide (r.xlo ≤ coreX c) && decide (coreX c ≤ r.xhi) && decide (r.ylo ≤ coreY c) && decide (coreY c ≤ r.yhi)

/-- The rectangle of PART (R98). -/
def Core.partRect (k : Core) : Rect :=
  ⟨bits k.regs.part 0 9, bits k.regs.part 9 9, bits k.regs.part 18 9, bits k.regs.part 27 9⟩

/-- The address check of a range of a peer window (R12, R22): RADDR before RPART (R201). -/
def State.peerCheck (s : State) (k : Core) (index byte n : Nat) : Option Cause :=
  if 0x30000 < byte + max n 1 || !s.coreOk index then some .raddr
  else if !k.partRect.holds index then some .rpart
  else none

/-- The field beside which a port and its edge home lie: ports 0 to 31 along the north rim, 32 to 63 along the south (R387). -/
def portField (p : Nat) : Nat := p % 32 / 4 + if p < 32 then 0 else 40

/-! ## Links (R15, R276) -/

def manhattan (p q : Nat × Nat) : Nat := (p.1 - q.1) + (q.1 - p.1) + ((p.2 - q.2) + (q.2 - p.2))

/-- The physical field number 8·fy + fx (R7). -/
def physField (p : Nat × Nat) : Nat := 8 * (p.2 / 75) + p.1 / 60

/-- The key of a physical core in the table of records. -/
def physKey (p : Nat × Nat) : Nat := p.2 * 480 + p.1

/-- A physical core's record (R270): the listed one, else BOUND at a nominal position of an advertised core and SPARE
elsewhere (log 3); FENCED in a fenced field. -/
def State.physRec (s : State) (p : Nat × Nat) : Byte :=
  if s.fenced (physField p) then 4
  else
    match aget (physKey p) s.mgr.phys with
    | some b => b
    | none => if p.1 < s.mgr.cols && decide (p.2 % 75 < fieldRows (p.2 / 75)) then 1 else 0

def physSt (b : Byte) : Nat := bits b 0 3

/-- A router that a class-D path may pass: SPARE or BOUND. -/
def State.physGood (s : State) (p : Nat × Nat) : Bool := decide (physSt (s.physRec p) ≤ 1)

/-- Some physical core is neither SPARE nor BOUND. -/
def State.anyBad (s : State) : Bool := decide (s.mgr.fence ≠ 0) || s.mgr.phys.any fun e => decide (1 < physSt e.2)

/-- The physical neighbours of a position. -/
def physNbrs (p : Nat × Nat) : List (Nat × Nat) :=
  (if p.1 < 479 then [(p.1 + 1, p.2)] else []) ++ (if 0 < p.1 then [(p.1 - 1, p.2)] else [])
    ++ (if p.2 < 449 then [(p.1, p.2 + 1)] else []) ++ (if 0 < p.2 then [(p.1, p.2 - 1)] else [])

/-- The length of a shortest path through good routers, found level by level; `prev` is the level before. -/
def State.pathSearch (s : State) (goal : Nat × Nat) : Nat → Nat → List (Nat × Nat) → List (Nat × Nat) → Option Nat
  | 0, _, _, _ => none
  | fuel + 1, len, prev, lvl =>
    if lvl.contains goal then some len
    else
      let next := ((lvl.flatMap physNbrs).eraseDups).filter fun p => s.physGood p && !prev.contains p
      if next.isEmpty then none else s.pathSearch goal fuel (len + 1) lvl next

/-- The number of physical links between two physical cores. -/
def State.pathLen (s : State) (p q : Nat × Nat) : Option Nat :=
  if s.anyBad then s.pathSearch q 66 0 [] [p] else some (manhattan p q)

/-- A link's class and h, as an entry holds them: class in bits [1:0], h in bits [7:2]. -/
def State.linkField (s : State) (a b : Nat) : Nat :=
  let bound (c : Nat) : Bool := (s.binding c).getLsbD 26
  if !bound a || !bound b then 3
  else
    let p := s.physOf a
    let q := s.physOf b
    if manhattan p q = 1 then (if physField p = physField q then 0 else 1)
    else
      match s.pathLen p q with
      | some n => 2 + 4 * min 63 (n - 1)
      | none => 3

/-- The fields of a link class entry as firmware computes them; no E link in the last column and no S link in the last
row. -/
def State.computeLink (s : State) (c : Nat) : BitVec 32 :=
  let e := if coreX c + 1 < 480 then s.linkField c (c + 1) else 3
  let so := if coreY c + 1 < Config.rows then s.linkField c (c + 512) else 3
  BitVec.ofNat 32 (s.mgr.bindgen.toNat % 2 ^ 16 * 2 ^ 16 + so * 2 ^ 8 + e)

/-- The tables that a computation of link class entries rests on. -/
def Manager.tables (m : Manager) : BindTables := ⟨m.bindgen, m.bind, m.phys, m.fence, m.cols⟩

/-- The machine with the tables as they were. -/
def State.withTables (s : State) (b : BindTables) : State :=
  { s with mgr := { s.mgr with bindgen := b.bindgen, bind := b.bind, phys := b.phys, fence := b.fence, cols := b.cols } }

/-- The link class entry of a logical core: the one computed at a later change of the binding near it, else the one that bring-up
computed (R276, log 3). -/
def State.linkEntry (s : State) (c : Nat) : BitVec 32 :=
  match aget c s.mgr.links with
  | some w => w
  | none => (s.withTables s.mgr.linkBase).computeLink c

/-- Router-to-router cost of a link (R15). A link of class none joins no two cores of a partition. -/
def linkCost (f : Nat) : Nat :=
  match f % 4 with
  | 0 => 1
  | 1 => 4
  | 2 => 1 + 3 * (f / 4)
  | _ => 1

/-- The cost of the E or the S link of a core. -/
def State.eCost (s : State) (c : Nat) : Nat := linkCost (bits (s.linkEntry c) 0 8)
def State.sCost (s : State) (c : Nat) : Nat := linkCost (bits (s.linkEntry c) 8 8)

/-- A leg between two cores: along the source's row, then the target's column (R16). -/
def State.leg (s : State) (a b : Nat) : Nat :=
  let x0 := min (coreX a) (coreX b)
  let x1 := max (coreX a) (coreX b)
  let y0 := min (coreY a) (coreY b)
  let y1 := max (coreY a) (coreY b)
  ((List.range (x1 - x0)).foldl (fun t i => t + s.eCost (coreY a * 512 + x0 + i)) 0)
    + (List.range (y1 - y0)).foldl (fun t i => t + s.sCost ((y0 + i) * 512 + coreX b)) 0

/-- Flits of a message with `n` payload bytes (R401). -/
def flits (n : Nat) : Nat := if n ≤ 16 then 1 else 1 + cdiv n 32

/-! ## Identities (R234, R289) -/

def ident (c : Nat) (sl : Fin 8) : BitVec 21 := BitVec.ofNat 21 (sl.val * 2 ^ 18 + c)

def slotRid (c : Nat) (sl : Fin 8) : BitVec 22 := BitVec.ofNat 22 (sl.val * 2 ^ 18 + c)

/-- An engine of a core: 0 the copy engine, 1 the router, 2 the token agent. -/
def engineRid (c e : Nat) : BitVec 22 := BitVec.ofNat 22 (2 ^ 21 + e * 2 ^ 18 + c)

/-- The INDEX of an edge home. -/
def edgeIndex (p : Nat) : Nat := p / 32 * 512 + 480 + p % 32

def edgeRid (p : Nat) : BitVec 22 := engineRid (edgeIndex p) 2

/-- The serial counter of an identity: slots 0 to 7, then the engines (R288). -/
def ridCounter (r : BitVec 22) : Nat := if r.getLsbD 21 then 8 + bits r 18 3 else bits r 18 3

/-- The core of an identity. -/
def ridCore (r : BitVec 22) : Nat := bits r 0 18
def identCore (i : BitVec 21) : Nat := bits i 0 18
def identSlot (i : BitVec 21) : Fin 8 := ⟨bits i 18 3, by
  have := (i.extractLsb' 18 3).isLt
  simpa [bits] using this⟩

/-- LE(a, b) of R290. -/
def serLe (a b : BitVec 32) : Bool := decide ((b - a).toNat < 2 ^ 31)

/-! ## Translation (R262 to R267) -/

/-- The memory that a port serves takes part in translation and access: a trained memory port or a host port (R265). -/
def Port.isMem (p : Port) : Bool := decide (p.kind = 1) && p.up && !p.failed
def Port.isHost (p : Port) : Bool := decide (p.kind = 2)

/-- Some byte of a range lies in a poisoned line: poison marks 64-byte lines, each the unit of one CXL.mem request (R388). -/
def Port.poisoned (p : Port) (a n : Nat) : Bool := p.poison.any fun l => decide (l < a + n) && decide (a < l + 64)

def State.port (s : State) (p : Nat) : Port := vat s.ports p (Port.reset 0)

def State.modPort (s : State) (p : Nat) (f : Port → Port) : State :=
  { s with ports := s.ports.setIfInBounds p (f (s.port p)) }

def State.fieldAt (s : State) (i : Nat) : Field := vat s.fields i Field.reset

def State.modField (s : State) (i : Nat) (f : Field → Field) : State :=
  { s with fields := s.fields.setIfInBounds i (f (s.fieldAt i)) }

/-- What a table read comes to. -/
inductive Found (α : Type) where
  | ok (a : α)
  | refused
  | poison
  deriving DecidableEq, Repr

/-- A word of a table as a walk reads it: after a write by another path than a shootdown, the old or the new one (R268, log 5). -/
def State.tableWord (s : State) (e : PartEntry) (p a : Nat) : Nat :=
  let now := (s.port p).mem.readLE a 8
  match e.oldWords.find? fun w => decide (w.1 = (p, a)) with
  | some w => if Config.pick s.fresh (10000 + 8 * a + p) then w.2 else now
  | none => now

/-- `n` words of a port's memory, little-endian, as a walk reads them: refused where the port is no memory port, poison where
a line is bad (R388) or not mapped (log 20). -/
def State.tableRead (s : State) (e : PartEntry) (p a n : Nat) : Found Nat :=
  let q := s.port p
  if !q.isMem then .refused
  else if q.cap.toNat * 2 ^ 30 < a + 8 * n || q.poisoned a (8 * n) then .poison
  else .ok ((List.range n).foldl (fun v i => v + s.tableWord e p (a + 8 * i) * 2 ^ (64 * i)) 0)

/-- Device memory takes bytes by a write; partitions in being may go on reading what was there as table entries (R268). -/
def State.writeDevice (s : State) (p a : Nat) (bs : List Byte) : State :=
  let old := (s.port p).mem
  let words := (wordsOf a bs.length).map fun w => ((p, 8 * w), old.readLE (8 * w) 8)
  let note (e : PartEntry) : PartEntry :=
    if e.st = .free then e
    else { e with oldWords := words ++ e.oldWords.filter fun o => !(words.any fun w => decide (w.1 = o.1)) }
  let s : State := { s with mgr := { s.mgr with table := vmap note s.mgr.table } }
  s.modPort p fun q => { q with mem := q.mem.writeN a bs }

/-- A valid range descriptor (R263), as what it translates. -/
def rangeOf (w0 w1 w2 w3 : Nat) : Option Xlate :=
  let taddr := w2 % 2 ^ 58
  if w3 % 2 = 1 && decide (w0 % 4096 = 0) && decide (w1 % 4096 = 0) && decide (taddr % 4096 = 0) && decide (w0 < w1) then
    some ⟨w0, w1, w2 / 2 ^ 58, taddr, w3 / 8 % 2 = 1, w3 / 16 % 2 = 1, w0, w1⟩
  else none

/-- The range descriptors of a partition as memory holds them now, the valid ones in order. -/
def State.readRanges (s : State) (e : PartEntry) : Found (List Xlate) :=
  let p := bits e.rtab 58 6
  let a := bits e.rtab 0 58
  (List.range e.nrange).foldl (fun (acc : Found (List Xlate)) i =>
    match acc with
    | .ok l =>
      match s.tableRead e p (a + 32 * i) 4 with
      | .ok v =>
        match rangeOf (v % 2 ^ 64) (v / 2 ^ 64 % 2 ^ 64) (v / 2 ^ 128 % 2 ^ 64) (v / 2 ^ 192) with
        | some x => .ok (l ++ [x])
        | none => .ok l
      | .refused => .refused
      | .poison => .poison
    | r => r) (.ok [])

/-- The translation that a leaf gives to the page of `va`. -/
def leafXlate (va size port addr : Nat) (e : Nat) : Xlate :=
  ⟨va / size * size, va / size * size + size, port, addr, e / 8 % 2 = 1, e / 16 % 2 = 1, va / size * size, va / size * size + size⟩

/-- The page-table part of Walk (R264) from level `4 - fuel`; an entry of a 64 KiB page is any of the 16 (log 5). -/
def State.walkPages (s : State) (e : PartEntry) (va : Nat) : Nat → Nat → Nat → Found Xlate
  | 0, _, _ => .refused
  | fuel + 1, port, tbl =>
    let lv := 3 - fuel
    let i := va / 2 ^ (39 - 9 * lv) % 512
    match s.tableRead e port (tbl + 8 * i) 1 with
    | .poison => .poison
    | .refused => .refused
    | .ok e0 =>
      let big := lv = 3 && decide (e0 % 4 = 2) && decide (e0 / 128 % 4 = 1)
      let j := if big then (List.range 4).foldl (fun t b => t + if Config.pick s.fresh (2000 + b) then 2 ^ b else 0) 0 else 0
      match if big then s.tableRead e port (tbl + 8 * (i / 16 * 16 + (i + j) % 16)) 1 else .ok e0 with
      | .poison => .poison
      | .refused => .refused
      | .ok v =>
        let ty := v % 4
        let eport := v / 2 ^ 58
        let addr := v / 2 ^ 12 % 2 ^ 46 * 2 ^ 12
        if ty = 1 then
          if lv = 3 || !(s.port eport).isMem then .refused else s.walkPages e va fuel eport addr
        else if ty ≠ 2 || lv = 0 then .refused
        else
          let ps := v / 128 % 4
          let size := if lv = 1 then 2 ^ 30 else if lv = 2 then 2 ^ 21 else if ps = 1 then 2 ^ 16 else 2 ^ 12
          if (lv = 3 && decide (2 ≤ ps)) || decide (addr % size ≠ 0) then .refused
          else .ok (leafXlate va size eport addr v)

/-- The first of some translations that answers for `va`. -/
def Xlate.lookup (l : List Xlate) (va : Nat) : Option Xlate := l.find? fun x => decide (x.lo ≤ va) && decide (va < x.hi)

/-- The part of a translation around `va` that no range of a list covers. -/
def Xlate.clip (x : Xlate) (l : List Xlate) (va : Nat) : Xlate :=
  l.foldl (fun x y =>
    if y.limit ≤ va then { x with lo := max x.lo y.limit } else if va < y.base then { x with hi := min x.hi y.base } else x) x

/-- The lowest-numbered descriptor of a list that covers `va`, for the part where none before it does (R263). -/
def Xlate.inRanges (l : List Xlate) (va : Nat) : Option Xlate :=
  (Xlate.lookup l va).map fun x => x.clip (l.takeWhile fun y => decide (y ≠ x)) va

/-- Walk (R264): the range table, then the page table. -/
def State.walk (s : State) (e : PartEntry) (va : Nat) : Found Xlate :=
  match s.readRanges e with
  | .poison => .poison
  | .refused => .refused
  | .ok l =>
    match Xlate.inRanges l va with
    | some x => .ok x
    | none =>
      match s.walkPages e va 4 (bits e.root 58 6) (bits e.root 12 46 * 4096) with
      | .ok x => .ok (x.clip l va)
      | r => r

/-- A new entry of the first-level TLB; the oldest of 256 leaves (R266, log 65). -/
def Core.fillTlb (k : Core) (x : Xlate) : Core :=
  if k.tlb.contains x then k else { k with tlb := (if 256 ≤ k.tlb.length then k.tlb.drop 1 else k.tlb) ++ [x] }

/-- The aligned group of 32 pages of one size that a page lies in: an entry of the field translation cache (R266). -/
def Xlate.group (x : Xlate) : Nat × Nat := (x.limit - x.base, x.base / (32 * (x.limit - x.base)))

/-- A page enters the field translation cache: when that needs a group beyond 8,192, the oldest group leaves (R266, log 65). -/
def Field.fill (f : Field) (x : Xlate) : Field :=
  if f.cache.contains x || f.ranges.any fun y => decide ({ y with lo := x.lo, hi := x.hi } = x) then f
  else
    let groups := (f.cache.map Xlate.group).eraseDups
    let kept := if groups.contains x.group || decide (groups.length < 8192) then f.cache
      else match groups with
        | [] => f.cache
        | g :: _ => f.cache.filter fun y => decide (y.group ≠ g)
    { f with cache := kept ++ [x] }

/-- Hops inside a field from a physical position to the field's centre, column 30 and row 37 (R266). -/
def centreHops (p : Nat × Nat) : Nat := manhattan (p.1 % 60, p.2 % 75) (30, 37)

/-- Where a translated access goes: the port and device address, or the cause that refuses it (R265). -/
def State.targetOf (s : State) (x : Xlate) (va : Nat) (write : Bool) : Except Cause (Nat × Nat) :=
  let p := s.port x.port
  if !p.isMem && !p.isHost then .error .xlate
  else if if write then !x.w else !x.r then .error .xlate
  else .ok (x.port, x.target + (va - x.base))

/-- Requests of a field's cores that wait for a walk. -/
def State.walking (s : State) (fld : Nat) : List Walk :=
  s.cores.flatMap fun e => if fieldOf e.1 = fld then e.2.reqs.filterMap fun r => r.walk else []

/-! ## Token checks -/

/-- The entry of the table that a slot holds over a fabric address, live or LOST (R235). -/
def Tables.heldOver (t : Tables) (sl : Fin 8) (a : Nat) : List HeldTok :=
  (t.held.map fun e => e.2).filter fun h =>
    !h.reserved && decide (h.slot = sl) && decide (h.base ≤ a / 256) && decide (a / 256 < h.base + h.size)

/-- The requester's check of one byte (R235): none passes; a CXL read that no entry covers is left to the edge home. -/
def Tables.byteHeld (t : Tables) (sl : Fin 8) (write cxl : Bool) (a : Nat) : Option Cause :=
  let l := t.heldOver sl a
  if l.any fun h => !h.lost && (decide (h.kind = 0) || !write) then none
  else if l.isEmpty then (if cxl && !write then none else some .tnone)
  else if l.all fun h => h.lost then some .tlost
  else some .tnone

/-- The requester's check of a remote access, granule by granule. What lies in an external segment of an edge home needs no
token (R195, R230). -/
def Core.heldCheck (k : Core) (sl : Fin 8) (write cxl : Bool) (ext : Nat → Bool) (a n : Nat) : Option Cause :=
  (granules a n).findSome? fun g => if ext g then none else k.tables.byteHeld sl write cxl g

/-- A byte of an edge home lies in an external segment (R195, R232). -/
def Port.external (p : Port) (a : Nat) : Bool :=
  p.toks.any fun e => e.2.ext && decide (e.2.base ≤ a / 4096) && decide (a / 4096 < e.2.limit)

/-- The rights of a leaf for a remote access by a subject (R233, R400). -/
def HomeTok.remoteOk (e : HomeTok) (subject : BitVec 21) (write : Bool) : Bool :=
  match e.st with
  | .lent | .uncertain => decide (e.holder = subject)
  | .shared => !write && (e.named.toList.contains (some subject) || decide (0 < e.anon))
  | _ => false

/-- The home's check at a core (R195): PRIVATE bytes allow no remote access. -/
def Core.homeCheck (k : Core) (subject : BitVec 21) (write : Bool) (a n : Nat) : Option Cause :=
  if (granules a n).all fun g =>
      match k.tables.leafAt g with
      | some (_, e) => e.remoteOk subject write
      | none => false
  then none else some .tnone

/-- The leaf of an edge home that covers a device address. -/
def Port.leafAt (p : Port) (a : Nat) : Option (Nat × HomeTok) :=
  p.toks.find? fun e => decide (e.2.st ≠ .split) && decide (e.2.base ≤ a / 4096) && decide (a / 4096 < e.2.limit)

/-- The home's check at an edge home (R230, R233, R235); `same`: the requester's partition declared an entry. -/
def Port.homeCheck (p : Port) (subject : BitVec 21) (same : HomeTok → Bool) (write : Bool) (a n : Nat) : Option Cause :=
  if (List.range ((a + n - 1) / 4096 - a / 4096 + 1)).all fun i =>
      match p.leafAt ((a / 4096 + i) * 4096) with
      | none => !write
      | some (_, e) => e.ext || e.remoteOk subject write || (!write && decide (e.st = .home) && same e)
  then none else some .tnone

/-! ## Scopes (R21, R216) and holds -/

/-- The home address, length and kind of an access. -/
def ROp.range : ROp → Option (Nat × Nat × Bool)
  | .load a n _ => some (a, n, false)
  | .store a d _ => some (a, d.length, true)
  | .cword a _ _ _ => some (a, 8, true)
  | .atom _ w32 a _ _ => some (a, if w32 then 4 else 8, true)
  | .badd a _ => some (a, 272, true)
  | _ => none

/-- A home lies in H(S). -/
def Core.inScope (k : Core) (c : Nat) (sc : Scope) (home : Node) : Bool :=
  match sc, home with
  | .mod, _ => true
  | .core, .core i => decide (i = c)
  | .grp g, .core i => k.regs.groups.any fun e => decide (e.gid = g) && e.rects.any fun r => r.holds i
  | .part, .core _ => true
  | _, _ => false

/-- Requests of a slot itself, or sent for it by its own home's token agent, that are not ended (R203, R236). -/
def Core.slotReqs (k : Core) (sl : Fin 8) : List Req :=
  k.reqs.filter fun r => decide (r.slot = sl) && !r.rid.getLsbD 21

/-- R218: an instruction with .rel or .ar is held until every earlier event of the slot in the scope has been performed, and
acknowledged if remote. -/
def Core.relHold (k : Core) (c : Nat) (sl : Fin 8) (sc : Scope) : Bool :=
  (k.stores.any fun b => decide (b.slot = sl)) || (k.slotReqs sl).any fun r => k.inScope c sc r.home

/-- R218: a later event at a home in the scope of an acquire is held until the acquire has returned. -/
def Core.acqHold (k : Core) (c : Nat) (sl : Fin 8) (home : Node) : Bool :=
  (k.slotReqs sl).any fun r =>
    match r.acq with
    | some sc => k.inScope c sc home
    | none => false

/-- Two byte ranges share a 16-byte unit. -/
def shareUnit (lo hi lo' hi' : Nat) : Bool :=
  decide (lo < hi) && decide (lo' < hi') && decide (lo / 16 ≤ (hi' - 1) / 16) && decide (lo' / 16 ≤ (hi - 1) / 16)

/-- R203: an earlier remote access of the slot to the same units, one of the two write-like. -/
def Core.overlapHold (k : Core) (sl : Fin 8) (lo n : Nat) (write : Bool) : Bool :=
  (k.slotReqs sl).any fun r => (write || r.wr) && shareUnit r.lo r.hi lo (lo + n)

/-- The slot's own stores that are not performed yet and touch a range of the own store. -/
def Core.storePending (k : Core) (sl : Fin 8) (a n : Nat) : Bool :=
  k.stores.any fun b => decide (b.slot = sl) && decide (b.addr < a + n) && decide (a < b.addr + b.data.length)

/-- A slot's local read waits while an earlier store of it is to be performed more than 2 cc later, as those of a scatter may be: local
accesses of a slot are performed in issue order (R197, R217, log 64). -/
def Core.readHold (k : Core) (sl : Fin 8) (cyc : Nat) : Bool :=
  k.stores.any fun b => decide (b.slot = sl) && decide (cyc + 2 < b.due)

/-- The holds of a local access: an acquire whose scope has the own store (R218), and an earlier remote access to the same
bytes (R217). -/
def Core.localHold (k : Core) (c : Nat) (sl : Fin 8) (a n : Nat) (write : Bool) : Bool :=
  k.acqHold c sl (.core c) || k.overlapHold sl (peerBase c + a) n write

/-- A request of a slot takes an entry (R203): of the token instructions at the own home only one that gives a token to a slot of
another core does (R236). -/
def Req.takesEntry (r : Req) : Bool :=
  !r.rid.getLsbD 21 && !(r.localWait && (match r.op with
    | .tok o _ _ b _ _ => !((o = .lend || o = .share) && decide (bits b 0 18 ≠ ridCore r.rid))
    | _ => false))

/-- A request entry of the slots is free (R203). -/
def Core.reqFree (k : Core) : Bool := decide ((k.reqs.filter fun r => r.takesEntry).length < 256)

end Sys2Proof.Machine
end

