-- ==== Sys2Proof/Machine/Control.lean ====
section
/-! DEFINITION. Branches, calls and hardware loops (R112 to R119), WAIT, WAITA and YIELD (R120 to R123), TRAP, ISYNC and NOP
(R125 to R127). -/

namespace Sys2Proof.Machine

/-! ## Branches (R112, R117) -/

/-- A taken B or JR to a target outside the captured body of an active level makes that level inactive (R117). -/
def Slot.leaveLoops (x : Slot) (target : Nat) : Slot :=
  { x with loop := vgen fun i =>
      let l := x.loop[i]
      if l.active && !(decide (l.start ≤ target) && decide (target ≤ l.last)) then { l with active := false } else l }

/-- The checks of a branch target, alignment first (R112, R369), then the taken branch with what it changes in the core. -/
def branchTo (x : Ctx) (s : State) (target : Word) (f : Core → Nat → Core) : Res :=
  if target.extractLsb' 0 2 ≠ 0 then .fault .lalign target
  else if 0x30000 ≤ target.toNat then .fault .lrange target
  else .goto (s.modCore x.c fun k => f k target.toNat) target.toNat true

/-- The target of a format J word: its address + 4 × sext(OFF20). -/
def jTarget (x : Ctx) (off : BitVec 20) : Word := BitVec.ofNat 64 x.pc + (off.signExtend 64 <<< 2)

/-- The return address. -/
def Ctx.link (x : Ctx) : Word := BitVec.ofNat 64 (x.last + 4)

/-- B. -/
def execB (h : Head) (off : BitVec 20) : State → Host.Outcome State Fault Refusal :=
  issue h 1 usesNone fun x s => branchTo x s (jTarget x off) fun k t => k.modSlot x.sl fun y => y.leaveLoops t

/-- CALL: t15 is the return address. -/
def execCall (h : Head) (off : BitVec 20) : State → Host.Outcome State Fault Refusal :=
  issue h 1 (usesD (.t 15)) fun x s => branchTo x s (jTarget x off) fun k _ =>
    k.writeFixed (sid x.sl (.t 15)) (.word x.link) 1 x.cyc

/-- JR: the first one taken after trap entry clears INTRAP (R373). -/
def execJr (h : Head) (a : SReg) : State → Host.Outcome State Fault Refusal :=
  issue h 1 (usesA a) fun x s => branchTo x s (x.rs a) fun k t =>
    (k.modSlot x.sl fun y => y.leaveLoops t).trapReturn x.sl

/-- JALR: a is read before d is written. -/
def execJalr (h : Head) (d a : SReg) : State → Host.Outcome State Fault Refusal :=
  issue h 1 (usesRR d a) fun x s => branchTo x s (x.rs a) fun k _ =>
    k.writeFixed (sid x.sl d) (.word x.link) 1 x.cyc

/-- RET: pc := t15. -/
def execRet (h : Head) : State → Host.Outcome State Fault Refusal :=
  issue h 1 (usesA (.t 15)) fun x s => branchTo x s (x.rs (.t 15)) fun k _ => k

/-! ## Hardware loops (R115) -/

/-- LoopEntry of level `lv` with count `n` and a body of `len` words after the instruction. -/
def loopEntry (x : Ctx) (s : State) (lv : Bool) (n len : Nat) : Res :=
  let i : Fin 2 := if lv then 1 else 0
  let start := x.last + 4
  let last := start + 4 * (len - 1)
  match s.core? x.c with
  | none => .hold
  | some k =>
    let y := k.slot x.sl
    let other := y.loop[1 - i]
    if 0x2FFFC < last then .fault .lrange (BitVec.ofNat 64 last)
    else if (y.loop[i]).active || (other.active && (decide (start < other.start) || decide (other.last < last))) then
      .fault .loopnest (BitVec.ofNat 64 x.pc)
    else
      let set (y : Slot) : Slot :=
        { y with ls := BitVec.ofNat 18 start, le := BitVec.ofNat 18 last, lc := y.lc.set i (BitVec.ofNat 32 n) }
      if n = 0 then .goto (s.modCore x.c fun k => k.modSlot x.sl set) (last + 4) false
      else
        .goto (s.modCore x.c fun k => k.modSlot x.sl fun y =>
          { set y with loop := y.loop.set i ⟨true, start, last⟩, inner := i }) start false

/-- LOOP with a count from a register, clamped to 0xFFFF_FFFF. -/
def execLoopReg (h : Head) (lv : Bool) (ca : SReg) (len : BitVec 13) : State → Host.Outcome State Fault Refusal :=
  issue h 1 (usesA ca) fun x s => loopEntry x s lv (min (x.rs ca).toNat 0xFFFFFFFF) len.toNat

/-- LOOP with an immediate count. -/
def execLoopImm (h : Head) (x : ImmX) (lv : Bool) (ca : BitVec 5) (len : BitVec 13) :
    State → Host.Outcome State Fault Refusal :=
  issue h (if x.present then 2 else 1) usesNone fun c s => loopEntry c s lv (loopCount x ca) len.toNat

/-! ## Waits and yield -/

/-- The slot leaves RUNNING for WAITING (R120, R121, R356). -/
def State.startWait (s : State) (x : Ctx) (w : Wait) : State :=
  s.modCore x.c fun k => k.leave.modSlot x.sl fun y => { y with st := .waiting, wait := some w }

/-- The limit of a wait as TIME in ns: 0 is none. -/
def waitLimit (s : State) (a : Word) : Option Nat := if a = 0 then none else some (s.timeNs + a.toNat)

/-- A result written at issue, not pending: the slot goes on (R120, R122). -/
def State.setNow (s : State) (x : Ctx) (d : SReg) (v : Word) : State :=
  s.modCore x.c fun k => k.writeFixed (sid x.sl d) (.word v) 1 x.cyc

/-- WAIT (R120). Stores of the slot that would be performed later than its next issue are performed first: what follows a completed
WAIT follows them (R217). -/
def execWait (h : Head) (d a : SReg) : State → Host.Outcome State Fault Refusal :=
  issue h 1 (usesRR d a) fun x s =>
    match s.core? x.c with
    | none => .hold
    | some k =>
      if k.stores.any fun b => decide (b.slot = x.sl) && decide (x.cyc + 1 < b.due) then .hold
      else if k.outstanding x.sl then .ok (s.startWait x (.all d (waitLimit s (x.rs a)))) 0
      else .ok (s.setNow x d 0) 0

/-- Whether a scope may be named: a group must be one of the core's (R21). -/
def Core.scopeOk (k : Core) (sc : Scope) : Bool :=
  match sc with
  | .grp g => k.regs.groups.any fun e => decide (e.gid = g)
  | _ => true

/-- The scope check of an instruction with an ORD prefix, before its other issue checks (R369). -/
def withScope (x : Ctx) (s : State) (sc : Scope) (r : Core → Res) : Res :=
  match s.core? x.c with
  | none => .hold
  | some k => if k.scopeOk sc then r k else .fault .scope (BitVec.ofNat 64 x.pc)

/-- WAITA (R121, R122): the word is read at issue, own stores included (R197); a wait ends by a watched write or by its
limit. -/
def execWaita (h : Head) (o : OrdX) (d a b : SReg) : State → Host.Outcome State Fault Refusal :=
  issue h (if o.present then 2 else 1) (usesRRRd d a b) fun x s =>
    withScope x s (ordOf o).2 fun k =>
      let addr := x.rs a
      if addr.extractLsb' 0 3 ≠ 0 then .fault .lalign addr
      else if 0x30000 ≤ addr.toNat then .fault .lrange addr
      else if k.readHold x.sl x.cyc || k.localHold x.c x.sl addr.toNat 8 false then .hold
      else
        let k := k.injectRead addr.toNat 8
        let s := s.modCore x.c fun _ => k
        let w : Word := BitVec.ofNat 64 ((k.memView x.sl).readLE addr.toNat 8)
        if (k.badView x.sl addr.toNat 8).isSome then .late s .uels addr
        else if (x.rs b).toNat ≤ w.toNat then .ok (s.setNow x d w) 0
        else .ok (s.startWait x (.word d (waitLimit s (x.rs d)) addr.toNat (x.rs b))) 0

/-- YIELD: RUNNING to READY, the priority kept and the ageing wait restarted; the next selection knows who yielded (R123). -/
def execYield (h : Head) : State → Host.Outcome State Fault Refusal :=
  issue h 1 usesNone fun x s =>
    .ok (s.modCore x.c fun k => { k.leave with yielded := some x.sl }.modSlot x.sl fun y => y.toReady x.cyc) 0

/-! ## Traps, fetch synchronisation and no-op -/

/-- TRAP: SWTRAP at its own address, FADDR := a (R125). -/
def execTrap (h : Head) (a : SReg) : State → Host.Outcome State Fault Refusal :=
  issue h 1 (usesA a) fun x _ => .fault .swtrap (x.rs a)

/-- A request that writes the store of a core home: an access, or a latch operation. A message, a partial and a token request do not. -/
def ROp.writesStore (op : ROp) : Bool :=
  (match op.range with
    | some (_, _, w) => w
    | none => false) || (match op with
    | .latch _ _ _ => true
    | _ => false)

/-- The slot has issued a write to its core's own store that has not been performed: a buffered store, or an access that writes through
the own window or the core's own peer range (R126, R192). -/
def Core.ownWrites (k : Core) (c : Nat) (sl : Fin 8) : Bool :=
  (k.stores.any fun b => decide (b.slot = sl)) || k.reqs.any fun r =>
    decide (r.slot = sl) && !r.rid.getLsbD 21 && r.op.writesStore && decide (r.home = .core c)

/-- ISYNC: held until the slot's local-store writes are performed; then the fetch buffer is discarded (R126, R192). -/
def execIsync (h : Head) : State → Host.Outcome State Fault Refusal :=
  issue h 1 usesNone fun x s =>
    match s.core? x.c with
    | none => .hold
    | some k =>
      if k.ownWrites x.c x.sl then .hold
      else .ok (s.modCore x.c fun k => { k with stale := [] }) 0

/-- NOP. -/
def execNop (h : Head) : State → Host.Outcome State Fault Refusal :=
  issue h 1 usesNone fun _ s => .ok s 0

end Sys2Proof.Machine
end

