-- ==== Sys2Proof/Machine/Csr.lean ====
section
/-! DEFINITION. Control registers (R97 to R100) and the instructions that read and write them (R128 to R130); RNGGET (R361). -/

namespace Sys2Proof.Machine

/-- GROUPS (R98): the valid bits and up to four group ids. -/
def groupsWord (l : List Group) : Word :=
  BitVec.ofNat 64 ((l.take 4).zipIdx.foldl (fun acc e => acc + 2 ^ (32 + e.2) + e.1.gid.toNat * 2 ^ (8 * e.2)) 0)

/-- TASKINFO (R98). -/
def taskinfo (x : Slot) (sl : Fin 8) : Word := BitVec.ofNat 64 (x.door.toNat * 2 ^ 8 + x.prio.toNat * 2 ^ 4 + sl.val)

/-- The value that a control register reads (R97, R98); an unassigned number does not decode. -/
def State.readCsr (s : State) (c : Nat) (k : Core) (sl : Fin 8) (n : Nat) : Word :=
  let x := k.slot sl
  match n with
  | 0x000 => x.fflags.setWidth 64
  | 0x001 => x.frm.setWidth 64
  | 0x002 => x.ftrap.setWidth 64
  | 0x003 => if x.schk then 1 else 0
  | 0x004 => (x.lc[(0 : Fin 2)]).setWidth 64
  | 0x005 => (x.lc[(1 : Fin 2)]).setWidth 64
  | 0x006 => x.ls.setWidth 64
  | 0x007 => x.le.setWidth 64
  | 0x008 => x.tcause.setWidth 64
  | 0x009 => x.faddr
  | 0x00A => taskinfo x sl
  | 0x010 => BitVec.ofNat 64 (c % 2 ^ 18)
  | 0x011 => k.regs.geom.setWidth 64
  | 0x012 => k.regs.part.setWidth 64
  | 0x013 => groupsWord k.regs.groups
  | 0x014 => s.mgr.bindgen.setWidth 64
  | 0x020 => k.regs.rng.key
  | 0x021 => k.regs.rng.ctr
  | 0x022 => k.regs.rng.mode.setWidth 64
  | 0x030 => k.regs.amax.setWidth 64
  | 0x040 => k.regs.finj
  | 0x050 => BitVec.ofNat 64 s.timeNs
  | 0x051 => BitVec.ofNat 64 s.now
  | 0x052 => (k.regs.pmselNew.getD k.regs.pmsel).setWidth 64
  | 0x053 => k.regs.pmc[(0 : Fin 4)]
  | 0x054 => k.regs.pmc[(1 : Fin 4)]
  | 0x055 => k.regs.pmc[(2 : Fin 4)]
  | 0x056 => k.regs.pmc[(3 : Fin 4)]
  | _ => 0

/-- The assigned bits of FINJ (R98). -/
def finjMask : Word := 0x007FFF0000FF070F

/-- The write of a control register: read-only registers and reserved bits keep their values (R97, R128). -/
def Core.writeCsr (k : Core) (sl : Fin 8) (n : Nat) (v : Word) : Core :=
  let slot (f : Slot → Slot) : Core := k.modSlot sl f
  let regs (f : Regs → Regs) : Core := { k with regs := f k.regs }
  match n with
  | 0x000 => slot fun x => { x with fflags := v.setWidth 6 }
  | 0x001 => if 4 < bits v 0 3 then k else slot fun x => { x with frm := v.setWidth 3 }
  | 0x002 => slot fun x => { x with ftrap := v.setWidth 6 }
  | 0x003 => slot fun x => { x with schk := v.getLsbD 0 }
  | 0x004 => slot fun x => { x with lc := x.lc.set 0 (v.setWidth 32) }
  | 0x005 => slot fun x => { x with lc := x.lc.set 1 (v.setWidth 32) }
  | 0x006 => slot fun x => { x with ls := (v &&& 0x3FFFC).setWidth 18 }
  | 0x007 => slot fun x => { x with le := (v &&& 0x3FFFC).setWidth 18 }
  | 0x008 => slot fun x => { x with tcause := v.setWidth 8 }
  | 0x009 => slot fun x => { x with faddr := v }
  | 0x020 => regs fun r => { r with rng := { r.rng with key := v } }
  | 0x021 => regs fun r => { r with rng := { r.rng with ctr := v } }
  | 0x022 => regs fun r => { r with rng := { r.rng with mode := v.setWidth 4 } }
  | 0x030 => regs fun r => { r with amax := v.setWidth 32 }
  | 0x040 => regs fun r => { r with finj := v &&& finjMask }
  | 0x052 => regs fun r => { r with pmselNew := some (v.setWidth 32) }
  | 0x053 => regs fun r => { r with pmc := r.pmc.set 0 v }
  | 0x054 => regs fun r => { r with pmc := r.pmc.set 1 v }
  | 0x055 => regs fun r => { r with pmc := r.pmc.set 2 v }
  | 0x056 => regs fun r => { r with pmc := r.pmc.set 3 v }
  | _ => k

/-- Work that holds a CSR instruction on FFLAGS (R77, R129): everything the slot issued earlier and that has not completed,
matrix commands and copies apart. -/
def Core.flagsBusy (k : Core) (sl : Fin 8) : Bool :=
  !k.inflight.isEmpty || k.results.any (fun r => decide (r.slot = sl)) || k.sfu.any (fun r => decide (r.slot = sl))
    || k.stores.any (fun b => decide (b.slot = sl))
    || k.reqs.any (fun r => decide (r.slot = sl) && !r.rid.getLsbD 21)

/-- Performs the AMAX updates of drains that are due by a cycle, in their order (R182): the canonical NaN wins. -/
def Core.amaxApply (k : Core) (cyc : Nat) : Core :=
  let due := k.regs.amaxQ.filter fun e => decide (e.1 ≤ cyc)
  let v := due.foldl (fun m e => BitVec.ofNat 32 (fpMinMax fp32 true m.toNat e.2.toNat)) k.regs.amax
  { k with regs := { k.regs with amax := v, amaxQ := k.regs.amaxQ.filter fun e => !decide (e.1 ≤ cyc) } }

/-- CsrOp (R128): `f` forms the new value from the old and a; `always`: written even when the A field is g0. -/
def csrOp (h : Head) (d a : SReg) (csr : BitVec 10) (always : Bool) (f : Word → Word → Word) :
    State → Host.Outcome State Fault Refusal :=
  issue h 1 (usesRR d a) fun x s =>
    let s := if csr = 0x030 then s.modCore x.c fun k => k.amaxApply x.cyc else s
    match s.core? x.c with
    | none => .hold
    | some k =>
      if csr = 0 && k.flagsBusy x.sl then .hold
      else
        let n := csr.toNat
        let old := s.readCsr x.c k x.sl n
        let s := if always || decide (a ≠ .g 0) then s.modCore x.c fun k => k.writeCsr x.sl n (f old (x.rs a)) else s
        .ok (s.putS x d old 1) 0

/-- CSRW. -/
def execCsrw (h : Head) (d a : SReg) (csr : BitVec 10) : State → Host.Outcome State Fault Refusal :=
  csrOp h d a csr true fun _ a => a

/-- CSRS. -/
def execCsrs (h : Head) (d a : SReg) (csr : BitVec 10) : State → Host.Outcome State Fault Refusal :=
  csrOp h d a csr false fun old a => old ||| a

/-- CSRC. -/
def execCsrc (h : Head) (d a : SReg) (csr : BitVec 10) : State → Host.Outcome State Fault Refusal :=
  csrOp h d a csr false fun old a => old &&& ~~~a

/-- RNGGET (R361): one value of the core's generator. -/
def execRngget (h : Head) (d : SReg) : State → Host.Outcome State Fault Refusal :=
  issue h 1 (usesD d) fun x s =>
    match s.core? x.c with
    | none => .hold
    | some k =>
      let r := k.regs.rng.next
      let s := s.modCore x.c fun k => { k with regs := { k.regs with rng := r.2 } }
      .ok (s.putS x d (r.1.setWidth 64) 1) 0

end Sys2Proof.Machine
end

