-- ==== Sys2Proof/Machine/Float.lean ====
section
/-! DEFINITION. Scalar floating point (R109 to R111): FP32 in bits [31:0] of the operands, results in d[31:0]. -/

namespace Sys2Proof.Machine

/-- Words of an instruction that may carry a VEC prefix. -/
def vxWords (x : VecX) : Nat := if x.present then 2 else 1

/-- FP32 operand: bits [31:0] of a scalar. -/
def Ctx.f32 (x : Ctx) (r : SReg) : Nat := bits (x.rs r) 0 32

/-- The generator after an instruction. -/
def State.putRng (s : State) (c : Nat) (g : Rng) : State :=
  s.modCore c fun k => { k with regs := { k.regs with rng := g } }

/-- A scalar FP result with L 4 and its flags. -/
def fpDone (c : Ctx) (s : State) (d : SReg) (r : Nat × Fx) : Res :=
  .ok ((s.putRng c.c r.2.rng).putS c d (BitVec.ofNat 64 r.1) 4) r.2.flags

/-- A scalar FP result written 14 cc after issue, with its flags then (R109, R114). -/
def fpLater (c : Ctx) (s : State) (d : SReg) (r : Nat × Fx) : Res :=
  .ok ((s.putRng c.c r.2.rng).putLater c (sid c.sl d) (.word (BitVec.ofNat 64 r.1)) 14 r.2.flags) 0

/-- pd := a comparison, false when an operand is NaN (R109). -/
def fcmpOp (h : Head) (x : VecX) (d : PReg) (a b : SReg) (f : Int → Bool) : State → Host.Outcome State Fault Refusal :=
  issue h (vxWords x) (fun sl => ⟨[sid sl a, sid sl b], [.p sl d]⟩) fun c s =>
    let r := (Num.ofBits fp32 (c.f32 a)).cmp (Num.ofBits fp32 (c.f32 b))
    .ok (s.putP c d (match r with
      | some v => f v
      | none => false) 4) 0

/-- FADD. -/
def execFadd (h : Head) (x : VecX) (d a b : SReg) : State → Host.Outcome State Fault Refusal :=
  issue h (vxWords x) (usesRRR d a b) fun c s =>
    fpDone c s d (fpAdd fp32 (c.f32 a) (c.f32 b) (c.mode (vxRm x)) false (c.fx s))

/-- FSUB. -/
def execFsub (h : Head) (x : VecX) (d a b : SReg) : State → Host.Outcome State Fault Refusal :=
  issue h (vxWords x) (usesRRR d a b) fun c s =>
    fpDone c s d (fpSub fp32 (c.f32 a) (c.f32 b) (c.mode (vxRm x)) false (c.fx s))

/-- FMUL. -/
def execFmul (h : Head) (x : VecX) (d a b : SReg) : State → Host.Outcome State Fault Refusal :=
  issue h (vxWords x) (usesRRR d a b) fun c s =>
    fpDone c s d (fpMul fp32 (c.f32 a) (c.f32 b) (c.mode (vxRm x)) false (c.fx s))

/-- FDIV: scoreboarded. -/
def execFdiv (h : Head) (x : VecX) (d a b : SReg) : State → Host.Outcome State Fault Refusal :=
  issue h (vxWords x) (usesRRR d a b) fun c s =>
    fpLater c s d (fpDiv fp32 (c.f32 a) (c.f32 b) (c.mode (vxRm x)) false (c.fx s))

/-- FSQRT: scoreboarded. -/
def execFsqrt (h : Head) (x : VecX) (d a : SReg) : State → Host.Outcome State Fault Refusal :=
  issue h (vxWords x) (usesRR d a) fun c s =>
    fpLater c s d (fpSqrt fp32 (c.f32 a) (c.mode (vxRm x)) (c.fx s))

/-- FMA: a × b + d, one rounding. -/
def execFma (h : Head) (x : VecX) (d a b : SReg) : State → Host.Outcome State Fault Refusal :=
  issue h (vxWords x) (usesRRRd d a b) fun c s =>
    fpDone c s d (fpFma fp32 false false (c.f32 a) (c.f32 b) (c.f32 d) (c.mode (vxRm x)) false (c.fx s))

/-- FMIN (R38). -/
def execFmin (h : Head) (x : VecX) (d a b : SReg) : State → Host.Outcome State Fault Refusal :=
  issue h (vxWords x) (usesRRR d a b) fun c s => fpDone c s d (fpMinMax fp32 false (c.f32 a) (c.f32 b), c.fx s)

/-- FMAX (R38). -/
def execFmax (h : Head) (x : VecX) (d a b : SReg) : State → Host.Outcome State Fault Refusal :=
  issue h (vxWords x) (usesRRR d a b) fun c s => fpDone c s d (fpMinMax fp32 true (c.f32 a) (c.f32 b), c.fx s)

/-- FEQ. -/
def execFeq (h : Head) (x : VecX) (d : PReg) (a b : SReg) : State → Host.Outcome State Fault Refusal :=
  fcmpOp h x d a b fun v => decide (v = 0)

/-- FLT. -/
def execFlt (h : Head) (x : VecX) (d : PReg) (a b : SReg) : State → Host.Outcome State Fault Refusal :=
  fcmpOp h x d a b fun v => decide (v < 0)

/-- FLE. -/
def execFle (h : Head) (x : VecX) (d : PReg) (a b : SReg) : State → Host.Outcome State Fault Refusal :=
  fcmpOp h x d a b fun v => decide (v ≤ 0)

/-- FCVTI: to INT32 or INT64, rounded, clamped with NV, sign-extended (R110). -/
def execFcvti (h : Head) (x : VecX) (d a : SReg) : State → Host.Outcome State Fault Refusal :=
  issue h (vxWords x) (usesRR d a) fun c s =>
    let w := if vxFmt x .f32 = .i64 then 64 else 32
    let r := roundToInt w (Num.ofBits fp32 (c.f32 a)) (c.mode (vxRm x)) (c.fx s)
    fpDone c s d ((BitVec.ofInt 64 r.1).toNat, r.2)

/-- FCVTF: of INT32 or INT64 (R110). -/
def execFcvtf (h : Head) (x : VecX) (d a : SReg) : State → Host.Outcome State Fault Refusal :=
  issue h (vxWords x) (usesRR d a) fun c s =>
    let v := if vxFmt x .f32 = .i64 then (c.rs a).toInt else ((c.rs a).setWidth 32).toInt
    fpDone c s d (round fp32 (Num.ofInt v) (c.mode (vxRm x)) false (c.fx s))

/-- FABS. -/
def execFabs (h : Head) (x : VecX) (d a : SReg) : State → Host.Outcome State Fault Refusal :=
  issue h (vxWords x) (usesRR d a) fun c s => fpDone c s d (fpAbs fp32 (c.f32 a), c.fx s)

/-- FNEG. -/
def execFneg (h : Head) (x : VecX) (d a : SReg) : State → Host.Outcome State Fault Refusal :=
  issue h (vxWords x) (usesRR d a) fun c s => fpDone c s d (fpNeg fp32 (c.f32 a), c.fx s)

/-- FCLASS (R111). -/
def execFclass (h : Head) (x : VecX) (d a : SReg) : State → Host.Outcome State Fault Refusal :=
  issue h (vxWords x) (usesRR d a) fun c s => fpDone c s d (fpClass (c.f32 a), c.fx s)

end Sys2Proof.Machine
end

