-- ==== Sys2Proof/Machine/Vector.lean ====
section
/-! DEFINITION. Vector instructions: element forms (R132 to R139), comparisons (R140), lane moves (R141, R142), reductions
(R143), conversions (R144, R145), blocks (R146 to R148), weights from codes (R149) and the requests of the special-function
unit (R150 to R155). -/

namespace Sys2Proof.Machine

/-! ## Result forms -/

/-- The destination register as it stands: lanes that are not written and the header keep these values (R132). -/
def State.vOld (s : State) (c : Nat) (d : VNum) : VReg :=
  match s.core? c with
  | some k => k.getV d
  | none => VReg.reset

/-- A fixed-latency vector result with the generator and flags after it. -/
def vecDone (c : Ctx) (s : State) (d : VNum) (v : VReg) (lat : Nat) (y : Fx) : Res :=
  .ok ((s.putRng c.c y.rng).put c (.v d) (.vec v) lat) y.flags

/-- A scoreboarded vector result: its flags are raised when it is written (R135). -/
def vecLater (c : Ctx) (s : State) (d : VNum) (v : VReg) (lat : Nat) (y : Fx) : Res :=
  .ok ((s.putRng c.c y.rng).putLater c (.v d) (.vec v) lat y.flags) 0

/-- The floating-point pipe takes an element form when it is free, and is busy for 2 cc (R134). -/
def fpPipe (c : Ctx) (s : State) (r : State → Res) : Res :=
  match s.core? c.c with
  | none => .hold
  | some k =>
    if c.cyc < k.fpFree then .hold else r (s.modCore c.c fun k => { k with fpFree := c.cyc + 2 })

/-- Integer element form of width `w`: `f a b` is the element and whether it clamped (R137). -/
def intElem (h : Head) (x : VecX) (d a b : VNum) (mk : MaskX) (w : Nat) (f : Int → Int → Int × Bool) :
    State → Host.Outcome State Fault Refusal :=
  issue h (vxWords x) (usesV x d a b mk false) fun c s =>
    let va := (c.rd.getV a).lanes
    let vb := (c.vb x b).lanes
    let sg (v : Nat) : Int := (BitVec.ofNat w v).toInt
    let r := mapElems w (c.mask mk) (s.vOld c.c d).lanes (fun e y =>
      let (v, sat) := f (sg (vecElem w va e)) (sg (vecElem w vb e))
      ((BitVec.ofInt w v).toNat, y.raise (satFlag sat))) (c.fx s)
    vecDone c s d { s.vOld c.c d with lanes := r.1 } 2 r.2

/-- An integer form on 32-bit lanes as bit vectors (R137). -/
def laneOp (h : Head) (x : VecX) (d a b : VNum) (mk : MaskX) (f : Lane → Lane → Lane) :
    State → Host.Outcome State Fault Refusal :=
  issue h (vxWords x) (usesV x d a b mk false) fun c s =>
    let va := (c.rd.getV a).lanes
    let vb := (c.vb x b).lanes
    let r := mapElems 32 (c.mask mk) (s.vOld c.c d).lanes (fun e y => ((f (vat va e 0) (vat vb e 0)).toNat, y)) (c.fx s)
    vecDone c s d { s.vOld c.c d with lanes := r.1 } 2 r.2

/-- Floating-point element form: `f a b d rm sat` on encodings (R138); `rd`: the destination is an operand. -/
def fpElem (h : Head) (x : VecX) (d a b : VNum) (mk : MaskX) (w : Nat) (rd : Bool)
    (f : Nat → Nat → Nat → RMode → Bool → Fx → Nat × Fx) : State → Host.Outcome State Fault Refusal :=
  issue h (vxWords x) (usesV x d a b mk rd) fun c s => fpPipe c s fun s =>
    let va := (c.rd.getV a).lanes
    let vb := (c.vb x b).lanes
    let vd := (c.rd.getV d).lanes
    let r := mapElems w (c.mask mk) (s.vOld c.c d).lanes (fun e y =>
      f (vecElem w va e) (vecElem w vb e) (vecElem w vd e) (c.mode (vxRm x)) (vxSat x) y) (c.fx s)
    vecDone c s d { s.vOld c.c d with lanes := r.1 } 4 r.2

/-- VABS and VNEG of FP32 (R138). -/
def fpSign (h : Head) (x : VecX) (d a : VNum) (mk : MaskX) (f : Nat → Nat) : State → Host.Outcome State Fault Refusal :=
  issue h (vxWords x) (usesV2 d a mk) fun c s => fpPipe c s fun s =>
    let va := (c.rd.getV a).lanes
    let r := mapElems 32 (c.mask mk) (s.vOld c.c d).lanes (fun e y => (f (vecElem 32 va e), y)) (c.fx s)
    vecDone c s d { s.vOld c.c d with lanes := r.1 } 4 r.2

/-- A mask result: bit i is set when `f` holds for every element of lane i; disabled lanes keep their bits (R140). -/
def cmpLanes (c : Ctx) (s : State) (d : MReg) (mask : Word) (w lat : Nat) (f : Nat → Bool) : Res :=
  let old := match s.core? c.c with
    | some k => k.getM d
    | none => 0
  let v := (List.range 64).foldl (fun (acc : Nat) i =>
    let bit := if mask.getLsbD i then (List.range (32 / w)).all fun j => f (i * (32 / w) + j) else old.getLsbD i
    if bit then acc + 2 ^ i else acc) 0
  .ok (s.put c (.m d) (.word (BitVec.ofNat 64 v)) lat) 0

/-- The lanes of vd that a mask enables, from `f i`; the others keep their values (R141). -/
def moveLanes (c : Ctx) (s : State) (d : VNum) (mask : Word) (lat : Nat) (f : Nat → Lane) : Res :=
  let old := s.vOld c.c d
  let v : Vector Lane 64 := vgen fun i => if mask.getLsbD i.val then f i.val else old.lanes[i]
  vecDone c s d { old with lanes := v } lat (c.fx s)

/-- A reduction of the selected lanes to every lane of vd, 12 cc (R143). -/
def reduceLanes (h : Head) (x : VecX) (d a : VNum) (mk : MaskX) (empty : Nat) (fix : Nat → Nat)
    (f : RMode → Nat → Nat → Fx → Nat × Fx) : State → Host.Outcome State Fault Refusal :=
  issue h (vxWords x) (usesV2 d a mk) fun c s =>
    let va := (c.rd.getV a).lanes
    let mask := c.mask mk
    let l := (List.range 64).map fun i => if mask.getLsbD i then some (vat va i 0).toNat else none
    let r := treeReduce (f (c.mode (vxRm x))) l (c.fx s)
    let v := fix (r.1.getD empty)
    vecLater c s d { s.vOld c.c d with lanes := Vector.replicate 64 (BitVec.ofNat 32 v) } 12 r.2

/-- A conversion of OP 0x35 from elements of width `sw` to width `dw` (R144), 6 cc. -/
def convert (h : Head) (x : VecX) (d a : VNum) (mk : MaskX) (sw dw : Nat) (f : RMode → Bool → Nat → Fx → Nat × Fx) :
    State → Host.Outcome State Fault Refusal :=
  issue h (vxWords x) (usesV2 d a mk) fun c s =>
    let va := (c.rd.getV a)
    let hh := vxImm8 x
    let src (e : Nat) : Nat := if sw = 4 then vecNibble va.lanes e else vecElem sw va.lanes e
    let g (e : Nat) : Option (Fx → Nat × Fx) :=
      if dw < sw then
        let n := 64 * 32 / sw
        if n * hh ≤ e && decide (e < n * hh + n) then some (f (c.mode (vxRm x)) (vxSat x) (src (e - n * hh))) else none
      else if sw < dw then some (f (c.mode (vxRm x)) (vxSat x) (src (64 * 32 / dw * hh + e)))
      else some (f (c.mode (vxRm x)) (vxSat x) (src e))
    let r := mapSome dw (c.mask mk) (s.vOld c.c d).lanes g (c.fx s)
    vecLater c s d { s.vOld c.c d with lanes := r.1 } 6 r.2

/-- A whole-register result of OP 0x34 from one register, 6 cc (R147). -/
def blockOp (h : Head) (x : VecX) (d a : VNum) (f : RMode → VReg → Fx → VReg × Fx) :
    State → Host.Outcome State Fault Refusal :=
  issue h (vxWords x) (fun _ => ⟨[.v a], [.v d]⟩) fun c s =>
    let r := f (c.mode (vxRm x)) (c.rd.getV a) (c.fx s)
    vecLater c s d r.1 6 r.2

/-! ## Requests of the special-function unit (R152) -/

/-- Queues a request with its operands: held while 8 entries are occupied. -/
def sfuQueue (c : Ctx) (s : State) (fn : SfuFn) (d : VNum) (old a b : VReg) (mask : Word) (rm : Rm) : Res :=
  match s.core? c.c with
  | none => .hold
  | some k =>
    if 8 ≤ k.sfu.length then .hold
    else
      let mode : Rm := match c.mode rm with
        | .rne => .rne
        | .rtz => .rtz
        | .rdn => .rdn
        | .rup => .rup
        | .sr => .sr
      .ok (s.modCore c.c fun k => { k with sfu := k.sfu ++
        [⟨c.sl, fn, d, old, a, b, mask, mode, (k.slot c.sl).ftrap, c.cyc, c.pc, none, 0, old, 0⟩] }) 0

/-- A one-operand function (R150). -/
def sfuOne (h : Head) (x : VecX) (d a : VNum) (mk : MaskX) (fn : SfuFn) : State → Host.Outcome State Fault Refusal :=
  issue h (vxWords x) (usesV2 d a mk) fun c s =>
    sfuQueue c s fn d (s.vOld c.c d) (c.rd.getV a) VReg.reset (c.mask mk) (vxRm x)

/-! ## Integer element forms (R137) -/

/-- VADD.i32. -/
def execVaddI32 (h : Head) (x : VecX) (d a b : VNum) (mk : MaskX) : State → Host.Outcome State Fault Refusal :=
  intElem h x d a b mk 32 (fun a b => (a + b, false))

/-- VSUB.i32. -/
def execVsubI32 (h : Head) (x : VecX) (d a b : VNum) (mk : MaskX) : State → Host.Outcome State Fault Refusal :=
  intElem h x d a b mk 32 (fun a b => (a - b, false))

/-- VMUL.i32. -/
def execVmulI32 (h : Head) (x : VecX) (d a b : VNum) (mk : MaskX) : State → Host.Outcome State Fault Refusal :=
  intElem h x d a b mk 32 (fun a b => (a * b, false))

/-- VMULH.i32. -/
def execVmulhI32 (h : Head) (x : VecX) (d a b : VNum) (mk : MaskX) : State → Host.Outcome State Fault Refusal :=
  intElem h x d a b mk 32 (fun a b => (a * b / 2 ^ 32, false))

/-- VMIN.i32. -/
def execVminI32 (h : Head) (x : VecX) (d a b : VNum) (mk : MaskX) : State → Host.Outcome State Fault Refusal :=
  intElem h x d a b mk 32 (fun a b => (if b < a then b else a, false))

/-- VMAX.i32. -/
def execVmaxI32 (h : Head) (x : VecX) (d a b : VNum) (mk : MaskX) : State → Host.Outcome State Fault Refusal :=
  intElem h x d a b mk 32 (fun a b => (if a < b then b else a, false))

/-- VAND on 32-bit lanes. -/
def execVand (h : Head) (x : VecX) (d a b : VNum) (mk : MaskX) : State → Host.Outcome State Fault Refusal :=
  laneOp h x d a b mk fun a b => a &&& b

/-- VOR on 32-bit lanes. -/
def execVor (h : Head) (x : VecX) (d a b : VNum) (mk : MaskX) : State → Host.Outcome State Fault Refusal :=
  laneOp h x d a b mk fun a b => a ||| b

/-- VXOR on 32-bit lanes. -/
def execVxor (h : Head) (x : VecX) (d a b : VNum) (mk : MaskX) : State → Host.Outcome State Fault Refusal :=
  laneOp h x d a b mk fun a b => a ^^^ b

/-- VSLL on 32-bit lanes. -/
def execVsll (h : Head) (x : VecX) (d a b : VNum) (mk : MaskX) : State → Host.Outcome State Fault Refusal :=
  laneOp h x d a b mk fun a b => a <<< bits b 0 5

/-- VSRL on 32-bit lanes. -/
def execVsrl (h : Head) (x : VecX) (d a b : VNum) (mk : MaskX) : State → Host.Outcome State Fault Refusal :=
  laneOp h x d a b mk fun a b => a >>> bits b 0 5

/-- VSRA on 32-bit lanes. -/
def execVsra (h : Head) (x : VecX) (d a b : VNum) (mk : MaskX) : State → Host.Outcome State Fault Refusal :=
  laneOp h x d a b mk fun a b => a.sshiftRight (bits b 0 5)

/-- VADDS.i32. -/
def execVaddsI32 (h : Head) (x : VecX) (d a b : VNum) (mk : MaskX) : State → Host.Outcome State Fault Refusal :=
  intElem h x d a b mk 32 (fun a b => ((satSigned 32 (a + b)).1.toInt, (satSigned 32 (a + b)).2))

/-- VSUBS.i32. -/
def execVsubsI32 (h : Head) (x : VecX) (d a b : VNum) (mk : MaskX) : State → Host.Outcome State Fault Refusal :=
  intElem h x d a b mk 32 (fun a b => ((satSigned 32 (a - b)).1.toInt, (satSigned 32 (a - b)).2))

/-- VABS.i32: −2^31 stays. -/
def execVabsI32 (h : Head) (x : VecX) (d a : VNum) (mk : MaskX) : State → Host.Outcome State Fault Refusal :=
  issue h (vxWords x) (usesV2 d a mk) fun c s =>
    let va := (c.rd.getV a).lanes
    let r := mapElems 32 (c.mask mk) (s.vOld c.c d).lanes
      (fun e y => ((BitVec.ofNat 32 (vat va e 0).toInt.natAbs).toNat, y)) (c.fx s)
    vecDone c s d { s.vOld c.c d with lanes := r.1 } 2 r.2

/-- VMINU.i32. -/
def execVminuI32 (h : Head) (x : VecX) (d a b : VNum) (mk : MaskX) : State → Host.Outcome State Fault Refusal :=
  laneOp h x d a b mk fun a b => if b.ult a then b else a

/-- VADD.i16. -/
def execVaddI16 (h : Head) (x : VecX) (d a b : VNum) (mk : MaskX) : State → Host.Outcome State Fault Refusal :=
  intElem h x d a b mk 16 (fun a b => (a + b, false))

/-- VSUB.i16. -/
def execVsubI16 (h : Head) (x : VecX) (d a b : VNum) (mk : MaskX) : State → Host.Outcome State Fault Refusal :=
  intElem h x d a b mk 16 (fun a b => (a - b, false))

/-- VMUL.i16. -/
def execVmulI16 (h : Head) (x : VecX) (d a b : VNum) (mk : MaskX) : State → Host.Outcome State Fault Refusal :=
  intElem h x d a b mk 16 (fun a b => (a * b, false))

/-- VADDS.i16. -/
def execVaddsI16 (h : Head) (x : VecX) (d a b : VNum) (mk : MaskX) : State → Host.Outcome State Fault Refusal :=
  intElem h x d a b mk 16 (fun a b => ((satSigned 16 (a + b)).1.toInt, (satSigned 16 (a + b)).2))

/-- VSUBS.i16. -/
def execVsubsI16 (h : Head) (x : VecX) (d a b : VNum) (mk : MaskX) : State → Host.Outcome State Fault Refusal :=
  intElem h x d a b mk 16 (fun a b => ((satSigned 16 (a - b)).1.toInt, (satSigned 16 (a - b)).2))

/-- VMIN.i16. -/
def execVminI16 (h : Head) (x : VecX) (d a b : VNum) (mk : MaskX) : State → Host.Outcome State Fault Refusal :=
  intElem h x d a b mk 16 (fun a b => (if b < a then b else a, false))

/-- VMAX.i16. -/
def execVmaxI16 (h : Head) (x : VecX) (d a b : VNum) (mk : MaskX) : State → Host.Outcome State Fault Refusal :=
  intElem h x d a b mk 16 (fun a b => (if a < b then b else a, false))

/-- VADD.i8. -/
def execVaddI8 (h : Head) (x : VecX) (d a b : VNum) (mk : MaskX) : State → Host.Outcome State Fault Refusal :=
  intElem h x d a b mk 8 (fun a b => (a + b, false))

/-- VSUB.i8. -/
def execVsubI8 (h : Head) (x : VecX) (d a b : VNum) (mk : MaskX) : State → Host.Outcome State Fault Refusal :=
  intElem h x d a b mk 8 (fun a b => (a - b, false))

/-- VADDS.i8. -/
def execVaddsI8 (h : Head) (x : VecX) (d a b : VNum) (mk : MaskX) : State → Host.Outcome State Fault Refusal :=
  intElem h x d a b mk 8 (fun a b => ((satSigned 8 (a + b)).1.toInt, (satSigned 8 (a + b)).2))

/-- VSUBS.i8. -/
def execVsubsI8 (h : Head) (x : VecX) (d a b : VNum) (mk : MaskX) : State → Host.Outcome State Fault Refusal :=
  intElem h x d a b mk 8 (fun a b => ((satSigned 8 (a - b)).1.toInt, (satSigned 8 (a - b)).2))

/-- VMIN.i8. -/
def execVminI8 (h : Head) (x : VecX) (d a b : VNum) (mk : MaskX) : State → Host.Outcome State Fault Refusal :=
  intElem h x d a b mk 8 (fun a b => (if b < a then b else a, false))

/-- VMAX.i8. -/
def execVmaxI8 (h : Head) (x : VecX) (d a b : VNum) (mk : MaskX) : State → Host.Outcome State Fault Refusal :=
  intElem h x d a b mk 8 (fun a b => (if a < b then b else a, false))

/-! ## Floating-point element forms (R138, R139) -/

/-- VADD.f32. -/
def execVaddF32 (h : Head) (x : VecX) (d a b : VNum) (mk : MaskX) : State → Host.Outcome State Fault Refusal :=
  fpElem h x d a b mk 32 false fun a b _ rm _ y => fpAdd fp32 a b rm false y

/-- VSUB.f32. -/
def execVsubF32 (h : Head) (x : VecX) (d a b : VNum) (mk : MaskX) : State → Host.Outcome State Fault Refusal :=
  fpElem h x d a b mk 32 false fun a b _ rm _ y => fpSub fp32 a b rm false y

/-- VMUL.f32. -/
def execVmulF32 (h : Head) (x : VecX) (d a b : VNum) (mk : MaskX) : State → Host.Outcome State Fault Refusal :=
  fpElem h x d a b mk 32 false fun a b _ rm _ y => fpMul fp32 a b rm false y

/-- VFMA.f32: the destination is an operand. -/
def execVfmaF32 (h : Head) (x : VecX) (d a b : VNum) (mk : MaskX) : State → Host.Outcome State Fault Refusal :=
  fpElem h x d a b mk 32 true fun a b d rm _ y => fpFma fp32 false false a b d rm false y

/-- VFMS.f32: the destination is an operand. -/
def execVfmsF32 (h : Head) (x : VecX) (d a b : VNum) (mk : MaskX) : State → Host.Outcome State Fault Refusal :=
  fpElem h x d a b mk 32 true fun a b d rm _ y => fpFma fp32 false true a b d rm false y

/-- VFNMA.f32: the destination is an operand. -/
def execVfnmaF32 (h : Head) (x : VecX) (d a b : VNum) (mk : MaskX) : State → Host.Outcome State Fault Refusal :=
  fpElem h x d a b mk 32 true fun a b d rm _ y => fpFma fp32 true false a b d rm false y

/-- VMIN.f32 (R38). -/
def execVminF32 (h : Head) (x : VecX) (d a b : VNum) (mk : MaskX) : State → Host.Outcome State Fault Refusal :=
  fpElem h x d a b mk 32 false fun a b _ _ _ y => (fpMinMax fp32 false a b, y)

/-- VMAX.f32 (R38). -/
def execVmaxF32 (h : Head) (x : VecX) (d a b : VNum) (mk : MaskX) : State → Host.Outcome State Fault Refusal :=
  fpElem h x d a b mk 32 false fun a b _ _ _ y => (fpMinMax fp32 true a b, y)

/-- VADD.bf16. -/
def execVaddBf16 (h : Head) (x : VecX) (d a b : VNum) (mk : MaskX) : State → Host.Outcome State Fault Refusal :=
  fpElem h x d a b mk 16 false fun a b _ rm _ y => fpAdd bf16 a b rm false y

/-- VSUB.bf16. -/
def execVsubBf16 (h : Head) (x : VecX) (d a b : VNum) (mk : MaskX) : State → Host.Outcome State Fault Refusal :=
  fpElem h x d a b mk 16 false fun a b _ rm _ y => fpSub bf16 a b rm false y

/-- VMUL.bf16. -/
def execVmulBf16 (h : Head) (x : VecX) (d a b : VNum) (mk : MaskX) : State → Host.Outcome State Fault Refusal :=
  fpElem h x d a b mk 16 false fun a b _ rm _ y => fpMul bf16 a b rm false y

/-- VFMA.bf16: the destination is an operand. -/
def execVfmaBf16 (h : Head) (x : VecX) (d a b : VNum) (mk : MaskX) : State → Host.Outcome State Fault Refusal :=
  fpElem h x d a b mk 16 true fun a b d rm _ y => fpFma bf16 false false a b d rm false y

/-- VMIN.bf16 (R38). -/
def execVminBf16 (h : Head) (x : VecX) (d a b : VNum) (mk : MaskX) : State → Host.Outcome State Fault Refusal :=
  fpElem h x d a b mk 16 false fun a b _ _ _ y => (fpMinMax bf16 false a b, y)

/-- VMAX.bf16 (R38). -/
def execVmaxBf16 (h : Head) (x : VecX) (d a b : VNum) (mk : MaskX) : State → Host.Outcome State Fault Refusal :=
  fpElem h x d a b mk 16 false fun a b _ _ _ y => (fpMinMax bf16 true a b, y)

/-- VADD.e4m3. -/
def execVaddE4m3 (h : Head) (x : VecX) (d a b : VNum) (mk : MaskX) : State → Host.Outcome State Fault Refusal :=
  fpElem h x d a b mk 8 false fun a b _ rm sat y => fpAdd e4m3 a b rm sat y

/-- VSUB.e4m3. -/
def execVsubE4m3 (h : Head) (x : VecX) (d a b : VNum) (mk : MaskX) : State → Host.Outcome State Fault Refusal :=
  fpElem h x d a b mk 8 false fun a b _ rm sat y => fpSub e4m3 a b rm sat y

/-- VMUL.e4m3. -/
def execVmulE4m3 (h : Head) (x : VecX) (d a b : VNum) (mk : MaskX) : State → Host.Outcome State Fault Refusal :=
  fpElem h x d a b mk 8 false fun a b _ rm sat y => fpMul e4m3 a b rm sat y

/-- VMIN.e4m3 (R38). -/
def execVminE4m3 (h : Head) (x : VecX) (d a b : VNum) (mk : MaskX) : State → Host.Outcome State Fault Refusal :=
  fpElem h x d a b mk 8 false fun a b _ _ _ y => (fpMinMax e4m3 false a b, y)

/-- VMAX.e4m3 (R38). -/
def execVmaxE4m3 (h : Head) (x : VecX) (d a b : VNum) (mk : MaskX) : State → Host.Outcome State Fault Refusal :=
  fpElem h x d a b mk 8 false fun a b _ _ _ y => (fpMinMax e4m3 true a b, y)

/-- VADD.e5m2. -/
def execVaddE5m2 (h : Head) (x : VecX) (d a b : VNum) (mk : MaskX) : State → Host.Outcome State Fault Refusal :=
  fpElem h x d a b mk 8 false fun a b _ rm sat y => fpAdd e5m2 a b rm sat y

/-- VSUB.e5m2. -/
def execVsubE5m2 (h : Head) (x : VecX) (d a b : VNum) (mk : MaskX) : State → Host.Outcome State Fault Refusal :=
  fpElem h x d a b mk 8 false fun a b _ rm sat y => fpSub e5m2 a b rm sat y

/-- VMUL.e5m2. -/
def execVmulE5m2 (h : Head) (x : VecX) (d a b : VNum) (mk : MaskX) : State → Host.Outcome State Fault Refusal :=
  fpElem h x d a b mk 8 false fun a b _ rm sat y => fpMul e5m2 a b rm sat y

/-- VMIN.e5m2 (R38). -/
def execVminE5m2 (h : Head) (x : VecX) (d a b : VNum) (mk : MaskX) : State → Host.Outcome State Fault Refusal :=
  fpElem h x d a b mk 8 false fun a b _ _ _ y => (fpMinMax e5m2 false a b, y)

/-- VMAX.e5m2 (R38). -/
def execVmaxE5m2 (h : Head) (x : VecX) (d a b : VNum) (mk : MaskX) : State → Host.Outcome State Fault Refusal :=
  fpElem h x d a b mk 8 false fun a b _ _ _ y => (fpMinMax e5m2 true a b, y)

/-- VABS.f32. -/
def execVabsF32 (h : Head) (x : VecX) (d a : VNum) (mk : MaskX) : State → Host.Outcome State Fault Refusal :=
  fpSign h x d a mk (fpAbs fp32)

/-- VNEG.f32. -/
def execVnegF32 (h : Head) (x : VecX) (d a : VNum) (mk : MaskX) : State → Host.Outcome State Fault Refusal :=
  fpSign h x d a mk (fpNeg fp32)

/-! ## Comparisons (R140) -/

/-- The integer conditions. -/
def intCond (n : Nat) (w a b : Nat) : Bool :=
  let sa := (BitVec.ofNat w a).toInt
  let sb := (BitVec.ofNat w b).toInt
  match n with
  | 0 => a == b
  | 1 => a != b
  | 2 => decide (sa < sb)
  | 3 => decide (sb ≤ sa)
  | 4 => decide (a < b)
  | _ => decide (b ≤ a)

/-- The floating-point conditions; `none` is unordered. -/
def fpCond (n : Nat) (r : Option Int) : Bool :=
  match r with
  | none => n == 1 || n == 6
  | some v =>
    match n with
    | 0 => decide (v = 0)
    | 1 => decide (v ≠ 0)
    | 2 => decide (v < 0)
    | 3 => decide (v ≤ 0)
    | 4 => decide (0 < v)
    | 5 => decide (0 ≤ v)
    | _ => false

/-- Width of an element format. -/
def fmtWidth : Fmt → Nat
  | .i8 | .e4m3 | .e5m2 => 8
  | .i16 | .bf16 => 16
  | _ => 32

/-- Floating-point format of an element format. -/
def fmtFp : Fmt → FpFmt
  | .bf16 => bf16
  | .e4m3 => e4m3
  | .e5m2 => e5m2
  | _ => fp32

/-- Registers of a compare. -/
def usesVcmp (x : VecX) (d : MReg) (a b : VNum) (mk : MaskX) (sl : Fin 8) : Uses :=
  ⟨[RegId.v a] ++ vbRegs x b sl ++ maskRegs mk, [.m d]⟩

/-- VCMP.i32, L 2. -/
def execVcmpI32 (h : Head) (x : VecX) (d : MReg) (a b : VNum) (mk : MaskX) : State → Host.Outcome State Fault Refusal :=
  issue h (vxWords x) (usesVcmp x d a b mk) fun c s =>
    let w := fmtWidth (vxFmt x .i32)
    let va := (c.rd.getV a).lanes
    let vb := (c.vb x b).lanes
    cmpLanes c s d (c.mask mk) w 2 fun e => intCond (vxImm8 x) w (vecElem w va e) (vecElem w vb e)

/-- VCMP.f32, L 4. -/
def execVcmpF32 (h : Head) (x : VecX) (d : MReg) (a b : VNum) (mk : MaskX) : State → Host.Outcome State Fault Refusal :=
  issue h (vxWords x) (usesVcmp x d a b mk) fun c s =>
    let fm := vxFmt x .f32
    let w := fmtWidth fm
    let va := (c.rd.getV a).lanes
    let vb := (c.vb x b).lanes
    cmpLanes c s d (c.mask mk) w 4 fun e =>
      fpCond (vxImm8 x) ((Num.ofBits (fmtFp fm) (vecElem w va e)).cmp (Num.ofBits (fmtFp fm) (vecElem w vb e)))

/-! ## Moving lanes (R141, R142) -/

/-- VPERM. -/
def execVperm (h : Head) (x : VecX) (d a b : VNum) (mk : MaskX) : State → Host.Outcome State Fault Refusal :=
  issue h (vxWords x) (usesV x d a b mk false) fun c s =>
    let va := (c.rd.getV a).lanes
    let vb := (c.vb x b).lanes
    moveLanes c s d (c.mask mk) 4 fun i => vat va (bits (vat vb i 0) 0 6) 0

/-- VBCAST of a lane. -/
def execVbcast (h : Head) (x : VecX) (d a : VNum) (mk : MaskX) : State → Host.Outcome State Fault Refusal :=
  issue h (vxWords x) (usesV2 d a mk) fun c s =>
    let va := (c.rd.getV a).lanes
    moveLanes c s d (c.mask mk) 4 fun _ => vat va (vxImm8 x) 0

/-- VBCAST of a scalar's low 32 bits. -/
def execVbcastScalar (h : Head) (x : VecPfx) (d : VNum) (mk : MaskX) : State → Host.Outcome State Fault Refusal :=
  issue h 2 (fun sl => ⟨[sid sl x.xb] ++ maskRegs mk, [.v d]⟩) fun c s =>
    moveLanes c s d (c.mask mk) 4 fun _ => (c.rs x.xb).setWidth 32

/-- VROT. -/
def execVrot (h : Head) (x : VecX) (d a : VNum) (mk : MaskX) : State → Host.Outcome State Fault Refusal :=
  issue h (vxWords x) (usesV2 d a mk) fun c s =>
    let va := (c.rd.getV a).lanes
    moveLanes c s d (c.mask mk) 4 fun i => vat va ((i + vxImm8 x) % 64) 0

/-- VIOTA, L 2. -/
def execViota (h : Head) (x : VecX) (d : VNum) (mk : MaskX) : State → Host.Outcome State Fault Refusal :=
  issue h (vxWords x) (fun _ => ⟨maskRegs mk, [.v d]⟩) fun c s =>
    moveLanes c s d (c.mask mk) 2 fun i => BitVec.ofNat 32 i

/-- VSEL: the mask selects va or vb, and every lane is written. -/
def execVsel (h : Head) (x : VecX) (d a b : VNum) (mk : MReg) : State → Host.Outcome State Fault Refusal :=
  issue h (vxWords x) (usesV x d a b (.by mk) false) fun c s =>
    let va := (c.rd.getV a).lanes
    let vb := (c.vb x b).lanes
    let m := c.rd.getM mk
    moveLanes c s d (BitVec.allOnes 64) 4 fun i => if m.getLsbD i then vat va i 0 else vat vb i 0

/-- VINS: one lane from a scalar. -/
def execVins (h : Head) (x : VecPfx) (d : VNum) : State → Host.Outcome State Fault Refusal :=
  issue h 2 (fun sl => ⟨[sid sl x.xb], [.v d]⟩) fun c s =>
    moveLanes c s d (BitVec.ofNat 64 (2 ^ x.imm8.toNat)) 4 fun _ => (c.rs x.xb).setWidth 32

/-- VEXT: one lane, sign-extended, to g0–g15. -/
def execVext (h : Head) (x : VecX) (d : GNum) (a : VNum) : State → Host.Outcome State Fault Refusal :=
  issue h (vxWords x) (fun _ => ⟨[.v a], [.g d]⟩) fun c s =>
    .ok (s.put c (.g d) (.word ((vat (c.rd.getV a).lanes (vxImm8 x) 0).signExtend 64)) 4) 0

/-- VHDR, writing: bits [41:0] of a scalar. -/
def execVhdrWrite (h : Head) (x : VecPfx) (d : VNum) : State → Host.Outcome State Fault Refusal :=
  issue h 2 (fun sl => ⟨[sid sl x.xb], [.v d]⟩) fun c s =>
    vecDone c s d { s.vOld c.c d with header := c.rs x.xb &&& 0x3FFFFFFFFFF } 4 (c.fx s)

/-- VHDR, reading: the header to g0–g15. -/
def execVhdrRead (h : Head) (_x : VecPfx) (d : GNum) (a : VNum) : State → Host.Outcome State Fault Refusal :=
  issue h 2 (fun _ => ⟨[.v a], [.g d]⟩) fun c s => .ok (s.put c (.g d) (.word (c.rd.getV a).header) 4) 0

/-! ## Lane reductions (R143) -/

/-- A NaN encoding of FP32 made canonical (R37, R143). -/
def canon32 (v : Nat) : Nat := if (Num.ofBits fp32 v).isNan then fp32.nanBits else v

/-- VRSUM.f32. -/
def execVrsumF32 (h : Head) (x : VecX) (d a : VNum) (mk : MaskX) : State → Host.Outcome State Fault Refusal :=
  reduceLanes h x d a mk 0 canon32 fun rm a b y => fpAdd fp32 a b rm false y

/-- VRSUM.i32, modulo 2^32. -/
def execVrsumI32 (h : Head) (x : VecX) (d a : VNum) (mk : MaskX) : State → Host.Outcome State Fault Refusal :=
  reduceLanes h x d a mk 0 (fun v => v) fun _ a b y => ((a + b) % 2 ^ 32, y)

/-- VRMAX.f32. -/
def execVrmaxF32 (h : Head) (x : VecX) (d a : VNum) (mk : MaskX) : State → Host.Outcome State Fault Refusal :=
  reduceLanes h x d a mk 0xFF800000 canon32 fun _ a b y => (fpMinMax fp32 true a b, y)

/-- VRMAX.i32, signed. -/
def execVrmaxI32 (h : Head) (x : VecX) (d a : VNum) (mk : MaskX) : State → Host.Outcome State Fault Refusal :=
  reduceLanes h x d a mk 0x80000000 (fun v => v) fun _ a b y =>
    (if (BitVec.ofNat 32 a).slt (BitVec.ofNat 32 b) then b else a, y)

/-! ## Conversions (R145) -/

/-- VCVT.bf16.f32: rounded. -/
def execVcvtBf16F32 (h : Head) (x : VecX) (d a : VNum) (mk : MaskX) : State → Host.Outcome State Fault Refusal :=
  convert h x d a mk 32 16 fun rm _ v y => fpConv fp32 bf16 v rm false y

/-- VCVT.e4m3.f32: rounded. -/
def execVcvtE4m3F32 (h : Head) (x : VecX) (d a : VNum) (mk : MaskX) : State → Host.Outcome State Fault Refusal :=
  convert h x d a mk 32 8 fun rm sat v y => fpConv fp32 e4m3 v rm sat y

/-- VCVT.e5m2.f32: rounded. -/
def execVcvtE5m2F32 (h : Head) (x : VecX) (d a : VNum) (mk : MaskX) : State → Host.Outcome State Fault Refusal :=
  convert h x d a mk 32 8 fun rm sat v y => fpConv fp32 e5m2 v rm sat y

/-- VCVT.e4m3.bf16: rounded. -/
def execVcvtE4m3Bf16 (h : Head) (x : VecX) (d a : VNum) (mk : MaskX) : State → Host.Outcome State Fault Refusal :=
  convert h x d a mk 16 8 fun rm sat v y => fpConv bf16 e4m3 v rm sat y

/-- VCVT.e5m2.bf16: rounded. -/
def execVcvtE5m2Bf16 (h : Head) (x : VecX) (d a : VNum) (mk : MaskX) : State → Host.Outcome State Fault Refusal :=
  convert h x d a mk 16 8 fun rm sat v y => fpConv bf16 e5m2 v rm sat y

/-- VCVT.f32.bf16: exact. -/
def execVcvtF32Bf16 (h : Head) (x : VecX) (d a : VNum) (mk : MaskX) : State → Host.Outcome State Fault Refusal :=
  convert h x d a mk 16 32 fun _ _ v y => ((fpConv bf16 fp32 v .rne false y).1, y)

/-- VCVT.f32.e4m3: exact. -/
def execVcvtF32E4m3 (h : Head) (x : VecX) (d a : VNum) (mk : MaskX) : State → Host.Outcome State Fault Refusal :=
  convert h x d a mk 8 32 fun _ _ v y => ((fpConv e4m3 fp32 v .rne false y).1, y)

/-- VCVT.f32.e5m2: exact. -/
def execVcvtF32E5m2 (h : Head) (x : VecX) (d a : VNum) (mk : MaskX) : State → Host.Outcome State Fault Refusal :=
  convert h x d a mk 8 32 fun _ _ v y => ((fpConv e5m2 fp32 v .rne false y).1, y)

/-- VCVT.bf16.e4m3: exact. -/
def execVcvtBf16E4m3 (h : Head) (x : VecX) (d a : VNum) (mk : MaskX) : State → Host.Outcome State Fault Refusal :=
  convert h x d a mk 8 16 fun _ _ v y => ((fpConv e4m3 bf16 v .rne false y).1, y)

/-- VCVT.bf16.e5m2: exact. -/
def execVcvtBf16E5m2 (h : Head) (x : VecX) (d a : VNum) (mk : MaskX) : State → Host.Outcome State Fault Refusal :=
  convert h x d a mk 8 16 fun _ _ v y => ((fpConv e5m2 bf16 v .rne false y).1, y)

/-- VCVT.i32.f32: clamped with NV. -/
def execVcvtI32F32 (h : Head) (x : VecX) (d a : VNum) (mk : MaskX) : State → Host.Outcome State Fault Refusal :=
  convert h x d a mk 32 32 fun rm _ v y => let r := roundToInt 32 (Num.ofBits fp32 v) rm y; ((BitVec.ofInt 32 r.1).toNat, r.2)

/-- VCVT.f32.i32. -/
def execVcvtF32I32 (h : Head) (x : VecX) (d a : VNum) (mk : MaskX) : State → Host.Outcome State Fault Refusal :=
  convert h x d a mk 32 32 fun rm _ v y => round fp32 (Num.ofInt (BitVec.ofNat 32 v).toInt) rm false y

/-- VCVT.bf16.q4: the code, exact. -/
def execVcvtBf16Q4 (h : Head) (x : VecX) (d a : VNum) (mk : MaskX) : State → Host.Outcome State Fault Refusal :=
  convert h x d a mk 4 16 fun _ _ v y => ((round bf16 (Num.ofInt v) .rne false y).1, y)

/-- VCVT.i8.i32: clamped with SAT. -/
def execVcvtI8I32 (h : Head) (x : VecX) (d a : VNum) (mk : MaskX) : State → Host.Outcome State Fault Refusal :=
  convert h x d a mk 32 8 fun _ _ v y => let r := satSigned 8 (BitVec.ofNat 32 v).toInt; (r.1.toNat, y.raise (satFlag r.2))

/-- VCVT.i32.i8. -/
def execVcvtI32I8 (h : Head) (x : VecX) (d a : VNum) (mk : MaskX) : State → Host.Outcome State Fault Refusal :=
  convert h x d a mk 8 32 fun _ _ v y => ((BitVec.ofInt 32 (BitVec.ofNat 8 v).toInt).toNat, y)

/-! ## Blocks (R147, R148) -/

/-- QUANT.qb8. -/
def execQuantQb8 (h : Head) (x : VecX) (d a : VNum) : State → Host.Outcome State Fault Refusal :=
  blockOp h x d a fun rm v y => quantise v.lanes.toList 8 rm y

/-- DEQUANT.qb8: the header of vd is kept. -/
def execDequantQb8 (h : Head) (x : VecX) (d a : VNum) (mk : MaskX) : State → Host.Outcome State Fault Refusal :=
  issue h (vxWords x) (usesV2 d a mk) fun c s =>
    let va := c.rd.getV a
    let r := mapElems 32 (c.mask mk) (s.vOld c.c d).lanes (fun e y =>
      let (l, y) := dequantElem va.header (vat va.lanes e 0) e 8 y
      (l.toNat, y)) (c.fx s)
    vecLater c s d { s.vOld c.c d with lanes := r.1 } 6 r.2

/-- QTOBA.qb8. -/
def execQtobaQb8 (h : Head) (x : VecX) (d a : VNum) : State → Host.Outcome State Fault Refusal :=
  blockOp h x d a fun _ v y => let r := qtoba v 8 y; (r.1.toVec, r.2)

/-- QUANT.qb4. -/
def execQuantQb4 (h : Head) (x : VecX) (d a : VNum) : State → Host.Outcome State Fault Refusal :=
  blockOp h x d a fun rm v y => quantise v.lanes.toList 4 rm y

/-- DEQUANT.qb4: the header of vd is kept. -/
def execDequantQb4 (h : Head) (x : VecX) (d a : VNum) (mk : MaskX) : State → Host.Outcome State Fault Refusal :=
  issue h (vxWords x) (usesV2 d a mk) fun c s =>
    let va := c.rd.getV a
    let r := mapElems 32 (c.mask mk) (s.vOld c.c d).lanes (fun e y =>
      let (l, y) := dequantElem va.header (vat va.lanes e 0) e 4 y
      (l.toNat, y)) (c.fx s)
    vecLater c s d { s.vOld c.c d with lanes := r.1 } 6 r.2

/-- QTOBA.qb4. -/
def execQtobaQb4 (h : Head) (x : VecX) (d a : VNum) : State → Host.Outcome State Fault Refusal :=
  blockOp h x d a fun _ v y => let r := qtoba v 4 y; (r.1.toVec, r.2)

/-- BADD: the addend has one exponent for all lanes. -/
def execBadd (h : Head) (x : VecX) (d a b : VNum) : State → Host.Outcome State Fault Refusal :=
  issue h (vxWords x) (fun _ => ⟨[.v a, .v b], [.v d]⟩) fun c s =>
    let addend := Ba.ofVec (c.rd.getV b)
    let r := baAdd (Ba.ofVec (c.rd.getV a)) addend (fun _ => addend.x) none
    vecLater c s d r.1.toVec 6 ((c.fx s).raise r.2)

/-- BALIGN to vb.X, or to the signed low 16 bits of a scalar; CLS stays as va has it. -/
def execBalign (h : Head) (x : VecX) (d a b : VNum) : State → Host.Outcome State Fault Refusal :=
  issue h (vxWords x) (fun sl => ⟨[RegId.v a] ++ vbRegs x b sl, [.v d]⟩) fun c s =>
    let tx : Int := match vxScalar x with
      | some r => ((c.rs r).setWidth 16).toInt
      | none => (Ba.ofVec (c.rd.getV b)).x
    let r := baAlign (Ba.ofVec (c.rd.getV a)) tx
    let cls := bits (c.rd.getV a).header 40 2
    vecLater c s d { r.1.toVec with header := putBits r.1.toVec.header 40 2 cls } 6 ((c.fx s).raise r.2)

/-! ## Weights from codes (R149) -/

/-- VLUT: 128 entries of a codebook, held while an MLDK to it is not complete. -/
def execVlut (h : Head) (x : VecX) (d a : VNum) (kn : ANum) (mk : MaskX) : State → Host.Outcome State Fault Refusal :=
  issue h (vxWords x) (fun _ => ⟨[RegId.v a, .kb kn] ++ maskRegs mk, [.v d]⟩) fun c s =>
    let va := (c.rd.getV a).lanes
    let r := mapElems 16 (c.mask mk) (s.vOld c.c d).lanes (fun e y =>
      (bits c.rd.regs.kb[kn] (16 * vecNibble va (128 * vxImm8 x + e)) 16, y)) (c.fx s)
    vecLater c s d { s.vOld c.c d with lanes := r.1 } 6 r.2

/-- VDQW: scale × (code − zero point), one rounding. -/
def execVdqw (h : Head) (x : VecX) (d a b : VNum) (mk : MaskX) : State → Host.Outcome State Fault Refusal :=
  issue h (vxWords x) (usesV x d a b mk true) fun c s =>
    let va := (c.rd.getV a).lanes
    let vb := (c.vb x b).lanes
    let vd := (c.rd.getV d).lanes
    let r := mapElems 32 (c.mask mk) (s.vOld c.c d).lanes (fun e y =>
      let q : Int := vecNibble va (64 * vxImm8 x + e)
      let z : Int := bits (vat vb e 0) 0 4
      let p := (Num.ofBits fp32 (vat vd e 0).toNat).mul (Num.ofInt (q - z))
      round fp32 p.1 (c.mode (vxRm x)) false (y.raise p.2)) (c.fx s)
    vecLater c s d { s.vOld c.c d with lanes := r.1 } 6 r.2

/-! ## The special-function unit (R150, R154, R155) -/

/-- VEXP. -/
def execVexp (h : Head) (x : VecX) (d a : VNum) (mk : MaskX) : State → Host.Outcome State Fault Refusal :=
  sfuOne h x d a mk .exp

/-- VEXP2. -/
def execVexp2 (h : Head) (x : VecX) (d a : VNum) (mk : MaskX) : State → Host.Outcome State Fault Refusal :=
  sfuOne h x d a mk .exp2

/-- VLOG. -/
def execVlog (h : Head) (x : VecX) (d a : VNum) (mk : MaskX) : State → Host.Outcome State Fault Refusal :=
  sfuOne h x d a mk .log

/-- VLOG2. -/
def execVlog2 (h : Head) (x : VecX) (d a : VNum) (mk : MaskX) : State → Host.Outcome State Fault Refusal :=
  sfuOne h x d a mk .log2

/-- VRCP. -/
def execVrcp (h : Head) (x : VecX) (d a : VNum) (mk : MaskX) : State → Host.Outcome State Fault Refusal :=
  sfuOne h x d a mk .rcp

/-- VRSQRT. -/
def execVrsqrt (h : Head) (x : VecX) (d a : VNum) (mk : MaskX) : State → Host.Outcome State Fault Refusal :=
  sfuOne h x d a mk .rsqrt

/-- VSQRT. -/
def execVsqrt (h : Head) (x : VecX) (d a : VNum) (mk : MaskX) : State → Host.Outcome State Fault Refusal :=
  sfuOne h x d a mk .sqrt

/-- VTANH. -/
def execVtanh (h : Head) (x : VecX) (d a : VNum) (mk : MaskX) : State → Host.Outcome State Fault Refusal :=
  sfuOne h x d a mk .tanh

/-- VSIGM. -/
def execVsigm (h : Head) (x : VecX) (d a : VNum) (mk : MaskX) : State → Host.Outcome State Fault Refusal :=
  sfuOne h x d a mk .sigm

/-- VERF. -/
def execVerf (h : Head) (x : VecX) (d a : VNum) (mk : MaskX) : State → Host.Outcome State Fault Refusal :=
  sfuOne h x d a mk .erf

/-- VSIN. -/
def execVsin (h : Head) (x : VecX) (d a : VNum) (mk : MaskX) : State → Host.Outcome State Fault Refusal :=
  sfuOne h x d a mk .sin

/-- VCOS. -/
def execVcos (h : Head) (x : VecX) (d a : VNum) (mk : MaskX) : State → Host.Outcome State Fault Refusal :=
  sfuOne h x d a mk .cos

/-- VDIV; vb may be a scalar. -/
def execVdiv (h : Head) (x : VecX) (d a b : VNum) (mk : MaskX) : State → Host.Outcome State Fault Refusal :=
  issue h (vxWords x) (usesV x d a b mk false) fun c s =>
    sfuQueue c s .div d (s.vOld c.c d) (c.rd.getV a) (c.vb x b) (c.mask mk) (vxRm x)

/-- VDRAW: the temperature is a scalar, and lane 0 of vd, as it is read at issue, is the index base; the lanes that are kept are
those of vd itself. The request carries both in lanes 0 and 1 of its second operand. -/
def execVdraw (h : Head) (x : VecPfx) (d a : VNum) (mk : MaskX) : State → Host.Outcome State Fault Refusal :=
  issue h 2 (fun sl => ⟨[sid sl x.xb, .v a, .v d] ++ maskRegs mk, [.v d]⟩) fun c s =>
    let t : Lane := (c.rs x.xb).setWidth 32
    let base := vat (c.rd.getV d).lanes 0 0
    sfuQueue c s .draw d (s.vOld c.c d) (c.rd.getV a) ⟨(Vector.replicate 64 t).set 1 base, 0⟩ (c.mask mk) .rne

/-- DMERGE. -/
def execDmerge (h : Head) (x : VecX) (d a b : VNum) : State → Host.Outcome State Fault Refusal :=
  issue h (vxWords x) (fun _ => ⟨[.v a, .v b], [.v d]⟩) fun c s =>
    sfuQueue c s .dmerge d (s.vOld c.c d) (c.rd.getV a) (c.rd.getV b) (BitVec.allOnes 64) .rne

/-- Lanes 0 to 3 replaced by a draw record (R154). -/
def putRecord (old : VReg) (r : DrawRec) : VReg :=
  { old with lanes := vgen fun i => if i.val < 4 then r.toBits.extractLsb' (32 * i.val) 32 else old.lanes[i] }

/-- The draw record in lanes 0 to 3. -/
def recordOf (v : VReg) : DrawRec :=
  DrawRec.ofBits (vat v.lanes 3 0 ++ vat v.lanes 2 0 ++ vat v.lanes 1 0 ++ vat v.lanes 0 0)

/-- The result of a request, computed at the start of its service, where it takes its values of the generator. -/
def SfuReq.compute (q : SfuReq) (g : Rng) : VReg × Fx :=
  let y : Fx := ⟨g, 0⟩
  let rm := resolveRm q.rm 0
  match q.fn with
  | .draw =>
    let sel := (List.range 64).filter fun i => q.mask.getLsbD i
    let b := (vat q.b.lanes 1 0).toNat
    if 0xFFFFFFBF < b then (putRecord q.old (DrawRec.mark false true false false sel.length), y.raise flagNV)
    else
      let leaves := (List.range 64).foldl (fun (acc : List (Option DrawRec) × Fx) i =>
        if q.mask.getLsbD i then
          let (r, y) := drawLeaf (vat q.a.lanes i 0).toNat (b + i) (vat q.b.lanes 0 0).toNat acc.2
          (some r :: acc.1, y)
        else (none :: acc.1, acc.2)) ([], y)
      let r := treeReduce drawMerge leaves.1.reverse leaves.2
      (putRecord q.old (r.1.getD (DrawRec.mark false false false true 0)), r.2)
  | .dmerge =>
    let r := drawMerge (recordOf q.a) (recordOf q.b) y
    (putRecord q.old r.1, r.2)
  | fn =>
    let r := mapElems 32 q.mask q.old.lanes (fun e y =>
      let a := Num.ofBits fp32 (vat q.a.lanes e 0).toNat
      let v := if fn = .div then a.div (Num.ofBits fp32 (vat q.b.lanes e 0).toNat) else sfuValue fn a
      round fp32 v.1 rm false (y.raise v.2)) y
    ({ q.old with lanes := r.1 }, r.2)

/-- Cycles of service, and from its start to the result (R134). -/
def SfuFn.service : SfuFn → Nat
  | .draw => 16
  | .dmerge => 1
  | _ => 4
def SfuFn.latency : SfuFn → Nat
  | .draw => 40
  | .dmerge => 8
  | _ => 22

end Sys2Proof.Machine
end

