-- ==== Sys2Proof/Machine/LocalMem.lean ====
section
/-! DEFINITION. Local loads and stores (R188 to R200): checks at issue, loads as scoreboarded results, stores as buffered writes
that RESULT_WRITE performs. -/

namespace Sys2Proof.Machine

/-- The checks of a local access of `n` bytes at `a`, in the order of R369: alignment, range, rights (R195). -/
def Core.localCheck (k : Core) (write : Bool) (a : Word) (align n : Nat) : Option Cause :=
  if a.toNat % align ≠ 0 then some .lalign
  else if 0x30000 < a.toNat + n then some .lrange
  else if !k.allowed write a.toNat n then some .tnone
  else none

/-- A slot's read of local bytes: after the slot's earlier stores; FINJ, then UELS of the first bad word, else the bytes with own stores
forwarded (R190, R191, R197). The bank is read at issue, and all units of a wide access at one instant (log 64). -/
def localRead (x : Ctx) (s : State) (a n : Nat) (r : State → List Byte → Res) : Res :=
  let s := s.modCore x.c fun k => k.injectRead a n
  match s.core? x.c with
  | none => .hold
  | some k =>
    if k.readHold x.sl x.cyc then .hold else
    match k.badView x.sl a n with
    | some w => .late s .uels (BitVec.ofNat 64 w)
    | none => r s ((k.memView x.sl).readN a n)

/-- The result of a local load (R196). -/
def State.putLoad (s : State) (x : Ctx) (r : RegId) (v : RegVal) (lat : Nat) : State := s.putResult x r v lat 0 true

/-- The cycle in which a new store of a slot is performed: no earlier than its stores before it (R197). -/
def Core.storeDue (k : Core) (sl : Fin 8) (cyc : Nat) : Nat :=
  k.stores.foldl (fun m b => if b.slot = sl then max m b.due else m) cyc

/-- Buffers a store of the slot, performed `lat` cycles after issue. -/
def State.bufferStore (s : State) (x : Ctx) (a : Nat) (bs : List Byte) (lat : Nat) : State :=
  (s.modCore x.c fun k =>
    { k with stores := k.stores ++ [⟨s.nextId, x.sl, a, bs, k.storeDue x.sl (x.cyc + lat), x.cyc⟩] }).newId

/-- The core, for an effect that needs its current state. -/
def withCore (x : Ctx) (s : State) (r : Core → Res) : Res :=
  match s.core? x.c with
  | none => .hold
  | some k => r k

/-- The lanes that 256 bytes hold. -/
def lanesOf (bs : List Byte) : Vector Lane 64 := vgen fun i => BitVec.ofNat 32 (ofBytes ((bs.drop (4 * i.val)).take 4))

/-- The bytes of 64 lanes. -/
def bytesOf (v : Vector Lane 64) : List Byte := v.toList.flatMap fun l => bytesLE 4 l.toNat

/-- LD (R196): 3 cc. -/
def execLd (h : Head) (x : ImmX) (d a : SReg) (sz : LdSize) (off : BitVec 7) : State → Host.Outcome State Fault Refusal :=
  issue h (if x.present then 2 else 1) (usesRR d a) fun c s => withCore c s fun k =>
    let n := ldBytes sz
    let addr := c.rs a + offM x off * BitVec.ofNat 64 n
    match k.localCheck false addr n n with
    | some f => .fault f addr
    | none =>
      if k.localHold c.c c.sl addr.toNat n false then .hold
      else localRead c s addr.toNat n fun s bs =>
        .ok (s.putLoad c (sid c.sl d) (.word (ldExtend sz (ofBytes bs))) 3) 0

/-- ST (R196): performed after 2 cc; d is the data. -/
def execSt (h : Head) (x : ImmX) (d a : SReg) (sz : StSize) (off : BitVec 7) : State → Host.Outcome State Fault Refusal :=
  issue h (if x.present then 2 else 1) (usesAB d a) fun c s => withCore c s fun k =>
    let n := stBytes sz
    let addr := c.rs a + offM x off * BitVec.ofNat 64 n
    match k.localCheck true addr n n with
    | some f => .fault f addr
    | none =>
      if k.localHold c.c c.sl addr.toNat n true then .hold
      else .ok (s.bufferStore c addr.toNat (bytesLE n (c.rs d).toNat) 2) 0

/-- VLD (R198): 4 cc. -/
def execVld (h : Head) (x : ImmX) (d : VNum) (a : SReg) (off : BitVec 7) : State → Host.Outcome State Fault Refusal :=
  issue h (if x.present then 2 else 1) (fun sl => ⟨[sid sl a], [.v d]⟩) fun c s => withCore c s fun k =>
    let addr := c.rs a + offM x off * 256
    match k.localCheck false addr 16 256 with
    | some f => .fault f addr
    | none =>
      if k.localHold c.c c.sl addr.toNat 256 false then .hold
      else localRead c s addr.toNat 256 fun s bs =>
        .ok (s.putLoad c (.v d) (.vec { s.vOld c.c d with lanes := lanesOf bs }) 4) 0

/-- VST (R198): performed after 2 cc. -/
def execVst (h : Head) (x : ImmX) (d : VNum) (a : SReg) (off : BitVec 7) : State → Host.Outcome State Fault Refusal :=
  issue h (if x.present then 2 else 1) (fun sl => ⟨[sid sl a, .v d], []⟩) fun c s => withCore c s fun k =>
    let addr := c.rs a + offM x off * 256
    match k.localCheck true addr 16 256 with
    | some f => .fault f addr
    | none =>
      if k.localHold c.c c.sl addr.toNat 256 true then .hold
      else .ok (s.bufferStore c addr.toNat (bytesOf (c.rd.getV d).lanes) 2) 0

/-! ## Gather and scatter (R199) -/

/-- Enabled lanes with their element addresses. -/
def gatherAddrs (x : Ctx) (a : SReg) (b : VNum) (mk : MaskX) : List (Nat × Word) :=
  let va := (x.rd.getV b).lanes
  ((List.range 64).filter fun i => (x.mask mk).getLsbD i).map fun i => (i, x.rs a + (vat va i 0).signExtend 64)

/-- The checks over all lanes: alignment, then range, then rights; the first failing lane gives FADDR. -/
def Core.gatherCheck (k : Core) (write : Bool) (l : List (Nat × Word)) (n : Nat) : Option (Cause × Word) :=
  match l.find? fun e => e.2.toNat % n ≠ 0 with
  | some e => some (.lalign, e.2)
  | none =>
    match l.find? fun e => decide (0x30000 ≤ e.2.toNat) with
    | some e => some (.lrange, e.2)
    | none =>
      match l.find? fun e => !k.allowed write e.2.toNat n with
      | some e => some (.tnone, e.2)
      | none => none

/-- occ: over the banks, the most distinct 64-byte lines of a bank that the lanes touch (R189, R199). -/
def gatherOcc (l : List (Nat × Word)) : Nat :=
  let lines := (l.map fun e => e.2.toNat / 64).eraseDups
  (List.range 4).foldl (fun m b => max m (lines.countP fun x => x % 4 == b)) 0

/-- VGATH of `n` bytes a lane. -/
def gather (h : Head) (d : VNum) (a : SReg) (b : VNum) (mk : MaskX) (n : Nat) : State → Host.Outcome State Fault Refusal :=
  issue h 1 (fun sl => ⟨[sid sl a, .v b] ++ maskRegs mk, [.v d]⟩) fun c s => withCore c s fun k =>
    let l := gatherAddrs c a b mk
    match k.gatherCheck false l n with
    | some f => .fault f.1 f.2
    | none =>
      if k.readHold c.sl c.cyc || l.any fun e => k.localHold c.c c.sl e.2.toNat n false then .hold
      else
      let s := s.modCore c.c fun k => l.foldl (fun k e => k.injectRead e.2.toNat n) k
      withCore c s fun k =>
        match l.findSome? fun e => k.badView c.sl e.2.toNat n with
        | some w => .late s .uels (BitVec.ofNat 64 w)
        | none =>
          let m := k.memView c.sl
          let old := s.vOld c.c d
          let lanes : Vector Lane 64 := vgen fun i =>
            match aget i.val l with
            | some w => BitVec.ofNat 32 (m.readLE w.toNat n)
            | none => old.lanes[i]
          .ok (s.putLoad c (.v d) (.vec { old with lanes := lanes }) (gatherOcc l + 4)) 0

/-- VSCAT of `n` bytes a lane: the stores are buffered in lane order, so that the higher lane remains. -/
def scatter (h : Head) (d : VNum) (a : SReg) (b : VNum) (mk : MaskX) (n : Nat) : State → Host.Outcome State Fault Refusal :=
  issue h 1 (fun sl => ⟨[sid sl a, .v b, .v d] ++ maskRegs mk, []⟩) fun c s => withCore c s fun k =>
    let l := gatherAddrs c a b mk
    match k.gatherCheck true l n with
    | some f => .fault f.1 f.2
    | none =>
      if l.any fun e => k.localHold c.c c.sl e.2.toNat n true then .hold
      else
      let v := (c.rd.getV d).lanes
      .ok (l.foldl (fun s e => s.bufferStore c e.2.toNat (bytesLE n (vat v e.1 0).toNat) (gatherOcc l + 2)) s) 0

/-- VGATH.i32. -/
def execVgathI32 (h : Head) (d : VNum) (a : SReg) (b : VNum) (mk : MaskX) : State → Host.Outcome State Fault Refusal :=
  gather h d a b mk 4
/-- VSCAT.i32. -/
def execVscatI32 (h : Head) (d : VNum) (a : SReg) (b : VNum) (mk : MaskX) : State → Host.Outcome State Fault Refusal :=
  scatter h d a b mk 4
/-- VGATH.i16: the lane is zero-extended. -/
def execVgathI16 (h : Head) (d : VNum) (a : SReg) (b : VNum) (mk : MaskX) : State → Host.Outcome State Fault Refusal :=
  gather h d a b mk 2
/-- VSCAT.i16: bits [15:0] of the lane. -/
def execVscatI16 (h : Head) (d : VNum) (a : SReg) (b : VNum) (mk : MaskX) : State → Host.Outcome State Fault Refusal :=
  scatter h d a b mk 2

/-! ## Blocks (R200) -/

/-- The checks of QLD and QST: alignment of both planes, range of both, rights of both. -/
def Core.planeCheck (k : Core) (write : Bool) (a b : Word) (n : Nat) : Option (Cause × Word) :=
  if a.toNat % 16 ≠ 0 then some (.lalign, a)
  else if b.toNat % 8 ≠ 0 then some (.lalign, b)
  else if 0x30000 < a.toNat + n then some (.lrange, a)
  else if 0x30000 < b.toNat + 8 then some (.lrange, b)
  else if !k.allowed write a.toNat n then some (.tnone, a)
  else if !k.allowed write b.toNat 8 then some (.tnone, b)
  else none

/-- Lanes of a mantissa plane of width `w` (R44): sign-extended. -/
def planeLanes (w : Nat) (bs : List Byte) : Vector Lane 64 :=
  let v := ofBytes bs
  vgen fun i => BitVec.ofInt 32 (BitVec.ofNat w (v / 2 ^ (w * i.val))).toInt

/-- The mantissa plane of lanes: their low `w` bits. -/
def planeBytes (w : Nat) (v : Vector Lane 64) : List Byte :=
  bytesLE (8 * w) (v.toList.foldr (fun l acc => acc * 2 ^ w + l.toNat % 2 ^ w) 0)

/-- QLD: 5 cc. The reserved bits of the header are not written (R3, R43). -/
def qload (h : Head) (d : VNum) (a b : SReg) (w : Nat) : State → Host.Outcome State Fault Refusal :=
  issue h 1 (fun sl => ⟨[sid sl a, sid sl b], [.v d]⟩) fun c s => withCore c s fun k =>
    match k.planeCheck false (c.rs a) (c.rs b) (8 * w) with
    | some f => .fault f.1 f.2
    | none =>
      if k.localHold c.c c.sl (c.rs a).toNat (8 * w) false || k.localHold c.c c.sl (c.rs b).toNat 8 false then .hold
      else localRead c s (c.rs a).toNat (8 * w) fun s ms => localRead c s (c.rs b).toNat 8 fun s hs =>
        .ok (s.putLoad c (.v d) (.vec ⟨planeLanes w ms, BitVec.ofNat 64 (ofBytes hs % 2 ^ 42)⟩) 5) 0

/-- QST: performed after 3 cc. -/
def qstore (h : Head) (d : VNum) (a b : SReg) (w : Nat) : State → Host.Outcome State Fault Refusal :=
  issue h 1 (fun sl => ⟨[sid sl a, sid sl b, .v d], []⟩) fun c s => withCore c s fun k =>
    match k.planeCheck true (c.rs a) (c.rs b) (8 * w) with
    | some f => .fault f.1 f.2
    | none =>
      if k.localHold c.c c.sl (c.rs a).toNat (8 * w) true || k.localHold c.c c.sl (c.rs b).toNat 8 true then .hold
      else
      let v := c.rd.getV d
      .ok ((s.bufferStore c (c.rs a).toNat (planeBytes w v.lanes) 3).bufferStore c (c.rs b).toNat
        (bytesLE 8 v.header.toNat) 3) 0

/-- QLD.qb8. -/
def execQldQb8 (h : Head) (d : VNum) (a b : SReg) : State → Host.Outcome State Fault Refusal := qload h d a b 8
/-- QLD.qb4. -/
def execQldQb4 (h : Head) (d : VNum) (a b : SReg) : State → Host.Outcome State Fault Refusal := qload h d a b 4
/-- QST.qb8. -/
def execQstQb8 (h : Head) (d : VNum) (a b : SReg) : State → Host.Outcome State Fault Refusal := qstore h d a b 8
/-- QST.qb4. -/
def execQstQb4 (h : Head) (d : VNum) (a b : SReg) : State → Host.Outcome State Fault Refusal := qstore h d a b 4

end Sys2Proof.Machine
end

