-- ==== Sys2Proof/Machine/Matrix.lean ====
section
/-! DEFINITION. The matrix unit (R157 to R187): the queue, issue checks, dispatch, and what each command writes when it
completes. -/

namespace Sys2Proof.Machine

/-! ## Registers that a command reads and writes (R160) -/

/-- The matrix registers: accumulators, planes and codebooks. -/
inductive MatReg where
  | acc (n : Fin 4)
  | wa
  | ws
  | kb (n : Fin 4)
  deriving DecidableEq, Repr

def allKb : List MatReg := [.kb 0, .kb 1, .kb 2, .kb 3]

/-- The accumulator after `n` in a pair. -/
def pairOf (n : ANum) : ANum := n + 1

def MmaMode.pair : MmaMode → Bool
  | .f8i4 | .b16i4 | .b16l4 => true
  | _ => false

def MmaMode.accs (m : MmaMode) (n : ANum) : List MatReg := if m.pair then [.acc n, .acc (pairOf n)] else [.acc n]

def MCmd.reads : MCmd → List MatReg
  | .mma m n _ _ => .wa :: m.accs n ++ (if m = .b16l4 then allKb else [])
  | .mswap => [.wa, .ws]
  | .mcolq n _ _ => [.acc n, .acc (pairOf n)]
  | .toVector _ n _ => [.acc n]
  | .toAcc n _ _ => [.acc n]
  | .mrsum _ n => [.acc n]
  | .mchk _ n => [.acc n, .wa, .ws] ++ allKb
  | .mdrain _ _ n _ _ _ _ _ => [.acc n]
  | _ => []

def MCmd.writes : MCmd → List MatReg
  | .mma m n _ _ => m.accs n
  | .mldw _ _ => [.ws]
  | .mswap => [.wa, .ws]
  | .mldk n _ => [.kb n]
  | .mcolq n _ _ => [.acc n, .acc (pairOf n)]
  | .mzero n => [.acc n]
  | .toAcc n _ _ => [.acc n]
  | .mdrain _ _ n _ z _ _ _ => if z then [.acc n] else []
  | _ => []

def MCmd.isMma : MCmd → Bool
  | .mma _ _ _ _ => true
  | _ => false

def MCmd.isSync : MCmd → Bool
  | .msync _ => true
  | _ => false

/-- Pipes: load and compute (R160). -/
def MCmd.loadPipe : MCmd → Bool
  | .mldw _ _ | .mswap => true
  | _ => false
def MCmd.computePipe : MCmd → Bool
  | .mldw _ _ | .msync _ => false
  | _ => true

/-- `x` waits for the earlier command `e` (R160, condition 4); MMAs on the same accumulators do not. -/
def MCmd.waitsFor (x e : MCmd) : Bool :=
  !(x.isMma && e.isMma && decide (x.writes = e.writes)) &&
    (e.writes.any (fun r => x.reads.contains r || x.writes.contains r) || e.reads.any fun r => x.writes.contains r)

/-! ## Operand and layout words (R165, R170) -/

def mmaRows (b : Word) : Nat := bits b 0 5
def mmaZ (b : Word) : Bool := b.getLsbD 5
def mmaStride (b : Word) : Nat := bits b 16 16
def mmaAH (b : Word) : Nat := 8 * bits b 32 15
def mmaWH (b : Word) : Nat := 8 * bits b 48 15

/-- K and the element width of the weights of a mode (R171). -/
def MmaMode.k : MmaMode → Nat
  | .b16b16 | .b16i4 | .b16l4 => 128
  | .qb4 => 512
  | _ => 256
def MmaMode.ew : MmaMode → Nat
  | .f8f8 | .qb8 => 8
  | .b16b16 => 16
  | _ => 4

def MmaMode.isQb : MmaMode → Bool
  | .qb8 | .qb4 => true
  | _ => false

/-- Blocks of a row in the QB modes. -/
def MmaMode.blocks (m : MmaMode) : Nat := m.k / 64

/-- The local-store ranges that an MMA reads (R171). -/
def mmaRanges (m : MmaMode) (a : Nat) (b : Word) : List (Nat × Nat) :=
  ((List.range (mmaRows b)).map fun r => (a + r * mmaStride b, 256))
    ++ (if m.isQb then [(mmaAH b, 8 * m.blocks * mmaRows b), (mmaWH b, 8 * m.blocks * 16)] else [])

def ldwNc (b : Word) : Nat := bits b 6 6
def ldwK (b : Word) : Nat := 128 * 2 ^ bits b 4 2
def ldwEw (b : Word) : Nat :=
  match bits b 0 2 with
  | 0 => 8
  | 1 => 16
  | _ => 4
def ldwT (b : Word) : Bool := b.getLsbD 3
def ldwZ (b : Word) : Bool := b.getLsbD 2
def ldwStride (b : Word) : Nat := bits b 16 16

/-- Rows and columns of the source, by T (R166). -/
def ldwRows (b : Word) : Nat := if ldwT b then ldwK b else ldwNc b
def ldwCols (b : Word) : Nat := if ldwT b then ldwNc b else ldwK b

/-- Bytes loaded. -/
def ldwBytes (b : Word) : Nat := ldwNc b * ldwK b * ldwEw b / 8

/-- The local-store ranges that an MLDW reads. -/
def ldwRanges (a : Nat) (b : Word) : List (Nat × Nat) :=
  if ldwZ b then [(a, ldwBytes b)]
  else (List.range (ldwRows b)).map fun i => (a + i * ldwStride b, cdiv (ldwCols b * ldwEw b) 8)

/-- Interleave of the leaf coordinates, `q` the bit to place (R166). -/
def zBits (bu bv u v : Nat) : Nat → Nat → Nat → Nat → Nat
  | 0, _, _, z => z
  | fuel + 1, q, p, z =>
    if q < min bu bv then zBits bu bv u v fuel (q + 1) (p + 2) (z + v / 2 ^ q % 2 * 2 ^ p + u / 2 ^ q % 2 * 2 ^ (p + 1))
    else if q < max bu bv then
      zBits bu bv u v fuel (q + 1) (p + 1) (z + (if bv < bu then u else v) / 2 ^ q % 2 * 2 ^ p)
    else z

/-- SourceBit (R166), relative to the source offset in bits. -/
def sourceBit (b : Word) (k n : Nat) : Nat :=
  let i := if ldwT b then k else n
  let j := if ldwT b then n else k
  if ldwZ b then
    let z := zBits (ldwRows b / 4).log2 (ldwCols b / 4).log2 (i / 4) (j / 4) 16 0 0 0
    (16 * z + 4 * (i % 4) + j % 4) * ldwEw b
  else 8 * (i * ldwStride b) + j * ldwEw b

/-! ## Issue (R157, R158) -/

/-- The lowest byte at or above 0x3_0000 that ranges reach. -/
def overRange (l : List (Nat × Nat)) : Option Nat :=
  (l.filter fun e => decide (0x30000 < e.1 + e.2)).foldl (fun m e =>
    let x := max e.1 0x30000
    match m with
    | none => some x
    | some y => some (min x y)) none

/-- The rights of ranges (R195): the first byte of the first range that lacks them. -/
def Core.rangesDenied (k : Core) (l : List (Nat × Nat)) : Option Nat :=
  (l.find? fun e => !k.allowed false e.1 e.2).map fun e => e.1

/-- The address checks that MMA and MLDW share, in the order of R167 and R175, with the addresses of R187. -/
def Core.matCheck (k : Core) (a : Word) (strideBad : Bool) (stride : Nat) (l : Unit → List (Nat × Nat)) :
    Option (Cause × Word) :=
  if a.toNat % 16 ≠ 0 then some (.lalign, a)
  else if strideBad then some (.lalign, if 2 ^ 18 ≤ a.toNat then a else a + BitVec.ofNat 64 stride)
  else if 2 ^ 18 ≤ a.toNat then some (.lrange, a)
  else
    match overRange (l ()) with
    | some x => some (.lrange, BitVec.ofNat 64 x)
    | none => (k.rangesDenied (l ())).map fun x => (.tnone, BitVec.ofNat 64 x)

/-- MMA (R175). -/
def Core.mmaCheck (k : Core) (pc : Nat) (m : MmaMode) (a b : Word) : Option (Cause × Word) :=
  if mmaRows b = 0 || decide (16 < mmaRows b) then some (.margs, BitVec.ofNat 64 pc)
  else k.matCheck a (decide (mmaStride b % 16 ≠ 0)) (mmaStride b) fun _ => mmaRanges m a.toNat b

/-- MLDW (R167). -/
def Core.ldwCheck (k : Core) (pc : Nat) (a b : Word) : Option (Cause × Word) :=
  if bits b 0 2 = 3 || bits b 4 2 = 3 || ldwNc b = 0 || decide (32 < ldwNc b)
      || decide (32768 < ldwNc b * ldwK b * ldwEw b) || (ldwZ b && !([4, 8, 16, 32].contains (ldwNc b))) then
    some (.margs, BitVec.ofNat 64 pc)
  else k.matCheck a (!ldwZ b && decide (ldwStride b % 16 ≠ 0)) (ldwStride b) fun _ => ldwRanges a.toNat b

/-- The local-store ranges that a command reads. -/
def MCmd.ranges : MCmd → List (Nat × Nat)
  | .mma m _ a b => mmaRanges m a b
  | .mldw a b => ldwRanges a b
  | _ => []

/-- Queues a command: held while 16 entries are not dispatched, and by the holds of a local read of its operands (R217,
R218). The snapshot has the slot's own earlier stores (R27). -/
def matQueue (c : Ctx) (s : State) (check : Core → Option (Cause × Word)) (snap : Bool) (cmd : MCmd) : Res :=
  withCore c s fun k =>
    if 16 ≤ k.matrix.countP (fun m => !m.dispatched) then .hold
    else
      match check k with
      | some f => .fault f.1 f.2
      | none =>
        if cmd.ranges.any fun e => k.localHold c.c c.sl e.1 e.2 false then .hold
        else .ok (s.modCore c.c fun k => { k with matrix := k.matrix ++
          [⟨s.nextId, c.sl, cmd, (k.slot c.sl).ftrap, c.cyc, c.pc, false, 0, if snap then [k.memView c.sl] else [], none, 0⟩] }).newId 0

/-- A command with register operands only. -/
def matOp (h : Head) (words : Nat) (uses : Fin 8 → Uses) (cmd : Ctx → MCmd) : State → Host.Outcome State Fault Refusal :=
  issue h words uses fun c s => matQueue c s (fun _ => none) false (cmd c)

/-- MMA of a mode. -/
def mmaOp (h : Head) (m : MmaMode) (n : ANum) (a b : SReg) : State → Host.Outcome State Fault Refusal :=
  issue h 1 (usesAB a b) fun c s =>
    matQueue c s (fun k => k.mmaCheck c.pc m (c.rs a) (c.rs b)) true (.mma m n (c.rs a).toNat (c.rs b))

/-- The accumulator of a pair field. -/
def pairAcc (d : Bool) : ANum := if d then 2 else 0

/-- MMA.f8f8. -/
def execMmaF8f8 (h : Head) (d : ANum) (a b : SReg) : State → Host.Outcome State Fault Refusal := mmaOp h .f8f8 d a b
/-- MMA.b16b16. -/
def execMmaB16b16 (h : Head) (d : ANum) (a b : SReg) : State → Host.Outcome State Fault Refusal := mmaOp h .b16b16 d a b
/-- MMA.f8i4. -/
def execMmaF8i4 (h : Head) (d : Bool) (a b : SReg) : State → Host.Outcome State Fault Refusal :=
  mmaOp h .f8i4 (pairAcc d) a b
/-- MMA.b16i4. -/
def execMmaB16i4 (h : Head) (d : Bool) (a b : SReg) : State → Host.Outcome State Fault Refusal :=
  mmaOp h .b16i4 (pairAcc d) a b
/-- MMA.b16l4. -/
def execMmaB16l4 (h : Head) (d : Bool) (a b : SReg) : State → Host.Outcome State Fault Refusal :=
  mmaOp h .b16l4 (pairAcc d) a b
/-- MMA.qb8. -/
def execMmaQb8 (h : Head) (d : ANum) (a b : SReg) : State → Host.Outcome State Fault Refusal := mmaOp h .qb8 d a b
/-- MMA.qb4. -/
def execMmaQb4 (h : Head) (d : ANum) (a b : SReg) : State → Host.Outcome State Fault Refusal := mmaOp h .qb4 d a b

/-- MLDW (R165, R167). -/
def execMldw (h : Head) (a b : SReg) : State → Host.Outcome State Fault Refusal :=
  issue h 1 (usesAB a b) fun c s =>
    matQueue c s (fun k => k.ldwCheck c.pc (c.rs a) (c.rs b)) true (.mldw (c.rs a).toNat (c.rs b))

/-- MSWAP (R168). -/
def execMswap (h : Head) : State → Host.Outcome State Fault Refusal := matOp h 1 usesNone fun _ => .mswap
/-- MLDK (R169). -/
def execMldk (h : Head) (d : ANum) (a : VNum) : State → Host.Outcome State Fault Refusal :=
  matOp h 1 (fun _ => ⟨[.v a], []⟩) fun c => .mldk d (c.rd.getV a)
/-- MCOLQ (R176). -/
def execMcolq (h : Head) (d : Bool) (a b : VNum) : State → Host.Outcome State Fault Refusal :=
  matOp h 1 (fun _ => ⟨[.v a, .v b], []⟩) fun c => .mcolq (pairAcc d) (c.rd.getV a) (c.rd.getV b)
/-- MZERO (R178). -/
def execMzero (h : Head) (d : ANum) : State → Host.Outcome State Fault Refusal := matOp h 1 usesNone fun _ => .mzero d
/-- MMOVA to a vector (R184). -/
def execMmovaToVector (h : Head) (d : VNum) (a : ANum) (g : BitVec 2) : State → Host.Outcome State Fault Refusal :=
  matOp h 1 (fun _ => ⟨[], [.v d]⟩) fun _ => .toVector d a g.toFin
/-- MMOVA to an accumulator (R184). -/
def execMmovaToAcc (h : Head) (d : ANum) (a : VNum) (g : BitVec 2) : State → Host.Outcome State Fault Refusal :=
  matOp h 1 (fun _ => ⟨[.v a], []⟩) fun c => .toAcc d (c.rd.getV a) g.toFin
/-- MRSUM (R177). -/
def execMrsum (h : Head) (d : VNum) (a : ANum) : State → Host.Outcome State Fault Refusal :=
  matOp h 1 (fun _ => ⟨[], [.v d]⟩) fun _ => .mrsum d a
/-- MCHK (R185). -/
def execMchk (h : Head) (d : SReg) (a : ANum) : State → Host.Outcome State Fault Refusal :=
  matOp h 1 (usesD d) fun _ => .mchk d a
/-- MSYNC (R186). -/
def execMsync (h : Head) (d : SReg) : State → Host.Outcome State Fault Refusal :=
  matOp h 1 (usesD d) fun _ => .msync d

/-- MDRAIN to an output format (R179): FMT2 names the source. -/
def mdrain (h : Head) (x : VecX) (d : VNum) (a : ANum) (g : BitVec 2) (z : Bool) (out : DrainFmt) (own : Fmt) :
    State → Host.Outcome State Fault Refusal :=
  matOp h (vxWords x) (fun _ => ⟨[], [.v d]⟩) fun c =>
    let rm : Rm := match c.mode (vxRm x) with
      | .rne => .rne
      | .rtz => .rtz
      | .rdn => .rdn
      | .rup => .rup
      | .sr => .sr
    .mdrain out d a g.toNat z (decide (vxFmt x own = .ba32)) rm (vxSat x)

/-- MDRAIN.f32. -/
def execMdrainF32 (h : Head) (x : VecX) (d : VNum) (a : ANum) (g : BitVec 2) (z : Bool) :
    State → Host.Outcome State Fault Refusal := mdrain h x d a g z .f32 .f32
/-- MDRAIN.bf16. -/
def execMdrainBf16 (h : Head) (x : VecX) (d : VNum) (a : ANum) (g : BitVec 2) (z : Bool) :
    State → Host.Outcome State Fault Refusal := mdrain h x d a g z .bf16 .f32
/-- MDRAIN.e4m3. -/
def execMdrainE4m3 (h : Head) (x : VecX) (d : VNum) (a : ANum) (g : BitVec 2) (z : Bool) :
    State → Host.Outcome State Fault Refusal := mdrain h x d a g z .e4m3 .f32
/-- MDRAIN.e5m2. -/
def execMdrainE5m2 (h : Head) (x : VecX) (d : VNum) (a : ANum) (g : BitVec 2) (z : Bool) :
    State → Host.Outcome State Fault Refusal := mdrain h x d a g z .e5m2 .f32
/-- MDRAIN.qb8. -/
def execMdrainQb8 (h : Head) (x : VecX) (d : VNum) (a : ANum) (g : BitVec 2) (z : Bool) :
    State → Host.Outcome State Fault Refusal := mdrain h x d a g z .qb8 .ba32
/-- MDRAIN.qb4. -/
def execMdrainQb4 (h : Head) (x : VecX) (d : VNum) (a : ANum) (g : BitVec 2) (z : Bool) :
    State → Host.Outcome State Fault Refusal := mdrain h x d a g z .qb4 .ba32
/-- MDRAIN.ba32. -/
def execMdrainBa32 (h : Head) (x : VecX) (d : VNum) (a : ANum) (g : BitVec 2) (z : Bool) :
    State → Host.Outcome State Fault Refusal := mdrain h x d a g z .ba32 .ba32

/-! ## Dispatch (R160, R161) -/

/-- Rows that an output drains. -/
def DrainFmt.rows : DrainFmt → Nat
  | .bf16 => 8
  | .e4m3 | .e5m2 => 16
  | _ => 4

def MCmd.occ : MCmd → Nat
  | .mma m _ _ b => (if m = .qb4 then 8 else 16) * mmaRows b
  | .mldw _ b => cdiv (ldwBytes b) 64
  | .toVector _ _ _ | .toAcc _ _ _ => 2
  | .mcolq _ _ _ | .mchk _ _ => 16
  | .mdrain out _ _ _ _ _ _ _ => out.rows
  | .msync _ => 0
  | _ => 1

def MCmd.lat : MCmd → Nat
  | .mma _ _ _ _ => 14
  | .mldw _ _ => 4
  | .mswap => 0
  | .toVector _ _ _ | .toAcc _ _ _ => 4
  | .mcolq _ _ _ => 6
  | .mdrain _ _ _ _ _ _ _ _ => 6
  | .msync _ => 0
  | _ => 2

/-- The command to dispatch at a cycle, if its conditions hold (R160). -/
def Core.dispatchable (k : Core) (cyc : Nat) : Option MEntry :=
  match k.matrix.find? fun m => !m.dispatched with
  | none => none
  | some x =>
    let earlier := k.matrix.filter fun e => e.dispatched
    if x.issued < cyc && decide (k.lastDispatch < cyc) && (!x.cmd.loadPipe || decide (k.loadFree ≤ cyc))
        && (!x.cmd.computePipe || decide (k.computeFree ≤ cyc)) && !(earlier.any fun e => x.cmd.waitsFor e.cmd) then some x
    else none

def Core.acc (k : Core) (n : ANum) : Acc := k.regs.acc[n]

def Core.setAcc (k : Core) (n : ANum) (a : Acc) : Core := { k with regs := { k.regs with acc := k.regs.acc.set n a } }

/-- The value of an accumulator lane as a drain reads it (R180). -/
def accValue (a : Acc) (ba : Bool) (r c : Nat) : Num :=
  let l := vat a.lanes (16 * r + c) 0
  if ba then
    match BaCls.ofCode (vat a.cls (r / 4) 0).toNat with
    | .zero => .fin false 0 0
    | .nan => .nan
    | .normal => .fin (decide (l.toInt < 0)) l.toInt.natAbs (vat a.x (r / 4) 0).toInt
  else Num.ofBits fp32 l.toNat

/-- Elements rounded to a format and packed (R92). -/
def packRounded (f : FpFmt) (vs : List Num) (rm : RMode) (sat : Bool) (y : Fx) : Vector Lane 64 × Fx :=
  let r := vs.foldl (fun (acc : List Nat × Fx) v =>
    let (b, y) := round f v rm sat acc.2
    (b :: acc.1, y)) ([], y)
  let n := r.1.reverse.foldr (fun b acc => acc * 2 ^ f.width + b) 0
  (vgen fun i => BitVec.ofNat 32 (n / 2 ^ (32 * i.val)), r.2)

/-- The BA32 block of 64 FP32 values (R180). -/
def baOfNums (vs : List Num) : Ba × BitVec 6 :=
  let isInf (v : Num) : Bool := match v with
    | .inf _ => true
    | _ => false
  if vs.any fun v => v.isNan || isInf v then (Ba.nanBlock 1, if vs.any isInf then flagNV else 0)
  else
    let parts : List (Int × Int) := vs.map fun v => match v with
      | .fin s m e => (if s then -(m : Int) else (m : Int), e)
      | _ => (0, 0)
    let addend : Ba := ⟨parts.map fun p => p.1, 0, .normal, 1⟩
    baAdd ⟨List.replicate 64 0, 0, .zero, 0⟩ addend (fun i => (parts.getD i (0, 0)).2) none

/-- A block of an accumulator (R173), and the accumulator with a block replaced. -/
def accBlock (a : Acc) (b : Nat) : Ba :=
  ⟨(List.range 64).map fun i => (vat a.lanes (64 * b + i) 0).toInt, (vat a.x b 0).toInt,
    BaCls.ofCode (vat a.cls b 0).toNat, 0⟩

def setAccBlock (a : Acc) (b : Nat) (t : Ba) : Acc :=
  { a with
    lanes := vgen fun i => if i.val / 64 = b then BitVec.ofInt 32 (t.lanes.getD (i.val % 64) 0) else a.lanes[i]
    x := vgen fun i => if i.val = b then BitVec.ofInt 16 t.x else a.x[i]
    cls := vgen fun i => if i.val = b then BitVec.ofNat 2 t.cls.code else a.cls[i] }

/-- What a drain writes, its flags, the generator after it, and the row maxima for AMAX (R180, R182). -/
def drainValue (a : Acc) (out : DrainFmt) (g : Nat) (ba : Bool) (rm : RMode) (sat : Bool) (header : Word) (y : Fx) :
    VReg × Fx × List Lane :=
  let r0 := out.rows * g
  let vs := (List.range (16 * out.rows)).map fun e => accValue a ba (r0 + e / 16) (e % 16)
  let packed (f : FpFmt) (sat : Bool) : VReg × Fx := let r := packRounded f vs rm sat y; (⟨r.1, header⟩, r.2)
  let r : VReg × Fx := match out with
    | .f32 => packed fp32 false
    | .bf16 => packed bf16 false
    | .e4m3 => packed e4m3 sat
    | .e5m2 => packed e5m2 sat
    | .qb8 => quantiseNum vs 8 rm y
    | .qb4 => quantiseNum vs 4 rm y
    | .ba32 =>
      if ba then (({ accBlock a g with cnt := 1 } : Ba).toVec, y)
      else let r := baOfNums vs; (r.1.toVec, y.raise r.2)
  let mag (v : Num) : Nat := (round fp32 v.abs .rne false ⟨Rng.reset, 0⟩).1
  let rowMax (i : Nat) : Lane :=
    BitVec.ofNat 32 (((vs.drop (16 * i)).take 16).foldl (fun m v => fpMinMax fp32 true m (mag v)) 0)
  (r.1, r.2, (List.range out.rows).map rowMax)

/-- Dispatches the head of the queue (R160, R161); a drain converts its values and takes its random values here (R180). -/
def State.matrixDispatch (s : State) (c : Nat) (x : MEntry) : State :=
  let cyc := s.cyc c
  s.modCore c fun k =>
    let sync := (k.matrix.filter fun e => decide (e.slot = x.slot) && e.dispatched).foldl (fun m e => max m e.completeAt) cyc
    let done := if x.cmd.isSync then sync else cyc + x.cmd.occ + x.cmd.lat
    let (res, y, am) : Option VReg × Fx × List Lane := match x.cmd with
      | .mdrain out vd an g _ ba rm sat =>
        let r := drainValue (k.acc an) out g ba (resolveRm rm 0) sat (k.getV vd).header ⟨k.regs.rng, 0⟩
        (some r.1, r.2.1, r.2.2)
      | _ => (none, ⟨k.regs.rng, 0⟩, [])
    { k with
      regs := { k.regs with rng := y.rng, amaxQ := k.regs.amaxQ ++ am.zipIdx.map fun e => (cyc + e.2, e.1) }
      matrix := k.matrix.map fun e =>
        if e.id = x.id then { e with dispatched := true, completeAt := done, result := res, flags := y.flags } else e
      lastDispatch := cyc
      loadFree := if x.cmd.loadPipe then cyc + x.cmd.occ else k.loadFree
      computeFree := if x.cmd.computePipe then cyc + x.cmd.occ else k.computeFree }

/-! ## What a command does when it completes -/

/-- The version of the store from which a command read a 16-byte unit: any since its issue (R163, log 5). -/
def unitVersion (fresh u : Nat) (vs : List Mem) : Mem :=
  (vs.zipIdx).foldl (fun m v => if v.2 = 0 || Config.pick fresh (u * (vs.length + 1) + v.2) then v.1 else m) []

/-- Bytes that a command read, unit by unit. -/
def unitRead (fresh : Nat) (vs : List Mem) (a : Nat) : Nat → List Byte
  | 0 => []
  | n + 1 => (unitVersion fresh (a / 16) vs).read a :: unitRead fresh vs (a + 1) n

/-- The sum of a group (R53, R172): products or elements, exact; NV from 0 × ∞ and from ∞ − ∞. -/
def groupSum (l : List (Num × BitVec 6)) : Num × BitVec 6 :=
  let fl := l.foldl (fun f e => f ||| e.2) 0
  let pinf := l.any fun e => decide (e.1 = .inf false)
  let ninf := l.any fun e => decide (e.1 = .inf true)
  let fl := if pinf && ninf then fl ||| flagNV else fl
  if (pinf && ninf) || l.any fun e => e.1.isNan then (.nan, fl)
  else if pinf then (.inf false, fl)
  else if ninf then (.inf true, fl)
  else
    let q := l.foldl (fun (m : Int) e => match e.1 with
      | .fin _ n x => if n ≠ 0 && decide (x < m) then x else m
      | _ => m) 0
    let v := l.foldl (fun (acc : Int) e => match e.1 with
      | .fin s n x => if n = 0 then acc else acc + scaled s n x q
      | _ => acc) 0
    if v = 0 then
      (.fin (l.all fun e => match e.1 with
        | .fin s n _ => s && decide (n = 0)
        | _ => false) 0 0, fl)
    else (.fin (decide (v < 0)) v.natAbs q, fl)

/-- One accumulation: C := Round(C + Round(s)) by RNE (R172). -/
def accumulate (c : Nat) (g : Num × BitVec 6) (y : Fx) : Nat × Fx :=
  let (b, y) := round fp32 g.1 .rne false (y.raise g.2)
  fpAdd fp32 c b .rne false y

/-- Groups of 32 in increasing order. -/
def accumulateGroups (c : Nat) (l : List (Num × BitVec 6)) (groups : Nat) (y : Fx) : Nat × Fx :=
  (List.range groups).foldl (fun acc g => accumulate acc.1 (groupSum ((l.drop (32 * g)).take 32)) acc.2) (c, y)

/-- Elements of an activation row (R171). -/
def actRow (m : MmaMode) (b : Word) (bs : List Byte) : List Num :=
  let f := match m with
    | .f8f8 | .f8i4 => if b.getLsbD 6 then e5m2 else e4m3
    | _ => bf16
  let v := ofBytes bs
  (List.range m.k).map fun k => Num.ofBits f (v / 2 ^ (f.width * k) % 2 ^ f.width)

/-- Weights of column `c` (R164, R171). -/
def weightCol (m : MmaMode) (b : Word) (wa : BitVec 32768) (kb : Vector (BitVec 256) 4) (c : Nat) : List Num :=
  let ew := m.ew
  let col := bits wa (c * m.k * ew) (m.k * ew)
  (List.range m.k).map fun k =>
    let q := col / 2 ^ (ew * k) % 2 ^ ew
    match m with
    | .f8f8 => Num.ofBits (if b.getLsbD 7 then e5m2 else e4m3) q
    | .b16b16 => Num.ofBits bf16 q
    | .b16l4 => Num.ofBits bf16 (bits (vat kb (c / 8) 0) (16 * q) 16)
    | _ => Num.ofInt q

/-- Whether a mode keeps row sums. -/
def MmaMode.rowSums : MmaMode → Bool
  | .f8i4 | .b16i4 => true
  | _ => false

/-- Clears the lanes and row sums of an accumulator (Z of R172, R174). -/
def Acc.clear (a : Acc) (rs : Bool) : Acc :=
  { a with lanes := Vector.replicate 256 0, rs := if rs then Vector.replicate 16 0 else a.rs }

/-- One row of an FP32-accumulator MMA into one register of it, columns `16·part + 0..15`. -/
def mmaRow (m : MmaMode) (x : List Num) (ws : List (List Num)) (part r : Nat) (a : Acc) (y : Fx) : Acc × Fx :=
  let cells := (List.range 16).foldl (fun (acc : List Lane × Fx) c =>
    let prods := List.zipWith Num.mul x (ws.getD (16 * part + c) [])
    let (v, y) := accumulateGroups (vat a.lanes (16 * r + c) 0).toNat prods (m.k / 32) acc.2
    (BitVec.ofNat 32 v :: acc.1, y)) ([], y)
  let row := cells.1.reverse
  ({ a with lanes := vgen fun i => if i.val / 16 = r then row.getD (i.val % 16) 0 else a.lanes[i] }, cells.2)

/-- MMA_fp (R172) over the rows read: the even register, the odd one, and the flags. -/
def mmaFp (m : MmaMode) (b : Word) (rows : List (List Byte)) (wa : BitVec 32768) (kb : Vector (BitVec 256) 4)
    (even odd : Acc) : Acc × Acc × Fx :=
  let n := if m.pair then 32 else 16
  let ws := (List.range n).map (weightCol m b wa kb)
  let even := if mmaZ b then even.clear true else even
  let odd := if mmaZ b && m.pair then odd.clear false else odd
  rows.zipIdx.foldl (fun (acc : Acc × Acc × Fx) row =>
    let x := actRow m b row.1
    let r := row.2
    let (e, y) := mmaRow m x ws 0 r acc.1 acc.2.2
    let (o, y) := if m.pair then mmaRow m x ws 1 r acc.2.1 y else (acc.2.1, y)
    if m.rowSums then
      let (v, y) := accumulateGroups (vat e.rs r 0).toNat (x.map fun v => (v, 0)) (m.k / 32) y
      ({ e with rs := e.rs.setIfInBounds r (BitVec.ofNat 32 v) }, o, y)
    else (e, o, y)) (even, odd, ⟨Rng.reset, 0⟩)

/-- The BA32 lanes of a QB block in memory (R44, R49), with its exponent and class code. -/
def qbLanes (w : Nat) (mant : Nat) (h : Word) : List Int × Int × Nat :=
  let cls := bits h 40 2
  let lane (i : Nat) : Int :=
    if cls = 1 then 0 else (BitVec.ofNat w (mant / 2 ^ (w * i))).toInt * 2 ^ (1 - headerMu h i)
  ((List.range 64).map lane, (bits h 0 8 : Nat) - 127 - (w : Int), cls)

/-- MMA_qb (R173): `rows` the activation rows, `ah` and `wh` the header tables. -/
def mmaQb (m : MmaMode) (b : Word) (rows : List (List Byte)) (ah wh : List Byte) (wa : BitVec 32768) (a : Acc) : Acc × Fx :=
  let w := m.ew
  let nb := m.blocks
  let header (t : List Byte) (i : Nat) : Word := BitVec.ofNat 64 (ofBytes ((t.drop (8 * i)).take 8))
  let cols := (List.range 16).map fun c => (List.range nb).map fun j =>
    qbLanes w (bits wa (c * m.k * w + 64 * w * j) (64 * w)) (header wh (nb * c + j))
  let a := if mmaZ b then
      { a with lanes := Vector.replicate 256 0, x := Vector.replicate 4 0, cls := Vector.replicate 4 1 }
    else a
  rows.zipIdx.foldl (fun (acc : Acc × Fx) row =>
    let r := row.2
    let mant := ofBytes row.1
    (List.range nb).foldl (fun (acc : Acc × Fx) j =>
      let (la, xa, ca) := qbLanes w (mant / 2 ^ (64 * w * j) % 2 ^ (64 * w)) (header ah (nb * r + j))
      let wsj := cols.map fun c => c.getD j ([], 0, 1)
      let codes := ca :: wsj.map fun e => e.2.2
      if codes.any fun c => decide (2 ≤ c) then
        (setAccBlock acc.1 (r / 4) (Ba.nanBlock 0), if codes.any (fun c => c == 3) then acc.2.raise flagNV else acc.2)
      else
        let dots := wsj.map fun e => (List.zipWith (fun x y => x * y) la e.1).foldl (fun s v => s + v) 0
        let lane (i : Nat) : Int := if i / 16 = r % 4 then dots.getD (i % 16) 0 else 0
        let lanes := (List.range 64).map lane
        let cls := if lanes.all (fun l => decide (l = 0)) then BaCls.zero else BaCls.normal
        let xs (i : Nat) : Int := if i / 16 = r % 4 then xa + (wsj.getD (i % 16) ([], 0, 1)).2.1 else
          xa + (wsj.getD 0 ([], 0, 1)).2.1
        let t := baAdd (accBlock acc.1 (r / 4)) ⟨lanes, 0, cls, 0⟩ xs none
        (setAccBlock acc.1 (r / 4) t.1, acc.2.raise t.2)) acc) (a, ⟨Rng.reset, 0⟩)

/-- ColQ of every element of a pair (R46, R176). -/
def colQ (even odd : Acc) (va vb : VReg) : Acc × Acc × Fx :=
  let one (a : Acc) (part : Nat) (y : Fx) : Acc × Fx :=
    let r := vfoldGen (n := 256) (fun i y =>
      let row := i.val / 16
      let c := 16 * part + i.val % 16
      let z : Num := Num.ofInt (bits (vat vb.lanes c 0) 0 4)
      let p := z.mul (Num.ofBits fp32 (vat even.rs row 0).toNat)
      let d := (Num.ofBits fp32 (vat a.lanes i.val 0).toNat).add p.1.neg .rne
      let (inner, y) := round fp32 d.1 .rne false (y.raise (p.2 ||| d.2))
      let (v, y) := fpMul fp32 (vat va.lanes c 0).toNat inner .rne false y
      (BitVec.ofNat 32 v, y)) y
    ({ a with lanes := r.1 }, r.2)
  let (e, y) := one even 0 ⟨Rng.reset, 0⟩
  let (o, y) := one odd 1 y
  (e, o, y)

/-- The plane after MLDW (R165, R166): `bs` the source bytes from its offset on. -/
def ldwPlane (b : Word) (src : Nat) (ws : BitVec 32768) : BitVec 32768 :=
  let ew := ldwEw b
  let k := ldwK b
  let n := ldwNc b * k
  let v := (List.range n).foldr (fun i acc => acc * 2 ^ ew + src / 2 ^ sourceBit b (i % k) (i / k) % 2 ^ ew) 0
  let mask := 2 ^ (n * ew)
  BitVec.ofNat 32768 (ws.toNat / mask * mask + v)

/-- Rows whose bits a command rewrites, in the numbering of MCHK; their residues are formed again (R185). -/
def Core.clearBad (k : Core) (f : Fin 5 → Nat → Bool) : Core :=
  { k with regs := { k.regs with badRows := k.regs.badRows.filter fun e => !f e.1.1 e.1.2 } }

/-- A row's sum moves away from its residue by an amount modulo 1,023; where changes cancel, it agrees again (R185). -/
def Core.offRow (k : Core) (row : Fin 5 × Nat) (by_ : Int) : Core :=
  let old : Nat := (k.regs.badRows.findSome? fun e => if e.1 = row then some e.2 else none).getD 0
  let d := (((old : Nat) : Int) + by_) % 1023
  let rest := k.regs.badRows.filter fun e => decide (e.1 ≠ row)
  { k with regs := { k.regs with badRows := if d = 0 then rest else (row, d.toNat) :: rest } }

/-- The accumulator number in `badRows`. -/
def accRow (n : ANum) : Fin 5 := ⟨n.val, by omega⟩

/-- MCHK's result (R185). -/
def Core.mchk (k : Core) (n : ANum) : Word :=
  BitVec.ofNat 64 ((k.regs.badRows.filter fun e => decide (e.1.1 = accRow n ∧ e.1.2 < 16) || decide (e.1.1 = 4)).foldl
    (fun acc e => acc ||| 2 ^ e.1.2) 0)

/-- The lowest bad local-store word of the ranges a command reads. -/
def Core.badRanges (k : Core) (l : List (Nat × Nat)) : Option Nat := l.findSome? fun e => k.badIn e.1 e.2

/-- The writes of a command at completion: the core and its flags (R162). -/
def Core.matrixWrite (k : Core) (fresh : Nat) (x : MEntry) : Core × BitVec 6 :=
  let rd (a n : Nat) : List Byte := unitRead fresh x.snap a n
  match x.cmd with
  | .mma m n a b =>
    let rows := (List.range (mmaRows b)).map fun r => rd (a + r * mmaStride b) 256
    let clear (k : Core) (n : ANum) : Core :=
      k.clearBad fun w r => decide (w = accRow n) && (mmaZ b || decide (r < mmaRows b)
        || (m.isQb && decide (r / 4 < cdiv (mmaRows b) 4)))
    if m.isQb then
      let ah := rd (mmaAH b) (8 * m.blocks * mmaRows b)
      let wh := rd (mmaWH b) (8 * m.blocks * 16)
      let r := mmaQb m b rows ah wh k.regs.wa (k.acc n)
      (clear ((k.setAcc n r.1).count 7 (mmaRows b)) n, r.2.flags)
    else
      let r := mmaFp m b rows k.regs.wa k.regs.kb (k.acc n) (k.acc (pairOf n))
      let k := clear ((k.setAcc n r.1).count 7 (mmaRows b)) n
      (if m.pair then clear (k.setAcc (pairOf n) r.2.1) (pairOf n) else k, r.2.2.flags)
  | .mldw a b =>
    let len := (ldwRanges a b).foldl (fun m e => max m (e.1 + e.2 - a)) 0
    let k := { k with regs := { k.regs with ws := ldwPlane b (ofBytes (rd a len)) k.regs.ws } }
    (k.clearBad fun w r => decide (w = 4) && decide (32 ≤ r) && decide (r < 32 + cdiv (ldwBytes b) 256), 0)
  | .mswap =>
    ({ k with regs := { k.regs with
        wa := k.regs.ws, ws := k.regs.wa
        badRows := k.regs.badRows.map fun e =>
          if e.1.1 = 4 && decide (e.1.2 < 32) then ((4, e.1.2 + 16), e.2)
          else if e.1.1 = 4 && decide (e.1.2 < 48) then ((4, e.1.2 - 16), e.2) else e } }, 0)
  | .mldk n va =>
    let v := (List.range 8).foldr (fun i acc => acc * 2 ^ 32 + (vat va.lanes i 0).toNat) 0
    (({ k with regs := { k.regs with kb := k.regs.kb.set n (BitVec.ofNat 256 v) } } : Core).clearBad
      fun w r => decide (w = 4) && decide (r = 48 + n.val), 0)
  | .mcolq n va vb =>
    let r := colQ (k.acc n) (k.acc (pairOf n)) va vb
    (((k.setAcc n r.1).setAcc (pairOf n) r.2.1).clearBad fun w _ => decide (w = accRow n) || decide (w = accRow (pairOf n)),
      r.2.2.flags)
  | .mzero n => ((k.setAcc n Acc.reset).clearBad fun w _ => decide (w = accRow n), 0)
  | .toVector vd n g =>
    let a := k.acc n
    let h := (vat a.x g.val 0).toNat + (vat a.cls g.val 0).toNat * 2 ^ 40
    (k.setReg (.v vd) (.vec ⟨vgen fun i => vat a.lanes (64 * g.val + i.val) 0, BitVec.ofNat 64 h⟩), 0)
  | .toAcc n va g =>
    let a := k.acc n
    let c := bits va.header 40 2
    let a := { a with
      lanes := vgen fun i => if i.val / 64 = g.val then vat va.lanes (i.val % 64) 0 else a.lanes[i]
      x := a.x.set g (va.header.setWidth 16)
      cls := a.cls.set g (if c = 3 then 2 else BitVec.ofNat 2 c) }
    ((k.setAcc n a).clearBad fun w r => decide (w = accRow n) && decide (r / 4 = g.val), if c = 3 then flagNV else 0)
  | .mrsum vd n =>
    let old := k.getV vd
    let lanes : Vector Lane 64 := vgen fun i => if i.val < 16 then vat (k.acc n).rs i.val 0 else old.lanes[i]
    (k.setReg (.v vd) (.vec { old with lanes := lanes }), 0)
  | .mchk d n => (k.setReg (sid x.slot d) (.word (k.mchk n)), 0)
  | .msync d => (k.setReg (sid x.slot d) (.word 0), 0)
  | .mdrain out vd n g z ba _ _ =>
    let k := match x.result with
      | some v => k.setReg (.v vd) (.vec v)
      | none => k
    let a := k.acc n
    let r0 := out.rows * g
    let inRows (r : Nat) : Bool := decide (r0 ≤ r) && decide (r < r0 + out.rows)
    let a : Acc := if z then
        { lanes := vgen fun i => if inRows (i.val / 16) then 0 else a.lanes[i]
          rs := vgen fun i => if inRows i.val then 0 else a.rs[i]
          x := vgen fun i => if ba && inRows (4 * i.val) then 0 else a.x[i]
          cls := vgen fun i => if ba && inRows (4 * i.val) then 1 else a.cls[i] }
      else a
    ((if z then (k.setAcc n a).clearBad (fun w r => decide (w = accRow n) && inRows r) else k), x.flags)

/-- Completion of a command (R161, R162): an uncorrectable word in its operands stops it and traps its slot. -/
def State.matrixComplete (s : State) (c : Nat) (x : MEntry) : State :=
  let drop (k : Core) : Core := { k with matrix := k.matrix.filter fun e => decide (e.id ≠ x.id) }
  let s := s.modCore c fun k => (x.cmd.ranges.foldl (fun k e => k.injectRead e.1 e.2) k).amaxApply (s.cyc c)
  match s.core? c with
  | none => s
  | some k =>
    match k.badRanges x.cmd.ranges with
    | some w =>
      let s := s.modCore c fun k =>
        let k := drop k
        { k with matrix := k.matrix.filter fun e => decide (e.slot ≠ x.slot) || e.dispatched }
      (s.faultSlot c x.slot .uels ⟨BitVec.ofNat 64 w, (k.slot x.slot).pc, some x.issued, false, 0, 0, 0⟩).settleWaits c
    | none =>
      let r := k.matrixWrite s.fresh x
      let s := { s.modCore c (fun _ => drop r.1) with fresh := s.fresh + 1 }
      (s.raiseFlags c x.slot r.2 x.trapEn x.pc x.issued).settleWaits c

end Sys2Proof.Machine
end

