-- ==== Sys2Proof/Machine/Remote.lean ====
section
/-! DEFINITION. Requests and replies as messages (R31, R205, R290 to R293, R377), and the remote instructions: RLD, RST, RVLD,
RVST, ATOM and FENCE (R201 to R210). -/

namespace Sys2Proof.Machine

/-! ## Where requests live -/

/-- The requests of a node. -/
def State.reqsOf (s : State) (n : Node) : List Req :=
  match n with
  | .core c => match s.core? c with
    | some k => k.reqs
    | none => []
  | .port p => (s.port p).reqs
  | .mgr => []

def State.modReqs (s : State) (n : Node) (f : List Req → List Req) : State :=
  match n with
  | .core c => s.modCore c fun k => { k with reqs := f k.reqs }
  | .port p => s.modPort p fun q => { q with reqs := f q.reqs }
  | .mgr => s

def State.findReq (s : State) (n : Node) (id : Nat) : Option Req := (s.reqsOf n).find? fun r => decide (r.id = id)

/-- Replaces a request. -/
def State.putReq (s : State) (n : Node) (q : Req) : State :=
  s.modReqs n fun l => l.map fun r => if r.id = q.id then q else r

def State.dropReq (s : State) (n : Node) (id : Nat) : State :=
  s.modReqs n fun l => l.filter fun r => decide (r.id ≠ id)

/-- NEXT of an identity (R288). -/
def State.nextSerial (s : State) (n : Node) (rid : BitVec 22) : BitVec 32 :=
  match n with
  | .core c => match s.core? c with
    | some k => vat k.next (ridCounter rid) 0
    | none => 0
  | .port p => (s.port p).next
  | .mgr => 0

def State.bumpSerial (s : State) (n : Node) (rid : BitVec 22) : State :=
  match n with
  | .core c => s.modCore c fun k =>
      { k with next := k.next.setIfInBounds (ridCounter rid) (vat k.next (ridCounter rid) 0 + 1) }
  | .port p => s.modPort p fun q => { q with next := q.next + 1 }
  | .mgr => s

/-- Serials of an identity that are outstanding. -/
def State.outSerials (s : State) (n : Node) (rid : BitVec 22) : List (BitVec 32) :=
  ((s.reqsOf n).filter fun r => decide (r.rid = rid) && r.wr && decide (0 < r.att) && !r.localWait).map fun r => r.ser

/-- AT (R290): one below the lowest outstanding serial, or below NEXT. -/
def State.ackThrough (s : State) (n : Node) (rid : BitVec 22) : BitVec 32 :=
  let next := s.nextSerial n rid
  next - BitVec.ofNat 32 ((s.outSerials n rid).foldl (fun m x => max m (next - x).toNat) 0) - 1

/-! ## Flits and injected losses -/

/-- Payload flits of a request (R205, R401). -/
def ROp.flits : ROp → Nat
  | .store _ d _ => Machine.flits d.length
  | .badd _ _ => 10
  | .send m => Machine.flits (bits m 34 6)
  | .partialTo _ _ p _ => Machine.flits p.length
  | .submit _ _ => 3
  | _ => 1

/-- One flit that FINJ may match (R377): whether it is injected, and the register after. -/
def finjFlit (f : Word) (kind cls : Nat) : Bool × Word :=
  let want := bits f 8 3
  if f.getLsbD 0 && decide (bits f 1 3 = kind) && (want = 0 || want = 7 || want = cls) then
    if bits f 16 8 ≠ 0 then (false, putBits f 16 8 (bits f 16 8 - 1)) else (true, putBits f 0 1 0)
  else (false, f)

/-- `n` flits that FINJ may match, until one is injected. -/
def finjFlits (f : Word) (kind cls : Nat) : Nat → Bool × Word
  | 0 => (false, f)
  | n + 1 =>
    let r := finjFlit f kind cls
    if r.1 then r else finjFlits r.2 kind cls n

/-- A core's match of `n` flits. -/
def State.finj (s : State) (c kind cls n : Nat) : Bool × State :=
  match s.core? c with
  | none => (false, s)
  | some k =>
    let r := finjFlits k.regs.finj kind cls n
    (r.1, s.modCore c fun k => { k with regs := { k.regs with finj := r.2 } })

/-! ## Messages -/

/-- The module time until an island has counted `cc` more cycles (R5). -/
def Island.after (i : Island) (now cc : Nat) : Nat :=
  if i.fmhz = 0 then cc
  else i.baseAt + ((i.cycles now - i.baseCyc + cc) * 1300 + i.fmhz - 1) / i.fmhz - now

/-- `cc` of a node's clock in module time, counted from a module time (R5): the cycles of a core's island; the rim has no island. -/
def State.aheadFrom (s : State) (n : Node) (t cc : Nat) : Nat :=
  match n with
  | .core c => (s.islandAt (islandOf (s.physOf c))).after t cc
  | _ => cc

/-- The same from now. -/
def State.ahead (s : State) (n : Node) (cc : Nat) : Nat := s.aheadFrom n s.now cc

/-! ## Contention (R205, R307, R308) -/

/-- The next core on the way of a message from `a` to `b`: first along x, then along y (R16). -/
def nextCore (a b : Nat) : Nat :=
  if coreX a < coreX b then a + 1 else if coreX b < coreX a then a - 1
  else if coreY a < coreY b then a + 512 else if coreY b < coreY a then a - 512 else a

/-- The cost of the link between neighbours. -/
def State.stepCost (s : State) (a b : Nat) : Nat := if coreY a = coreY b then s.eCost (min a b) else s.sCost (min a b)

/-- The links of a way, each with the cc after which the head of a message leaves its router. -/
def State.wayFrom (s : State) (b : Nat) : Nat → Nat → Nat → List ((Nat × Nat) × Nat)
  | 0, _, _ => []
  | fuel + 1, a, t => if a = b then [] else ((a, nextCore a b), t) :: s.wayFrom b fuel (nextCore a b) (t + s.stepCost a (nextCore a b))

/-- The links of a message between cores and the module times at which it may be on them: from its head's arrival without a delay until
its last flit's with all the delay that it has. A core's own port stands for the way in and the way out. -/
def State.spans (s : State) (p : Packet) : List ((Nat × Nat) × Nat × Nat) :=
  match p.src, p.dst with
  | .core a, .core b =>
    let t (cc : Nat) : Nat := p.leave + s.aheadFrom p.src p.leave cc
    let l := s.wayFrom b (manhattan (coreX a, coreY a) (coreX b, coreY b)) a 0
    ((((a, 2 ^ 18), 0) :: l) ++ [((2 ^ 18, b), s.leg a b)]).map fun (e : (Nat × Nat) × Nat) =>
      (e.1, t e.2, t (e.2 + p.nflits) + (p.arrive - p.base))
  | _, _ => []

/-- Two messages may meet at a port of a router. The way of a message to or from the rim is not architected (R205): it may be any. -/
def State.meets (s : State) (p q : Packet) : Bool :=
  let rim (p : Packet) : Bool := match p.src, p.dst with
    | .core _, .core _ => false
    | _, _ => true
  if rim p || rim q then decide (p.leave < q.arrive) && decide (q.leave < p.arrive)
  else
    let l := s.spans q
    (s.spans p).any fun e => l.any fun f => decide (e.1 = f.1) && decide (e.2.1 < f.2.2) && decide (f.2.1 < e.2.2)

/-- A message under way. -/
def Packet.inFabric (p : Packet) (now : Nat) : Bool := decide (0 < p.nflits) && !p.atDevice && decide (now < p.arrive)

/-- A message may be delayed by another: one of its class or above that it may meet, or one that has waited 1,024 cc (R307). -/
def State.delays (s : State) (q p : Packet) : Bool :=
  decide (q.id ≠ p.id) && p.inFabric s.now && q.inFabric s.now && (decide (q.cls ≤ p.cls) || decide (q.base + 1024 ≤ q.arrive))
    && s.meets p q

/-- A message delayed by a free time (log 6). -/
def State.delayMsg (s : State) (id : Nat) : State :=
  { s with
    net := s.net.map fun p => if p.id = id then { p with arrive := p.arrive + Config.delay s.fresh } else p
    fresh := s.fresh + 1 }

/-- The delays that follow when messages have entered or been held up: each message that one of them may delay is, once. -/
def State.contend : Nat → List Nat → List Nat → State → State
  | 0, _, _, s => s
  | fuel + 1, movers, done, s =>
    match s.net.find? fun p => !done.contains p.id && s.net.any fun q => movers.contains q.id && s.delays q p with
    | some p => State.contend fuel (p.id :: movers) (p.id :: done) (s.delayMsg p.id)
    | none => s

/-- What a new message brings about: it may be held up by those under way, and hold them up; with nothing else in the fabric nothing is
delayed (R205). A message to or from the rim is delayed by a free time in any case. -/
def State.entered (s : State) (p : Packet) : State :=
  let late : Bool := (match p.src, p.dst with
    | .core _, .core _ => false
    | _, _ => true) || s.net.any fun q => s.delays q p
  (if late then s.delayMsg p.id else s).contend s.net.length [p.id] [p.id]

/-- Puts a message into the fabric `wait` module time from now: `pre` cc before and `post` after its leg and flits (R205), in the
sender's cycles (R5). A flit that FINJ corrupts is dropped by the next router. -/
def State.postAt (s : State) (wait : Nat) (src dst : Node) (pre nflits post : Nat) (cls : BitVec 3) (body : Body) : State :=
  let r : Bool × State := match src with
    | .core c => s.finj c 2 cls.toNat nflits
    | _ => (false, s)
  let leg : Nat := match src, dst with
    | .core a, .core b => s.leg a b
    | .core _, .port p | .port p, .core _ | .port p, _ | _, .port p => Config.rimLeg (portField p) s.fresh
    | _, _ => Config.rimLeg 48 s.fresh
  let leave := s.now + wait + s.aheadFrom src (s.now + wait) pre
  let base := leave + s.aheadFrom src leave (leg + (nflits - 1) + post)
  let p : Packet := ⟨s.nextId, src, dst, s.now, base, base, body, false, [], cls, r.1, leave, nflits, base⟩
  State.entered { r.2 with net := r.2.net ++ [p], nextId := s.nextId + 1, fresh := s.fresh + 1 } p

/-- A message sent now. -/
def State.post (s : State) (src dst : Node) (pre nflits post : Nat) (cls : BitVec 3) (body : Body) : State :=
  s.postAt 0 src dst pre nflits post cls body

/-- A transfer between neighbouring routers, and its acknowledgement, cross without injection and ejection (R380, R402). -/
def ROp.isTransfer : ROp → Bool
  | .partialTo _ _ _ _ => true
  | _ => false

/-- µs mod 65,536 at a module time (R362). -/
def usAt (t : Nat) : BitVec 16 := BitVec.ofNat 16 (nsAt t / 1000)

/-- A first transmission would make 257 serials of the identity outstanding, or an ACKD that no header holds (R290, R291). -/
def State.serialsFull (s : State) (n : Node) (rid : BitVec 22) : Bool :=
  decide (256 < (s.nextSerial n rid - s.ackThrough n rid).toNat)

/-- The same of an identity of a core's own. -/
def Core.serialsFull (k : Core) (rid : BitVec 22) : Bool :=
  let next := vat k.next (ridCounter rid) 0
  k.reqs.any fun r => decide (r.rid = rid) && r.wr && decide (0 < r.att) && !r.localWait && decide (256 ≤ (next - r.ser).toNat)

/-- A home has no room for one more unit of a copy (R303). -/
def Core.unitFull (k : Core) (home : Node) : Bool :=
  let there := k.reqs.filter fun r => decide (0 < r.att) && decide (r.home = home) && (match r.sink with
    | .copyUnit _ => true
    | _ => false)
  decide ((match home with
    | .core _ => 32
    | _ => 256) ≤ there.length)

/-- A first transmission waits: for a serial (R290), or a copy's unit for room at its home (R303). -/
def State.mustWait (s : State) (n : Node) (q : Req) : Bool :=
  q.wr && (s.serialsFull n q.rid || (match n, q.sink with
    | .core c, .copyUnit _ => match s.core? c with
      | some k => k.unitFull q.home
      | none => false
    | _, _ => false))

/-- The attempt of Transmit (R293); `extra` is the module time that passes before it leaves. -/
def State.attempt (s : State) (n : Node) (q : Req) (extra : Nat) : State :=
  let next := s.nextSerial n q.rid
  let s1 := if q.att = 0 && q.wr then s.bumpSerial n q.rid else s
  let us := usAt (s.now + extra)
  let q1 : Req := if q.att = 0 then { q with ser := if q.wr then next else 0, fts := us, att := 1 } else
    { q with att := q.att + 1 }
  let q2 : Req := { q1 with due := s.now + extra + 5200 * 2 ^ (q1.att - 1) }
  let s2 := s1.putReq n q2
  let s3 : State := match n with
    | .core c => if q.att = 0 then s2 else s2.modCore c fun k => k.count 12 1
    | _ => s2
  let ackd := if q.wr then (q2.ser - s3.ackThrough n q.rid).toNat else 0
  let r : Bool × State := match n with
    | .core c => s3.finj c 0 q.cls.toNat 1
    | _ => (false, s3)
  if r.1 then r.2
  else
    r.2.postAt extra n q.home (if q.op.isTransfer then 0 else 2) q.op.flits 0 q.cls
      (.request q.rid q2.ser ackd (q2.att - 1) q2.fts us q.subject q.wr q.id q.op)

/-- Transmit (R293): the next attempt of a request. -/
def State.transmit (s : State) (n : Node) (q : Req) (extra : Nat) : State :=
  if q.att = 0 && s.mustWait n q then s.putReq n { q with waits := true }
  else s.attempt n { q with waits := false } extra

/-- The requests of a node that waited and need not any more leave. -/
def State.sendWaiting (s : State) (n : Node) : State :=
  ((s.reqsOf n).filter fun q => q.waits).foldl (fun s q => s.transmit n q 0) s

/-- The flits that a SENDR sends to its own router, as FINJ sees them (R377): whether the first is lost, and whether one is
corrupted. -/
def State.injection (s : State) (n : Node) (cls : BitVec 3) (nflits : Nat) : Bool × Bool × State :=
  match n with
  | .core c =>
    let lost := s.finj c 0 cls.toNat 1
    if lost.1 then (true, false, lost.2)
    else
      let bad := lost.2.finj c 2 cls.toNat nflits
      (false, bad.1, bad.2)
  | _ => (false, false, s)

/-- Takes a request entry and starts it: a message after its walk, or in 2 cc, and `extra` of module time, to the own home logic
or router (R202, R203, R267, R402). -/
def State.sendReq (s : State) (n : Node) (q : Req) (extra : Nat) : State :=
  let q : Req := { q with id := s.nextId }
  let s := (s.modReqs n fun l => l ++ [q]).newId
  let s : State := match n with
    | .core c => if q.takesEntry then s.modCore c fun k => k.count 11 1 else s
    | _ => s
  if q.localWait then
    let t := s.now + s.ahead n 2 + extra
    let r : Bool × Bool × State := if q.op.isTransfer then s.injection n q.cls q.op.flits else (false, false, s)
    if r.1 then r.2.2
    else
      { r.2.2 with
        net := s.net ++ [⟨s.nextId, n, n, s.now, t, t,
          .request q.rid 0 0 0 s.timeUs s.timeUs q.subject q.wr q.id q.op, false, [], q.cls, r.2.1, s.now, 0, t⟩]
        nextId := s.nextId + 1 }
  else if q.walk.isSome then s
  else s.transmit n q extra

/-- A message of a request whose requester is the home logic's own core through the own window (R202): no serial, no reply
cache. -/
def State.isLocal (s : State) (src : Node) (reqId : Nat) : Bool :=
  match s.findReq src reqId with
  | some q => q.localWait
  | none => false

/-- Such a request of the own window. -/
def State.isWindow (s : State) (src : Node) (reqId : Nat) : Bool :=
  match s.findReq src reqId with
  | some q => q.localWait && decide (q.faddr.toNat < 0x30000)
  | none => false

/-! ## Addresses of remote instructions (R201) -/

/-- A resolved access: its home, the address there, the fabric address of its first byte with the own window as the own peer
range, the walk it waits for; where its translation missed the TLB, the translation, with the cc that a hit elsewhere adds
(R266). -/
structure Access where
  home : Node
  addr : Nat
  own : Bool
  lo : Nat
  walk : Option Walk
  missed : Option Xlate
  lat : Nat

/-- The outcome of the address checks. -/
inductive Resolved where
  | fault (c : Cause)
  | hold
  | ok (x : Access)

/-- The alignment check. -/
def remAlign (a align : Nat) : Option Cause :=
  match windowOf a with
  | .own _ => if a % align ≠ 0 then some .lalign else none
  | .bad => none
  | _ => if a % align ≠ 0 then some .ralign else none

/-- The pages that a field's walks are about, one of each (R267). -/
def walkedPages (ws : List Walk) : List (Nat × Nat) :=
  ((ws.filter fun w => w.due.isSome).map fun w => (w.found.base, w.found.limit)).eraseDups

/-- The misses in a field's miss queue. -/
def queuedMisses (ws : List Walk) : Nat := ws.countP fun w => w.due.isNone

/-- The walk of a page, when it is being walked: the module time at which it completes. -/
def walkDue (ws : List Walk) (x : Xlate) : Option Nat :=
  (ws.find? fun w => w.due.isSome && decide (w.found.base = x.base ∧ w.found.limit = x.limit)).bind fun w => w.due

/-- Translation at issue (R265 to R267): a hit in the TLB, the range store or the field translation cache, or a walk that the
access waits for: one that is under way for its page, one of 16, or a place among the 512 of the miss queue. The refusals are those of
the tables as they stand. -/
def State.translate (s : State) (c : Nat) (k : Core) (a : Nat) (write : Bool) : Resolved :=
  let fld := fieldOf c
  let f := s.fieldAt fld
  let answer (x : Xlate) (w : Option Walk) (missed : Bool) (lat : Nat) : Resolved :=
    match s.targetOf x a write with
    | .error e => .fault e
    | .ok t => .ok ⟨.port t.1, t.2, false, a, w, if missed then some x else none, lat⟩
  match Xlate.lookup k.tlb a with
  | some x => answer x none false 0
  | none =>
  match Xlate.inRanges f.ranges a with
  | some x => answer x none true 12
  | none =>
  match Xlate.lookup f.cache a with
  | some x => answer x none true (12 + centreHops (s.physOf c))
  | none =>
    match s.walk (s.partOf k) a with
    | .refused => .fault .xlate
    | .poison => .fault .uexlate
    | .ok x =>
      let ws := s.walking fld
      let miss (due : Option Nat) : Resolved := answer x (some ⟨due, a, write, x, false⟩) true 0
      match walkDue ws x with
      | some d => miss (some d)
      | none =>
        if (walkedPages ws).length < 16 && decide (queuedMisses ws = 0) then miss (some (s.now + Config.deviceTime s.fresh))
        else if queuedMisses ws < 512 then miss none
        else .hold

/-- A miss of the TLB is counted (R363); what another level held enters the TLB, and a walk takes its free time. -/
def State.translated (s : State) (c : Nat) (t : Access) : State :=
  match t.missed with
  | none => s
  | some x =>
    let s := s.modCore c fun k => (if t.walk.isSome then k else k.fillTlb x).count 17 1
    if t.walk.isSome then { s with fresh := s.fresh + 1 } else s

/-- Range, address and translation. -/
def State.remAddr (s : State) (c : Nat) (k : Core) (a n : Nat) (write : Bool) : Resolved :=
  match windowOf a with
  | .own o => if 0x30000 < o + n then .fault .lrange else .ok ⟨.core c, o, true, peerBase c + o, none, none, 0⟩
  | .peer i b =>
    match s.peerCheck k i b n with
    | some e => .fault e
    | none => .ok ⟨.core i, b, false, a, none, none, 0⟩
  | .bad => .fault .raddr
  | w => if windowOf (a + n - 1) = w then s.translate c k a write else .fault .raddr

/-- An access to a dead edge home through an entry that is LOST faults with TLOST, though its port is down (R254, log 44). -/
def Resolved.orLost (r : Resolved) (k : Core) (sl : Fin 8) (a : Nat) : Resolved :=
  match r with
  | .fault .xlate =>
    let l := k.tables.heldOver sl a
    if !l.isEmpty && l.all fun h => h.lost && h.port.isSome then .fault .tlost else r
  | _ => r

/-- The requester's rights (R195, R235). -/
def State.remRights (s : State) (k : Core) (sl : Fin 8) (x : Access) (a n : Nat) (write : Bool) : Option Cause :=
  match x.home with
  | .core _ =>
    if x.own then (if k.allowed write x.addr n then none else some .tnone) else k.heldCheck sl write false (fun _ => false) a n
  | .port p =>
    if windowOf a = .host then none else k.heldCheck sl write true (fun g => (s.port p).external (x.addr + g - a)) a n
  | .mgr => none

/-! ## Issue of a request -/

/-- The request of an instruction, before its home is known. -/
structure Ask where
  wr : Bool
  sink : Sink
  cls : BitVec 3
  ord : Order × Scope
  /-- bytes of the memory event, 0 when it is none -/
  bytes : Nat

/-- Orders with an acquire, and with a release. -/
def ordAcquires : Order → Bool
  | .acq | .ar => true
  | _ => false
def ordReleases : Order → Bool
  | .rel | .ar => true
  | _ => false

/-- The holds of a remote access: a free entry, room for its serial (R290) and no overlap (R203), the own stores to the same bytes (R217), release and
acquire (R218). -/
def Core.remHold (k : Core) (x : Ctx) (t : Access) (q : Ask) : Bool :=
  !k.reqFree || (q.wr && !t.own && k.serialsFull (slotRid x.c x.sl)) || k.overlapHold x.sl t.lo q.bytes q.wr
    || (decide (t.home = .core x.c) && k.storePending x.sl (t.lo - peerBase x.c) q.bytes)
    || (ordReleases q.ord.1 && k.relHold x.c x.sl q.ord.2) || k.acqHold x.c x.sl t.home

/-- The request entry that an instruction takes. -/
def mkReq (x : Ctx) (faddr : Word) (t : Access) (q : Ask) (op : ROp) : Req where
  id := 0
  rid := slotRid x.c x.sl
  slot := x.sl
  ser := 0
  op := op
  home := t.home
  wr := q.wr
  subject := ident x.c x.sl
  sink := q.sink
  att := 0
  fts := 0
  due := 0
  issued := x.cyc
  faddr := faddr
  lo := t.lo
  hi := t.lo + q.bytes
  acq := if ordAcquires q.ord.1 then some q.ord.2 else none
  walk := t.walk
  localWait := t.own
  waits := false
  inc := 0
  cls := q.cls

/-- Holds, then the request: `op` gets the address at the home. -/
def ask (x : Ctx) (s : State) (k : Core) (faddr : Word) (t : Access) (q : Ask) (op : Nat → ROp) : Res :=
  if k.remHold x t q then .hold
  else
    .ok ((s.translated x.c t).sendReq (.core x.c) (mkReq x faddr t q (op t.addr)) (s.ahead (.core x.c) t.lat)) 0

/-- A remote access of `n` bytes at `a`, after the scope check: R201 and R195 in their order, then the holds. -/
def remoteAccess (x : Ctx) (s : State) (a : Word) (n align : Nat) (noHost : Bool) (q : Ask) (op : Nat → ROp) : Res :=
  withScope x s q.ord.2 fun k =>
    match remAlign a.toNat align with
    | some e => .fault e a
    | none =>
      match (s.remAddr x.c k a.toNat n q.wr).orLost k x.sl a.toNat with
      | .fault e => .fault e a
      | .hold => .hold
      | .ok t =>
        if noHost && decide (windowOf a.toNat = .host) then .fault .raddr a
        else
          match s.remRights k x.sl t a.toNat n q.wr with
          | some e => .fault e a
          | none => ask x s k a t q op

/-! ## RLD, RST, RVLD, RVST (R206, R207) -/

/-- RLD. -/
def execRld (h : Head) (x : RemX) (d a : SReg) (sz : LdSize) (off : BitVec 7) : State → Host.Outcome State Fault Refusal :=
  issue h (if x.present then 2 else 1) (usesRR d a) fun c s =>
    let n := ldBytes sz
    remoteAccess c s (c.rs a + offRem x off * BitVec.ofNat 64 n) n n false
      ⟨false, .scalar (sid c.sl d) sz, 5, ordRem x, n⟩ fun o => .load o n 4

/-- RST. -/
def execRst (h : Head) (x : RemX) (d a : SReg) (sz : StSize) (off : BitVec 7) : State → Host.Outcome State Fault Refusal :=
  issue h (if x.present then 2 else 1) (usesAB d a) fun c s =>
    let n := stBytes sz
    remoteAccess c s (c.rs a + offRem x off * BitVec.ofNat 64 n) n n false
      ⟨true, .quiet, 5, ordRem x, n⟩ fun o => .store o (bytesLE n (c.rs d).toNat) 4

/-- RVLD. -/
def execRvld (h : Head) (o : OrdX) (d : VNum) (a b : SReg) : State → Host.Outcome State Fault Refusal :=
  issue h (if o.present then 2 else 1) (fun sl => ⟨[sid sl a, sid sl b], [.v d]⟩) fun c s =>
    remoteAccess c s (c.rs a + c.rs b) 256 16 false ⟨false, .vector d, 5, ordOf o, 256⟩ fun o => .load o 256 6

/-- RVST. -/
def execRvst (h : Head) (o : OrdX) (d : VNum) (a b : SReg) : State → Host.Outcome State Fault Refusal :=
  issue h (if o.present then 2 else 1) (fun sl => ⟨[sid sl a, sid sl b, .v d], []⟩) fun c s =>
    remoteAccess c s (c.rs a + c.rs b) 256 16 false ⟨true, .quiet, 5, ordOf o, 256⟩ fun o =>
      .store o (bytesOf (c.rd.getV d).lanes) 6

/-! ## ATOM (R208, R209) -/

/-- An ATOM of `w32` width: CAS alone reads d. -/
def atomOp (h : Head) (o : OrdX) (d a b : SReg) (op : AtomOp) (w32 : Bool) : State → Host.Outcome State Fault Refusal :=
  issue h (if o.present then 2 else 1) (if op = .cas then usesRRRd d a b else usesRRR d a b) fun c s =>
    let n := if w32 then 4 else 8
    remoteAccess c s (c.rs a) n n true ⟨true, .data (sid c.sl d) w32, 3, ordOf o, n⟩ fun t =>
      .atom op w32 t (c.rs b) (if op = .cas then c.rs d else 0)

/-- ATOM.ADD. -/
def execAtomAdd (h : Head) (o : OrdX) (d a b : SReg) (w : Bool) : State → Host.Outcome State Fault Refusal :=
  atomOp h o d a b .add w
/-- ATOM.SUB. -/
def execAtomSub (h : Head) (o : OrdX) (d a b : SReg) (w : Bool) : State → Host.Outcome State Fault Refusal :=
  atomOp h o d a b .sub w
/-- ATOM.AND. -/
def execAtomAnd (h : Head) (o : OrdX) (d a b : SReg) (w : Bool) : State → Host.Outcome State Fault Refusal :=
  atomOp h o d a b .and w
/-- ATOM.OR. -/
def execAtomOr (h : Head) (o : OrdX) (d a b : SReg) (w : Bool) : State → Host.Outcome State Fault Refusal :=
  atomOp h o d a b .or w
/-- ATOM.XOR. -/
def execAtomXor (h : Head) (o : OrdX) (d a b : SReg) (w : Bool) : State → Host.Outcome State Fault Refusal :=
  atomOp h o d a b .xor w
/-- ATOM.MIN. -/
def execAtomMin (h : Head) (o : OrdX) (d a b : SReg) (w : Bool) : State → Host.Outcome State Fault Refusal :=
  atomOp h o d a b .min w
/-- ATOM.MAX. -/
def execAtomMax (h : Head) (o : OrdX) (d a b : SReg) (w : Bool) : State → Host.Outcome State Fault Refusal :=
  atomOp h o d a b .max w
/-- ATOM.MINU. -/
def execAtomMinu (h : Head) (o : OrdX) (d a b : SReg) (w : Bool) : State → Host.Outcome State Fault Refusal :=
  atomOp h o d a b .minu w
/-- ATOM.MAXU. -/
def execAtomMaxu (h : Head) (o : OrdX) (d a b : SReg) (w : Bool) : State → Host.Outcome State Fault Refusal :=
  atomOp h o d a b .maxu w
/-- ATOM.SWAP. -/
def execAtomSwap (h : Head) (o : OrdX) (d a b : SReg) (w : Bool) : State → Host.Outcome State Fault Refusal :=
  atomOp h o d a b .swap w
/-- ATOM.CAS. -/
def execAtomCas (h : Head) (o : OrdX) (d a b : SReg) (w : Bool) : State → Host.Outcome State Fault Refusal :=
  atomOp h o d a b .cas w
/-- ATOM.FADD.f32. -/
def execAtomFaddF32 (h : Head) (o : OrdX) (d a b : SReg) : State → Host.Outcome State Fault Refusal :=
  atomOp h o d a b .fadd true

/-- ATOM.BADD (R209): alignment of target and addend, then addresses, then rights; the addend is read at issue. -/
def execAtomBadd (h : Head) (o : OrdX) (d a b : SReg) : State → Host.Outcome State Fault Refusal :=
  issue h (if o.present then 2 else 1) (usesRRR d a b) fun c s =>
    let ord := ordOf o
    withScope c s ord.2 fun k =>
      let addr := c.rs a
      let src := c.rs b
      let w := windowOf addr.toNat
      match remAlign addr.toNat 16 with
      | some e => .fault e addr
      | none =>
        if src.toNat % 16 ≠ 0 then .fault .lalign src
        else if w = .cxl || w = .host then .fault .raddr addr
        else
          match s.remAddr c.c k addr.toNat 272 true with
          | .fault e => .fault e addr
          | .hold => .hold
          | .ok t =>
            if 0x30000 < src.toNat + 272 then .fault .lrange src
            else
              match s.remRights k c.sl t addr.toNat 272 true with
              | some e => .fault e addr
              | none =>
                if !k.allowed false src.toNat 272 then .fault .tnone src
                else
                  let q : Ask := ⟨true, .data (sid c.sl d) false, 3, ord, 272⟩
                  if k.remHold c t q || k.localHold c.c c.sl src.toNat 272 false then .hold
                  else localRead c s src.toNat 272 fun s bs =>
                    .ok (s.sendReq (.core c.c) (mkReq c addr t q (.badd t.addr bs)) 0) 0

/-! ## FENCE (R210) -/

/-- The remote accesses that a fence counts, by what they are; a latch operation is a read-modify-write (R217, R224). -/
def ROp.fenceRead : ROp → Bool
  | .load _ _ _ | .atom _ _ _ _ _ | .badd _ _ | .latch _ _ _ => true
  | _ => false
def ROp.fenceWrite : ROp → Bool
  | .store _ _ _ | .atom _ _ _ _ _ | .badd _ _ | .latch _ _ _ => true
  | _ => false

/-- FENCE holds its slot while an earlier access of it in the scope is not complete. -/
def fence (h : Head) (sc : Scope) (acq rel : Bool) : State → Host.Outcome State Fault Refusal :=
  issue h 1 usesNone fun x s =>
    withScope x s sc fun k =>
      let mine := (k.slotReqs x.sl).filter fun r => k.inScope x.c sc r.home
      if rel && (k.stores.any (fun b => decide (b.slot = x.sl)) || mine.any fun r => r.op.fenceWrite) then .hold
      else if acq && (k.results.any (fun r => decide (r.slot = x.sl) && r.isLoad) || mine.any fun r => r.op.fenceRead) then
        .hold
      else .ok s 0

/-- FENCE.acq. -/
def execFenceAcq (h : Head) (sc : Scope) : State → Host.Outcome State Fault Refusal := fence h sc true false
/-- FENCE.rel. -/
def execFenceRel (h : Head) (sc : Scope) : State → Host.Outcome State Fault Refusal := fence h sc false true
/-- FENCE.ar. -/
def execFenceAr (h : Head) (sc : Scope) : State → Host.Outcome State Fault Refusal := fence h sc true true

end Sys2Proof.Machine
end

