-- ==== Sys2Proof/Machine/Home.lean ====
section
/-! DEFINITION. The home of an access: what it performs (R205, R208, R209, R212), the commit to a sill block with its notices
(R51, R284), and the service of write-like requests exactly once (R294 to R297). -/

namespace Sys2Proof.Machine

/-! ## The atomic unit (R208) -/

/-- The value that AtomExec writes, when it writes one. -/
def atomExec (op : AtomOp) (w32 : Bool) (old b d : Nat) : Option Nat :=
  let w := if w32 then 32 else 64
  let b := b % 2 ^ w
  let d := d % 2 ^ w
  let slt (x y : Nat) : Bool := (BitVec.ofNat w x).slt (BitVec.ofNat w y)
  match op with
  | .add => some ((old + b) % 2 ^ w)
  | .sub => some ((old + 2 ^ w - b) % 2 ^ w)
  | .and => some (old &&& b)
  | .or => some (old ||| b)
  | .xor => some (old ^^^ b)
  | .min => some (if slt b old then b else old)
  | .max => some (if slt old b then b else old)
  | .minu => some (min old b)
  | .maxu => some (max old b)
  | .swap => some b
  | .cas => if old = d then some b else none
  | .fadd => some (fpAdd fp32 old b .rne false ⟨Rng.reset, 0⟩).1

/-! ## Sill blocks (R51, R284) -/

/-- Fields of a route entry (R280). -/
def routeV (e : Word) : Bool := e.getLsbD 0
def routeOp (e : Word) : Nat := bits e 21 3
/-- Port bits of IN and OUT: N 0, E 1, S 2, W 3, L 4. -/
def routeIn (e : Word) (port : Nat) : Bool := e.getLsbD (24 + port)
def routeOut (e : Word) (port : Nat) : Bool := e.getLsbD (29 + port)
def routeDoor (e : Word) : Nat := bits e 34 5
def routeDk (e : Word) : Bool := e.getLsbD 39
def routeCnt (e : Word) : Nat := bits e 40 8
def routeDest (e : Word) : Nat := bits e 48 14 * 16

/-- The neighbour on a port. -/
def neighbour (c port : Nat) : Nat :=
  match port with
  | 0 => c - 512
  | 1 => c + 1
  | 2 => c + 512
  | _ => c - 1

/-- Sends a renormalise notice of a route on its IN ports other than L (R284). -/
def State.sendNotice (s : State) (c : Nat) (e : Word) (rt : Fin 64) (ofs : Nat) (x : BitVec 16) : State :=
  (List.range 4).foldl (fun s p =>
    if routeIn e p then s.postAt 0 (.core c) (.core (neighbour c p)) 0 1 0 1 (.renorm rt ofs x) else s) s

/-- The notices of a block whose X was raised: on every BSUM route that delivers into it. -/
def State.renormNotices (s : State) (c a : Nat) (x : BitVec 16) : State :=
  match s.core? c with
  | none => s
  | some k =>
    (List.finRange 64).foldl (fun s rt =>
      let e := k.tables.routes[rt]
      if routeV e && decide (routeOp e = 1) && routeOut e 4 && !routeDk e && decide (routeDest e ≤ a)
          && decide (a ≤ routeDest e + 4095 * 16) then
        s.sendNotice c e rt ((a - routeDest e) / 16) x
      else s) s

/-- A commit to the sill block at `a` (R50 to R52): the state, and header bits [63:0] after it. A NaN addend that raises a normal
block's X to 0 raises it as any other does (R284). -/
def State.sillCommit (s : State) (c a : Nat) (addend : List Byte) (write : State → Nat → List Byte → State) : State × Word :=
  match s.core? c with
  | none => (s, 0)
  | some k =>
    let t := Ba.ofSill (k.mem.readN a 272)
    let d := Ba.ofSill addend
    let r := (baAdd t d (fun _ => d.x) none).1
    let s1 := write s a r.toSill
    let raised := decide (t.cls = .normal) && decide (t.x < r.x)
    (if raised then s1.renormNotices c a (BitVec.ofInt 16 r.x) else s1,
      BitVec.ofNat 64 (ofBytes ((r.toSill.drop 256).take 8)))

/-! ## Accesses performed at their home -/

/-- The outcome of a request: STATUS, DATA, the bytes a read returns, and its service time. -/
structure Served where
  status : Nat
  data : Word
  bytes : List Byte
  svc : Nat

def Served.fail (c : Cause) (svc : Nat) : Served := ⟨c.code, 0, [], svc⟩
def Served.done (d : Word) (svc : Nat) : Served := ⟨0, d, [], svc⟩

/-- Service at a core home (R205). -/
def ROp.svc : ROp → Nat
  | .load _ _ n => n
  | .store _ _ n => n
  | .cword _ _ _ _ => 4
  | .badd _ _ => 12
  | _ => 6

/-- The completion word's value at the instant of its write (R330): LATE past the deadline's whole µs. -/
def State.cwordValue (s : State) (v : Word) (deadline : Option Nat) (abandoned : Bool) : Word :=
  let late : Bool := match deadline with
    | some d => decide (d / 1000 < s.timeNs / 1000)
    | none => false
  BitVec.ofNat 64 (bits v 0 62 + (if abandoned then 2 ^ 62 else 0) + if late || abandoned then 2 ^ 63 else 0)

/-- An uncorrectable word met at a home (R191, R376): a CORE report there, a failure reply to the requester. -/
def State.homeError (s : State) (c w : Nat) (rid : BitVec 22) (ser : BitVec 32) : State :=
  s.coreReport c .uels ⟨BitVec.ofNat 64 w, 0, none, false, 0, ser, rid⟩

/-- How a request reaches a core home: from another core, or from a slot of its own, through the own window (R202) or the own peer
range (R352). -/
inductive Via where
  | fabric
  | window
  | ownPeer
  deriving DecidableEq, Repr

/-- Whose check at the home an access passes (R195, R351): the own window's is made at issue; in the own peer range the rights of the
home core suffice. -/
def Core.viaDenied (k : Core) (via : Via) (subject : BitVec 21) (write : Bool) (a n : Nat) : Option Cause :=
  if via = .window || (via = .ownPeer && k.allowed write a n) then none else k.homeCheck subject write a n

/-- An access performed at a core home, all its 16-byte units at one instant (R212, log 64). Remote reads report no identity
(R204). -/
def State.homeAccess (s : State) (c : Nat) (via : Via) (subject : BitVec 21) (rid : BitVec 22) (ser : BitVec 32)
    (op : ROp) : State × Served :=
  match op.range, s.core? c with
  | some (a, n, wr), some k =>
    match k.viaDenied via subject wr a n with
    | some e => (s, .fail e op.svc)
    | none =>
      let plain : Bool := match op with
        | .store _ _ _ | .cword _ _ _ _ => true
        | _ => false
      let s := s.modCore c fun k => if plain then k.injectPartial a n else k.injectRead a n
      match s.core? c with
      | none => (s, .fail .raddr op.svc)
      | some k =>
        match if plain then k.badPartial a n else k.badIn a n with
        | some w => (s.homeError c w (if wr then rid else 0) ser, .fail .ueremote op.svc)
        | none =>
          let write (s : State) (a : Nat) (bs : List Byte) : State :=
            if via = .fabric then s.writeLocal c a bs else s.writeOwn c a bs
          match op with
          | .load a n _ => (s, ⟨0, 0, k.mem.readN a n, op.svc⟩)
          | .store a d _ => (write s a d, .done 0 op.svc)
          | .cword a v dl ab => (write s a (bytesLE 8 (s.cwordValue v dl ab).toNat), .done 0 op.svc)
          | .atom o w32 a b d =>
            let n := if w32 then 4 else 8
            let old := k.mem.readLE a n
            let s := match atomExec o w32 old b.toNat d.toNat with
              | some v => write s a (bytesLE n v)
              | none => s
            (s, .done (BitVec.ofNat 64 old) op.svc)
          | .badd a block =>
            let r := s.sillCommit c a block write
            (r.1, .done r.2 op.svc)
          | _ => (s, .fail .raddr op.svc)
  | _, _ => (s, .fail .raddr op.svc)

/-- A core belongs to the partition that another serves. -/
def State.samePart (s : State) (a b : Nat) : Bool :=
  match s.core? a with
  | some k => k.partRect.holds b
  | none => false

/-- The partition that a core serves declared a token at an edge home; a SAVED partition on the same fields is another (R233,
R257). -/
def State.declared (s : State) (c : Nat) (e : HomeTok) : Bool :=
  match s.core? c with
  | some k => decide (k.entry = e.part)
  | none => false

/-- Whom an edge home takes for the requester of a halt's copies, which need no token (R340, log 48): an identity of no core. -/
def spillSubject : BitVec 21 := BitVec.allOnes 21

/-- The token check of an edge home when a request arrives (R195, R230); a host port whose link is down refuses (R394). -/
def State.edgeDenied (s : State) (p : Nat) (subject : BitVec 21) (op : ROp) : Option Cause :=
  match op.range with
  | some (a, n, wr) =>
    if (s.port p).isHost then (if (s.port p).up then none else some .xlate)
    else if subject = spillSubject then none
    else (s.port p).homeCheck subject (s.declared (identCore subject)) wr a n
  | none => none

/-- The 64-byte requests of an access to device memory (R388): which bytes of the access each holds, lowest first. -/
def deviceLines (a n : Nat) : List (Nat × Nat) :=
  (List.range ((a + n - 1) / 64 - a / 64 + 1)).map fun i =>
    (max a (64 * (a / 64 + i)), min (a + n) (64 * (a / 64 + i + 1)) - max a (64 * (a / 64 + i)))

/-- One request to a device completes: `n` bytes at `a` are read or written (R212), and what it returns; none where it meets
poison or what is not mapped (log 20). A whole line that is written is poisoned no more. -/
def State.deviceLine (s : State) (p : Nat) (op : ROp) (a n : Nat) : State × Option (List Byte) :=
  let q := s.port p
  let lost := q.isMem && decide (q.cap.toNat * 2 ^ 30 < a + n)
  let write (bs : List Byte) : State :=
    (s.writeDevice p a bs).modPort p fun q => { q with
      poison := q.poison.filter fun l => !(decide (a ≤ l) && decide (l + 64 ≤ a + bs.length)) }
  if lost then (s, none)
  else
    match op with
    | .load _ _ _ => (s, if q.poisoned a n then none else some (q.mem.readN a n))
    | .store a0 d _ => (write ((d.drop (a - a0)).take n), some [])
    | .cword _ v dl ab => (write (bytesLE 8 (s.cwordValue v dl ab).toNat), some [])
    | .atom o w32 _ b d =>
      if q.poisoned a n then (s, none)
      else
        match atomExec o w32 (q.mem.readLE a n) b.toNat d.toNat with
        | some v => (write (bytesLE n v), some (q.mem.readN a n))
        | none => (s, some (q.mem.readN a n))
    | _ => (s, none)

/-- The outcome of an access to a device whose requests have all completed: UEREMOTE when one failed. -/
def deviceOutcome (op : ROp) (lines : List (Option (List Byte))) : Served :=
  let bytes := (lines.filterMap id).flatten
  if lines.any fun l => l.isNone then .fail .ueremote 0
  else
    match op with
    | .load _ _ _ => ⟨0, 0, bytes, 0⟩
    | .atom _ _ _ _ _ => .done (BitVec.ofNat 64 (ofBytes bytes)) 0
    | _ => .done 0 0

/-- A write or a read of a host window, in one transaction (R212). -/
def State.hostAccess (s : State) (p : Nat) (op : ROp) : State × Served :=
  match op.range with
  | none => (s, .fail .xlate 0)
  | some (a, n, _) =>
    let r := s.deviceLine p op a n
    (r.1, deviceOutcome op [r.2])

/-! ## Replies -/

/-- INC of a home (R300). -/
def State.homeInc (s : State) (n : Node) : Byte :=
  match n with
  | .core c => match s.core? c with
    | some k => k.tables.once.inc
    | none => 0
  | .port p => (s.port p).once.inc
  | .mgr => s.mgr.once.inc

def State.dropPacket (s : State) (id : Nat) : State := { s with net := s.net.filter fun p => decide (p.id ≠ id) }

/-- Sends the reply to a request's message, `svc` cc from now (R205); the own home logic answers without a leg (R202). -/
def State.reply (s : State) (pk : Packet) (r : Served) : State :=
  match pk.body with
  | .request rid ser _ _ _ _ _ _ reqId op =>
    let b : Body := .reply rid ser reqId (s.homeInc pk.dst) (BitVec.ofNat 8 r.status) r.data r.bytes
    if s.isLocal pk.src reqId then
      let t := s.now + s.ahead pk.dst r.svc
      { s with
        net := s.net ++ [⟨s.nextId, pk.dst, pk.src, s.now, t, t, b, false, [], 2, false, s.now, 0, t⟩]
        nextId := s.nextId + 1 }
    else if op.isTransfer then s.post pk.dst pk.src r.svc 1 0 2 b
    else s.post pk.dst pk.src r.svc (flits r.bytes.length) 2 2 b
  | _ => s

/-! ## Exactly once (R294 to R297) -/

def State.once (s : State) (n : Node) : Once :=
  match n with
  | .core c => match s.core? c with
    | some k => k.tables.once
    | none => Once.reset
  | .port p => (s.port p).once
  | .mgr => s.mgr.once

def State.modOnce (s : State) (n : Node) (f : Once → Once) : State :=
  match n with
  | .core c => s.modCore c fun k => { k with tables := { k.tables with once := f k.tables.once } }
  | .port p => s.modPort p fun q => { q with once := f q.once }
  | .mgr => { s with mgr := { s.mgr with once := f s.mgr.once } }

/-- Entries of the reply cache and of the requester table (R288, R338). -/
def cacheSize : Node → Nat
  | .core _ => 64
  | _ => 1024
def requesterSize : Node → Nat
  | .core _ => 16
  | _ => 256

/-- Freeable from 1,088 µs after TIME (R297). -/
def ReplyEnt.freeable (e : ReplyEnt) (ns : Nat) : Bool := e.done && decide (e.timeNs + 1088000 ≤ ns)
/-- Freeable from 64 µs after LAST (R297). -/
def Requester.freeable (e : Requester) (ns : Nat) : Bool := decide (e.lastNs + 64000 ≤ ns)

/-- An allocation: a free index below `n`, else the lowest freeable one. -/
def allocIndex {α : Type} (n : Nat) (l : List (Nat × α)) (free : α → Bool) : Option Nat :=
  match afree n l with
  | some i => some i
  | none => (l.find? fun e => free e.2).map fun e => e.1

/-- Cover(f, q) of R294. -/
def Once.cover (o : Once) (f : Nat) (rid : BitVec 22) (ser : BitVec 32) (ackd : Nat) (us : BitVec 16) (ns : Nat) : Once :=
  let a := ser - BitVec.ofNat 32 ackd
  { o with
    reqs := amod f (fun e => { e with
      last := us, lastNs := ns, floor := if ackd ≠ 0 && serLe e.floor a then a else e.floor }) o.reqs
    cache := if ackd = 0 then o.cache else o.cache.filter fun e => !(decide (e.2.rid = rid) && e.2.done && serLe e.2.ser a) }

/-- A home that answers every request with TLOST (R254). -/
def State.isDead (s : State) (n : Node) : Bool := s.mgr.dead.contains n

/-- A home that refuses every request with FROZEN (R273). -/
def State.isFrozen (s : State) (n : Node) : Bool :=
  match n with
  | .core c => match s.core? c with
    | some k => k.frozen
    | none => (s.binding c).getLsbD 27
  | _ => false

/-- Counts an event at a home that is a core. -/
def State.countAt (s : State) (n : Node) (ev : Nat) : State :=
  match n with
  | .core c => s.modCore c fun k => k.count ev 1
  | _ => s

/-- The reply entry of a request becomes DONE with its outcome. -/
def State.setDone (s : State) (n : Node) (rid : BitVec 22) (ser : BitVec 32) (r : Served) : State :=
  let ns := nsAt (s.now + s.ahead n r.svc)
  s.modOnce n fun o => { o with
    cache := o.cache.map fun e =>
      if e.2.rid = rid && decide (e.2.ser = ser) then
        (e.1, { e.2 with done := true, status := BitVec.ofNat 8 r.status, data := r.data, time := BitVec.ofNat 16 (ns / 1000), timeNs := ns })
      else e }

/-- (now − STS) mod 65,536 > 64 µs (R294). -/
def State.tooOld (s : State) (sts : BitVec 16) : Bool := decide (64 < (s.timeUs - sts).toNat)

/-- The home restarted less than 1,100 µs ago, after the first transmission of a request (R294). -/
def State.restartedSince (s : State) (n : Node) (att : Nat) (fts : BitVec 16) : Bool :=
  match n with
  | .port p =>
    let q := s.port p
    match q.restartNs with
    | some t =>
      let d := (q.rstt - fts).toNat
      decide (0 < att) && decide (s.timeNs < t + 1100000) && decide (1 ≤ d) && decide (d ≤ 32767)
    | none => false
  | _ => false

/-- Serve(q) of R294 for a message that has arrived: `exec` performs the request, or answers none when its outcome comes later
and the entry stays BUSY. -/
def State.serve (s : State) (pk : Packet) (exec : State → State × Option Served) : State :=
  let n := pk.dst
  match pk.body with
  | .request rid ser ackd att fts sts _ wr reqId _ =>
    let s := s.dropPacket pk.id
    let later (s : State) : State := { s with net := s.net ++ [{ pk with atDevice := true, lines := [] }] }
    let answer (s : State) (c : Cause) : State := s.reply pk (.fail c 2)
    if s.isLocal pk.src reqId then
      let r := exec s
      match r.2 with
      | some o => r.1.reply pk o
      | none => later r.1
    else if s.tooOld sts then s
    else if s.isFrozen n then answer s .frozen
    else if s.isDead n then answer s .tlost
    else if !wr then
      let r := exec s
      match r.2 with
      | some o => r.1.reply pk o
      | none => later r.1
    else
      let ns := s.timeNs
      let us := s.timeUs
      let f := (s.once n).reqs.find? fun e => decide (e.2.rid = rid)
      let s := match f with
        | some e => s.modOnce n fun o => o.cover e.1 rid ser ackd us ns
        | none => s
      match (s.once n).cache.find? fun e => decide (e.2.rid = rid ∧ e.2.ser = ser) with
      | some (_, e) =>
        if e.done && decide (e.timeNs ≤ ns) then (s.countAt n 13).reply pk ⟨e.status.toNat, e.data, [], 2⟩ else s
      | none =>
        let stale : Bool := match f with
          | some e => match aget e.1 (s.once n).reqs with
            | some g => serLe ser g.floor
            | none => false
          | none => false
        if stale then s
        else if s.restartedSince n att fts then answer s .restarted
        else
          let o := s.once n
          let fi := match f with
            | some e => some e.1
            | none => allocIndex (requesterSize n) o.reqs fun e => e.freeable ns
          let ei := allocIndex (cacheSize n) o.cache fun e => e.freeable ns
          match fi, ei with
          | some fi, some ei =>
            let s := s.modOnce n fun o =>
              let reqs := if f.isSome then o.reqs else aset fi ⟨rid, ser - 1, us, ns⟩ o.reqs
              let o := ({ o with reqs := reqs } : Once).cover fi rid ser ackd us ns
              { o with cache := aset ei ⟨rid, ser, false, 0, 0, 0, 0⟩ o.cache }
            let r := exec s
            match r.2 with
            | some x => (r.1.setDone n rid ser x).reply pk x
            | none => later r.1
          | _, _ => answer (s.countAt n 14) .rcfull
  | _ => s

/-- The outcome of a request that was answered later. -/
def State.serveLater (s : State) (pk : Packet) (r : Served) : State :=
  let s := s.dropPacket pk.id
  match pk.body with
  | .request rid ser _ _ _ _ _ wr reqId _ =>
    let s := if wr && !s.isLocal pk.src reqId then s.setDone pk.dst rid ser r else s
    s.reply pk r
  | _ => s

end Sys2Proof.Machine
end

