-- ==== Sys2Proof/Machine/Doors.lean ====
section
/-! DEFINITION. Messages at doors (R311 to R314), SEND, DOOR and DOORQ (R319, R321, R322), SUBMIT's request (R338) and CKPT
(R339). -/

namespace Sys2Proof.Machine

/-! ## Arrival (R312) -/

def msgKind (m : BitVec 320) : Nat := bits m 40 2
def msgRid (m : BitVec 320) : BitVec 22 := m.extractLsb' 42 22

/-- A slot takes no new task until it is FREE; entries 0 to 55 hold messages. -/
def heldCap : Nat := 56

/-- The message with its time of arrival. -/
def stampMsg (m : BitVec 320) (us : BitVec 16) : BitVec 320 := putBits m 13 16 us.toNat

/-- R312: the state, and the cause of a refusal. -/
def State.doorArrive (s : State) (c : Nat) (msg : BitVec 320) : State × Option Cause :=
  match s.core? c with
  | none => (s, some .dclosed)
  | some k =>
    let m := stampMsg msg s.timeUs
    let n := msgDoor m
    let d := vat k.tables.doors n 0
    if (n = 31 && decide (msgKind m ≠ 3)) || !doorOpen d then (s, some .dclosed)
    else
      let held := k.tables.msgs.any fun e => decide (msgDoor e = n)
      let free := if held || !s.placing k then none else k.freeSlot
      match free with
      | some sl => (s.modCore c fun k => k.place m sl (s.cyc c), none)
      | none =>
        if doorPend d = 255 || decide (heldCap ≤ k.tables.msgs.length) then (s, some .dfull)
        else
          (s.modCore c fun k =>
            ({ k with
              lastWork := s.now
              tables := { k.tables with
                msgs := k.tables.msgs ++ [m]
                doors := k.tables.doors.setIfInBounds n (putBits d 16 8 (doorPend d + 1)) } } : Core).count 19 1, none)

/-- A task placed while its partition is killed is killed at once (R346). -/
def State.killPlaced (s : State) (c : Nat) : State :=
  match s.core? c with
  | none => s
  | some k =>
    if (s.partOf k).killing.isSome then
      (List.finRange 8).foldl (fun s sl => if (k.slot sl).st = .free then s else s.kill c sl) s
    else s

/-- Service of a SEND: 3 cc (R319, R381). -/
def State.sendServe (s : State) (c : Nat) (msg : BitVec 320) : State × Served :=
  let r := s.doorArrive c msg
  match r.2 with
  | none => (r.1.killPlaced c, .done 0 3)
  | some e => (r.1, .fail e 3)

/-- An open door that can neither place nor hold a message now: dispatch hardware then keeps its seed (R312). -/
def State.doorFull (s : State) (c n : Nat) : Bool :=
  match s.core? c with
  | none => false
  | some k =>
    let d := vat k.tables.doors n 0
    let held := k.tables.msgs.any fun e => decide (msgDoor e = n)
    doorOpen d && (held || !s.placing k || k.freeSlot.isNone)
      && (doorPend d = 255 || decide (heldCap ≤ k.tables.msgs.length))

/-- A seed that its door can neither place nor hold yet. -/
def State.seedWaits (s : State) (c : Nat) (msg : BitVec 320) : Bool := msgKind msg = 2 && s.doorFull c (msgDoor msg)

/-- MESSAGE_ARRIVAL: a seed or a route delivery that has reached the door logic; one that is refused is discarded and
reported (R312, R375). -/
def execMessageArrival (c : Nat) (msg : BitVec 320) (s : State) : Host.Outcome State Fault Refusal :=
  match s.core? c with
  | none => .fault .noSuchItem
  | some k =>
    if !k.doorIn.contains msg || s.seedWaits c msg then .fault .noSuchItem
    else
      let s := s.modCore c fun k => { k with doorIn := k.doorIn.erase msg }
      let r := s.doorArrive c msg
      match r.2 with
      | none => .next (r.1.killPlaced c)
      | some e => .next (r.1.coreReport c e ⟨0, 0, none, false, 0, 0, msgRid msg⟩)

/-! ## SEND (R319) -/

/-- The scalar register that a field value names (R62). -/
def sregOf (n : Nat) : SReg := if n < 16 then .g (Fin.ofNat 16 n) else .t (Fin.ofNat 16 n)

/-- The four payload registers. -/
def sendRegs (d : BitVec 3) : List SReg := (List.range 4).map fun i => sregOf (4 * d.toNat + i)

/-- The holds of an instruction that sends without a memory access: a free entry, room for the serial of what is write-like (R290),
release, acquire. -/
def Core.msgHold (k : Core) (x : Ctx) (home : Node) (wr : Bool) (ord : Order × Scope) : Bool :=
  !k.reqFree || (wr && k.serialsFull (slotRid x.c x.sl)) || (ordReleases ord.1 && k.relHold x.c x.sl ord.2) || k.acqHold x.c x.sl home

/-- The request entry of such an instruction. -/
def msgReq (x : Ctx) (faddr : Word) (home : Node) (wr : Bool) (sink : Sink) (cls : BitVec 3) (op : ROp) : Req :=
  mkReq x faddr ⟨home, 0, false, 0, none, none, 0⟩ ⟨wr, sink, cls, (.rlx, .part), 0⟩ op

/-- SEND. -/
def execSend (h : Head) (o : OrdX) (d : BitVec 3) (a b : SReg) : State → Host.Outcome State Fault Refusal :=
  issue h (if o.present then 2 else 1) (fun sl => ⟨(sendRegs d).map (sid sl) ++ [sid sl a, sid sl b], []⟩) fun x s =>
    let ord := ordOf o
    withScope x s ord.2 fun k =>
      let addr := x.rs a
      let desc := x.rs b
      let len := bits desc 5 6
      match windowOf addr.toNat with
      | .peer i 0 =>
        match s.peerCheck k i 0 1 with
        | some e => .fault e addr
        | none =>
          if 32 < len || desc.toNat / 2 ^ 11 ≠ 0 then .fault .dargs addr
          else if k.msgHold x (.core i) true ord then .hold
          else
            let pay := ofBytes (((sendRegs d).flatMap fun r => bytesLE 8 (x.rs r).toNat).take len)
            let msg := mkMsg (BitVec.ofNat 256 pay) (slotRid x.c x.sl) 0 len (bits desc 0 5) 0
            .ok (s.sendReq (.core x.c) (msgReq x addr (.core i) true .quiet 5 (.send msg)) 0) 0
      | _ => .fault .raddr addr

/-! ## DOOR and DOORQ (R321, R322) -/

/-- The entry that DOOR writes. -/
def doorWrite (old : BitVec 32) (mode : Nat) (b : Word) : BitVec 32 :=
  match mode with
  | 0 => (old &&& 0x07FF0000) ||| (b.setWidth 32 &&& 0xF800FFFF)
  | 1 => old ||| 0x08000000
  | _ => old &&& ~~~(0x08000000 : BitVec 32)

/-- DOOR: no scope is checked (R323); it acts at issue, before an arrival in the same cc; a door made dispatchable has its messages taken at once. -/
def execDoor (h : Head) (o : OrdX) (d a b : SReg) : State → Host.Outcome State Fault Refusal :=
  issue h (if o.present then 2 else 1) (usesRRR d a b) fun x s =>
    withCore x s fun k =>
      let n := bits (x.rs a) 0 5
      let mode := bits (x.rs a) 5 2
      if (x.rs a).toNat / 2 ^ 7 ≠ 0 || mode = 3 then .fault .dargs (x.rs a)
      else
        let old := vat k.tables.doors n 0
        let s := s.modCore x.c fun k => { k with tables := { k.tables with
          doors := k.tables.doors.setIfInBounds n (doorWrite old mode (x.rs b)) } }
        .ok ((s.putLater x (sid x.sl d) (.word (old.setWidth 64)) 2 0).dispatchHeld x.c) 0

/-- DOORQ. -/
def execDoorq (h : Head) (o : OrdX) (d a : SReg) : State → Host.Outcome State Fault Refusal :=
  issue h (if o.present then 2 else 1) (usesRR d a) fun x s =>
    withCore x s fun k =>
      if (x.rs a).toNat / 2 ^ 5 ≠ 0 then .fault .dargs (x.rs a)
      else
        let free := (List.finRange 8).countP fun sl => decide ((k.slot sl).st = .free)
        let v := free * 2 ^ 40 + (heldCap - k.tables.msgs.length) * 2 ^ 32 + (vat k.tables.doors (bits (x.rs a) 0 5) 0).toNat
        .ok (s.putLater x (sid x.sl d) (.word (BitVec.ofNat 64 v)) 2 0) 0

/-! ## SUBMIT and CKPT (R338, R339) -/

/-- SUBMIT: the record is read at issue; the reply writes the result word. -/
def execSubmit (h : Head) (o : OrdX) (a b : SReg) : State → Host.Outcome State Fault Refusal :=
  issue h (if o.present then 2 else 1) (usesAB a b) fun x s =>
    let ord := ordOf o
    withScope x s ord.2 fun k =>
      let ra := x.rs a
      let rb := x.rs b
      if ra.toNat % 64 ≠ 0 then .fault .lalign ra
      else if rb.toNat % 8 ≠ 0 then .fault .lalign rb
      else if 0x30000 < ra.toNat + 64 then .fault .lrange ra
      else if 0x30000 < rb.toNat + 8 then .fault .lrange rb
      else if !k.allowed false ra.toNat 64 then .fault .tnone ra
      else if k.msgHold x .mgr true ord || k.localHold x.c x.sl ra.toNat 64 false then .hold
      else localRead x s ra.toNat 64 fun s bs =>
        let rec_ : Vector Word 8 := vgen fun i => BitVec.ofNat 64 (ofBytes ((bs.drop (8 * i.val)).take 8))
        let sink := Sink.submitWord rb.toNat (rec_[(3 : Fin 8)].extractLsb' 32 32)
        .ok (s.sendReq (.core x.c) (msgReq x ra .mgr true sink 5 (.submit rec_ (s.partOf k).prio)) 0) 0

/-- A live-range table that keeps the rules of R339: its header and entries. -/
def ckptOk (hdr : Nat) (es : List Nat) : Bool :=
  decide (hdr ≤ 64) && es.all fun e =>
    let base := e % 2 ^ 18
    let len := e / 2 ^ 18 % 2 ^ 18
    decide (e < 2 ^ 36) && decide (base % 16 = 0) && decide (len % 16 = 0) && decide (16 ≤ len) && decide (base + len ≤ 0x30000)

/-- The cycles for which an instruction occupies issue, when it is more than one. -/
def State.occupy (s : State) (x : Ctx) (n : Nat) : State :=
  s.modCore x.c fun k => k.modSlot x.sl fun y => { y with nextIssue := x.cyc + n }

/-- What CKPT does once checked: LRT, the cycles it occupies, and in a HALTING partition the stop before the next
instruction. -/
def State.checkpoint (s : State) (x : Ctx) (halting : Bool) (lrt : Lrt) (n : Nat) : State :=
  let s := (s.modCore x.c fun k => { k with tables := { k.tables with lrt := lrt } }).occupy x (2 + cdiv n 8)
  if halting then s.modCore x.c fun k => k.leave.modSlot x.sl fun y => { y.toReady x.cyc with stopped := true } else s

/-- CKPT (R339): the table is read once nothing holds the instruction, and a table that it cannot read, for an uncorrectable word, is
judged no further. -/
def execCkpt (h : Head) (o : OrdX) (a b : SReg) : State → Host.Outcome State Fault Refusal :=
  issue h (if o.present then 2 else 1) (usesAB a b) fun x s =>
    let ord := ordOf o
    withScope x s ord.2 fun k =>
      let ra := x.rs a
      let rb := x.rs b
      let ckid := rb.extractLsb' 0 16
      let m := k.memView x.sl
      let hdr := m.readLE ra.toNat 8
      let n := hdr % 128
      let halting := decide ((s.partOf k).st = .halting)
      let held := ordReleases ord.1 && k.relHold x.c x.sl ord.2
      let waits (n : Nat) : Bool := k.readHold x.sl x.cyc || k.localHold x.c x.sl ra.toNat (8 + 8 * n) false
      let bad (n : Nat) : Bool := ((k.injectRead ra.toNat (8 + 8 * n)).badView x.sl ra.toNat (8 + 8 * n)).isSome
      let table (n : Nat) : Res :=
        if rb.toNat / 2 ^ 17 ≠ 0 then .fault .dargs ra
        else if !k.allowed false ra.toNat (8 + 8 * n) then .fault .tnone ra
        else localRead x s ra.toNat (8 + 8 * n) fun s _ => .ok (s.checkpoint x halting ⟨true, ckid, ra.toNat⟩ n) 0
      if rb.getLsbD 16 then
        if rb.toNat / 2 ^ 17 ≠ 0 then .fault .dargs ra
        else if held then .hold
        else .ok (s.checkpoint x halting { k.tables.lrt with ckid := ckid } 0) 0
      else if ra.toNat % 16 ≠ 0 then .fault .lalign ra
      else if 0x30000 < ra.toNat + 8 then .fault .lrange ra
      else if held || waits 0 then .hold
      else if bad 0 then table 0
      else if 0x30000 < ra.toNat + 8 + 8 * n then .fault .lrange ra
      else if waits n then .hold
      else if bad n then table n
      else if !ckptOk hdr ((List.range n).map fun i => m.readLE (ra.toNat + 8 + 8 * i) 8) then .fault .cargs ra
      else table n

end Sys2Proof.Machine
end

