-- ==== Sys2Proof/Machine/Tokens.lean ====
section
/-! DEFINITION. Ownership tokens (R229 to R260): the operations of a home on its token table, grants and their outcomes, revoke
notices, the requester's failures (R204, R301), and the token instructions with their implied flushes. -/

namespace Sys2Proof.Machine

/-! ## A request that fails (R204, R245, R301, R302) -/

/-- Entries of a slot that cover bytes of a refused access are removed (R229, R245), but not those that a death has set LOST: a TRET or
TUNSH removes them (R241, R254). -/
def Core.dropHeldOver (k : Core) (sl : Fin 8) (lo hi : Nat) : Core :=
  { k with tables := { k.tables with held := k.tables.held.filter fun e =>
      !(decide (e.2.slot = sl) && !e.2.reserved && !e.2.lost && decide (e.2.base * 256 < hi) && decide (lo < (e.2.base + e.2.size) * 256)) } }

/-- A request of a slot ends with a failure: the slot traps, or what is left of it is reported. Of a killed slot unknown outcomes are
logged (R374), and the faults of its copies (R331, R372). -/
def State.failReq (s : State) (c : Nat) (q : Req) (cause : Cause) (unk : Bool) : State :=
  match s.core? c with
  | none => s
  | some k =>
    let x := k.slot q.slot
    let f : FaultInfo := ⟨q.faddr, x.pc, some q.issued, unk, q.inc, q.ser, if q.wr then q.rid else 0⟩
    let s := if cause.group = 2 && !unk && decide (q.lo < q.hi) then s.modCore c fun k => k.dropHeldOver q.slot q.lo q.hi else s
    if x.killed then (if unk || q.rid = engineRid c 0 then s.logReport (s.report c q.slot cause.code true false true f) else s)
    else s.faultSlot c q.slot cause f

/-! ## A home's table -/

/-- Bytes of a granule, and entries, of a home's table (R230 to R232). -/
def tokUnit : Node → Nat
  | .port _ => 4096
  | _ => 256
def tokCap : Node → Nat
  | .port _ => 4096
  | _ => 64

def State.toks (s : State) (n : Node) : List (Nat × HomeTok) :=
  match n with
  | .core c => match s.core? c with
    | some k => k.tables.home
    | none => []
  | .port p => (s.port p).toks
  | .mgr => []

def State.setToks (s : State) (n : Node) (l : List (Nat × HomeTok)) : State :=
  match n with
  | .core c => s.modCore c fun k => { k with tables := { k.tables with home := l } }
  | .port p => s.modPort p fun q => { q with toks := l }
  | .mgr => s

/-- A new HOME entry (R239). -/
def HomeTok.fresh (base limit : Nat) : HomeTok where
  st := .home
  base := base
  limit := limit
  parent := none
  holder := 0
  epoch := 0
  named := Vector.replicate 4 none
  anon := 0
  susp := false
  dslot := 0
  rel := false
  decl := 0
  part := 0
  ext := false
  granting := false
  withdraw := false

def TokState.code : TokState → Nat
  | .home => 1
  | .lent => 2
  | .shared => 3
  | .split => 4
  | .tainted => 5
  | .lost => 6
  | .uncertain => 7

/-- NVAL. -/
def HomeTok.nval (e : HomeTok) : Nat :=
  (List.finRange 4).foldl (fun t i => if (e.named[i]).isSome then t + 2 ^ i.val else t) 0

/-- No share is left. -/
def HomeTok.noShare (e : HomeTok) : Bool := decide (e.nval = 0) && decide (e.anon = 0)

def HomeTok.setNamed (e : HomeTok) (i : Fin 4) (x : Option (BitVec 21)) : HomeTok := { e with named := e.named.set i x }

/-- The leaf over a granule. -/
def leafOver (l : List (Nat × HomeTok)) (g : Nat) : Option (Nat × HomeTok) :=
  l.find? fun e => decide (e.2.st ≠ .split) && decide (e.2.base ≤ g) && decide (g < e.2.limit)

/-- The leaf whose base is an address. -/
def leafBase (l : List (Nat × HomeTok)) (unit a : Nat) : Option (Nat × HomeTok) :=
  if a % unit = 0 then l.find? fun e => decide (e.2.st ≠ .split) && decide (e.2.base = a / unit) else none

/-- An entry freed, with the SPLIT entries above it that have no descendant left (R256). -/
def tokDrop (l : List (Nat × HomeTok)) (i : Nat) : Nat → List (Nat × HomeTok)
  | 0 => adel i l
  | fuel + 1 =>
    match aget i l with
    | none => l
    | some e =>
      let l := adel i l
      match e.parent with
      | none => l
      | some p => if l.any fun x => decide (x.2.parent = some p) then l else tokDrop l p fuel

/-- An entry becomes HOME; one that was to be withdrawn is freed (R256). -/
def tokHomed (l : List (Nat × HomeTok)) (i : Nat) : List (Nat × HomeTok) :=
  match aget i l with
  | none => l
  | some e =>
    if e.withdraw then tokDrop l i l.length
    else aset i { e with st := .home } l

/-- The named holders of an entry. -/
def HomeTok.holders (e : HomeTok) : List (BitVec 21) := e.named.toList.filterMap id

/-- Withdrawal of an entry (R256): the table, and the identities that get a revoke notice. An entry whose grant awaits its
reply is withdrawn after it. -/
def tokWithdraw (l : List (Nat × HomeTok)) (i : Nat) : List (Nat × HomeTok) × List (BitVec 21) :=
  match aget i l with
  | none => (l, [])
  | some e =>
    if (e.st = .home || e.st = .shared) && !e.granting then (tokDrop l i l.length, e.holders)
    else (aset i { e with withdraw := true } l, [])

/-! ## The operations of a home (R238 to R246) -/

/-- What the home knows of a request: its own granule and table size, the subject and the slot-table entry of its partition,
whether the subject is entitled to act on an entry or to declare one, and the check of a target identity. -/
structure TokEnv where
  edge : Bool
  unit : Nat
  cap : Nat
  ident : BitVec 21
  part : Nat
  entitled : HomeTok → Bool
  mayDeclare : Bool
  target : BitVec 21 → Option Cause

/-- The answer: a cause, or data, with the table after; the identities to notify of a revoked entry; the entry whose words leave
the fetch buffer; and the grant to send: entry, named position, kind and target. -/
structure TokAns where
  cause : Option Cause
  data : Word
  toks : List (Nat × HomeTok)
  revoke : List (BitVec 21)
  entry : Option HomeTok
  discard : Bool
  grant : Option (Nat × Option (Fin 4) × BitVec 2 × BitVec 21)

def TokAns.fail (l : List (Nat × HomeTok)) (c : Cause) : TokAns := ⟨some c, 0, l, [], none, false, none⟩
def TokAns.done (l : List (Nat × HomeTok)) : TokAns := ⟨none, 0, l, [], none, false, none⟩

/-- What is wrong with the operands of a token request, as far as no table entry tells it (R238, R239, R242): a target outside the
partition, before malformed operands (R369). The spec names no cause for a limit that its 33-bit field cannot hold (R239): TARGS is
the model's choice (log 46). -/
def tokArgs (v : TokEnv) (op : TokOp) (a : Nat) (b : Word) (split : Option Nat) : Option Cause :=
  let bad (x : Bool) : Option Cause := if x then some .targs else none
  let gives (n : Nat) : Option Cause := (v.target (b.extractLsb' 0 21)).or (bad (decide (b.toNat / 2 ^ n ≠ 0)))
  match op with
  | .decl =>
    let n := bits b 0 48
    bad ((if v.edge then bits b 48 16 else bits b 48 15) ≠ 0 || a % v.unit ≠ 0 || n = 0 || n % v.unit ≠ 0
      || (if v.edge then 2 ^ 33 ≤ (a + n) / v.unit else 0x30000 < a + n))
  | .lend => gives 21
  | .share => gives 22
  | .split => bad (split.isNone || split.any fun p => decide (p % v.unit ≠ 0))
  | .clean => bad (decide (b.toNat / 2 ≠ 0))
  | _ => none

/-- TDECL at a home (R239). -/
def tokDecl (v : TokEnv) (a : Nat) (b : Word) (l : List (Nat × HomeTok)) : TokAns :=
  let lim := (a + bits b 0 48) / v.unit
  if !v.mayDeclare then .fail l .tperm
  else if l.any fun e => decide (e.2.base < lim) && decide (a / v.unit < e.2.limit) then .fail l .toverlap
  else
    match afree v.cap l with
    | none => .fail l .tfull
    | some i =>
      let e := HomeTok.fresh (a / v.unit) lim
      .done (aset i (if v.edge then { e with st := .lent, decl := v.ident, part := v.part, holder := v.ident, epoch := 1 }
        else { e with dslot := identSlot v.ident, rel := b.getLsbD 63 }) l)

/-- TLEND at a home (R240). For a LENT leaf of which the issuer is not the holder R238 suggests TPERM and R240 TSTATE: TSTATE is the
model's choice (log 46). -/
def tokLend (v : TokEnv) (i : Nat) (e : HomeTok) (b : Word) (epoch : Option Byte) (l : List (Nat × HomeTok)) : TokAns :=
  let t := b.extractLsb' 0 21
  if e.st = .home && !v.entitled e then .fail l .tperm
  else if e.st ≠ .home && !(e.st = .lent && e.holder = v.ident && epoch = some e.epoch) then .fail l .tstate
  else
    { TokAns.done (aset i { e with epoch := e.epoch + 1, holder := t, st := .lent } l) with
      grant := some (i, none, 0, t) }

/-- TSHARE at a home (R243). -/
def tokShare (v : TokEnv) (i : Nat) (e : HomeTok) (b : Word) (l : List (Nat × HomeTok)) : TokAns :=
  let t := b.extractLsb' 0 21
  if !v.entitled e then .fail l .tperm
  else if e.st ≠ .home && e.st ≠ .shared then .fail l .tstate
  else
    match if b.getLsbD 21 then none else (List.finRange 4).find? fun n => (e.named[n]).isNone with
    | some n =>
      { TokAns.done (aset i { e.setNamed n (some t) with st := .shared } l) with grant := some (i, some n, 1, t) }
    | none =>
      if 4095 ≤ e.anon then .fail l .tfull
      else { TokAns.done (aset i { e with anon := e.anon + 1, st := .shared } l) with grant := some (i, none, 2, t) }

/-- TSPLIT at a home (R242): `p` is the split point at the home. -/
def tokSplit (v : TokEnv) (i : Nat) (e : HomeTok) (p : Option Nat) (l : List (Nat × HomeTok)) : TokAns :=
  match p with
  | none => .fail l .targs
  | some p =>
    let g := p / v.unit
    if g ≤ e.base || e.limit ≤ g then .fail l .targs
    else if !v.entitled e then .fail l .tperm
    else if e.st ≠ .home then .fail l .tstate
    else
      match afree v.cap l with
      | none => .fail l .tfull
      | some j =>
        let child (lo hi : Nat) : HomeTok :=
          { HomeTok.fresh lo hi with
            parent := some i, dslot := e.dslot, rel := e.rel, decl := e.decl, part := e.part, ext := e.ext }
        let l1 := aset j (child e.base g) l
        match afree v.cap l1 with
        | none => .fail l .tfull
        | some j2 => .done (aset i { e with st := .split } (aset j2 (child g e.limit) l1))

/-- TJOIN at a home (R242): of nested SPLIT entries at a base, the innermost. -/
def tokJoin (v : TokEnv) (a : Nat) (l : List (Nat × HomeTok)) : TokAns :=
  let at_ := l.filter fun e => decide (e.2.st = .split) && decide (e.2.base * v.unit = a)
  match at_.foldl (fun (m : Option (Nat × HomeTok)) e => match m with
      | none => some e
      | some x => if e.2.limit < x.2.limit then some e else some x) none with
  | none => .fail l .targs
  | some (j, e) =>
    let kids := l.filter fun x => decide (x.2.parent = some j)
    if !v.entitled e then .fail l .tperm
    else if kids.length ≠ 2 || kids.any fun x => decide (x.2.st ≠ .home) then .fail l .tstate
    else .done (tokHomed (kids.foldl (fun l x => adel x.1 l) l) j)

/-- TRET and the kill-return at a home (R241, R250, R255): a stale one changes nothing. -/
def tokReturn (v : TokEnv) (a : Nat) (epoch : Option Byte) (kill : Bool) (l : List (Nat × HomeTok)) : TokAns :=
  match leafBase l v.unit a with
  | some (i, e) =>
    if (e.st = .lent || e.st = .uncertain) && e.holder = v.ident && epoch = some e.epoch then
      if kill then .done (aset i { e with st := .tainted } l)
      else { TokAns.done (tokHomed l i) with entry := some e, discard := true }
    else .done l
  | none => .done l

/-- TUNSH at a home (R243). -/
def tokUnshare (v : TokEnv) (a : Nat) (kind : BitVec 2) (l : List (Nat × HomeTok)) : TokAns :=
  match leafBase l v.unit a with
  | some (i, e) =>
    if e.st ≠ .shared then .done l
    else
      let e1 : HomeTok :=
        if kind = 1 then
          match (List.finRange 4).find? fun n => decide (e.named[n] = some v.ident) with
          | some n => e.setNamed n none
          | none => e
        else if 0 < e.anon then { e with anon := e.anon - 1 }
        else { e with susp := true }
      let l1 := aset i e1 l
      .done (if e1.noShare then tokHomed l1 i else l1)
  | none => .done l

/-- TRECL at a home (R245). -/
def tokRecall (v : TokEnv) (i : Nat) (e : HomeTok) (l : List (Nat × HomeTok)) : TokAns :=
  if !v.entitled e then .fail l .tperm
  else
    match e.st with
    | .home => .done l
    | .lent | .uncertain =>
      { TokAns.done (tokHomed l i) with revoke := [e.holder], entry := some e, discard := true }
    | .shared =>
      let l1 := aset i { e with named := Vector.replicate 4 none, anon := 0, susp := false } l
      { TokAns.done (tokHomed l1 i) with revoke := e.holders, entry := some e }
    | _ => .fail l .tstate

/-- TCLEAN at a home (R246). -/
def tokClean (v : TokEnv) (i : Nat) (e : HomeTok) (b : Word) (l : List (Nat × HomeTok)) : TokAns :=
  let free := b.getLsbD 0
  if !v.entitled e then .fail l .tperm
  else if e.st = .tainted || e.st = .lost then .done (if free then tokDrop l i l.length else tokHomed l i)
  else if e.st = .home && (!free || e.parent.isNone) then .done (if free then tokDrop l i l.length else l)
  else .fail l .tstate

/-- The home report of TQRY (R244). -/
def tokReport (v : TokEnv) (a : Nat) (l : List (Nat × HomeTok)) : Word :=
  match leafOver l (a / v.unit) with
  | none => 0
  | some (i, e) =>
    let b (x : Bool) (n : Nat) : Nat := if x then 2 ^ n else 0
    BitVec.ofNat 64 (i * 2 ^ 51 + e.holder.toNat * 2 ^ 30 + e.epoch.toNat * 2 ^ 22 + e.anon * 2 ^ 10 + e.nval * 2 ^ 6
      + b e.susp 5 + b e.ext 4 + b e.rel 3 + e.st.code)

/-- One token request at its home. An address that is the base of no leaf is malformed (R238); where it is the base of a SPLIT entry, a
recall and a clean-up fail as that state does, for an issuer that is entitled to act on it (R245, R246). -/
def tokApply (v : TokEnv) (op : TokOp) (a : Nat) (b : Word) (split : Option Nat) (epoch : Option Byte) (kind : BitVec 2)
    (l : List (Nat × HomeTok)) : TokAns :=
  let leaf (f : Nat → HomeTok → TokAns) : TokAns :=
    match leafBase l v.unit a with
    | some (i, e) => f i e
    | none =>
      match if op = .recl || op = .clean then l.find? fun e => decide (e.2.st = .split) && decide (e.2.base * v.unit = a) else none with
      | some e => .fail l (if v.entitled e.2 then .tstate else .tperm)
      | none => .fail l .targs
  match tokArgs v op a b split with
  | some c => .fail l c
  | none =>
  match op with
  | .decl => tokDecl v a b l
  | .lend => leaf fun i e => tokLend v i e b epoch l
  | .ret => tokReturn v a epoch false l
  | .split => leaf fun i e => tokSplit v i e split l
  | .join => tokJoin v a l
  | .share => leaf fun i e => tokShare v i e b l
  | .unsh => tokUnshare v a kind l
  | .recl => leaf fun i e => tokRecall v i e l
  | .clean => leaf fun i e => tokClean v i e b l

/-! ## The environment, notices and grants -/

/-- Who may do what at a home (R238, R259). -/
def State.tokEnv (s : State) (n : Node) (ident : BitVec 21) : TokEnv :=
  let target (t : BitVec 21) : Option Cause :=
    if !s.coreOk (identCore t) then some .targs
    else if s.samePart (identCore ident) (identCore t) then none else some .rpart
  let part : Nat := match s.core? (identCore ident) with
    | some k => k.entry
    | none => 0
  match n with
  | .core c =>
    let own := decide (identCore ident = c)
    { edge := false, unit := 256, cap := 64, ident := ident, part := part, entitled := fun _ => own, mayDeclare := own
      target := target }
  | _ =>
    { edge := true, unit := 4096, cap := 4096, ident := ident, part := part
      entitled := fun e => !e.ext && s.declared (identCore ident) e, mayDeclare := true, target := target }

/-- A revoke notice performed (R245): entries of the identity's slot with that base and size are removed. -/
def State.unhold (s : State) (ident : BitVec 21) (base size : Nat) : State :=
  s.modCore (identCore ident) fun k => { k with tables := { k.tables with held := k.tables.held.filter fun e =>
    !(decide (e.2.slot = identSlot ident) && !e.2.reserved && decide (e.2.base = base) && decide (e.2.size = size)) } }

/-- Sends revoke notices, in the control class and once; the home core's own slots see them at once. -/
def State.revoke (s : State) (n : Node) (base size : Nat) (ids : List (BitVec 21)) : State :=
  ids.foldl (fun s i =>
    if n = .core (identCore i) then s.unhold i base size
    else s.post n (.core (identCore i)) 2 1 2 1 (.revoke i base size)) s

/-- The fetch buffer of a home core drops the words of a region (R192, R241, R245). -/
def State.discardWords (s : State) (n : Node) (lo hi : Nat) : State :=
  match n with
  | .core c => s.modCore c fun k => { k with stale := k.stale.filter fun w => !(decide (lo ≤ w.1) && decide (w.1 < hi)) }
  | _ => s

/-- A grant performed at the target core (R247); `port`: the edge home that sent it. An instruction sees an accepted one from the next
cycle on, and none issues after it in its own (R385). -/
def State.acceptGrant (s : State) (c : Nat) (port : Option Nat) (sl : Fin 8) (base size : Nat) (epoch : Byte) (kind : BitVec 2) :
    State × Option Cause :=
  match s.core? c with
  | none => (s, some .trefused)
  | some k =>
    let x := k.slot sl
    let live : Bool := match x.st with
      | .running | .waiting => true
      | .ready => decide (x.readyAt ≤ s.cyc c)
      | _ => false
    if !live then (s, some .trefused)
    else
      match afree 32 k.tables.held with
      | none => (s, some .thfull)
      | some i =>
        if k.tables.held.any fun e => decide (e.2.slot = sl) && !e.2.reserved && decide (e.2.base < base + size)
            && decide (base < e.2.base + e.2.size) then (s, some .toverlap)
        else
          (s.modCore c fun k => { k with
            issueFrom := s.cyc c + 1
            tables := { k.tables with held := aset i ⟨base, size, epoch, sl, kind, false, port, false⟩ k.tables.held } }, none)

/-- The fabric address of an entry's base in 256-byte units: a core's peer range, or for an edge home the address that the request
named. -/
def fabBase (n : Node) (va : Nat) (e : HomeTok) : Nat :=
  match n with
  | .core c => peerBase c / 256 + e.base
  | _ => va / 256

def HomeTok.size256 (e : HomeTok) (n : Node) : Nat := (e.limit - e.base) * (tokUnit n / 256)

/-- How a grant ended. -/
inductive GrantEnd where
  | accepted
  | refused (c : Cause)
  | unknown
  deriving DecidableEq, Repr

/-- The cause that the issuer of TLEND or TSHARE gets. -/
def GrantEnd.cause : GrantEnd → Option Cause
  | .accepted => none
  | .refused c => some c
  | .unknown => some .fabricLost

/-- The entry after the outcome of its grant (R240, R243). -/
def grantEntry (l : List (Nat × HomeTok)) (i : Nat) (named : Option (Fin 4)) (kind : BitVec 2) (g : GrantEnd) :
    List (Nat × HomeTok) × List (BitVec 21) :=
  match aget i l with
  | none => (l, [])
  | some e0 =>
    let e := { e0 with granting := false }
    let l := aset i e l
    let l1 :=
      match g with
      | .accepted => l
      | .unknown => if kind = 0 && e.st = .lent then aset i { e with st := .uncertain } l else l
      | .refused _ =>
        if kind = 0 then (if e.st = .lent then tokHomed l i else l)
        else if e.st ≠ .shared then l
        else
          let e1 : HomeTok := match named with
            | some n => e.setNamed n none
            | none => { e with anon := e.anon - 1 }
          let l2 := aset i e1 l
          if e1.noShare then tokHomed l2 i else l2
    match aget i l1 with
    | some x => if x.withdraw && x.st = .shared then tokWithdraw l1 i else (l1, [])
    | none => (l1, [])

/-- The outcome of a grant at the home, before its waiter hears of it. -/
def State.grantEnd (s : State) (n : Node) (i : Nat) (named : Option (Fin 4)) (kind : BitVec 2) (g : GrantEnd) : State :=
  match aget i (s.toks n) with
  | none => s
  | some e =>
    let r := grantEntry (s.toks n) i named kind g
    (s.setToks n r.1).revoke n (fabBase n 0 e) (e.size256 n) r.2

/-- What a token request at its home comes to. -/
inductive TokEnd where
  | done (c : Option Cause) (data : Word)
  /-- the grant to a slot of the home core was refused after the change -/
  | refused (c : Cause)
  /-- a grant to another core has been started -/
  | waits
  deriving DecidableEq, Repr

/-- The token agent's grant request (R240): not yet sent, it leaves at module time `at_` or later. -/
def State.startGrant (s : State) (n : Node) (i : Nat) (named : Option (Fin 4)) (kind : BitVec 2) (t : BitVec 21) (base size : Nat)
    (epoch : Byte) (waiter at_ : Nat) : State :=
  let rid := match n with
    | .core c => engineRid c 2
    | .port p => edgeRid p
    | .mgr => 0
  let cyc := match n with
    | .core c => s.cyc c
    | _ => 0
  let q : Req := {
    id := s.nextId, rid := rid, slot := 0, ser := 0, op := .grant (identSlot t) base size epoch kind
    home := .core (identCore t), wr := true, subject := 0, sink := .grantFor i named kind waiter, att := 0, fts := 0, due := at_
    issued := cyc, faddr := 0, lo := 0, hi := 0, acq := none, walk := none, localWait := false, waits := false, inc := 0, cls := 3 }
  (s.modReqs n fun l => l ++ [q]).newId

/-- The split point of a request at its home, `a` there and `va` as a fabric address; the own window is the issuing core's. -/
def splitPoint (n : Node) (issuer a va : Nat) (b : Word) : Option Nat :=
  match n, windowOf b.toNat with
  | .core c, .own o => if issuer = c then some o else none
  | .core c, .peer i o => if i = c then some o else none
  | .port _, .cxl => if va ≤ b.toNat then some (a + (b.toNat - va)) else none
  | _, _ => none

/-- A token request performed at its home as one step; `va` is its fabric address, `waiter` what waits for a grant that goes to
another core, `later` the module time until it is sent. -/
def State.tokRun (s : State) (n : Node) (ident : BitVec 21) (op : TokOp) (a va : Nat) (b : Word) (epoch : Option Byte)
    (kind : BitVec 2) (kill : Bool) (waiter later : Nat) : State × TokEnd :=
  let v := s.tokEnv n ident
  let split := splitPoint n (identCore ident) a va b
  let r := if kill then tokReturn v a epoch true (s.toks n) else tokApply v op a b split epoch kind (s.toks n)
  match r.cause with
  | some c => (s, .done (some c) 0)
  | none =>
    let s := s.setToks n r.toks
    let s : State := match r.entry with
      | some e =>
        let s := s.revoke n (fabBase n va e) (e.size256 n) r.revoke
        if r.discard then s.discardWords n (e.base * v.unit) (e.limit * v.unit) else s
      | none => s
    match r.grant with
    | none => (s, .done none r.data)
    | some (i, named, k, t) =>
      match aget i r.toks with
      | none => (s, .done none 0)
      | some e =>
        let base := fabBase n va e
        let size := e.size256 n
        if n = .core (identCore t) then
          let g := s.acceptGrant (identCore t) none (identSlot t) base size e.epoch k
          match g.2 with
          | none => (g.1, .done none 0)
          | some c => (g.1.grantEnd n i named k (.refused c), .refused c)
        else
          let s := s.setToks n (aset i { e with granting := true } r.toks)
          (s.startGrant n i named k t base size e.epoch waiter (s.now + later), .waits)

/-- The fabric address of an operand, the own window as the own peer range. -/
def ownPeer (c a : Nat) : Nat := if a < 0x30000 then peerBase c + a else a

/-- A side of a copy touches fabric bytes [lo, hi). -/
def Copy.touches (x : Copy) (c lo hi : Nat) : Bool :=
  (List.range x.rows).any fun r =>
    let a := ownPeer c x.src + r * x.sstr
    let b := ownPeer c x.dst + r * x.dstr
    (decide (a < hi) && decide (lo < a + x.len)) || (decide (b < hi) && decide (lo < b + x.len))

/-- Local accesses of any slot to the own bytes [lo, hi) that were issued by a cycle are not performed yet: stores, matrix commands,
own-window accesses and copies. -/
def Core.localBusy (k : Core) (c lo hi cyc : Nat) : Bool :=
  (k.stores.any fun b => decide (b.issued ≤ cyc) && decide (b.addr < hi) && decide (lo < b.addr + b.data.length))
    || (k.matrix.any fun m => decide (m.issued ≤ cyc) && m.cmd.ranges.any fun r => decide (r.1 < hi) && decide (lo < r.1 + r.2))
    || (k.reqs.any fun r => r.localWait && decide (r.issued ≤ cyc) && decide (r.lo < r.hi) && decide (r.lo < peerBase c + hi)
      && decide (peerBase c + lo < r.hi))
    || k.copies.any fun x => decide (x.issued ≤ cyc) && x.touches c (peerBase c + lo) (peerBase c + hi)

/-- A grant that is not sent yet and may be: every local access that passed its check before has been performed (R237). -/
def Core.grantReady (k : Core) (c : Nat) (q : Req) : Bool :=
  match q.sink with
  | .grantFor i _ _ _ =>
    match aget i k.tables.home with
    | none => true
    | some e => !k.localBusy c (e.base * 256) (e.limit * 256) q.issued
  | _ => true

/-- Sends the grants of a core that wait for local accesses. -/
def State.launchGrants (s : State) (c : Nat) : State :=
  match s.core? c with
  | none => s
  | some k =>
    (k.reqs.filter fun q => decide (q.att = 0) && k.grantReady c q && (match q.sink with
      | .grantFor _ _ _ _ => true
      | _ => false)).foldl (fun s q => s.transmit (.core c) q (q.due - s.now)) s

/-- The grants of an edge home leave at once. -/
def State.launchEdgeGrants (s : State) (p : Nat) : State :=
  ((s.port p).reqs.filter fun q => decide (q.att = 0)).foldl (fun s q => s.transmit (.port p) q (q.due - s.now)) s

/-- Sends what a home's token request has started. -/
def State.launchAt (s : State) (n : Node) : State :=
  match n with
  | .core c => s.launchGrants c
  | .port p => s.launchEdgeGrants p
  | .mgr => s

/-! ## The issuing core -/

/-- A slot's held entry whose base is a fabric address, of the kinds given. -/
def Tables.heldBase (t : Tables) (sl : Fin 8) (a : Nat) (share : Bool) : Option (Nat × HeldTok) :=
  if a % 256 = 0 then
    t.held.find? fun e => decide (e.2.slot = sl) && !e.2.reserved && decide (e.2.base = a / 256) && (decide (e.2.kind ≠ 0) == share)
  else none

/-- The held report of TQRY (R244). The length of a region of 1 TiB or more does not fit the 32 bits of SIZE: the report gives its low 32
bits (R234, log 75). -/
def Tables.heldReport (t : Tables) (sl : Fin 8) (a : Nat) : Word :=
  match t.heldOver sl a with
  | [] => BitVec.ofNat 64 (2 ^ 63)
  | h :: _ => BitVec.ofNat 64 (2 ^ 63 + h.size % 2 ^ 32 * 2 ^ 31 + h.epoch.toNat * 2 ^ 23 + h.slot.val * 2 ^ 5 + h.kind.toNat * 2 ^ 3
      + (if h.lost then 2 else 0) + 1)

/-- The implied flush of R237 holds: work of the slot on the fabric bytes [lo, hi) is not complete. -/
def Core.flushHold (k : Core) (c : Nat) (sl : Fin 8) (lo hi : Nat) : Bool :=
  (k.stores.any fun b => decide (b.slot = sl) && decide (peerBase c + b.addr < hi)
      && decide (lo < peerBase c + b.addr + b.data.length))
    || ((k.slotReqs sl).any fun r => decide (r.lo < r.hi) && decide (r.lo < hi) && decide (lo < r.hi))
    || (k.copies.any fun x => decide (x.slot = sl) && x.touches c lo hi)
    || (k.matrix.any fun m => decide (m.slot = sl) && m.cmd.ranges.any fun r =>
        decide (peerBase c + r.1 < hi) && decide (lo < peerBase c + r.1 + r.2))

/-- The entry of a home that waits for a grant's outcome over an address (R240). -/
def grantWaits (l : List (Nat × HomeTok)) (unit a : Nat) : Bool :=
  match leafOver l (a / unit) with
  | some (_, e) => e.granting
  | none => false

/-- The region that an instruction names at its home, when the issuer's core can tell it: the bytes of the flush. -/
def State.tokRegion (s : State) (t : Access) (held : Option HeldTok) : Option (Nat × Nat) :=
  match held with
  | some h => some (t.lo, t.lo + h.size * 256)
  | none =>
    match leafBase (s.toks t.home) (tokUnit t.home) t.addr with
    | some (_, e) => some (t.lo, t.lo + (e.limit - e.base) * tokUnit t.home)
    | none => none

def Core.dropHeld (k : Core) (i : Nat) : Core := { k with tables := { k.tables with held := adel i k.tables.held } }

/-- Sends a token request to another home. -/
def tokAsk (x : Ctx) (s : State) (a : Word) (t : Access) (wr : Bool) (sink : Sink) (op : ROp) : Res :=
  .ok ((s.translated x.c t).sendReq (.core x.c) (mkReq x a t ⟨wr, sink, 3, (.rlx, .part), 0⟩ op) (s.ahead (.core x.c) t.lat)) 0

/-- A token instruction's address is resolved: a host port serves no tokens (R236). -/
def State.tokAddr (s : State) (c : Nat) (k : Core) (a : Nat) (write : Bool) : Resolved :=
  if windowOf a = .host then .fault .raddr
  else
    match s.remAddr c k a 1 write with
    | .ok t =>
      match t.home with
      | .port p => if (s.port p).isHost then .fault .raddr else .ok t
      | _ => .ok t
    | r => r

/-- A token instruction at the own home (R236): its checks are made at issue, and the home logic performs it 2 cc later, before the
slot's next issue (R383). What fails only then, a grant that is refused, comes as a fault by reply does. -/
def tokLocal (x : Ctx) (s : State) (a : Word) (t : Access) (op : TokOp) (b : Word) (epoch : Option Byte) (kind : BitVec 2) : Res :=
  match (s.tokRun (.core x.c) (ident x.c x.sl) op t.addr t.lo b epoch kind false 0 0).2 with
  | .done (some c) _ => .fault c a
  | _ =>
    let q := mkReq x a { t with own := true } ⟨true, .quiet, 3, (.rlx, .part), 0⟩ (.tok op t.addr t.lo b epoch kind)
    .ok ((s.occupy x 2).sendReq (.core x.c) q 0) 0

/-- An own home hands its token over to a slot of another core: such an instruction keeps a request entry (R236). -/
def tokGives (op : TokOp) (b : Word) (c : Nat) : Bool := (op = .lend || op = .share) && decide (bits b 0 18 ≠ c)

/-- A token instruction, from its address on (R236 to R248): the address, the operands, the entry held, the implied flush. A return of
a LOST entry only removes it, after the flush (R237, R241). -/
def tokInstr (x : Ctx) (s : State) (op : TokOp) (a b : Word) : Res :=
  withCore x s fun k =>
    let share : Bool := op = .unsh
    let held : Option (Nat × HeldTok) :=
      if op = .lend || op = .ret || op = .unsh then k.tables.heldBase x.sl (ownPeer x.c a.toNat) share else none
    match if op = .lend then none else held.filter fun h => h.2.lost with
    | some h =>
      if k.flushHold x.c x.sl (h.2.base * 256) ((h.2.base + h.2.size) * 256) then .hold
      else .ok (s.modCore x.c fun k => k.dropHeld h.1) 0
    | none =>
      match (s.tokAddr x.c k a.toNat true).orLost k x.sl a.toNat with
      | .fault e => .fault e a
      | .hold => .hold
      | .ok t =>
        let own := decide (t.home = .core x.c)
        let edge : Bool := match t.home with
          | .port _ => true
          | _ => false
        if k.acqHold x.c x.sl t.home || (!own && k.serialsFull (slotRid x.c x.sl)) then .hold
        else if ((!own || tokGives op b x.c) && !k.reqFree) || (own && grantWaits k.tables.home 256 t.addr) then .hold
        else
          let needsHeld : Bool := op = .ret || op = .unsh || (op = .lend && !own && !edge)
          match tokArgs (s.tokEnv t.home (ident x.c x.sl)) op t.addr b (splitPoint t.home x.c t.addr t.lo b) with
          | some c => .fault c a
          | none =>
            if (held.map fun h => h.2.lost) = some true then .fault .tlost a
            else if needsHeld && held.isNone then .fault .tnotheld a
            else if (op = .lend || op = .ret || op = .share || op = .unsh) && (match s.tokRegion t (held.map fun h => h.2) with
                | some r => k.flushHold x.c x.sl r.1 r.2
                | none => false) then .hold
            else
              let epoch := held.map fun h => h.2.epoch
              let kind : BitVec 2 := match held with
                | some h => h.2.kind
                | none => 0
              let s := match held with
                | some h => s.modCore x.c fun k => k.dropHeld h.1
                | none => s
              if own then tokLocal x s a t op b epoch kind
              else
                match op, t.home with
                | .decl, .port p =>
                  match afree 32 k.tables.held with
                  | none => .fault .thfull a
                  | some i =>
                    let size := bits b 0 48 / 256
                    let s := s.modCore x.c fun k => { k with tables := { k.tables with
                      held := aset i ⟨t.lo / 256, size, 1, x.sl, 0, false, some p, true⟩ k.tables.held } }
                    tokAsk x s a t true (.heldEntry i (t.lo / 256) size) (.tok .decl t.addr t.lo b none 0)
                | _, _ => tokAsk x s a t true .quiet (.tok op t.addr t.lo b epoch kind)

/-- A token instruction with the operands a and b. -/
def tokOp (h : Head) (op : TokOp) (a b : SReg) : State → Host.Outcome State Fault Refusal :=
  issue h 1 (usesAB a b) fun x s => tokInstr x s op (x.rs a) (x.rs b)

/-- A token instruction without b. -/
def tokOp1 (h : Head) (op : TokOp) (a : SReg) : State → Host.Outcome State Fault Refusal :=
  issue h 1 (usesA a) fun x s => tokInstr x s op (x.rs a) 0

/-- TDECL. -/
def execTdecl (h : Head) (a b : SReg) : State → Host.Outcome State Fault Refusal := tokOp h .decl a b
/-- TLEND. -/
def execTlend (h : Head) (a b : SReg) : State → Host.Outcome State Fault Refusal := tokOp h .lend a b
/-- TRET. -/
def execTret (h : Head) (a : SReg) : State → Host.Outcome State Fault Refusal := tokOp1 h .ret a
/-- TSPLIT. -/
def execTsplit (h : Head) (a b : SReg) : State → Host.Outcome State Fault Refusal := tokOp h .split a b
/-- TJOIN. -/
def execTjoin (h : Head) (a : SReg) : State → Host.Outcome State Fault Refusal := tokOp1 h .join a
/-- TSHARE. -/
def execTshare (h : Head) (a b : SReg) : State → Host.Outcome State Fault Refusal := tokOp h .share a b
/-- TUNSH. -/
def execTunsh (h : Head) (a : SReg) : State → Host.Outcome State Fault Refusal := tokOp1 h .unsh a
/-- TRECL. -/
def execTrecl (h : Head) (a : SReg) : State → Host.Outcome State Fault Refusal := tokOp1 h .recl a
/-- TCLEAN. -/
def execTclean (h : Head) (a b : SReg) : State → Host.Outcome State Fault Refusal := tokOp h .clean a b

/-- TQRY (R244): the home report of an own byte or of a home that is asked, else the held report of the issuing slot. -/
def execTqry (h : Head) (d a b : SReg) : State → Host.Outcome State Fault Refusal :=
  issue h 1 (usesRRR d a b) fun x s =>
    withCore x s fun k =>
      let addr := x.rs a
      let va := ownPeer x.c addr.toNat
      let ask := (x.rs b).getLsbD 0
      let ownByte := decide (peerBase x.c ≤ va) && decide (va < peerBase x.c + 0x30000)
      let report (w : Word) : Res := .ok (s.putLater x (sid x.sl d) (.word w) 2 0) 0
      let bad := decide ((x.rs b).toNat / 2 ≠ 0)
      match windowOf addr.toNat with
      | .host | .bad => .fault .raddr addr
      | .cxl =>
        if !ask then (if bad then .fault .targs addr else report (k.tables.heldReport x.sl va))
        else
          match s.tokAddr x.c k addr.toNat false with
          | .fault e => .fault e addr
          | .hold => .hold
          | .ok t =>
            if bad then .fault .targs addr
            else if k.acqHold x.c x.sl t.home || !k.reqFree then .hold
            else tokAsk x s addr t false (.data (sid x.sl d) false) (.tqry t.addr)
      | .own o =>
        if bad then .fault .targs addr
        else if k.acqHold x.c x.sl (.core x.c) || grantWaits k.tables.home 256 o then .hold
        else report (tokReport (s.tokEnv (.core x.c) (ident x.c x.sl)) o k.tables.home)
      | .peer i byte =>
        match s.peerCheck k i byte 1 with
        | some e => .fault e addr
        | none =>
          if bad then .fault .targs addr
          else if k.acqHold x.c x.sl (.core i) then .hold
          else if ownByte then
            if grantWaits k.tables.home 256 byte then .hold
            else report (tokReport (s.tokEnv (.core x.c) (ident x.c x.sl)) byte k.tables.home)
          else if !ask then report (k.tables.heldReport x.sl va)
          else if !k.reqFree then .hold
          else tokAsk x s addr ⟨.core i, byte, false, va, none, none, 0⟩ false (.data (sid x.sl d) false) (.tqry byte)

end Sys2Proof.Machine
end

