-- ==== Sys2Proof/Machine/Latch.lean ====
section
/-! DEFINITION. Latches (R349 to R360): Settle, the operations at the home, memberships, and the latch instructions. -/

namespace Sys2Proof.Machine

/-! ## The latch (R349, R350) -/

/-- The fields of a latch. -/
structure LatchVal where
  gid : Byte
  pend : Nat
  arr : Nat
  exp : Nat
  g : Bool
  b : Bool
  overrun : Bool
  broken : Bool
  phase : BitVec 4
  deriving DecidableEq, Repr

def LatchVal.ofBits (v : BitVec 128) : LatchVal where
  gid := v.extractLsb' 88 8
  pend := bits v 40 48
  arr := bits v 24 16
  exp := bits v 8 16
  g := v.getLsbD 7
  b := v.getLsbD 6
  overrun := v.getLsbD 5
  broken := v.getLsbD 4
  phase := v.extractLsb' 0 4

/-- Bits [127:96] are written as 0. -/
def LatchVal.toBits (l : LatchVal) : BitVec 128 :=
  let b (x : Bool) (n : Nat) : Nat := if x then 2 ^ n else 0
  BitVec.ofNat 128 (l.gid.toNat * 2 ^ 88 + l.pend % 2 ^ 48 * 2 ^ 40 + l.arr % 2 ^ 16 * 2 ^ 24 + l.exp % 2 ^ 16 * 2 ^ 8
    + b l.g 7 + b l.b 6 + b l.overrun 5 + b l.broken 4 + l.phase.toNat)

/-- Settle. -/
def LatchVal.settle (l : LatchVal) (before : Nat) : LatchVal :=
  if l.exp = 0 then (if 0 < before then { l with phase := l.phase + 1, arr := 0 } else l)
  else if l.exp ≤ l.arr && (!l.b || decide (l.pend = 0)) then { l with phase := l.phase + 1, arr := 0 }
  else l

/-- The rule of R353 for an operation that no broken or group check refuses; none: refused. -/
def LatchVal.apply (l : LatchVal) (op : LatchOp) (b : Word) : Option LatchVal :=
  let n := bits b 0 16
  match op with
  | .init => some ⟨b.extractLsb' 18 8, 0, 0, n, b.getLsbD 17, b.getLsbD 16, false, false, b.extractLsb' 26 4⟩
  | .arv =>
    if (b.getLsbD 20 && decide (l.phase ≠ b.extractLsb' 16 4)) || decide (l.exp < l.arr + n) then none
    else some (({ l with arr := l.arr + n } : LatchVal).settle l.exp)
  | .reg => if 65535 < l.exp + n then none else some { l with exp := l.exp + n }
  | .drop | .endDrop =>
    if l.exp < n then none else some (({ l with exp := l.exp - n } : LatchVal).settle l.exp)
  | .bytes =>
    let p : Int := (l.pend : Int) + b.toInt
    if p < 0 || 2 ^ 48 ≤ p then none else some (({ l with pend := p.toNat } : LatchVal).settle l.exp)
  | .brk => some { l with broken := true }

/-- A core lies in a group of a home (R279). -/
def Core.groupCovers (k : Core) (g : Byte) (c : Nat) : Bool :=
  k.regs.groups.any fun e => decide (e.gid = g) && e.rects.any fun r => r.holds c

/-- The operation as one read-modify-write of the latch: the new value, when it is written, and the cause of a refusal. -/
def latchStep (k : Core) (from_ : Nat) (op : LatchOp) (b : Word) (l : LatchVal) : Option LatchVal × Option Cause :=
  match op with
  | .init =>
    if b.getLsbD 17 && !k.scopeOk (.grp (b.extractLsb' 18 8)) then (none, some .scope) else (l.apply op b, none)
  | .brk => (l.apply op b, none)
  | _ =>
    if l.broken then (none, some .lbroken)
    else if l.g && !k.groupCovers l.gid from_ then (none, some .lgroup)
    else
      match l.apply op b with
      | some r => (some r, none)
      | none => (some { l with overrun := true }, some .loverrun)

/-- A latch request at its home: 6 cc of service (R352). Drops at END and BREAK bypass the token check (R351). Only LARV and LBYTES
return a value (R295, R353). -/
def State.latchServe (s : State) (c : Nat) (via : Via) (subject : BitVec 21) (rid : BitVec 22) (ser : BitVec 32) (op : LatchOp)
    (a : Nat) (b : Word) : State × Served :=
  let bypass : Bool := match op with
    | .endDrop | .brk => true
    | _ => false
  match s.core? c with
  | none => (s, .fail .raddr 6)
  | some k =>
    match if bypass then none else k.viaDenied via subject (decide (op = .init)) a 16 with
    | some e => (s, .fail e 6)
    | none =>
      let s := s.modCore c fun k => k.injectRead a 16
      match s.core? c with
      | none => (s, .fail .raddr 6)
      | some k =>
        match k.badIn a 16 with
        | some w => (s.homeError c w rid ser, .fail .ueremote 6)
        | none =>
          let old := BitVec.ofNat 128 (k.mem.readLE a 16)
          let r := latchStep k (ridCore rid) op b (.ofBits old)
          let s := match r.1 with
            | some l =>
              let bs := bytesLE 16 l.toBits.toNat
              if via = .fabric then s.writeLocal c a bs else s.writeOwn c a bs
            | none => s
          match r.2 with
          | some e => (s, .fail e 6)
          | none =>
            let value : Bool := match op with
              | .arv | .bytes => true
              | _ => false
            (s, .done (if value then old.setWidth 64 else 0) 6)

/-! ## Memberships (R357) -/

def Tables.member (t : Tables) (sl : Fin 8) (addr : Nat) : Option (Nat × Member) :=
  t.members.find? fun e => decide (e.2.slot = sl) && decide (e.2.addr = addr)

/-- LREG's record, when its operation completes. -/
def Tables.addMember (t : Tables) (sl : Fin 8) (addr count : Nat) : Tables :=
  match t.member sl addr with
  | some (i, m) => { t with members := aset i { m with count := m.count + count } t.members }
  | none =>
    match afree 32 t.members with
    | some i => { t with members := aset i ⟨addr, sl, count⟩ t.members }
    | none => t

/-- LDROP's with UNREG. -/
def Tables.dropMember (t : Tables) (sl : Fin 8) (addr count : Nat) : Tables :=
  match t.member sl addr with
  | some (i, m) =>
    { t with members := if m.count ≤ count then adel i t.members else aset i { m with count := m.count - count } t.members }
  | none => t

/-- No entry is free for a new membership: those that outstanding LREGs will take count as taken. -/
def Core.membersFull (k : Core) (sl : Fin 8) (addr : Nat) : Bool :=
  let coming := k.reqs.filter fun r => match r.sink with
    | .membership a _ => !(decide (r.slot = sl) && decide (a = addr)) && (k.tables.member r.slot a).isNone
    | _ => false
  (k.tables.member sl addr).isNone && decide (32 ≤ k.tables.members.length + coming.length)

/-! ## The instructions (R352, R353) -/

/-- The address of a latch: alignment and address checks; the own peer range is served without a message as well. -/
def State.latchAddr (s : State) (c : Nat) (k : Core) (a : Nat) : Resolved :=
  match windowOf a with
  | .own o => if o % 16 ≠ 0 then .fault .lalign else if 0x30000 < o + 16 then .fault .lrange else
      .ok ⟨.core c, o, true, peerBase c + o, none, none, 0⟩
  | .peer i b => if b % 16 ≠ 0 then .fault .ralign else
      match s.peerCheck k i b 16 with
      | some e => .fault e
      | none => .ok ⟨.core i, b, false, a, none, none, 0⟩
  | _ => .fault .raddr

/-- The requester's token check of a latch instruction (R351): in the own peer range the rights of the home core suffice. -/
def State.latchRights (s : State) (x : Ctx) (k : Core) (t : Access) (a : Nat) (write : Bool) : Option Cause :=
  if decide (t.home = .core x.c) && k.allowed write t.addr 16 then none else s.remRights k x.sl t a 16 write

/-- The holds of a latch instruction: those of a remote access; without a request only overlap, release and acquire. -/
def Core.latchHold (k : Core) (x : Ctx) (t : Access) (q : Ask) (sends : Bool) : Bool :=
  if sends then k.remHold x { t with own := decide (t.home = .core x.c) } q
  else
    k.overlapHold x.sl t.lo q.bytes q.wr || (ordReleases q.ord.1 && k.relHold x.c x.sl q.ord.2) || k.acqHold x.c x.sl t.home

/-- A latch instruction: scope, address, LARGS, the requester's token check, the holds, its own last check in the cycle in which it
issues, and the effect. `wait`: LARGS cannot be told yet; `rights`: none when no operation is sent, else whether write rights are
needed. -/
def latchInstr (x : Ctx) (s : State) (a : Word) (ord : Order × Scope) (wait largs : Core → Access → Bool) (rights : Option Bool)
    (last : Core → Access → Option (Cause × Word)) (q : Ask) (send : State → Access → Res) : Res :=
  withScope x s ord.2 fun k =>
    match s.latchAddr x.c k a.toNat with
    | .fault e => .fault e a
    | .hold => .hold
    | .ok t =>
      if wait k t then .hold
      else if largs k t then .fault .largs a
      else
        match match rights with
          | some wr => s.latchRights x k t a.toNat wr
          | none => none with
        | some e => .fault e a
        | none =>
          if k.latchHold x t q rights.isSome then .hold
          else
            match last k t with
            | some e => .fault e.1 e.2
            | none => send s t

/-- The request of a latch instruction: the own peer range needs no message (R352). -/
def latchSend (x : Ctx) (a : Word) (q : Ask) (op : Nat → ROp) (s : State) (t : Access) : Res :=
  let q1 := mkReq x a t q (op t.addr)
  .ok (s.sendReq (.core x.c) (if t.home = .core x.c then { q1 with localWait := true } else q1) 0) 0

/-- The home of an address is the issuing core. -/
def ownHome (c a : Nat) : Bool :=
  match windowOf a with
  | .own _ => true
  | .peer i _ => decide (i = c)
  | _ => false

/-- LINIT: a group that its own home does not know is a scope fault, before every other check (R353, R369). -/
def execLinit (h : Head) (o : OrdX) (a b : SReg) : State → Host.Outcome State Fault Refusal :=
  issue h (if o.present then 2 else 1) (usesAB a b) fun x s =>
    let bv := x.rs b
    let q : Ask := ⟨true, .quiet, 3, ordOf o, 16⟩
    withScope x s (ordOf o).2 fun k =>
      if ownHome x.c (x.rs a).toNat && bv.getLsbD 17 && !k.scopeOk (.grp (bv.extractLsb' 18 8)) then
        .fault .scope (BitVec.ofNat 64 x.pc)
      else
        latchInstr x s (x.rs a) (ordOf o) (fun _ _ => false) (fun _ _ => decide (bv.toNat / 2 ^ 30 ≠ 0)) (some true)
          (fun _ _ => none) q (latchSend x (x.rs a) q fun p => .latch .init p bv)

/-- LARV. -/
def execLarv (h : Head) (o : OrdX) (d a b : SReg) : State → Host.Outcome State Fault Refusal :=
  issue h (if o.present then 2 else 1) (usesRRR d a b) fun x s =>
    let bv := x.rs b
    let q : Ask := ⟨true, .data (sid x.sl d) false, 3, ordOf o, 16⟩
    latchInstr x s (x.rs a) (ordOf o) (fun _ _ => false) (fun _ _ => decide (bv.toNat / 2 ^ 21 ≠ 0) || decide (bits bv 0 16 = 0)) (some false)
      (fun _ _ => none) q (latchSend x (x.rs a) q fun p => .latch .arv p bv)

/-- LBYTES. -/
def execLbytes (h : Head) (o : OrdX) (d a b : SReg) : State → Host.Outcome State Fault Refusal :=
  issue h (if o.present then 2 else 1) (usesRRR d a b) fun x s =>
    let q : Ask := ⟨true, .data (sid x.sl d) false, 3, ordOf o, 16⟩
    latchInstr x s (x.rs a) (ordOf o) (fun _ _ => false) (fun _ _ => false) (some false) (fun _ _ => none) q
      (latchSend x (x.rs a) q fun p => .latch .bytes p (x.rs b))

/-- LTEST (R355). -/
def execLtest (h : Head) (o : OrdX) (d a : SReg) : State → Host.Outcome State Fault Refusal :=
  issue h (if o.present then 2 else 1) (usesRR d a) fun x s =>
    let q : Ask := ⟨false, .scalar (sid x.sl d) .i64, 3, ordOf o, 16⟩
    latchInstr x s (x.rs a) (ordOf o) (fun _ _ => false) (fun _ _ => false) (some false) (fun _ _ => none) q
      (latchSend x (x.rs a) q fun p => .load p 8 6)

/-- LREG (R357): without ADD nothing is sent and the membership is recorded at once. A sum above 65,535 is judged when no earlier
operation of the slot on the latch can still lower COUNT (R203). -/
def execLreg (h : Head) (o : OrdX) (a b : SReg) : State → Host.Outcome State Fault Refusal :=
  issue h (if o.present then 2 else 1) (usesAB a b) fun x s =>
    let bv := x.rs b
    let n := bits bv 0 16
    let add := bv.getLsbD 16
    let q (t : Access) : Ask := ⟨true, .membership t.lo n, 3, ordOf o, 16⟩
    let tooMany (k : Core) (t : Access) : Bool := (k.tables.member x.sl t.lo).any fun e => decide (65535 < e.2.count + n)
    latchInstr x s (x.rs a) (ordOf o)
      (fun k t => decide (bv.toNat / 2 ^ 17 = 0) && decide (n ≠ 0) && tooMany k t && k.overlapHold x.sl t.lo 16 true)
      (fun k t => decide (bv.toNat / 2 ^ 17 ≠ 0) || decide (n = 0) || tooMany k t)
      (if add then some false else none)
      (fun k t => if k.membersFull x.sl t.lo then some (.lmfull, x.rs a) else none)
      ⟨true, .quiet, 3, ordOf o, 16⟩ fun s t =>
        if add then latchSend x (x.rs a) (q t) (fun p => .latch .reg p bv) s t
        else .ok (s.modCore x.c fun k => { k with tables := k.tables.addMember x.sl t.lo n }) 0

/-- LDROP (R357). -/
def execLdrop (h : Head) (o : OrdX) (a b : SReg) : State → Host.Outcome State Fault Refusal :=
  issue h (if o.present then 2 else 1) (usesAB a b) fun x s =>
    let bv := x.rs b
    let n := bits bv 0 16
    let unreg := bv.getLsbD 16
    let q (t : Access) : Ask := ⟨true, if unreg then .unregister t.lo n else .quiet, 3, ordOf o, 16⟩
    latchInstr x s (x.rs a) (ordOf o) (fun _ _ => false) (fun _ _ => decide (bv.toNat / 2 ^ 17 ≠ 0) || decide (n = 0)) (some false)
      (fun k t => if unreg && (match k.tables.member x.sl t.lo with
          | some (_, m) => decide (m.count < n)
          | none => true) then some (.lnotreg, x.rs a) else none)
      ⟨true, .quiet, 3, ordOf o, 16⟩ fun s t => latchSend x (x.rs a) (q t) (fun p => .latch .drop p bv) s t

/-- LWAIT (R356): own window only. -/
def execLwait (h : Head) (o : OrdX) (d a b : SReg) : State → Host.Outcome State Fault Refusal :=
  issue h (if o.present then 2 else 1) (usesRRRd d a b) fun x s =>
    withScope x s (ordOf o).2 fun k =>
      let addr := x.rs a
      let bv := x.rs b
      if addr.toNat % 16 ≠ 0 then .fault .lalign addr
      else if 0x30000 ≤ addr.toNat then .fault .lrange addr
      else if bv.toNat / 16 ≠ 0 then .fault .largs addr
      else if !k.allowed false addr.toNat 16 then .fault .tnone addr
      else if k.localHold x.c x.sl addr.toNat 16 false then .hold
      else localRead x s addr.toNat 16 fun s bs =>
        let w : Word := BitVec.ofNat 64 (ofBytes (bs.take 8))
        if w.getLsbD 4 then .late s .lbroken addr
        else if w.extractLsb' 0 4 ≠ bv.extractLsb' 0 4 then .ok (s.setNow x d w) 0
        else .ok (s.startWait x (.latch d (waitLimit s (x.rs d)) addr.toNat (bv.extractLsb' 0 4))) 0

end Sys2Proof.Machine
end

