-- ==== Sys2Proof/Machine/Routes.lean ====
section
/-! DEFINITION. Routes (R280 to R285): combining in a router, transfers between routers, deliveries, renormalise notices and floors,
and SENDR (R320). -/

namespace Sys2Proof.Machine

/-! ## Combining (R281) -/

/-- FP32 lanes of a payload combined one by one. -/
def lanewise (f : Nat → Nat → Nat) (a b : List Byte) : List Byte :=
  (List.range 64).flatMap fun i => bytesLE 4 (f (ofBytes ((a.drop (4 * i)).take 4)) (ofBytes ((b.drop (4 * i)).take 4)))

/-- Combine of an OP, the accumulated partial first; DRAW takes one value of the core's generator. -/
def combine (op : Nat) (a p : List Byte) (floor : Option Int) (g : Rng) : List Byte × Rng :=
  match op with
  | 1 =>
    let d := Ba.ofSill p
    ((baAdd (Ba.ofSill a) d (fun _ => d.x) floor).1.toSill, g)
  | 2 => (lanewise (fun x y => (fpAdd fp32 x y .rne false ⟨Rng.reset, 0⟩).1) a p, g)
  | 3 => (lanewise (fpMinMax fp32 true) a p, g)
  | 4 =>
    let r := drawMerge (.ofBits (BitVec.ofNat 128 (ofBytes a))) (.ofBits (BitVec.ofNat 128 (ofBytes p))) ⟨g, 0⟩
    (bytesLE 16 r.1.toBits.toNat, r.2.rng)
  | _ => (p, g)

/-- cc of a combine, and from a close to its delivery (R281, R282). -/
def combineTime (op : Nat) : Nat :=
  match op with
  | 1 => 9
  | 2 => 8
  | 3 => 2
  | 4 => 8
  | _ => 0

/-! ## Arrival and sending (R281, R283) -/

/-- The port at the neighbour of a port: N and S, E and W. -/
def oppositePort (p : Nat) : Nat := (p + 2) % 4

/-- The request of a router that carries a partial to the neighbour on a port. -/
def transferReq (s : State) (c : Nat) (rt : Fin 64) (ofs : Nat) (p : List Byte) (port : Nat) : Req where
  id := s.nextId
  rid := engineRid c 1
  slot := 0
  ser := 0
  op := .partialTo rt ofs p (oppositePort port)
  home := .core (neighbour c port)
  wr := true
  subject := 0
  sink := .transfer
  att := 0
  fts := 0
  due := 0
  issued := s.cyc c
  faddr := 0
  lo := 0
  hi := 0
  acq := none
  walk := none
  localWait := false
  waits := false
  inc := 0
  cls := 4

/-- Send (R281) of a partial that is complete `extra` of module time from now. -/
def State.sendPartial (s : State) (c : Nat) (rt : Fin 64) (e : Word) (p : List Byte) (ofs extra : Nat) (sender : Option Sender) :
    State :=
  let s := (List.range 4).foldl (fun s port =>
    if routeOut e port then s.sendReq (.core c) (transferReq s c rt ofs p port) extra else s) s
  if routeOut e 4 then
    (s.modCore c fun k => { k with deliveries := k.deliveries ++
      [⟨s.nextId, s.now + extra + s.ahead (.core c) (combineTime (routeOp e)), rt, ofs, p, sender⟩] }).newId
  else s

/-- The floor that a router applies to a combine (R52, R284). -/
def Core.floorFor (k : Core) (rt : Fin 64) (ofs : Nat) : Option Int :=
  match k.floors.find? fun f => decide (f.rt = rt) with
  | some f => if f.ofs = ofs then some f.x.toInt else none
  | none => none

def sameRound (rt : Fin 64) (ofs : Nat) (r : Round) : Bool := decide (r.rt = rt) && decide (r.ofs = ofs)

/-- A partial finds a round, or needs none (R281). -/
def Core.roundFree (k : Core) (rt : Fin 64) (ofs port : Nat) : Bool :=
  let e := k.tables.routes[rt]
  !routeV e || !routeIn e port || decide (routeOp e = 0) || decide (routeCnt e ≤ 1)
    || k.rounds.any (sameRound rt ofs) || decide ((k.rounds.filter fun r => decide (r.rt = rt)).length < 4)

/-- A core report of the router (R375). -/
def State.routerReport (s : State) (c : Nat) (cause : Cause) : State :=
  s.coreReport c cause ⟨0, 0, none, false, 0, 0, engineRid c 1⟩

/-- Arrive (R281) of a partial on a port. -/
def State.arrivePartial (s : State) (c : Nat) (rt : Fin 64) (ofs : Nat) (p : List Byte) (port : Nat) (sender : Option Sender) :
    State :=
  match s.core? c with
  | none => s
  | some k =>
    let e := k.tables.routes[rt]
    let op := routeOp e
    if !routeV e || !routeIn e port then s.routerReport c .route
    else if op = 0 || routeCnt e ≤ 1 then s.sendPartial c rt e p ofs 0 sender
    else
      let old := k.rounds.find? (sameRound rt ofs)
      let r : Round × Rng := match old with
        | some r => match r.acc with
          | some a =>
            let x := combine op a p (if op = 1 then k.floorFor rt ofs else none) k.regs.rng
            ({ r with acc := some x.1, k := r.k + 1, free := max s.now r.free + s.ahead (.core c) (combineTime op) }, x.2)
          | none => ({ r with acc := some p, k := r.k + 1 }, k.regs.rng)
        | none => (⟨rt, ofs, some p, 1, s.now⟩, k.regs.rng)
      let others := k.rounds.filter fun x => !sameRound rt ofs x
      let done := decide (routeCnt e ≤ r.1.k)
      let s := s.modCore c fun k => { k with
        regs := { k.regs with rng := r.2 }
        rounds := if done then others else if old.isSome then k.rounds.map fun x => if sameRound rt ofs x then r.1 else x
          else k.rounds ++ [r.1] }
      if done then s.sendPartial c rt e (r.1.acc.getD p) ofs (r.1.free - s.now) sender else s

/-- A partial's message is taken: when it finds a round, and at once when it is refused by a frozen core (R273) or is a duplicate of one
already performed. -/
def State.partialReady (s : State) (pk : Packet) : Bool :=
  match pk.dst, pk.body with
  | .core c, .request rid ser _ _ _ _ _ _ reqId (.partialTo rt ofs _ port) =>
    match s.core? c with
    | none => false
    | some k =>
      (k.frozen && !s.isLocal pk.src reqId) || k.roundFree rt ofs port
        || (!s.isLocal pk.src reqId && k.tables.once.cache.any fun e => decide (e.2.rid = rid ∧ e.2.ser = ser))
  | _, _ => false

/-- PARTIAL_ARRIVAL (R281, R283, R402): acceptance frees the entry of a SENDR, or is acknowledged as a request. -/
def execPartialArrival (id : Nat) (s : State) : Host.Outcome State Fault Refusal :=
  match s.net.find? fun p => decide (p.id = id) && decide (p.arrive ≤ s.now) && s.partialReady p with
  | none => .fault .noSuchItem
  | some pk =>
    match pk.dst, pk.body with
    | .core c, .request rid ser _ _ _ _ _ _ reqId (.partialTo rt ofs p port) =>
      if s.isLocal pk.src reqId then
        .next ((((s.dropPacket pk.id).arrivePartial c rt ofs p port none).dropReq pk.src reqId).settleWaits c)
      else .next (s.serve pk fun s => (s.arrivePartial c rt ofs p port (some ⟨pk.src, rid, ser, reqId⟩), some (.done 0 1)))
    | _, _ => .fault .noSuchItem

/-! ## Delivery (R282, R384) -/

/-- A delivery may write PRIVATE and HOME bytes only. -/
def Core.deliveryOk (k : Core) (a n : Nat) : Bool :=
  (granules a n).all fun g => match k.tables.leafAt g with
    | some (_, e) => decide (e.st = .home)
    | none => true

/-- A delivery that meets an uncorrectable word: a report with the sending router's identity, and a failure reply to a neighbour
(R376). -/
def State.deliveryError (s : State) (c : Nat) (d : Delivery) (w : Nat) : State :=
  match d.sender with
  | none => s.coreReport c .uels ⟨BitVec.ofNat 64 w, 0, none, false, 0, 0, engineRid c 1⟩
  | some f =>
    (s.coreReport c .uels ⟨BitVec.ofNat 64 w, 0, none, false, 0, f.ser, f.rid⟩).post (.core c) f.node 1 1 0 2
      (.reply f.rid f.ser f.reqId (s.homeInc (.core c)) (BitVec.ofNat 8 Cause.ueremote.code) 0 [])

/-- Deliver: a message to the door, or one event at DEST. -/
def State.deliver (s : State) (c : Nat) (k : Core) (d : Delivery) : State :=
  let e := k.tables.routes[d.rt]
  let op := routeOp e
  let a := routeDest e + d.ofs * 16
  let n := d.payload.length
  if routeDk e then
    if op = 0 && 32 < n then s.routerReport c .route
    else
      let m := mkMsg (BitVec.ofNat 256 (ofBytes d.payload)) (engineRid c 1) 1 n (routeDoor e) 0
      s.modCore c fun k => { k with doorIn := k.doorIn ++ [m] }
  else if 0x30000 < a + n then s.routerReport c .route
  else if !k.deliveryOk a n then s.routerReport c .tnone
  else
    let s := s.modCore c fun k => if op = 0 then k.injectPartial a n else k.injectRead a n
    match s.core? c with
    | none => s
    | some k =>
      match if op = 0 then k.badPartial a n else k.badIn a n with
      | some w => s.deliveryError c d w
      | none =>
        if op = 0 then s.writeLocal c a d.payload
        else if op = 1 then
          ((s.modCore c fun k => { k with atomNext := s.now + s.ahead (.core c) 9 }).sillCommit c a d.payload fun s a bs => s.writeLocal c a bs).1
        else
          let r := combine op (k.mem.readN a n) d.payload none k.regs.rng
          (s.modCore c fun k => { k with regs := { k.regs with rng := r.2 } }).writeLocal c a r.1

/-- A delivery that is performed now: a sill commit takes its turn at the atomic unit (R208). -/
def Core.deliveryDue (k : Core) (now : Nat) (d : Delivery) : Bool :=
  decide (d.due ≤ now) && (decide (routeOp k.tables.routes[d.rt] ≠ 1) || decide (k.atomNext ≤ now))

/-- ROUTE_DELIVERY. -/
def execRouteDelivery (c id : Nat) (s : State) : Host.Outcome State Fault Refusal :=
  match s.core? c with
  | none => .fault .noSuchItem
  | some k =>
    match k.deliveries.find? fun d => decide (d.id = id) && k.deliveryDue s.now d with
    | none => .fault .noSuchItem
    | some d =>
      .next ((s.modCore c fun k => { k with deliveries := k.deliveries.filter fun x => decide (x.id ≠ id) }).deliver c k d)

/-! ## Renormalise notices (R284) -/

/-- RENORMALISE_NOTICE_ARRIVAL: the floor is recorded, and the notice passed on when it changed it. -/
def execRenormaliseNoticeArrival (id : Nat) (s : State) : Host.Outcome State Fault Refusal :=
  match s.net.find? fun p => decide (p.id = id) && decide (p.arrive ≤ s.now) with
  | some pk =>
    match pk.dst, pk.body with
    | .core c, .renorm rt ofs x =>
      let s := s.dropPacket id
      match s.core? c with
      | none => .next s
      | some k =>
        let e := k.tables.routes[rt]
        let changed : Bool := match k.floors.find? fun f => decide (f.rt = rt) with
          | some f => decide (f.ofs ≠ ofs) || f.x.slt x
          | none => true
        if !routeV e || !changed then .next s
        else
          .next ((s.modCore c fun k => { k with
            floors := (k.floors.filter fun f => decide (f.rt ≠ rt)) ++ [⟨rt, ofs, x⟩] }).sendNotice c e rt ofs x)
    | _, _ => .fault .noSuchItem
  | none => .fault .noSuchItem

/-! ## SENDR (R320) -/

/-- The payload size of a route's OP; none for NONE. -/
def partialSize (op : Nat) : Option Nat :=
  match op with
  | 1 => some 272
  | 2 | 3 => some 256
  | 4 => some 16
  | _ => none

/-- SENDR. -/
def execSendr (h : Head) (o : OrdX) (a b : SReg) : State → Host.Outcome State Fault Refusal :=
  issue h (if o.present then 2 else 1) (usesAB a b) fun x s =>
    let ord := ordOf o
    withScope x s ord.2 fun k =>
      let av := x.rs a
      let bv := x.rs b
      let rt : Fin 64 := Fin.ofNat 64 (bits bv 0 6)
      let ofs := bits bv 8 12
      let len := bits bv 20 9
      let e := k.tables.routes[rt]
      let op := routeOp e
      let n := (partialSize op).getD len
      let badField := decide (bv &&& ~~~(0x1FFFFF3F : Word) ≠ 0)
        || (if op = 0 then len = 0 || 272 < len else len ≠ 0)
      let badOut := routeOut e 4
        && ((routeDk e && op = 0 && 32 < len) || decide (0x30000 < routeDest e + ofs * 16 + n))
      if !routeV e || !routeIn e 4 || 4 < op then .fault .route av
      else if av.toNat % 16 ≠ 0 then .fault .lalign av
      else if 0x30000 < av.toNat + max n 1 then .fault .lrange av
      else if badField || badOut then .fault .dargs av
      else if !k.allowed false av.toNat n then .fault .tnone av
      else if k.msgHold x (.core x.c) false ord || k.localHold x.c x.sl av.toNat n false then .hold
      else localRead x s av.toNat n fun s bs =>
        let q := msgReq x av (.core x.c) true .quiet 4 (.partialTo rt ofs bs 4)
        .ok (s.sendReq (.core x.c) { q with localWait := true } (s.ahead (.core x.c) (flits n - 1))) 0

end Sys2Proof.Machine
end

