-- ==== Sys2Proof/Machine/Copy.lean ====
section
/-! DEFINITION. The copy engine (R303, R304, R325 to R332): CPY, CPYX and CPYQ, the units of a copy, its completion write, its
deadline and its class. -/

namespace Sys2Proof.Machine

/-! ## Units (R303, R328) -/

/-- Units of the row at a destination address. -/
def rowUnits (dst len : Nat) : Nat := cdiv (dst % 256 + len) 256

/-- Row `r` of an address with a stride. -/
def rowAt (a r stride : Nat) : Nat := (a + r * stride) % 2 ^ 64

def Copy.total (x : Copy) : Nat :=
  (List.range x.rows).foldl (fun t r => t + rowUnits (rowAt x.dst r x.dstr) x.len) 0

/-- The row and place in it of unit `u`: rows still to try, row number. -/
def Copy.unitRow (x : Copy) : Nat → Nat → Nat → Nat × Nat
  | 0, r, u => (r, u)
  | fuel + 1, r, u =>
    let n := rowUnits (rowAt x.dst r x.dstr) x.len
    if u < n then (r, u) else x.unitRow fuel (r + 1) (u - n)

/-- Source address, destination address and bytes of unit `u`: an aligned 256-byte unit of the destination, or the part covered. -/
def Copy.unit (x : Copy) (u : Nat) : Nat × Nat × Nat :=
  let (r, j) := x.unitRow x.rows 0 u
  let d := rowAt x.dst r x.dstr
  let k := if j = 0 then 0 else 256 * j - d % 256
  ((rowAt x.src r x.sstr + k) % 2 ^ 64, (d + k) % 2 ^ 64, min (256 - (d + k) % 256) (x.len - k))

/-- The deadline as TIME in ns. -/
def Copy.deadline (x : Copy) : Option Nat := if x.dl = 0 then none else some (x.issuedNs + x.dl * 1000)

/-- The class of what a copy sends now, its completion write apart (R307). -/
def Copy.cls (x : Copy) : BitVec 3 := if x.offload then 6 else 5

def State.modCopy (s : State) (c id : Nat) (f : Copy → Copy) : State :=
  s.modCore c fun k => { k with copies := k.copies.map fun x => if x.id = id then f x else x }

/-- A write request of a copy that has not been transmitted yet. -/
def Req.unsent (r : Req) (id : Nat) : Bool :=
  decide (r.att = 0) && (match r.sink with
    | .copyUnit i | .copyDone i => decide (i = id)
    | _ => false)

/-- A copy leaves the queue, with what it has not transmitted. -/
def State.dropCopy (s : State) (c id : Nat) : State :=
  s.modCore c fun k => { k with
    copies := k.copies.filter fun x => decide (x.id ≠ id), reqs := k.reqs.filter fun r => !r.unsent id }

def Core.copy? (k : Core) (id : Nat) : Option Copy := k.copies.find? fun x => decide (x.id = id)

/-- A request of the copy engine for a copy. -/
def copyReq (c : Nat) (x : Copy) (t : Access) (faddr n : Nat) (wr : Bool) (sink : Sink) (op : ROp) : Req where
  id := 0
  rid := engineRid c 0
  slot := x.slot
  ser := 0
  op := op
  home := t.home
  wr := wr
  subject := if x.spill.isSome then spillSubject else ident c x.slot
  sink := sink
  att := 0
  fts := 0
  due := 0
  issued := x.issued
  faddr := BitVec.ofNat 64 faddr
  lo := faddr
  hi := faddr + n
  acq := none
  walk := t.walk
  localWait := false
  waits := false
  inc := 0
  cls := x.cls

/-- Where a halt's copies see a device address: above every fabric address. -/
def spillWindow : Nat := 2 ^ 62

/-- The access of a copy to an address outside its own store: translated and checked, but for the spill area of a halt. -/
def State.copyAccess (s : State) (c : Nat) (k : Core) (x : Copy) (a n : Nat) (write : Bool) : Resolved :=
  match x.spill with
  | some p => .ok ⟨.port p, a - spillWindow, false, a, none, none, 0⟩
  | none => (s.remAddr c k a n write).orLost k x.slot a

/-- A copy ends early (R304). -/
def State.copyFail (s : State) (c : Nat) (x : Copy) (cause : Cause) (faddr : Nat) : State :=
  (s.dropCopy c x.id).failReq c (copyReq c x ⟨.mgr, 0, false, 0, none, none, 0⟩ faddr 0 false .quiet (.load 0 0 0)) cause false

/-- Sends a request of the copy engine. -/
def State.copySend (s : State) (c : Nat) (t : Access) (q : Req) : State :=
  (s.translated c t).sendReq (.core c) q (s.ahead (.core c) t.lat)

/-- A CORE report of the copy engine for an uncorrectable word of its own store (R376). -/
def State.engineReport (s : State) (c w : Nat) : State :=
  s.coreReport c .uels ⟨BitVec.ofNat 64 w, 0, none, false, 0, 0, engineRid c 0⟩

/-- The words of a range are uncorrectable. -/
def Core.spoil (k : Core) (a n : Nat) : Core := { k with badWords := (wordsOf a n).filter (fun w => !k.badWords.contains w) ++ k.badWords }

/-- A unit with its bytes: written in the own store, or sent; none while it waits for room. A unit of a halt's copy whose bytes could not be
read, none, is not sent, and its words are bad where they were to be written (R376, log 48). -/
def State.putUnit (s : State) (c : Nat) (k : Core) (x : Copy) (u : Nat) (bs : List Byte) : Option State :=
  let (_, d, n) := x.unit u
  let went (s : State) : State := s.modCopy c x.id fun y => { y with sent := y.sent + 1, ready := y.ready.filter fun e => decide (e.1 ≠ u) }
  if bs.isEmpty then
    some (((went s).modCore c fun k => if d < 0x30000 then k.spoil d n else k).modCopy c x.id fun y => { y with ended := y.ended + 1 })
  else if d < 0x30000 then
    let s := s.modCore c fun k => k.injectPartial d n
    match (s.core? c).bind fun k => k.badPartial d n with
    | some w => some ((s.engineReport c w).copyFail c x .ueremote d)
    | none => some (((went s).writeOwn c d bs).modCopy c x.id fun y => { y with ended := y.ended + 1 })
  else
    match s.copyAccess c k x d n true with
    | .fault e => some (s.copyFail c x e d)
    | .hold => none
    | .ok t =>
      if k.unitFull t.home || k.serialsFull (engineRid c 0) then none
      else some ((went s).copySend c t (copyReq c x t d n true (.copyUnit x.id) (.store t.addr bs 6)))

/-- The units of a copy whose bytes have come are written or sent in rising order (R328), until one must wait: for bytes, for room, or
for the walk of the one before. -/
def State.copyAdvance (c id : Nat) : Nat → State → State
  | 0, s => s
  | fuel + 1, s =>
    match s.core? c with
    | none => s
    | some k =>
      match k.copy? id with
      | none => s
      | some x =>
        if k.reqs.any fun r => r.unsent id then s
        else
          match x.ready.find? fun e => decide (e.1 = x.sent) with
          | none => s
          | some e =>
            match s.putUnit c k x e.1 e.2 with
            | none => s
            | some t => State.copyAdvance c id fuel t

/-- A unit's bytes have come. -/
def State.writeUnit (s : State) (c : Nat) (x : Copy) (u : Nat) (bs : List Byte) : State :=
  (s.modCopy c x.id fun y => { y with ready := y.ready ++ [(u, bs)] }).copyAdvance c x.id (x.ready.length + 1)

/-- The copies of a core go on where they can. -/
def State.copyFlush (s : State) (c : Nat) : State :=
  match s.core? c with
  | none => s
  | some k => k.copies.foldl (fun s x => s.copyAdvance c x.id x.ready.length) s

/-! ## Events of the engine -/

/-- The waiting copy that takes a free active position: the first in issue order. -/
def Core.copyWaiting (k : Core) : Option Copy :=
  if (k.copies.filter fun x => x.active).length < 48 then k.copies.find? fun x => !x.active else none

/-- COPY_ACTIVATION. -/
def execCopyActivation (c : Nat) (s : State) : Host.Outcome State Fault Refusal :=
  match (s.core? c).bind fun k => k.copyWaiting with
  | none => .fault .noSuchItem
  | some x => .next (s.modCopy c x.id fun y => { y with active := true })

/-- A copy with a unit to begin: the slot's stores before it have been performed (R27). -/
def Core.copyLive (k : Core) (cyc : Nat) (x : Copy) : Bool :=
  x.active && !x.abandoned && decide (x.issued < cyc) && decide (x.begun < x.total)
    && !k.stores.any fun b => decide (b.slot = x.slot) && decide (b.issued ≤ x.issued)

/-- The copy whose unit is sent next: data class first, then round-robin in order of activation, which is the order of issue. -/
def Core.copyNextUnit (k : Core) (cyc : Nat) : Option Copy :=
  let live := k.copies.filter fun x => k.copyLive cyc x
  let pick (l : List Copy) : Option Copy :=
    match l.find? fun x => decide (k.copyTurn < x.id) with
    | some x => some x
    | none => l.head?
  match pick (live.filter fun x => !x.offload) with
  | some x => some x
  | none => pick live

/-- COPY_UNIT_SEND: the source is read, in the own store each 16-byte unit as it was at issue or after any write since (R328, log 5),
and the unit follows. -/
def execCopyUnitSend (c : Nat) (s : State) : Host.Outcome State Fault Refusal :=
  match s.core? c with
  | none => .fault .noSuchItem
  | some k =>
    match if k.copyNext ≤ s.now then k.copyNextUnit (s.cyc c) else none with
    | none => .fault .noSuchItem
    | some x =>
      let u := x.begun
      let (a, _, n) := x.unit u
      let began (s : State) : State :=
        (s.modCore c fun k => ({ k with copyNext := s.now + s.ahead (.core c) 8, copyTurn := x.id, lastWork := s.now } : Core).count 10 1).modCopy c x.id
          fun y => { y with begun := y.begun + 1 }
      if a < 0x30000 then
        let s := began (s.modCore c fun k => k.injectRead a n)
        match s.core? c with
        | none => .next s
        | some k =>
          match k.badIn a n with
          | some w =>
            if x.spill.isSome then .next ((s.engineReport c w).writeUnit c x u [])
            else .next ((s.engineReport c w).copyFail c x .ueremote a)
          | none =>
            .next ({ s with fresh := if x.snap.length ≤ 1 then s.fresh else s.fresh + 1 }.writeUnit c x u (unitRead s.fresh x.snap a n))
      else
        match s.copyAccess c k x a n false with
        | .fault e => .next ((began s).copyFail c x e a)
        | .hold => .next (s.modCore c fun k => { k with copyNext := s.now + 1 })
        | .ok t => .next ((began s).copySend c t (copyReq c x t a n false (.copyRead x.id u) (.load t.addr n 6)))

/-- A copy whose completion word is due (R330, R379): every unit acknowledged, or those sent before it was abandoned. -/
def Copy.complete (x : Copy) : Bool :=
  !x.completing && x.ready.isEmpty && decide (x.ended = if x.abandoned then x.sent else x.total)

/-- COPY_COMPLETION_WRITE: in the data class (R307). -/
def execCopyCompletionWrite (c id : Nat) (s : State) : Host.Outcome State Fault Refusal :=
  match s.core? c with
  | none => .fault .noSuchItem
  | some k =>
    match k.copies.find? fun x => decide (x.id = id) && x.complete with
    | none => .fault .noSuchItem
    | some x =>
      if x.ncw then .next (s.dropCopy c id)
      else if x.cw < 0x30000 then
        .next ((s.dropCopy c id).writeOwn c x.cw (bytesLE 8 (s.cwordValue x.value x.deadline x.abandoned).toNat))
      else
        match (s.remAddr c k x.cw 8 true).orLost k x.slot x.cw with
        | .fault e => .next (s.copyFail c x e x.cw)
        | .hold => .next (s.modCore c fun k => { k with copyNext := max k.copyNext (s.now + 1) })
        | .ok t =>
          .next ((s.modCopy c id fun y => { y with completing := true }).copySend c t
            { copyReq c x t x.cw 8 true (.copyDone id) (.cword t.addr x.value x.deadline x.abandoned) with cls := 5 })

/-- The deadline of a copy has passed and has not been noted. -/
def Copy.deadlineDue (x : Copy) (ns : Nat) : Bool :=
  !x.late && (match x.deadline with
    | some d => decide (d ≤ ns)
    | none => false)

/-- COPY_DEADLINE (R330, R379): with DLA = 1 and a unit not yet sent, no further unit is sent. -/
def execCopyDeadline (c id : Nat) (s : State) : Host.Outcome State Fault Refusal :=
  match s.core? c with
  | none => .fault .noSuchItem
  | some k =>
    match k.copies.find? fun x => decide (x.id = id) && x.deadlineDue s.timeNs with
    | none => .fault .noSuchItem
    | some x =>
      let sent := x.sent - (k.reqs.filter fun r => r.unsent id).length
      if x.dla && !x.completing && decide (sent < x.total) then
        .next ((s.modCore c fun k => { k with reqs := k.reqs.filter fun r => !r.unsent id }).modCopy c id fun y =>
          { y with late := true, abandoned := true, ready := [], sent := sent })
      else .next (s.modCopy c id fun y => { y with late := true })

/-- An offload copy that is due for the data class (R329). -/
def Copy.raiseDue (x : Copy) (ns : Nat) : Bool :=
  x.offload && decide (x.dl ≠ 0) && decide (x.issuedNs + (x.dl - x.dl / 4) * 1000 ≤ ns)

/-- COPY_CLASS_RAISE: every unit, attempt and completion write from now on. -/
def execCopyClassRaise (c id : Nat) (s : State) : Host.Outcome State Fault Refusal :=
  match (s.core? c).bind fun k => k.copies.find? fun x => decide (x.id = id) && x.raiseDue s.timeNs with
  | none => .fault .noSuchItem
  | some _ =>
    .next ((s.modCopy c id fun y => { y with offload := false }).modReqs (.core c) fun l => l.map fun r =>
      let mine : Bool := match r.sink with
        | .copyRead i _ | .copyUnit i | .copyDone i => decide (i = id)
        | _ => false
      if mine then { r with cls := 5 } else r)

/-! ## Replies (R303, R304) -/

/-- A failed transfer of a halt's copy is reported; no slot is there to fault (log 48). -/
def State.spillFail (s : State) (c : Nat) (q : Req) (e : Cause) (unk : Bool) : State :=
  s.coreReport c e ⟨q.faddr, 0, none, unk, q.inc, q.ser, q.rid⟩

/-- The end of a request of the engine: a read's bytes, an acknowledgement, or a failure. A failure of a source read that an abandoned copy
has left behind ends nothing: R304 and R379 name no outcome for it (log 74). -/
def State.copyReply (s : State) (c : Nat) (q : Req) (bytes : List Byte) (fail : Option (Cause × Bool)) : State :=
  let id := match q.sink with
    | .copyRead i _ | .copyUnit i | .copyDone i => i
    | _ => 0
  match (s.core? c).bind fun k => k.copy? id with
  | none => s
  | some x =>
    match x.spill, q.sink, fail with
    | some _, .copyRead _ u, some (e, unk) => (s.spillFail c q e unk).writeUnit c x u []
    | some _, _, some (e, unk) => (s.spillFail c q e unk).modCopy c id fun y => { y with ended := y.ended + 1 }
    | _, _, _ =>
    match q.sink, fail with
    | .copyRead _ _, some (e, _) => if x.abandoned then s else (s.dropCopy c id).failReq c q e false
    | .copyRead _ u, none => if x.abandoned then s else s.writeUnit c x u bytes
    | _, some (e, unk) => (s.dropCopy c id).failReq c q e unk
    | .copyUnit _, none => s.modCopy c id fun y => { y with ended := y.ended + 1 }
    | _, none => s.dropCopy c id

/-! ## The instructions (R326, R327, R332) -/

/-- The fields of a descriptor, and whether they keep the rules of R327 step 2. -/
def copyOf (x : Ctx) (s : State) (k : Core) (bs : List Byte) (wide : Bool) (value : Word) : Copy × Bool :=
  let w (i : Nat) : Word := BitVec.ofNat 64 (ofBytes ((bs.drop (8 * i)).take 8))
  let ctl := w 3
  let y : Copy := {
    id := s.nextId, slot := x.sl, src := (w 0).toNat, dst := (w 1).toNat, cw := (w 2).toNat, dl := bits ctl 32 24
    ncw := ctl.getLsbD 27, dla := ctl.getLsbD 26, offload := ctl.getLsbD 25, len := bits ctl 0 25
    rows := if wide then bits (w 5) 0 16 else 1, dstr := if wide then bits (w 4) 32 32 else 0
    sstr := if wide then bits (w 4) 0 32 else 0, value := value, issuedNs := s.timeNs, issued := x.cyc, active := false
    begun := 0, sent := 0, ended := 0, ready := [], late := false, abandoned := false, completing := false
    snap := if (w 0).toNat < 0x30000 then [k.memView x.sl] else [], spill := none }
  let ok := decide (bits ctl 56 8 = 0) && decide (bits ctl 28 4 = 0) && decide (y.len ≠ 0) && decide (y.len ≤ 0x1000000)
    && decide (y.rows ≠ 0) && decide (y.rows * y.len ≤ 0x1000000) && !(y.dla && decide (y.dl = 0))
    && (y.ncw || decide (y.cw % 8 = 0)) && (!wide || decide (bits (w 5) 16 48 = 0))
  (y, ok)

/-- The ranges of a copy: address, bytes and whether it is written. -/
def Copy.spans (x : Copy) : List (Nat × Nat × Bool) :=
  ((List.range x.rows).map fun r => (rowAt x.src r x.sstr, x.len, false))
    ++ ((List.range x.rows).map fun r => (rowAt x.dst r x.dstr, x.len, true))
    ++ (if x.ncw then [] else [(x.cw, 8, true)])

/-- Steps 3 and 4 of R327: the homes, or the first failure with its address; none: held for a walk. -/
def State.copyCheck (s : State) (c : Nat) (k : Core) (sl : Fin 8) (l : List (Nat × Nat × Bool)) :
    Option (Except (Cause × Nat) (List Node)) :=
  let r := l.map fun e => (e, (s.remAddr c k e.1 e.2.1 e.2.2).orLost k sl e.1)
  match r.findSome? fun e => match e.2 with
      | .fault f => some (f, e.1.1)
      | _ => none with
  | some f => some (.error f)
  | none =>
    match r.findSome? fun e => match e.2 with
        | .ok t => (s.remRights k sl t e.1.1 e.1.2.1 e.1.2.2).map fun f => (f, e.1.1)
        | _ => none with
    | some f => some (.error f)
    | none =>
      let homes := r.filterMap fun e => match e.2 with
        | .ok t => some t.home
        | _ => none
      if homes.length = l.length then some (.ok homes.eraseDups) else none

/-- CPY and CPYX: the descriptor of `n` bytes. -/
def copyInstr (h : Head) (o : OrdX) (a b : SReg) (wide : Bool) : State → Host.Outcome State Fault Refusal :=
  issue h (if o.present then 2 else 1) (usesAB a b) fun x s =>
    let ord := ordOf o
    withScope x s ord.2 fun k =>
      let av := x.rs a
      let n := if wide then 48 else 32
      if av.toNat % 16 ≠ 0 then .fault .lalign av
      else if 0x30000 < av.toNat + n then .fault .lrange av
      else if !k.allowed false av.toNat n then .fault .tnone av
      else if k.localHold x.c x.sl av.toNat n false then .hold
      else localRead x s av.toNat n fun s bs =>
        let d := copyOf x s k bs wide (x.rs b)
        if !d.2 then .fault .cargs av
        else
          match s.copyCheck x.c k x.sl d.1.spans with
          | none => .hold
          | some (.error f) => .fault f.1 (BitVec.ofNat 64 f.2)
          | some (.ok homes) =>
            if (ordReleases ord.1 && k.relHold x.c x.sl ord.2) || decide (64 ≤ k.copies.length)
                || homes.any fun m => k.acqHold x.c x.sl m then .hold
            else
              .ok (((s.modCore x.c fun k => { k with copies := k.copies ++ [d.1] }).newId).occupy x (if wide then 3 else 2)) 0

/-- CPY. -/
def execCpy (h : Head) (o : OrdX) (a b : SReg) : State → Host.Outcome State Fault Refusal := copyInstr h o a b false
/-- CPYX. -/
def execCpyx (h : Head) (o : OrdX) (a b : SReg) : State → Host.Outcome State Fault Refusal := copyInstr h o a b true

/-- CPYQ. -/
def execCpyq (h : Head) (d : SReg) : State → Host.Outcome State Fault Refusal :=
  issue h 1 (usesD d) fun x s =>
    withCore x s fun k =>
      let active := k.copies.filter fun y => y.active
      let mine := k.copies.filter fun y => decide (y.slot = x.sl)
      let v := 64 - k.copies.length + active.length * 2 ^ 8 + mine.length * 2 ^ 16
      .ok (s.putLater x (sid x.sl d) (.word (BitVec.ofNat 64 v)) 2 0) 0

end Sys2Proof.Machine
end

