-- ==== Sys2Proof/WellFormed.lean ====
section
/-! DEFINITION. Which instructions as data have an encoding: the prefix fields that each form uses (R65, R133, R179, R218), the
field ranges of R69 and the assigned control registers (R97). -/

namespace Sys2Proof

/-- How a form uses the VEC prefix (R133): RM and SAT used or zero; SB 0 not allowed, 1 allowed, 2 required, 3 reserved (R109, R187); the
largest IMM8;
the formats FMT2 takes, none when it must be zero. -/
structure VecClass where
  rm : Bool
  sat : Bool
  sb : Nat
  immMax : Nat
  fmts : List Fmt
  deriving DecidableEq, Repr

/-- The ILLFMT conditions of a VEC prefix (R69, R133, R156): format and IMM8 assigned, SB allowed. An IMM8 that is not 0 where
R133 marks it 0 is an unassigned value; outside R133 (`sb` 3: R109, R187) it is an unused field. -/
def vecPFmt (c : VecClass) (p : VecPfx) : Bool :=
  (c.fmts.isEmpty || c.fmts.contains p.fmt2) && (c.sb == 3 || decide (p.imm8.toNat ≤ c.immMax))
    && (if p.sb then decide (c.sb ≠ 0) else decide (c.sb ≠ 2))

/-- The RSVBITS conditions of a VEC prefix: unused fields are zero; with SB = 1 the VB field is zero. -/
def vecPRsv (c : VecClass) (p : VecPfx) (b : VNum) : Bool :=
  (!c.fmts.isEmpty || decide (p.fmt2 = .i8)) && (c.rm || decide (p.rm = .rne)) && (c.sat || !p.sat)
    && (c.immMax != 0 || decide (p.imm8 = 0))
    && (if p.sb then decide (b = 0) && decide (c.sb ≠ 3) else decide (p.xb = .g 0))

def vecFmt (c : VecClass) (x : VecX) : Bool :=
  match x with
  | .none => decide (c.sb ≠ 2)
  | .vec p => vecPFmt c p

def vecRsv (c : VecClass) (x : VecX) (b : VNum) : Bool :=
  match x with
  | .none => true
  | .vec p => vecPRsv c p b

/-- The order of an ORD prefix is one that the instruction accepts (R218). -/
def ordIn (l : List Order) (o : OrdX) : Bool :=
  match o with
  | .none => true
  | .ord p => l.contains p.ord

/-- OFX is zero outside RLD and RST (R206). -/
def ordNoOfx (o : OrdX) : Bool :=
  match o with
  | .none => true
  | .ord p => decide (p.ofx = 0)

def remIn (l : List Order) (x : RemX) : Bool :=
  match x with
  | .ord p => l.contains p.ord
  | _ => true

/-- The control registers of R97. -/
def csrAssigned (n : BitVec 10) : Bool :=
  [0x000#10, 0x001#10, 0x002#10, 0x003#10, 0x004#10, 0x005#10, 0x006#10, 0x007#10, 0x008#10, 0x009#10, 0x00A#10, 0x010#10,
    0x011#10, 0x012#10, 0x013#10, 0x014#10, 0x020#10, 0x021#10, 0x022#10, 0x030#10, 0x040#10, 0x050#10, 0x051#10,
    0x052#10, 0x053#10, 0x054#10, 0x055#10, 0x056#10].contains n

/-- An instruction word or pair that exists: every field value that the typed operands leave free is one that R69 accepts.
Events are not words, and are not well formed as instructions. -/
def Instr.wf : Instr → Bool
  | .add _ _ _ _ => true
  | .sub _ _ _ _ => true
  | .and _ _ _ _ => true
  | .or _ _ _ _ => true
  | .xor _ _ _ _ => true
  | .sll _ _ _ _ => true
  | .srl _ _ _ _ => true
  | .sra _ _ _ _ => true
  | .min _ _ _ _ => true
  | .max _ _ _ _ => true
  | .minu _ _ _ _ => true
  | .maxu _ _ _ _ => true
  | .mul _ _ _ _ => true
  | .mulh _ _ _ _ => true
  | .mulhu _ _ _ _ => true
  | .div _ _ _ _ => true
  | .divu _ _ _ _ => true
  | .rem _ _ _ _ => true
  | .remu _ _ _ _ => true
  | .adds _ _ _ _ => true
  | .subs _ _ _ _ => true
  | .clz _ _ _ => true
  | .popc _ _ _ => true
  | .andn _ _ _ _ => true
  | .orn _ _ _ _ => true
  | .addi _ _ _ _ _ => true
  | .andi _ _ _ _ _ => true
  | .ori _ _ _ _ _ => true
  | .xori _ _ _ _ _ => true
  | .slli _ _ _ _ => true
  | .srli _ _ _ _ => true
  | .srai _ _ _ _ => true
  | .rori _ _ _ _ => true
  | .li _ _ _ _ => true
  | .lih _ _ _ _ _ => true
  | .cmpEq _ _ _ _ => true
  | .cmpNe _ _ _ _ => true
  | .cmpLt _ _ _ _ => true
  | .cmpGe _ _ _ _ => true
  | .cmpLtu _ _ _ _ => true
  | .cmpGeu _ _ _ _ => true
  | .cmpBits _ _ _ _ => true
  | .cmpNbits _ _ _ _ => true
  | .cmpiEq _ _ _ _ _ => true
  | .cmpiNe _ _ _ _ _ => true
  | .cmpiLt _ _ _ _ _ => true
  | .cmpiGe _ _ _ _ _ => true
  | .cmpiLtu _ _ _ _ _ => true
  | .cmpiGeu _ _ _ _ _ => true
  | .cmpiBits _ _ _ _ _ => true
  | .cmpiNbits _ _ _ _ _ => true
  | .pand _ _ _ _ => true
  | .por _ _ _ _ => true
  | .pxor _ _ _ _ => true
  | .pandn _ _ _ _ => true
  | .pnot _ _ _ => true
  | .pmov _ _ _ => true
  | .pset _ _ => true
  | .pclr _ _ => true
  | .sext8 _ _ _ => true
  | .sext16 _ _ _ => true
  | .sext32 _ _ _ => true
  | .zext8 _ _ _ => true
  | .zext16 _ _ _ => true
  | .zext32 _ _ _ => true
  | .bswap _ _ _ => true
  | .ctz _ _ _ => true
  | .peer _ _ _ _ => true
  | .peero _ _ _ _ => true
  | .pidx _ _ _ => true
  | .mand _ _ _ _ => true
  | .mor _ _ _ _ => true
  | .mxor _ _ _ _ => true
  | .mandn _ _ _ _ => true
  | .mnot _ _ _ => true
  | .mset _ _ _ => true
  | .mget _ _ _ => true
  | .mpop _ _ _ => true
  | .mfirst _ _ _ => true
  | .b _ _ => true
  | .call _ _ => true
  | .jr _ _ => true
  | .jalr _ _ _ => true
  | .ret _ => true
  | .loopReg _ _ _ len => decide (len ≠ 0)
  | .loopImm _ _ _ _ len => decide (len ≠ 0)
  | .wait _ _ _ => true
  | .waita _ o _ _ _ => ordIn [.rlx, .acq] o && ordNoOfx o
  | .yield _ => true
  | .endTask _ => true
  | .trap _ _ => true
  | .isync _ => true
  | .nop _ => true
  | .csrw _ _ _ csr => csrAssigned csr
  | .csrs _ _ _ csr => csrAssigned csr
  | .csrc _ _ _ csr => csrAssigned csr
  | .ld _ _ _ _ _ _ => true
  | .st _ _ _ _ _ _ => true
  | .vld _ _ _ _ _ => true
  | .vst _ _ _ _ _ => true
  | .vgathI32 _ _ _ _ _ => true
  | .vscatI32 _ _ _ _ _ => true
  | .vgathI16 _ _ _ _ _ => true
  | .vscatI16 _ _ _ _ _ => true
  | .qldQb8 _ _ _ _ => true
  | .qldQb4 _ _ _ _ => true
  | .qstQb8 _ _ _ _ => true
  | .qstQb4 _ _ _ _ => true
  | .rld _ x _ _ _ _ => remIn [.rlx, .acq] x
  | .rst _ x _ _ _ _ => remIn [.rlx, .rel] x
  | .atomAdd _ o _ _ _ _ => ordIn [.rlx, .acq, .rel, .ar] o && ordNoOfx o
  | .atomSub _ o _ _ _ _ => ordIn [.rlx, .acq, .rel, .ar] o && ordNoOfx o
  | .atomAnd _ o _ _ _ _ => ordIn [.rlx, .acq, .rel, .ar] o && ordNoOfx o
  | .atomOr _ o _ _ _ _ => ordIn [.rlx, .acq, .rel, .ar] o && ordNoOfx o
  | .atomXor _ o _ _ _ _ => ordIn [.rlx, .acq, .rel, .ar] o && ordNoOfx o
  | .atomMin _ o _ _ _ _ => ordIn [.rlx, .acq, .rel, .ar] o && ordNoOfx o
  | .atomMax _ o _ _ _ _ => ordIn [.rlx, .acq, .rel, .ar] o && ordNoOfx o
  | .atomMinu _ o _ _ _ _ => ordIn [.rlx, .acq, .rel, .ar] o && ordNoOfx o
  | .atomMaxu _ o _ _ _ _ => ordIn [.rlx, .acq, .rel, .ar] o && ordNoOfx o
  | .atomSwap _ o _ _ _ _ => ordIn [.rlx, .acq, .rel, .ar] o && ordNoOfx o
  | .atomCas _ o _ _ _ _ => ordIn [.rlx, .acq, .rel, .ar] o && ordNoOfx o
  | .atomFaddF32 _ o _ _ _ => ordIn [.rlx, .acq, .rel, .ar] o && ordNoOfx o
  | .atomBadd _ o _ _ _ => ordIn [.rlx, .acq, .rel, .ar] o && ordNoOfx o
  | .fenceAcq _ _ => true
  | .fenceRel _ _ => true
  | .fenceAr _ _ => true
  | .rvld _ o _ _ _ => ordIn [.rlx, .acq] o && ordNoOfx o
  | .rvst _ o _ _ _ => ordIn [.rlx, .rel] o && ordNoOfx o
  | .tdecl _ _ _ => true
  | .tlend _ _ _ => true
  | .tret _ _ => true
  | .tsplit _ _ _ => true
  | .tjoin _ _ => true
  | .tshare _ _ _ => true
  | .tunsh _ _ => true
  | .tqry _ _ _ _ => true
  | .trecl _ _ => true
  | .tclean _ _ _ => true
  | .send _ o _ _ _ => ordIn [.rlx, .rel] o && ordNoOfx o
  | .sendr _ o _ _ => ordIn [.rlx, .rel] o && ordNoOfx o
  | .door _ o _ _ _ => ordIn [.rlx] o && ordNoOfx o
  | .doorq _ o _ _ => ordIn [.rlx] o && ordNoOfx o
  | .submit _ o _ _ => ordIn [.rlx, .rel] o && ordNoOfx o
  | .ckpt _ o _ _ => ordIn [.rlx, .rel] o && ordNoOfx o
  | .cpy _ o _ _ => ordIn [.rlx, .rel] o && ordNoOfx o
  | .cpyq _ _ => true
  | .cpyx _ o _ _ => ordIn [.rlx, .rel] o && ordNoOfx o
  | .vaddI32 _ x _ _ vb _ => vecFmt ⟨false, false, 1, 0, []⟩ x && vecRsv ⟨false, false, 1, 0, []⟩ x vb
  | .vsubI32 _ x _ _ vb _ => vecFmt ⟨false, false, 1, 0, []⟩ x && vecRsv ⟨false, false, 1, 0, []⟩ x vb
  | .vmulI32 _ x _ _ vb _ => vecFmt ⟨false, false, 1, 0, []⟩ x && vecRsv ⟨false, false, 1, 0, []⟩ x vb
  | .vmulhI32 _ x _ _ vb _ => vecFmt ⟨false, false, 1, 0, []⟩ x && vecRsv ⟨false, false, 1, 0, []⟩ x vb
  | .vminI32 _ x _ _ vb _ => vecFmt ⟨false, false, 1, 0, []⟩ x && vecRsv ⟨false, false, 1, 0, []⟩ x vb
  | .vmaxI32 _ x _ _ vb _ => vecFmt ⟨false, false, 1, 0, []⟩ x && vecRsv ⟨false, false, 1, 0, []⟩ x vb
  | .vand _ x _ _ vb _ => vecFmt ⟨false, false, 1, 0, []⟩ x && vecRsv ⟨false, false, 1, 0, []⟩ x vb
  | .vor _ x _ _ vb _ => vecFmt ⟨false, false, 1, 0, []⟩ x && vecRsv ⟨false, false, 1, 0, []⟩ x vb
  | .vxor _ x _ _ vb _ => vecFmt ⟨false, false, 1, 0, []⟩ x && vecRsv ⟨false, false, 1, 0, []⟩ x vb
  | .vsll _ x _ _ vb _ => vecFmt ⟨false, false, 1, 0, []⟩ x && vecRsv ⟨false, false, 1, 0, []⟩ x vb
  | .vsrl _ x _ _ vb _ => vecFmt ⟨false, false, 1, 0, []⟩ x && vecRsv ⟨false, false, 1, 0, []⟩ x vb
  | .vsra _ x _ _ vb _ => vecFmt ⟨false, false, 1, 0, []⟩ x && vecRsv ⟨false, false, 1, 0, []⟩ x vb
  | .vaddsI32 _ x _ _ vb _ => vecFmt ⟨false, false, 1, 0, []⟩ x && vecRsv ⟨false, false, 1, 0, []⟩ x vb
  | .vsubsI32 _ x _ _ vb _ => vecFmt ⟨false, false, 1, 0, []⟩ x && vecRsv ⟨false, false, 1, 0, []⟩ x vb
  | .vabsI32 _ x _ _ _ => vecFmt ⟨false, false, 0, 0, []⟩ x && vecRsv ⟨false, false, 0, 0, []⟩ x 0
  | .vminuI32 _ x _ _ vb _ => vecFmt ⟨false, false, 1, 0, []⟩ x && vecRsv ⟨false, false, 1, 0, []⟩ x vb
  | .vaddF32 _ x _ _ vb _ => vecFmt ⟨true, false, 1, 0, []⟩ x && vecRsv ⟨true, false, 1, 0, []⟩ x vb
  | .vsubF32 _ x _ _ vb _ => vecFmt ⟨true, false, 1, 0, []⟩ x && vecRsv ⟨true, false, 1, 0, []⟩ x vb
  | .vmulF32 _ x _ _ vb _ => vecFmt ⟨true, false, 1, 0, []⟩ x && vecRsv ⟨true, false, 1, 0, []⟩ x vb
  | .vfmaF32 _ x _ _ vb _ => vecFmt ⟨true, false, 1, 0, []⟩ x && vecRsv ⟨true, false, 1, 0, []⟩ x vb
  | .vfmsF32 _ x _ _ vb _ => vecFmt ⟨true, false, 1, 0, []⟩ x && vecRsv ⟨true, false, 1, 0, []⟩ x vb
  | .vminF32 _ x _ _ vb _ => vecFmt ⟨true, false, 1, 0, []⟩ x && vecRsv ⟨true, false, 1, 0, []⟩ x vb
  | .vmaxF32 _ x _ _ vb _ => vecFmt ⟨true, false, 1, 0, []⟩ x && vecRsv ⟨true, false, 1, 0, []⟩ x vb
  | .vabsF32 _ x _ _ _ => vecFmt ⟨true, false, 0, 0, []⟩ x && vecRsv ⟨true, false, 0, 0, []⟩ x 0
  | .vnegF32 _ x _ _ _ => vecFmt ⟨true, false, 0, 0, []⟩ x && vecRsv ⟨true, false, 0, 0, []⟩ x 0
  | .vfnmaF32 _ x _ _ vb _ => vecFmt ⟨true, false, 1, 0, []⟩ x && vecRsv ⟨true, false, 1, 0, []⟩ x vb
  | .vaddI16 _ x _ _ vb _ => vecFmt ⟨false, false, 1, 0, []⟩ x && vecRsv ⟨false, false, 1, 0, []⟩ x vb
  | .vsubI16 _ x _ _ vb _ => vecFmt ⟨false, false, 1, 0, []⟩ x && vecRsv ⟨false, false, 1, 0, []⟩ x vb
  | .vmulI16 _ x _ _ vb _ => vecFmt ⟨false, false, 1, 0, []⟩ x && vecRsv ⟨false, false, 1, 0, []⟩ x vb
  | .vaddsI16 _ x _ _ vb _ => vecFmt ⟨false, false, 1, 0, []⟩ x && vecRsv ⟨false, false, 1, 0, []⟩ x vb
  | .vsubsI16 _ x _ _ vb _ => vecFmt ⟨false, false, 1, 0, []⟩ x && vecRsv ⟨false, false, 1, 0, []⟩ x vb
  | .vminI16 _ x _ _ vb _ => vecFmt ⟨false, false, 1, 0, []⟩ x && vecRsv ⟨false, false, 1, 0, []⟩ x vb
  | .vmaxI16 _ x _ _ vb _ => vecFmt ⟨false, false, 1, 0, []⟩ x && vecRsv ⟨false, false, 1, 0, []⟩ x vb
  | .vaddBf16 _ x _ _ vb _ => vecFmt ⟨true, false, 1, 0, []⟩ x && vecRsv ⟨true, false, 1, 0, []⟩ x vb
  | .vsubBf16 _ x _ _ vb _ => vecFmt ⟨true, false, 1, 0, []⟩ x && vecRsv ⟨true, false, 1, 0, []⟩ x vb
  | .vmulBf16 _ x _ _ vb _ => vecFmt ⟨true, false, 1, 0, []⟩ x && vecRsv ⟨true, false, 1, 0, []⟩ x vb
  | .vfmaBf16 _ x _ _ vb _ => vecFmt ⟨true, false, 1, 0, []⟩ x && vecRsv ⟨true, false, 1, 0, []⟩ x vb
  | .vminBf16 _ x _ _ vb _ => vecFmt ⟨true, false, 1, 0, []⟩ x && vecRsv ⟨true, false, 1, 0, []⟩ x vb
  | .vmaxBf16 _ x _ _ vb _ => vecFmt ⟨true, false, 1, 0, []⟩ x && vecRsv ⟨true, false, 1, 0, []⟩ x vb
  | .vaddI8 _ x _ _ vb _ => vecFmt ⟨false, false, 1, 0, []⟩ x && vecRsv ⟨false, false, 1, 0, []⟩ x vb
  | .vsubI8 _ x _ _ vb _ => vecFmt ⟨false, false, 1, 0, []⟩ x && vecRsv ⟨false, false, 1, 0, []⟩ x vb
  | .vaddsI8 _ x _ _ vb _ => vecFmt ⟨false, false, 1, 0, []⟩ x && vecRsv ⟨false, false, 1, 0, []⟩ x vb
  | .vsubsI8 _ x _ _ vb _ => vecFmt ⟨false, false, 1, 0, []⟩ x && vecRsv ⟨false, false, 1, 0, []⟩ x vb
  | .vminI8 _ x _ _ vb _ => vecFmt ⟨false, false, 1, 0, []⟩ x && vecRsv ⟨false, false, 1, 0, []⟩ x vb
  | .vmaxI8 _ x _ _ vb _ => vecFmt ⟨false, false, 1, 0, []⟩ x && vecRsv ⟨false, false, 1, 0, []⟩ x vb
  | .vaddE4m3 _ x _ _ vb _ => vecFmt ⟨true, true, 1, 0, []⟩ x && vecRsv ⟨true, true, 1, 0, []⟩ x vb
  | .vsubE4m3 _ x _ _ vb _ => vecFmt ⟨true, true, 1, 0, []⟩ x && vecRsv ⟨true, true, 1, 0, []⟩ x vb
  | .vmulE4m3 _ x _ _ vb _ => vecFmt ⟨true, true, 1, 0, []⟩ x && vecRsv ⟨true, true, 1, 0, []⟩ x vb
  | .vminE4m3 _ x _ _ vb _ => vecFmt ⟨true, true, 1, 0, []⟩ x && vecRsv ⟨true, true, 1, 0, []⟩ x vb
  | .vmaxE4m3 _ x _ _ vb _ => vecFmt ⟨true, true, 1, 0, []⟩ x && vecRsv ⟨true, true, 1, 0, []⟩ x vb
  | .vaddE5m2 _ x _ _ vb _ => vecFmt ⟨true, true, 1, 0, []⟩ x && vecRsv ⟨true, true, 1, 0, []⟩ x vb
  | .vsubE5m2 _ x _ _ vb _ => vecFmt ⟨true, true, 1, 0, []⟩ x && vecRsv ⟨true, true, 1, 0, []⟩ x vb
  | .vmulE5m2 _ x _ _ vb _ => vecFmt ⟨true, true, 1, 0, []⟩ x && vecRsv ⟨true, true, 1, 0, []⟩ x vb
  | .vminE5m2 _ x _ _ vb _ => vecFmt ⟨true, true, 1, 0, []⟩ x && vecRsv ⟨true, true, 1, 0, []⟩ x vb
  | .vmaxE5m2 _ x _ _ vb _ => vecFmt ⟨true, true, 1, 0, []⟩ x && vecRsv ⟨true, true, 1, 0, []⟩ x vb
  | .quantQb8 _ x _ _ => vecFmt ⟨true, false, 0, 0, []⟩ x && vecRsv ⟨true, false, 0, 0, []⟩ x 0
  | .quantQb4 _ x _ _ => vecFmt ⟨true, false, 0, 0, []⟩ x && vecRsv ⟨true, false, 0, 0, []⟩ x 0
  | .dequantQb8 _ x _ _ _ => vecFmt ⟨false, false, 0, 0, []⟩ x && vecRsv ⟨false, false, 0, 0, []⟩ x 0
  | .dequantQb4 _ x _ _ _ => vecFmt ⟨false, false, 0, 0, []⟩ x && vecRsv ⟨false, false, 0, 0, []⟩ x 0
  | .qtobaQb8 _ x _ _ => vecFmt ⟨false, false, 0, 0, []⟩ x && vecRsv ⟨false, false, 0, 0, []⟩ x 0
  | .qtobaQb4 _ x _ _ => vecFmt ⟨false, false, 0, 0, []⟩ x && vecRsv ⟨false, false, 0, 0, []⟩ x 0
  | .badd _ x _ _ vb => vecFmt ⟨false, false, 0, 0, []⟩ x && vecRsv ⟨false, false, 0, 0, []⟩ x vb
  | .balign _ x _ _ vb => vecFmt ⟨false, false, 1, 0, []⟩ x && vecRsv ⟨false, false, 1, 0, []⟩ x vb
  | .vlut _ x _ _ _ _ => vecFmt ⟨false, false, 0, 3, []⟩ x && vecRsv ⟨false, false, 0, 3, []⟩ x 0
  | .vdqw _ x _ _ vb _ => vecFmt ⟨true, false, 1, 7, []⟩ x && vecRsv ⟨true, false, 1, 7, []⟩ x vb
  | .vcvtBf16F32 _ x _ _ _ => vecFmt ⟨true, false, 0, 1, []⟩ x && vecRsv ⟨true, false, 0, 1, []⟩ x 0
  | .vcvtF32Bf16 _ x _ _ _ => vecFmt ⟨false, false, 0, 1, []⟩ x && vecRsv ⟨false, false, 0, 1, []⟩ x 0
  | .vcvtE4m3F32 _ x _ _ _ => vecFmt ⟨true, true, 0, 3, []⟩ x && vecRsv ⟨true, true, 0, 3, []⟩ x 0
  | .vcvtE5m2F32 _ x _ _ _ => vecFmt ⟨true, true, 0, 3, []⟩ x && vecRsv ⟨true, true, 0, 3, []⟩ x 0
  | .vcvtF32E4m3 _ x _ _ _ => vecFmt ⟨false, false, 0, 3, []⟩ x && vecRsv ⟨false, false, 0, 3, []⟩ x 0
  | .vcvtF32E5m2 _ x _ _ _ => vecFmt ⟨false, false, 0, 3, []⟩ x && vecRsv ⟨false, false, 0, 3, []⟩ x 0
  | .vcvtE4m3Bf16 _ x _ _ _ => vecFmt ⟨true, true, 0, 1, []⟩ x && vecRsv ⟨true, true, 0, 1, []⟩ x 0
  | .vcvtE5m2Bf16 _ x _ _ _ => vecFmt ⟨true, true, 0, 1, []⟩ x && vecRsv ⟨true, true, 0, 1, []⟩ x 0
  | .vcvtBf16E4m3 _ x _ _ _ => vecFmt ⟨false, false, 0, 1, []⟩ x && vecRsv ⟨false, false, 0, 1, []⟩ x 0
  | .vcvtBf16E5m2 _ x _ _ _ => vecFmt ⟨false, false, 0, 1, []⟩ x && vecRsv ⟨false, false, 0, 1, []⟩ x 0
  | .vcvtI32F32 _ x _ _ _ => vecFmt ⟨true, false, 0, 0, []⟩ x && vecRsv ⟨true, false, 0, 0, []⟩ x 0
  | .vcvtF32I32 _ x _ _ _ => vecFmt ⟨true, false, 0, 0, []⟩ x && vecRsv ⟨true, false, 0, 0, []⟩ x 0
  | .vcvtBf16Q4 _ x _ _ _ => vecFmt ⟨false, false, 0, 3, []⟩ x && vecRsv ⟨false, false, 0, 3, []⟩ x 0
  | .vcvtI8I32 _ x _ _ _ => vecFmt ⟨false, false, 0, 3, []⟩ x && vecRsv ⟨false, false, 0, 3, []⟩ x 0
  | .vcvtI32I8 _ x _ _ _ => vecFmt ⟨false, false, 0, 3, []⟩ x && vecRsv ⟨false, false, 0, 3, []⟩ x 0
  | .vexp _ x _ _ _ => vecFmt ⟨true, false, 0, 0, []⟩ x && vecRsv ⟨true, false, 0, 0, []⟩ x 0
  | .vexp2 _ x _ _ _ => vecFmt ⟨true, false, 0, 0, []⟩ x && vecRsv ⟨true, false, 0, 0, []⟩ x 0
  | .vlog _ x _ _ _ => vecFmt ⟨true, false, 0, 0, []⟩ x && vecRsv ⟨true, false, 0, 0, []⟩ x 0
  | .vlog2 _ x _ _ _ => vecFmt ⟨true, false, 0, 0, []⟩ x && vecRsv ⟨true, false, 0, 0, []⟩ x 0
  | .vrcp _ x _ _ _ => vecFmt ⟨true, false, 0, 0, []⟩ x && vecRsv ⟨true, false, 0, 0, []⟩ x 0
  | .vrsqrt _ x _ _ _ => vecFmt ⟨true, false, 0, 0, []⟩ x && vecRsv ⟨true, false, 0, 0, []⟩ x 0
  | .vsqrt _ x _ _ _ => vecFmt ⟨true, false, 0, 0, []⟩ x && vecRsv ⟨true, false, 0, 0, []⟩ x 0
  | .vdiv _ x _ _ vb _ => vecFmt ⟨true, false, 1, 0, []⟩ x && vecRsv ⟨true, false, 1, 0, []⟩ x vb
  | .vtanh _ x _ _ _ => vecFmt ⟨true, false, 0, 0, []⟩ x && vecRsv ⟨true, false, 0, 0, []⟩ x 0
  | .vsigm _ x _ _ _ => vecFmt ⟨true, false, 0, 0, []⟩ x && vecRsv ⟨true, false, 0, 0, []⟩ x 0
  | .verf _ x _ _ _ => vecFmt ⟨true, false, 0, 0, []⟩ x && vecRsv ⟨true, false, 0, 0, []⟩ x 0
  | .vsin _ x _ _ _ => vecFmt ⟨true, false, 0, 0, []⟩ x && vecRsv ⟨true, false, 0, 0, []⟩ x 0
  | .vcos _ x _ _ _ => vecFmt ⟨true, false, 0, 0, []⟩ x && vecRsv ⟨true, false, 0, 0, []⟩ x 0
  | .vperm _ x _ _ vb _ => vecFmt ⟨false, false, 0, 0, []⟩ x && vecRsv ⟨false, false, 0, 0, []⟩ x vb
  | .vbcast _ x _ _ _ => vecFmt ⟨false, false, 0, 63, []⟩ x && vecRsv ⟨false, false, 0, 63, []⟩ x 0
  | .vbcastScalar _ x _ _ => vecPFmt ⟨false, false, 2, 0, []⟩ x && vecPRsv ⟨false, false, 2, 0, []⟩ x 0
  | .vrot _ x _ _ _ => vecFmt ⟨false, false, 0, 63, []⟩ x && vecRsv ⟨false, false, 0, 63, []⟩ x 0
  | .viota _ x _ _ => vecFmt ⟨false, false, 0, 0, []⟩ x && vecRsv ⟨false, false, 0, 0, []⟩ x 0
  | .vsel _ x _ _ vb _ => vecFmt ⟨false, false, 1, 0, []⟩ x && vecRsv ⟨false, false, 1, 0, []⟩ x vb
  | .vins _ x _ => vecPFmt ⟨false, false, 2, 63, []⟩ x && vecPRsv ⟨false, false, 2, 63, []⟩ x 0
  | .vext _ x _ _ => vecFmt ⟨false, false, 0, 63, []⟩ x && vecRsv ⟨false, false, 0, 63, []⟩ x 0
  | .vhdrWrite _ x _ => vecPFmt ⟨false, false, 2, 0, []⟩ x && vecPRsv ⟨false, false, 2, 0, []⟩ x 0
  | .vhdrRead _ x _ _ => vecPFmt ⟨false, false, 0, 1, []⟩ x && decide (x.imm8 = 1) && vecPRsv ⟨false, false, 0, 1, []⟩ x 0
  | .vcmpI32 _ x _ _ vb _ => vecFmt ⟨false, false, 1, 5, [.i8, .i16, .i32]⟩ x && vecRsv ⟨false, false, 1, 5, [.i8, .i16, .i32]⟩ x vb
  | .vcmpF32 _ x _ _ vb _ => vecFmt ⟨false, false, 1, 6, [.f32, .bf16, .e4m3, .e5m2]⟩ x && vecRsv ⟨false, false, 1, 6, [.f32, .bf16, .e4m3, .e5m2]⟩ x vb
  | .vrsumF32 _ x _ _ _ => vecFmt ⟨true, false, 0, 0, []⟩ x && vecRsv ⟨true, false, 0, 0, []⟩ x 0
  | .vrsumI32 _ x _ _ _ => vecFmt ⟨false, false, 0, 0, []⟩ x && vecRsv ⟨false, false, 0, 0, []⟩ x 0
  | .vrmaxF32 _ x _ _ _ => vecFmt ⟨false, false, 0, 0, []⟩ x && vecRsv ⟨false, false, 0, 0, []⟩ x 0
  | .vrmaxI32 _ x _ _ _ => vecFmt ⟨false, false, 0, 0, []⟩ x && vecRsv ⟨false, false, 0, 0, []⟩ x 0
  | .vdraw _ x _ _ _ => vecPFmt ⟨false, false, 2, 0, []⟩ x && vecPRsv ⟨false, false, 2, 0, []⟩ x 0
  | .dmerge _ x _ _ vb => vecFmt ⟨false, false, 0, 0, []⟩ x && vecRsv ⟨false, false, 0, 0, []⟩ x vb
  | .mmaF8f8 _ _ _ _ => true
  | .mmaB16b16 _ _ _ _ => true
  | .mmaF8i4 _ _ _ _ => true
  | .mmaB16i4 _ _ _ _ => true
  | .mmaB16l4 _ _ _ _ => true
  | .mmaQb8 _ _ _ _ => true
  | .mmaQb4 _ _ _ _ => true
  | .mldw _ _ _ => true
  | .mswap _ => true
  | .mldk _ _ _ => true
  | .mcolq _ _ _ _ => true
  | .mzero _ _ => true
  | .mmovaToVector _ _ _ _ => true
  | .mmovaToAcc _ _ _ _ => true
  | .mrsum _ _ _ => true
  | .mchk _ _ _ => true
  | .msync _ _ => true
  | .mdrainF32 _ x _ _ _ _ => vecFmt ⟨true, false, 3, 0, [.f32, .ba32]⟩ x && vecRsv ⟨true, false, 3, 0, [.f32, .ba32]⟩ x 0
  | .mdrainBf16 _ x _ _ g _ => vecFmt ⟨true, false, 3, 0, [.f32, .ba32]⟩ x && decide (g.toNat < 2) && vecRsv ⟨true, false, 3, 0, [.f32, .ba32]⟩ x 0
  | .mdrainE4m3 _ x _ _ g _ => vecFmt ⟨true, true, 3, 0, [.f32, .ba32]⟩ x && decide (g = 0) && vecRsv ⟨true, true, 3, 0, [.f32, .ba32]⟩ x 0
  | .mdrainE5m2 _ x _ _ g _ => vecFmt ⟨true, true, 3, 0, [.f32, .ba32]⟩ x && decide (g = 0) && vecRsv ⟨true, true, 3, 0, [.f32, .ba32]⟩ x 0
  | .mdrainQb8 _ x _ _ _ _ => vecFmt ⟨true, false, 3, 0, [.f32, .ba32]⟩ x && vecRsv ⟨true, false, 3, 0, [.f32, .ba32]⟩ x 0
  | .mdrainQb4 _ x _ _ _ _ => vecFmt ⟨true, false, 3, 0, [.f32, .ba32]⟩ x && vecRsv ⟨true, false, 3, 0, [.f32, .ba32]⟩ x 0
  | .mdrainBa32 _ x _ _ _ _ => vecFmt ⟨true, false, 3, 0, [.f32, .ba32]⟩ x && vecRsv ⟨true, false, 3, 0, [.f32, .ba32]⟩ x 0
  | .linit _ o _ _ => ordIn [.rlx, .rel] o && ordNoOfx o
  | .larv _ o _ _ _ => ordIn [.rlx, .rel, .ar] o && ordNoOfx o
  | .lwait _ o _ _ _ => ordIn [.rlx, .acq] o && ordNoOfx o
  | .ltest _ o _ _ => ordIn [.rlx, .acq] o && ordNoOfx o
  | .lreg _ o _ _ => ordIn [.rlx] o && ordNoOfx o
  | .ldrop _ o _ _ => ordIn [.rlx, .rel] o && ordNoOfx o
  | .lbytes _ o _ _ _ => ordIn [.rlx, .rel] o && ordNoOfx o
  | .rngget _ _ => true
  | .fadd _ x _ _ _ => vecFmt ⟨true, false, 3, 0, []⟩ x && vecRsv ⟨true, false, 3, 0, []⟩ x 0
  | .fsub _ x _ _ _ => vecFmt ⟨true, false, 3, 0, []⟩ x && vecRsv ⟨true, false, 3, 0, []⟩ x 0
  | .fmul _ x _ _ _ => vecFmt ⟨true, false, 3, 0, []⟩ x && vecRsv ⟨true, false, 3, 0, []⟩ x 0
  | .fdiv _ x _ _ _ => vecFmt ⟨true, false, 3, 0, []⟩ x && vecRsv ⟨true, false, 3, 0, []⟩ x 0
  | .fsqrt _ x _ _ => vecFmt ⟨true, false, 3, 0, []⟩ x && vecRsv ⟨true, false, 3, 0, []⟩ x 0
  | .fma _ x _ _ _ => vecFmt ⟨true, false, 3, 0, []⟩ x && vecRsv ⟨true, false, 3, 0, []⟩ x 0
  | .fmin _ x _ _ _ => vecFmt ⟨true, false, 3, 0, []⟩ x && vecRsv ⟨true, false, 3, 0, []⟩ x 0
  | .fmax _ x _ _ _ => vecFmt ⟨true, false, 3, 0, []⟩ x && vecRsv ⟨true, false, 3, 0, []⟩ x 0
  | .feq _ x _ _ _ => vecFmt ⟨true, false, 3, 0, []⟩ x && vecRsv ⟨true, false, 3, 0, []⟩ x 0
  | .flt _ x _ _ _ => vecFmt ⟨true, false, 3, 0, []⟩ x && vecRsv ⟨true, false, 3, 0, []⟩ x 0
  | .fle _ x _ _ _ => vecFmt ⟨true, false, 3, 0, []⟩ x && vecRsv ⟨true, false, 3, 0, []⟩ x 0
  | .fcvti _ x _ _ => vecFmt ⟨true, false, 3, 0, [.i32, .f32, .i64]⟩ x && vecRsv ⟨true, false, 3, 0, [.i32, .f32, .i64]⟩ x 0
  | .fcvtf _ x _ _ => vecFmt ⟨true, false, 3, 0, [.i32, .f32, .i64]⟩ x && vecRsv ⟨true, false, 3, 0, [.i32, .f32, .i64]⟩ x 0
  | .fabs _ x _ _ => vecFmt ⟨true, false, 3, 0, []⟩ x && vecRsv ⟨true, false, 3, 0, []⟩ x 0
  | .fneg _ x _ _ => vecFmt ⟨true, false, 3, 0, []⟩ x && vecRsv ⟨true, false, 3, 0, []⟩ x 0
  | .fclass _ x _ _ => vecFmt ⟨true, false, 3, 0, []⟩ x && vecRsv ⟨true, false, 3, 0, []⟩ x 0
  | _ => false

end Sys2Proof
end

