-- ==== Sys2Proof/Decode.lean ====
section
/-! DEFINITION. The decoder (R60 to R70), total on any words, and after it the encoder from the same tables. A word is a
number below 2^32; `fld w lo len` is its field. The decoder is marked noncomputable for one reason: the compiled run-time
system has no object tag for a constructor beyond the 245th, and `Instr` has one constructor for each of 382 rows; the
kernel evaluates it. -/

namespace Sys2Proof

/-! ## Fields -/

/-- Field [lo + len - 1 : lo]. -/
def fld (w lo len : Nat) : Nat := w / 2 ^ lo % 2 ^ len

/-- A scalar field (R62). -/
def sregOf (n : Nat) : SReg := if n < 16 then .g (Fin.ofNat 16 n) else .t (Fin.ofNat 16 (n - 16))

def sregCode : SReg → Nat
  | .g n => n.val
  | .t n => 16 + n.val

/-- S, GN and GP (R60). -/
def headOf (w : Nat) : Head := ⟨BitVec.ofNat 2 (fld w 30 2), decide (fld w 23 1 = 1), Fin.ofNat 8 (fld w 20 3)⟩

def boolCode (b : Bool) : Nat := if b then 1 else 0

def Head.code (h : Head) : Nat := h.stall.toNat * 2 ^ 30 + boolCode h.neg * 2 ^ 23 + h.gp.val * 2 ^ 20

/-- ME and MK at the bits of format V (7, 4) or G (5, 2). -/
def maskOf (me mk : Nat) : MaskX := if me = 1 then .by (Fin.ofNat 8 mk) else .all

def maskBits (m : MaskX) (me mk : Nat) : Nat :=
  match m with
  | .all => 0
  | .by n => 2 ^ me + n.val * 2 ^ mk

def fmtOf (n : Nat) : Fmt :=
  match n with
  | 0 => .i8 | 1 => .i16 | 2 => .i32 | 3 => .i64 | 4 => .f32 | 5 => .bf16 | 6 => .e4m3 | 7 => .e5m2 | 8 => .qb8 | 9 => .qb4
  | 10 => .q4 | 11 => .l4 | _ => .ba32

def fmtCode : Fmt → Nat
  | .i8 => 0 | .i16 => 1 | .i32 => 2 | .i64 => 3 | .f32 => 4 | .bf16 => 5 | .e4m3 => 6 | .e5m2 => 7 | .qb8 => 8 | .qb4 => 9
  | .q4 => 10 | .l4 => 11 | .ba32 => 12

def rmOf (n : Nat) : Rm :=
  match n with
  | 0 => .rne | 1 => .rtz | 2 => .rdn | 3 => .rup | 4 => .sr | _ => .dyn

def rmCode : Rm → Nat
  | .rne => 0 | .rtz => 1 | .rdn => 2 | .rup => 3 | .sr => 4 | .dyn => 7

def orderOf (n : Nat) : Order :=
  match n with
  | 0 => .rlx | 1 => .acq | 2 => .rel | _ => .ar

def orderCode : Order → Nat
  | .rlx => 0 | .acq => 1 | .rel => 2 | .ar => 3

def scopeOf (n gid : Nat) : Scope :=
  match n with
  | 0 => .core | 1 => .grp (BitVec.ofNat 8 gid) | 2 => .part | _ => .mod

def scopeCode : Scope → Nat
  | .core => 0 | .grp _ => 1 | .part => 2 | .mod => 3

def scopeGid : Scope → Nat
  | .grp g => g.toNat
  | _ => 0

def ldSizeOf (n : Nat) : LdSize :=
  match n with
  | 0 => .i8 | 1 => .u8 | 2 => .i16 | 3 => .u16 | 4 => .i32 | 5 => .u32 | _ => .i64

def ldSizeCode : LdSize → Nat
  | .i8 => 0 | .u8 => 1 | .i16 => 2 | .u16 => 3 | .i32 => 4 | .u32 => 5 | .i64 => 6

def stSizeOf (n : Nat) : StSize :=
  match n with
  | 0 => .b8 | 2 => .b16 | 4 => .b32 | _ => .b64

def stSizeCode : StSize → Nat
  | .b8 => 0 | .b16 => 2 | .b32 => 4 | .b64 => 6

/-! ## Prefixes (R65) -/

/-- The prefix before a second word, with its payload. -/
inductive Px where
  | none
  | imm (x : Nat)
  | ord (x : Nat)
  | vec (x : Nat)
  deriving DecidableEq, Repr

def Px.isNone : Px → Bool
  | .none => true
  | _ => false
def Px.takesImm : Px → Bool
  | .none | .imm _ => true
  | _ => false
def Px.takesOrd : Px → Bool
  | .none | .ord _ => true
  | _ => false
def Px.takesVec : Px → Bool
  | .none | .vec _ => true
  | _ => false
def Px.takesRem : Px → Bool
  | .vec _ => false
  | _ => true

def ordFields (x : Nat) : OrdPfx :=
  ⟨orderOf (fld x 20 2), scopeOf (fld x 18 2) (fld x 10 8), BitVec.ofNat 10 (fld x 0 10)⟩

def vecFields (x : Nat) : VecPfx :=
  ⟨fmtOf (fld x 18 4), rmOf (fld x 15 3), decide (fld x 14 1 = 1), decide (fld x 13 1 = 1), sregOf (fld x 8 5),
    BitVec.ofNat 8 (fld x 0 8)⟩

def Px.immX : Px → ImmX
  | .imm x => .imm (BitVec.ofNat 22 x)
  | _ => .none
def Px.ordX : Px → OrdX
  | .ord x => .ord (ordFields x)
  | _ => .none
def Px.remX : Px → RemX
  | .imm x => .imm (BitVec.ofNat 22 x)
  | .ord x => .ord (ordFields x)
  | _ => .none
def Px.vecX : Px → VecX
  | .vec x => .vec (vecFields x)
  | _ => .none

/-- The default fields when there is no prefix, for the forms that need one. -/
def Px.vecP : Px → VecPfx
  | .vec x => vecFields x
  | _ => ⟨.i8, .rne, false, false, .g 0, 0⟩

/-- Format and rounding codes that R34 and R39 assign. -/
def Px.codesOk : Px → Bool
  | .vec x => decide (fld x 18 4 < 13) && !(fld x 15 3 == 5 || fld x 15 3 == 6)
  | _ => true

/-- GID is zero unless SCOPE is .grp. -/
def Px.gidOk : Px → Bool
  | .ord x => fld x 18 2 == 1 || fld x 10 8 == 0
  | _ => true

/-- The last checks, in the order of R70: prefix accepted, ILLFMT, RSVBITS. -/
def chk (accept fmt rsv : Bool) (i : Instr) : Except DecodeFault Instr :=
  if !accept then .error .longform
  else if !fmt then .error .illfmt
  else if !rsv then .error .rsvbits
  else .ok i

/-- OP 0x01 (R68). -/
noncomputable def decodeAlu (px : Px) (w : Nat) : Except DecodeFault Instr :=
  let h := headOf w
  let d := fld w 15 5
  let a := fld w 10 5
  let b := fld w 5 5
  match fld w 0 5 with
  | 0 => chk px.isNone (true) (true) (.add h (sregOf d) (sregOf a) (sregOf b))
  | 1 => chk px.isNone (true) (true) (.sub h (sregOf d) (sregOf a) (sregOf b))
  | 2 => chk px.isNone (true) (true) (.and h (sregOf d) (sregOf a) (sregOf b))
  | 3 => chk px.isNone (true) (true) (.or h (sregOf d) (sregOf a) (sregOf b))
  | 4 => chk px.isNone (true) (true) (.xor h (sregOf d) (sregOf a) (sregOf b))
  | 5 => chk px.isNone (true) (true) (.sll h (sregOf d) (sregOf a) (sregOf b))
  | 6 => chk px.isNone (true) (true) (.srl h (sregOf d) (sregOf a) (sregOf b))
  | 7 => chk px.isNone (true) (true) (.sra h (sregOf d) (sregOf a) (sregOf b))
  | 8 => chk px.isNone (true) (true) (.min h (sregOf d) (sregOf a) (sregOf b))
  | 9 => chk px.isNone (true) (true) (.max h (sregOf d) (sregOf a) (sregOf b))
  | 10 => chk px.isNone (true) (true) (.minu h (sregOf d) (sregOf a) (sregOf b))
  | 11 => chk px.isNone (true) (true) (.maxu h (sregOf d) (sregOf a) (sregOf b))
  | 12 => chk px.isNone (true) (true) (.mul h (sregOf d) (sregOf a) (sregOf b))
  | 13 => chk px.isNone (true) (true) (.mulh h (sregOf d) (sregOf a) (sregOf b))
  | 14 => chk px.isNone (true) (true) (.mulhu h (sregOf d) (sregOf a) (sregOf b))
  | 15 => chk px.isNone (true) (true) (.div h (sregOf d) (sregOf a) (sregOf b))
  | 16 => chk px.isNone (true) (true) (.divu h (sregOf d) (sregOf a) (sregOf b))
  | 17 => chk px.isNone (true) (true) (.rem h (sregOf d) (sregOf a) (sregOf b))
  | 18 => chk px.isNone (true) (true) (.remu h (sregOf d) (sregOf a) (sregOf b))
  | 19 => chk px.isNone (true) (true) (.adds h (sregOf d) (sregOf a) (sregOf b))
  | 20 => chk px.isNone (true) (true) (.subs h (sregOf d) (sregOf a) (sregOf b))
  | 21 => chk px.isNone (true) (b == 0) (.clz h (sregOf d) (sregOf a))
  | 22 => chk px.isNone (true) (b == 0) (.popc h (sregOf d) (sregOf a))
  | 23 => chk px.isNone (true) (true) (.andn h (sregOf d) (sregOf a) (sregOf b))
  | 24 => chk px.isNone (true) (true) (.orn h (sregOf d) (sregOf a) (sregOf b))
  | _ => .error .illfn

/-- OP 0x09 (R68). -/
noncomputable def decodeCmp (px : Px) (w : Nat) : Except DecodeFault Instr :=
  let h := headOf w
  let d := fld w 15 5
  let a := fld w 10 5
  let b := fld w 5 5
  match fld w 0 5 with
  | 0 => chk px.isNone (decide (d < 8)) (true) (.cmpEq h (Fin.ofNat 8 d) (sregOf a) (sregOf b))
  | 1 => chk px.isNone (decide (d < 8)) (true) (.cmpNe h (Fin.ofNat 8 d) (sregOf a) (sregOf b))
  | 2 => chk px.isNone (decide (d < 8)) (true) (.cmpLt h (Fin.ofNat 8 d) (sregOf a) (sregOf b))
  | 3 => chk px.isNone (decide (d < 8)) (true) (.cmpGe h (Fin.ofNat 8 d) (sregOf a) (sregOf b))
  | 4 => chk px.isNone (decide (d < 8)) (true) (.cmpLtu h (Fin.ofNat 8 d) (sregOf a) (sregOf b))
  | 5 => chk px.isNone (decide (d < 8)) (true) (.cmpGeu h (Fin.ofNat 8 d) (sregOf a) (sregOf b))
  | 6 => chk px.isNone (decide (d < 8)) (true) (.cmpBits h (Fin.ofNat 8 d) (sregOf a) (sregOf b))
  | 7 => chk px.isNone (decide (d < 8)) (true) (.cmpNbits h (Fin.ofNat 8 d) (sregOf a) (sregOf b))
  | _ => .error .illfn

/-- OP 0x0B (R68). -/
noncomputable def decodePred (px : Px) (w : Nat) : Except DecodeFault Instr :=
  let h := headOf w
  let d := fld w 15 5
  let a := fld w 10 5
  let b := fld w 5 5
  match fld w 0 5 with
  | 0 => chk px.isNone (decide (d < 8) && decide (a < 8) && decide (b < 8)) (true) (.pand h (Fin.ofNat 8 d) (Fin.ofNat 8 a) (Fin.ofNat 8 b))
  | 1 => chk px.isNone (decide (d < 8) && decide (a < 8) && decide (b < 8)) (true) (.por h (Fin.ofNat 8 d) (Fin.ofNat 8 a) (Fin.ofNat 8 b))
  | 2 => chk px.isNone (decide (d < 8) && decide (a < 8) && decide (b < 8)) (true) (.pxor h (Fin.ofNat 8 d) (Fin.ofNat 8 a) (Fin.ofNat 8 b))
  | 3 => chk px.isNone (decide (d < 8) && decide (a < 8) && decide (b < 8)) (true) (.pandn h (Fin.ofNat 8 d) (Fin.ofNat 8 a) (Fin.ofNat 8 b))
  | 4 => chk px.isNone (decide (d < 8) && decide (a < 8)) (b == 0) (.pnot h (Fin.ofNat 8 d) (Fin.ofNat 8 a))
  | 5 => chk px.isNone (decide (d < 8) && decide (a < 8)) (b == 0) (.pmov h (Fin.ofNat 8 d) (Fin.ofNat 8 a))
  | 6 => chk px.isNone (decide (d < 8)) (a == 0 && b == 0) (.pset h (Fin.ofNat 8 d))
  | 7 => chk px.isNone (decide (d < 8)) (a == 0 && b == 0) (.pclr h (Fin.ofNat 8 d))
  | _ => .error .illfn

/-- OP 0x0C (R68). -/
noncomputable def decodeExt (px : Px) (w : Nat) : Except DecodeFault Instr :=
  let h := headOf w
  let d := fld w 15 5
  let a := fld w 10 5
  let b := fld w 5 5
  match fld w 0 5 with
  | 0 => chk px.isNone (true) (b == 0) (.sext8 h (sregOf d) (sregOf a))
  | 1 => chk px.isNone (true) (b == 0) (.sext16 h (sregOf d) (sregOf a))
  | 2 => chk px.isNone (true) (b == 0) (.sext32 h (sregOf d) (sregOf a))
  | 3 => chk px.isNone (true) (b == 0) (.zext8 h (sregOf d) (sregOf a))
  | 4 => chk px.isNone (true) (b == 0) (.zext16 h (sregOf d) (sregOf a))
  | 5 => chk px.isNone (true) (b == 0) (.zext32 h (sregOf d) (sregOf a))
  | 6 => chk px.isNone (true) (b == 0) (.bswap h (sregOf d) (sregOf a))
  | 7 => chk px.isNone (true) (b == 0) (.ctz h (sregOf d) (sregOf a))
  | _ => .error .illfn

/-- OP 0x0D (R68). -/
noncomputable def decodePeer (px : Px) (w : Nat) : Except DecodeFault Instr :=
  let h := headOf w
  let d := fld w 15 5
  let a := fld w 10 5
  let b := fld w 5 5
  match fld w 0 5 with
  | 0 => chk px.isNone (true) (true) (.peer h (sregOf d) (sregOf a) (sregOf b))
  | 1 => chk px.isNone (true) (true) (.peero h (sregOf d) (sregOf a) (sregOf b))
  | 2 => chk px.isNone (true) (b == 0) (.pidx h (sregOf d) (sregOf a))
  | _ => .error .illfn

/-- OP 0x0E (R68). -/
noncomputable def decodeMask (px : Px) (w : Nat) : Except DecodeFault Instr :=
  let h := headOf w
  let d := fld w 15 5
  let a := fld w 10 5
  let b := fld w 5 5
  match fld w 0 5 with
  | 0 => chk px.isNone (decide (d < 8) && decide (a < 8) && decide (b < 8)) (true) (.mand h (Fin.ofNat 8 d) (Fin.ofNat 8 a) (Fin.ofNat 8 b))
  | 1 => chk px.isNone (decide (d < 8) && decide (a < 8) && decide (b < 8)) (true) (.mor h (Fin.ofNat 8 d) (Fin.ofNat 8 a) (Fin.ofNat 8 b))
  | 2 => chk px.isNone (decide (d < 8) && decide (a < 8) && decide (b < 8)) (true) (.mxor h (Fin.ofNat 8 d) (Fin.ofNat 8 a) (Fin.ofNat 8 b))
  | 3 => chk px.isNone (decide (d < 8) && decide (a < 8) && decide (b < 8)) (true) (.mandn h (Fin.ofNat 8 d) (Fin.ofNat 8 a) (Fin.ofNat 8 b))
  | 4 => chk px.isNone (decide (d < 8) && decide (a < 8)) (b == 0) (.mnot h (Fin.ofNat 8 d) (Fin.ofNat 8 a))
  | 5 => chk px.isNone (decide (d < 8)) (b == 0) (.mset h (Fin.ofNat 8 d) (sregOf a))
  | 6 => chk px.isNone (decide (a < 8)) (b == 0) (.mget h (sregOf d) (Fin.ofNat 8 a))
  | 7 => chk px.isNone (decide (a < 8)) (b == 0) (.mpop h (sregOf d) (Fin.ofNat 8 a))
  | 8 => chk px.isNone (decide (a < 8)) (b == 0) (.mfirst h (sregOf d) (Fin.ofNat 8 a))
  | _ => .error .illfn

/-- OP 0x12 (R68). -/
noncomputable def decodeJump (px : Px) (w : Nat) : Except DecodeFault Instr :=
  let h := headOf w
  let d := fld w 15 5
  let a := fld w 10 5
  let b := fld w 5 5
  match fld w 0 5 with
  | 0 => chk px.isNone (true) (d == 0 && b == 0) (.jr h (sregOf a))
  | 1 => chk px.isNone (true) (b == 0) (.jalr h (sregOf d) (sregOf a))
  | 2 => chk px.isNone (true) (d == 0 && a == 0 && b == 0) (.ret h)
  | _ => .error .illfn

/-- OP 0x14 (R68). -/
noncomputable def decodeControl (px : Px) (w : Nat) : Except DecodeFault Instr :=
  let h := headOf w
  let d := fld w 15 5
  let a := fld w 10 5
  let b := fld w 5 5
  match fld w 0 5 with
  | 0 => chk px.isNone (true) (b == 0) (.wait h (sregOf d) (sregOf a))
  | 1 => chk px.takesOrd (ordIn [.rlx, .acq] px.ordX) (px.gidOk && ordNoOfx px.ordX) (.waita h px.ordX (sregOf d) (sregOf a) (sregOf b))
  | 2 => chk px.isNone (true) (d == 0 && a == 0 && b == 0) (.yield h)
  | 3 => chk px.isNone (true) (d == 0 && a == 0 && b == 0) (.endTask h)
  | 4 => chk px.isNone (true) (d == 0 && b == 0) (.trap h (sregOf a))
  | 5 => chk px.isNone (true) (d == 0 && a == 0 && b == 0) (.isync h)
  | 6 => chk px.isNone (true) (d == 0 && a == 0 && b == 0) (.nop h)
  | _ => .error .illfn

/-- OP 0x1D (R68). -/
noncomputable def decodeQld (px : Px) (w : Nat) : Except DecodeFault Instr :=
  let h := headOf w
  let d := fld w 15 5
  let a := fld w 10 5
  let b := fld w 5 5
  match fld w 0 5 with
  | 0 => chk px.isNone (decide (d < 16)) (true) (.qldQb8 h (Fin.ofNat 16 d) (sregOf a) (sregOf b))
  | 1 => chk px.isNone (decide (d < 16)) (true) (.qldQb4 h (Fin.ofNat 16 d) (sregOf a) (sregOf b))
  | 2 => chk px.isNone (decide (d < 16)) (true) (.qstQb8 h (Fin.ofNat 16 d) (sregOf a) (sregOf b))
  | 3 => chk px.isNone (decide (d < 16)) (true) (.qstQb4 h (Fin.ofNat 16 d) (sregOf a) (sregOf b))
  | _ => .error .illfn

/-- OP 0x24 (R68). -/
noncomputable def decodeRvld (px : Px) (w : Nat) : Except DecodeFault Instr :=
  let h := headOf w
  let d := fld w 15 5
  let a := fld w 10 5
  let b := fld w 5 5
  match fld w 0 5 with
  | 0 => chk px.takesOrd (decide (d < 16) && ordIn [.rlx, .acq] px.ordX) (px.gidOk && ordNoOfx px.ordX) (.rvld h px.ordX (Fin.ofNat 16 d) (sregOf a) (sregOf b))
  | _ => .error .illfn

/-- OP 0x25 (R68). -/
noncomputable def decodeRvst (px : Px) (w : Nat) : Except DecodeFault Instr :=
  let h := headOf w
  let d := fld w 15 5
  let a := fld w 10 5
  let b := fld w 5 5
  match fld w 0 5 with
  | 0 => chk px.takesOrd (decide (d < 16) && ordIn [.rlx, .rel] px.ordX) (px.gidOk && ordNoOfx px.ordX) (.rvst h px.ordX (Fin.ofNat 16 d) (sregOf a) (sregOf b))
  | _ => .error .illfn

/-- OP 0x28 (R68). -/
noncomputable def decodeToken (px : Px) (w : Nat) : Except DecodeFault Instr :=
  let h := headOf w
  let d := fld w 15 5
  let a := fld w 10 5
  let b := fld w 5 5
  match fld w 0 5 with
  | 0 => chk px.isNone (true) (d == 0) (.tdecl h (sregOf a) (sregOf b))
  | 1 => chk px.isNone (true) (d == 0) (.tlend h (sregOf a) (sregOf b))
  | 2 => chk px.isNone (true) (d == 0 && b == 0) (.tret h (sregOf a))
  | 3 => chk px.isNone (true) (d == 0) (.tsplit h (sregOf a) (sregOf b))
  | 4 => chk px.isNone (true) (d == 0 && b == 0) (.tjoin h (sregOf a))
  | 5 => chk px.isNone (true) (d == 0) (.tshare h (sregOf a) (sregOf b))
  | 6 => chk px.isNone (true) (d == 0 && b == 0) (.tunsh h (sregOf a))
  | 7 => chk px.isNone (true) (true) (.tqry h (sregOf d) (sregOf a) (sregOf b))
  | 8 => chk px.isNone (true) (d == 0 && b == 0) (.trecl h (sregOf a))
  | 9 => chk px.isNone (true) (d == 0) (.tclean h (sregOf a) (sregOf b))
  | _ => .error .illfn

/-- OP 0x2C (R68). -/
noncomputable def decodeMessage (px : Px) (w : Nat) : Except DecodeFault Instr :=
  let h := headOf w
  let d := fld w 15 5
  let a := fld w 10 5
  let b := fld w 5 5
  match fld w 0 5 with
  | 0 => chk px.takesOrd (d % 4 == 0 && ordIn [.rlx, .rel] px.ordX) (px.gidOk && ordNoOfx px.ordX) (.send h px.ordX (BitVec.ofNat 3 (d / 4)) (sregOf a) (sregOf b))
  | 1 => chk px.takesOrd (ordIn [.rlx, .rel] px.ordX) (px.gidOk && d == 0 && ordNoOfx px.ordX) (.sendr h px.ordX (sregOf a) (sregOf b))
  | 2 => chk px.takesOrd (ordIn [.rlx] px.ordX) (px.gidOk && ordNoOfx px.ordX) (.door h px.ordX (sregOf d) (sregOf a) (sregOf b))
  | 3 => chk px.takesOrd (ordIn [.rlx] px.ordX) (px.gidOk && b == 0 && ordNoOfx px.ordX) (.doorq h px.ordX (sregOf d) (sregOf a))
  | 4 => chk px.takesOrd (ordIn [.rlx, .rel] px.ordX) (px.gidOk && d == 0 && ordNoOfx px.ordX) (.submit h px.ordX (sregOf a) (sregOf b))
  | 5 => chk px.takesOrd (ordIn [.rlx, .rel] px.ordX) (px.gidOk && d == 0 && ordNoOfx px.ordX) (.ckpt h px.ordX (sregOf a) (sregOf b))
  | _ => .error .illfn

/-- OP 0x2D (R68). -/
noncomputable def decodeCopy (px : Px) (w : Nat) : Except DecodeFault Instr :=
  let h := headOf w
  let d := fld w 15 5
  let a := fld w 10 5
  let b := fld w 5 5
  match fld w 0 5 with
  | 0 => chk px.takesOrd (ordIn [.rlx, .rel] px.ordX) (px.gidOk && d == 0 && ordNoOfx px.ordX) (.cpy h px.ordX (sregOf a) (sregOf b))
  | 1 => chk px.isNone (true) (a == 0 && b == 0) (.cpyq h (sregOf d))
  | 2 => chk px.takesOrd (ordIn [.rlx, .rel] px.ordX) (px.gidOk && d == 0 && ordNoOfx px.ordX) (.cpyx h px.ordX (sregOf a) (sregOf b))
  | _ => .error .illfn

/-- OP 0x38 (R68). -/
noncomputable def decodeMma (px : Px) (w : Nat) : Except DecodeFault Instr :=
  let h := headOf w
  let d := fld w 15 5
  let a := fld w 10 5
  let b := fld w 5 5
  match fld w 0 5 with
  | 0 => chk px.isNone (decide (d < 4)) (true) (.mmaF8f8 h (Fin.ofNat 4 d) (sregOf a) (sregOf b))
  | 1 => chk px.isNone (decide (d < 4)) (true) (.mmaB16b16 h (Fin.ofNat 4 d) (sregOf a) (sregOf b))
  | 2 => chk px.isNone ((d == 0 || d == 2)) (true) (.mmaF8i4 h (decide (d = 2)) (sregOf a) (sregOf b))
  | 3 => chk px.isNone ((d == 0 || d == 2)) (true) (.mmaB16i4 h (decide (d = 2)) (sregOf a) (sregOf b))
  | 4 => chk px.isNone ((d == 0 || d == 2)) (true) (.mmaB16l4 h (decide (d = 2)) (sregOf a) (sregOf b))
  | 5 => chk px.isNone (decide (d < 4)) (true) (.mmaQb8 h (Fin.ofNat 4 d) (sregOf a) (sregOf b))
  | 6 => chk px.isNone (decide (d < 4)) (true) (.mmaQb4 h (Fin.ofNat 4 d) (sregOf a) (sregOf b))
  | _ => .error .illfn

/-- OP 0x39 (R68). -/
noncomputable def decodePlane (px : Px) (w : Nat) : Except DecodeFault Instr :=
  let h := headOf w
  let d := fld w 15 5
  let a := fld w 10 5
  let b := fld w 5 5
  match fld w 0 5 with
  | 0 => chk px.isNone (true) (d == 0) (.mldw h (sregOf a) (sregOf b))
  | 1 => chk px.isNone (true) (d == 0 && a == 0 && b == 0) (.mswap h)
  | 2 => chk px.isNone (decide (d < 4) && decide (a < 16)) (b == 0) (.mldk h (Fin.ofNat 4 d) (Fin.ofNat 16 a))
  | 3 => chk px.isNone ((d == 0 || d == 2) && decide (a < 16) && decide (b < 16)) (true) (.mcolq h (decide (d = 2)) (Fin.ofNat 16 a) (Fin.ofNat 16 b))
  | 4 => chk px.isNone (decide (d < 4)) (a == 0 && b == 0) (.mzero h (Fin.ofNat 4 d))
  | 5 => if b / 4 % 2 = 0 then chk px.isNone (decide (d < 16) && decide (a < 4)) (b / 8 == 0) (.mmovaToVector h (Fin.ofNat 16 d) (Fin.ofNat 4 a) (BitVec.ofNat 2 b))
    else chk px.isNone (decide (d < 4) && decide (a < 16)) (b / 8 == 0) (.mmovaToAcc h (Fin.ofNat 4 d) (Fin.ofNat 16 a) (BitVec.ofNat 2 b))
  | 6 => chk px.isNone (decide (d < 16) && decide (a < 4)) (b == 0) (.mrsum h (Fin.ofNat 16 d) (Fin.ofNat 4 a))
  | 7 => chk px.isNone (decide (a < 4)) (b == 0) (.mchk h (sregOf d) (Fin.ofNat 4 a))
  | 8 => chk px.isNone (true) (a == 0 && b == 0) (.msync h (sregOf d))
  | _ => .error .illfn

/-- OP 0x3A (R68). -/
noncomputable def decodeDrain (px : Px) (w : Nat) : Except DecodeFault Instr :=
  let h := headOf w
  let d := fld w 15 5
  let a := fld w 10 5
  let b := fld w 5 5
  match fld w 0 5 with
  | 4 => chk px.takesVec (px.codesOk && decide (d < 16) && decide (a < 4) && vecFmt ⟨true, false, 3, 0, [.f32, .ba32]⟩ px.vecX) (b / 8 == 0 && vecRsv ⟨true, false, 3, 0, [.f32, .ba32]⟩ px.vecX 0) (.mdrainF32 h px.vecX (Fin.ofNat 16 d) (Fin.ofNat 4 a) (BitVec.ofNat 2 b) (decide (b / 4 % 2 = 1)))
  | 5 => chk px.takesVec (px.codesOk && decide (d < 16) && decide (a < 4) && vecFmt ⟨true, false, 3, 0, [.f32, .ba32]⟩ px.vecX && decide ((BitVec.ofNat 2 b).toNat < 2)) (b / 8 == 0 && vecRsv ⟨true, false, 3, 0, [.f32, .ba32]⟩ px.vecX 0) (.mdrainBf16 h px.vecX (Fin.ofNat 16 d) (Fin.ofNat 4 a) (BitVec.ofNat 2 b) (decide (b / 4 % 2 = 1)))
  | 6 => chk px.takesVec (px.codesOk && decide (d < 16) && decide (a < 4) && vecFmt ⟨true, true, 3, 0, [.f32, .ba32]⟩ px.vecX && decide ((BitVec.ofNat 2 b) = 0)) (b / 8 == 0 && vecRsv ⟨true, true, 3, 0, [.f32, .ba32]⟩ px.vecX 0) (.mdrainE4m3 h px.vecX (Fin.ofNat 16 d) (Fin.ofNat 4 a) (BitVec.ofNat 2 b) (decide (b / 4 % 2 = 1)))
  | 7 => chk px.takesVec (px.codesOk && decide (d < 16) && decide (a < 4) && vecFmt ⟨true, true, 3, 0, [.f32, .ba32]⟩ px.vecX && decide ((BitVec.ofNat 2 b) = 0)) (b / 8 == 0 && vecRsv ⟨true, true, 3, 0, [.f32, .ba32]⟩ px.vecX 0) (.mdrainE5m2 h px.vecX (Fin.ofNat 16 d) (Fin.ofNat 4 a) (BitVec.ofNat 2 b) (decide (b / 4 % 2 = 1)))
  | 8 => chk px.takesVec (px.codesOk && decide (d < 16) && decide (a < 4) && vecFmt ⟨true, false, 3, 0, [.f32, .ba32]⟩ px.vecX) (b / 8 == 0 && vecRsv ⟨true, false, 3, 0, [.f32, .ba32]⟩ px.vecX 0) (.mdrainQb8 h px.vecX (Fin.ofNat 16 d) (Fin.ofNat 4 a) (BitVec.ofNat 2 b) (decide (b / 4 % 2 = 1)))
  | 9 => chk px.takesVec (px.codesOk && decide (d < 16) && decide (a < 4) && vecFmt ⟨true, false, 3, 0, [.f32, .ba32]⟩ px.vecX) (b / 8 == 0 && vecRsv ⟨true, false, 3, 0, [.f32, .ba32]⟩ px.vecX 0) (.mdrainQb4 h px.vecX (Fin.ofNat 16 d) (Fin.ofNat 4 a) (BitVec.ofNat 2 b) (decide (b / 4 % 2 = 1)))
  | 12 => chk px.takesVec (px.codesOk && decide (d < 16) && decide (a < 4) && vecFmt ⟨true, false, 3, 0, [.f32, .ba32]⟩ px.vecX) (b / 8 == 0 && vecRsv ⟨true, false, 3, 0, [.f32, .ba32]⟩ px.vecX 0) (.mdrainBa32 h px.vecX (Fin.ofNat 16 d) (Fin.ofNat 4 a) (BitVec.ofNat 2 b) (decide (b / 4 % 2 = 1)))
  | _ => .error .illfn

/-- OP 0x3C (R68). -/
noncomputable def decodeLatch (px : Px) (w : Nat) : Except DecodeFault Instr :=
  let h := headOf w
  let d := fld w 15 5
  let a := fld w 10 5
  let b := fld w 5 5
  match fld w 0 5 with
  | 0 => chk px.takesOrd (ordIn [.rlx, .rel] px.ordX) (px.gidOk && d == 0 && ordNoOfx px.ordX) (.linit h px.ordX (sregOf a) (sregOf b))
  | 1 => chk px.takesOrd (ordIn [.rlx, .rel, .ar] px.ordX) (px.gidOk && ordNoOfx px.ordX) (.larv h px.ordX (sregOf d) (sregOf a) (sregOf b))
  | 2 => chk px.takesOrd (ordIn [.rlx, .acq] px.ordX) (px.gidOk && ordNoOfx px.ordX) (.lwait h px.ordX (sregOf d) (sregOf a) (sregOf b))
  | 3 => chk px.takesOrd (ordIn [.rlx, .acq] px.ordX) (px.gidOk && b == 0 && ordNoOfx px.ordX) (.ltest h px.ordX (sregOf d) (sregOf a))
  | 4 => chk px.takesOrd (ordIn [.rlx] px.ordX) (px.gidOk && d == 0 && ordNoOfx px.ordX) (.lreg h px.ordX (sregOf a) (sregOf b))
  | 5 => chk px.takesOrd (ordIn [.rlx, .rel] px.ordX) (px.gidOk && d == 0 && ordNoOfx px.ordX) (.ldrop h px.ordX (sregOf a) (sregOf b))
  | 6 => chk px.takesOrd (ordIn [.rlx, .rel] px.ordX) (px.gidOk && ordNoOfx px.ordX) (.lbytes h px.ordX (sregOf d) (sregOf a) (sregOf b))
  | _ => .error .illfn

/-- OP 0x3D (R68). -/
noncomputable def decodeRng (px : Px) (w : Nat) : Except DecodeFault Instr :=
  let h := headOf w
  let d := fld w 15 5
  let a := fld w 10 5
  let b := fld w 5 5
  match fld w 0 5 with
  | 0 => chk px.isNone (true) (a == 0 && b == 0) (.rngget h (sregOf d))
  | _ => .error .illfn

/-- OP 0x3E (R68). -/
noncomputable def decodeFp (px : Px) (w : Nat) : Except DecodeFault Instr :=
  let h := headOf w
  let d := fld w 15 5
  let a := fld w 10 5
  let b := fld w 5 5
  match fld w 0 5 with
  | 0 => chk px.takesVec (px.codesOk && vecFmt ⟨true, false, 3, 0, []⟩ px.vecX) (vecRsv ⟨true, false, 3, 0, []⟩ px.vecX 0) (.fadd h px.vecX (sregOf d) (sregOf a) (sregOf b))
  | 1 => chk px.takesVec (px.codesOk && vecFmt ⟨true, false, 3, 0, []⟩ px.vecX) (vecRsv ⟨true, false, 3, 0, []⟩ px.vecX 0) (.fsub h px.vecX (sregOf d) (sregOf a) (sregOf b))
  | 2 => chk px.takesVec (px.codesOk && vecFmt ⟨true, false, 3, 0, []⟩ px.vecX) (vecRsv ⟨true, false, 3, 0, []⟩ px.vecX 0) (.fmul h px.vecX (sregOf d) (sregOf a) (sregOf b))
  | 3 => chk px.takesVec (px.codesOk && vecFmt ⟨true, false, 3, 0, []⟩ px.vecX) (vecRsv ⟨true, false, 3, 0, []⟩ px.vecX 0) (.fdiv h px.vecX (sregOf d) (sregOf a) (sregOf b))
  | 4 => chk px.takesVec (px.codesOk && vecFmt ⟨true, false, 3, 0, []⟩ px.vecX) (b == 0 && vecRsv ⟨true, false, 3, 0, []⟩ px.vecX 0) (.fsqrt h px.vecX (sregOf d) (sregOf a))
  | 5 => chk px.takesVec (px.codesOk && vecFmt ⟨true, false, 3, 0, []⟩ px.vecX) (vecRsv ⟨true, false, 3, 0, []⟩ px.vecX 0) (.fma h px.vecX (sregOf d) (sregOf a) (sregOf b))
  | 6 => chk px.takesVec (px.codesOk && vecFmt ⟨true, false, 3, 0, []⟩ px.vecX) (vecRsv ⟨true, false, 3, 0, []⟩ px.vecX 0) (.fmin h px.vecX (sregOf d) (sregOf a) (sregOf b))
  | 7 => chk px.takesVec (px.codesOk && vecFmt ⟨true, false, 3, 0, []⟩ px.vecX) (vecRsv ⟨true, false, 3, 0, []⟩ px.vecX 0) (.fmax h px.vecX (sregOf d) (sregOf a) (sregOf b))
  | 8 => chk px.takesVec (px.codesOk && decide (d < 8) && vecFmt ⟨true, false, 3, 0, []⟩ px.vecX) (vecRsv ⟨true, false, 3, 0, []⟩ px.vecX 0) (.feq h px.vecX (Fin.ofNat 8 d) (sregOf a) (sregOf b))
  | 9 => chk px.takesVec (px.codesOk && decide (d < 8) && vecFmt ⟨true, false, 3, 0, []⟩ px.vecX) (vecRsv ⟨true, false, 3, 0, []⟩ px.vecX 0) (.flt h px.vecX (Fin.ofNat 8 d) (sregOf a) (sregOf b))
  | 10 => chk px.takesVec (px.codesOk && decide (d < 8) && vecFmt ⟨true, false, 3, 0, []⟩ px.vecX) (vecRsv ⟨true, false, 3, 0, []⟩ px.vecX 0) (.fle h px.vecX (Fin.ofNat 8 d) (sregOf a) (sregOf b))
  | 11 => chk px.takesVec (px.codesOk && vecFmt ⟨true, false, 3, 0, [.i32, .f32, .i64]⟩ px.vecX) (b == 0 && vecRsv ⟨true, false, 3, 0, [.i32, .f32, .i64]⟩ px.vecX 0) (.fcvti h px.vecX (sregOf d) (sregOf a))
  | 12 => chk px.takesVec (px.codesOk && vecFmt ⟨true, false, 3, 0, [.i32, .f32, .i64]⟩ px.vecX) (b == 0 && vecRsv ⟨true, false, 3, 0, [.i32, .f32, .i64]⟩ px.vecX 0) (.fcvtf h px.vecX (sregOf d) (sregOf a))
  | 13 => chk px.takesVec (px.codesOk && vecFmt ⟨true, false, 3, 0, []⟩ px.vecX) (b == 0 && vecRsv ⟨true, false, 3, 0, []⟩ px.vecX 0) (.fabs h px.vecX (sregOf d) (sregOf a))
  | 14 => chk px.takesVec (px.codesOk && vecFmt ⟨true, false, 3, 0, []⟩ px.vecX) (b == 0 && vecRsv ⟨true, false, 3, 0, []⟩ px.vecX 0) (.fneg h px.vecX (sregOf d) (sregOf a))
  | 15 => chk px.takesVec (px.codesOk && vecFmt ⟨true, false, 3, 0, []⟩ px.vecX) (b == 0 && vecRsv ⟨true, false, 3, 0, []⟩ px.vecX 0) (.fclass h px.vecX (sregOf d) (sregOf a))
  | _ => .error .illfn

/-- OP 0x06: shifts by an immediate; IMM10[9:8] must be zero (R64). -/
noncomputable def decodeShift (px : Px) (w : Nat) : Except DecodeFault Instr :=
  match fld w 6 2 with
  | 0 => chk px.isNone (true) (fld w 8 2 == 0) (.slli (headOf w) (sregOf (fld w 15 5)) (sregOf (fld w 10 5)) (BitVec.ofNat 6 (fld w 0 6)))
  | 1 => chk px.isNone (true) (fld w 8 2 == 0) (.srli (headOf w) (sregOf (fld w 15 5)) (sregOf (fld w 10 5)) (BitVec.ofNat 6 (fld w 0 6)))
  | 2 => chk px.isNone (true) (fld w 8 2 == 0) (.srai (headOf w) (sregOf (fld w 15 5)) (sregOf (fld w 10 5)) (BitVec.ofNat 6 (fld w 0 6)))
  | _ => chk px.isNone (true) (fld w 8 2 == 0) (.rori (headOf w) (sregOf (fld w 15 5)) (sregOf (fld w 10 5)) (BitVec.ofNat 6 (fld w 0 6)))

/-- OP 0x0A: COND selects the comparison (R64). -/
noncomputable def decodeCmpi (px : Px) (w : Nat) : Except DecodeFault Instr :=
  match fld w 7 3 with
  | 0 => chk px.takesImm (decide (fld w 15 5 < 8)) (true) (.cmpiEq (headOf w) px.immX (Fin.ofNat 8 (fld w 15 5)) (sregOf (fld w 10 5)) (BitVec.ofNat 7 (fld w 0 7)))
  | 1 => chk px.takesImm (decide (fld w 15 5 < 8)) (true) (.cmpiNe (headOf w) px.immX (Fin.ofNat 8 (fld w 15 5)) (sregOf (fld w 10 5)) (BitVec.ofNat 7 (fld w 0 7)))
  | 2 => chk px.takesImm (decide (fld w 15 5 < 8)) (true) (.cmpiLt (headOf w) px.immX (Fin.ofNat 8 (fld w 15 5)) (sregOf (fld w 10 5)) (BitVec.ofNat 7 (fld w 0 7)))
  | 3 => chk px.takesImm (decide (fld w 15 5 < 8)) (true) (.cmpiGe (headOf w) px.immX (Fin.ofNat 8 (fld w 15 5)) (sregOf (fld w 10 5)) (BitVec.ofNat 7 (fld w 0 7)))
  | 4 => chk px.takesImm (decide (fld w 15 5 < 8)) (true) (.cmpiLtu (headOf w) px.immX (Fin.ofNat 8 (fld w 15 5)) (sregOf (fld w 10 5)) (BitVec.ofNat 7 (fld w 0 7)))
  | 5 => chk px.takesImm (decide (fld w 15 5 < 8)) (true) (.cmpiGeu (headOf w) px.immX (Fin.ofNat 8 (fld w 15 5)) (sregOf (fld w 10 5)) (BitVec.ofNat 7 (fld w 0 7)))
  | 6 => chk px.takesImm (decide (fld w 15 5 < 8)) (true) (.cmpiBits (headOf w) px.immX (Fin.ofNat 8 (fld w 15 5)) (sregOf (fld w 10 5)) (BitVec.ofNat 7 (fld w 0 7)))
  | _ => chk px.takesImm (decide (fld w 15 5 < 8)) (true) (.cmpiNbits (headOf w) px.immX (Fin.ofNat 8 (fld w 15 5)) (sregOf (fld w 10 5)) (BitVec.ofNat 7 (fld w 0 7)))

/-- OP 0x1C, format G. -/
noncomputable def decodeGather (px : Px) (w : Nat) : Except DecodeFault Instr :=
  match fld w 0 2 with
  | 0 => chk px.isNone (true) (fld w 15 1 == 0 && (fld w 5 1 == 1 || fld w 2 3 == 0)) (.vgathI32 (headOf w) (Fin.ofNat 16 (fld w 16 4)) (sregOf (fld w 10 5)) (Fin.ofNat 16 (fld w 6 4)) (maskOf (fld w 5 1) (fld w 2 3)))
  | 1 => chk px.isNone (true) (fld w 15 1 == 0 && (fld w 5 1 == 1 || fld w 2 3 == 0)) (.vscatI32 (headOf w) (Fin.ofNat 16 (fld w 16 4)) (sregOf (fld w 10 5)) (Fin.ofNat 16 (fld w 6 4)) (maskOf (fld w 5 1) (fld w 2 3)))
  | 2 => chk px.isNone (true) (fld w 15 1 == 0 && (fld w 5 1 == 1 || fld w 2 3 == 0)) (.vgathI16 (headOf w) (Fin.ofNat 16 (fld w 16 4)) (sregOf (fld w 10 5)) (Fin.ofNat 16 (fld w 6 4)) (maskOf (fld w 5 1) (fld w 2 3)))
  | _ => chk px.isNone (true) (fld w 15 1 == 0 && (fld w 5 1 == 1 || fld w 2 3 == 0)) (.vscatI16 (headOf w) (Fin.ofNat 16 (fld w 16 4)) (sregOf (fld w 10 5)) (Fin.ofNat 16 (fld w 6 4)) (maskOf (fld w 5 1) (fld w 2 3)))

/-- OP 0x22, format A: AOP 13 to 15 are ILLFN, W refused by R68 is ILLFMT. -/
noncomputable def decodeAtom (px : Px) (w : Nat) : Except DecodeFault Instr :=
  match fld w 0 4 with
  | 0 => chk px.takesOrd (ordIn [.rlx, .acq, .rel, .ar] px.ordX) (px.gidOk && ordNoOfx px.ordX) (.atomAdd (headOf w) px.ordX (sregOf (fld w 15 5)) (sregOf (fld w 10 5)) (sregOf (fld w 5 5)) (decide (fld w 4 1 = 1)))
  | 1 => chk px.takesOrd (ordIn [.rlx, .acq, .rel, .ar] px.ordX) (px.gidOk && ordNoOfx px.ordX) (.atomSub (headOf w) px.ordX (sregOf (fld w 15 5)) (sregOf (fld w 10 5)) (sregOf (fld w 5 5)) (decide (fld w 4 1 = 1)))
  | 2 => chk px.takesOrd (ordIn [.rlx, .acq, .rel, .ar] px.ordX) (px.gidOk && ordNoOfx px.ordX) (.atomAnd (headOf w) px.ordX (sregOf (fld w 15 5)) (sregOf (fld w 10 5)) (sregOf (fld w 5 5)) (decide (fld w 4 1 = 1)))
  | 3 => chk px.takesOrd (ordIn [.rlx, .acq, .rel, .ar] px.ordX) (px.gidOk && ordNoOfx px.ordX) (.atomOr (headOf w) px.ordX (sregOf (fld w 15 5)) (sregOf (fld w 10 5)) (sregOf (fld w 5 5)) (decide (fld w 4 1 = 1)))
  | 4 => chk px.takesOrd (ordIn [.rlx, .acq, .rel, .ar] px.ordX) (px.gidOk && ordNoOfx px.ordX) (.atomXor (headOf w) px.ordX (sregOf (fld w 15 5)) (sregOf (fld w 10 5)) (sregOf (fld w 5 5)) (decide (fld w 4 1 = 1)))
  | 5 => chk px.takesOrd (ordIn [.rlx, .acq, .rel, .ar] px.ordX) (px.gidOk && ordNoOfx px.ordX) (.atomMin (headOf w) px.ordX (sregOf (fld w 15 5)) (sregOf (fld w 10 5)) (sregOf (fld w 5 5)) (decide (fld w 4 1 = 1)))
  | 6 => chk px.takesOrd (ordIn [.rlx, .acq, .rel, .ar] px.ordX) (px.gidOk && ordNoOfx px.ordX) (.atomMax (headOf w) px.ordX (sregOf (fld w 15 5)) (sregOf (fld w 10 5)) (sregOf (fld w 5 5)) (decide (fld w 4 1 = 1)))
  | 7 => chk px.takesOrd (ordIn [.rlx, .acq, .rel, .ar] px.ordX) (px.gidOk && ordNoOfx px.ordX) (.atomMinu (headOf w) px.ordX (sregOf (fld w 15 5)) (sregOf (fld w 10 5)) (sregOf (fld w 5 5)) (decide (fld w 4 1 = 1)))
  | 8 => chk px.takesOrd (ordIn [.rlx, .acq, .rel, .ar] px.ordX) (px.gidOk && ordNoOfx px.ordX) (.atomMaxu (headOf w) px.ordX (sregOf (fld w 15 5)) (sregOf (fld w 10 5)) (sregOf (fld w 5 5)) (decide (fld w 4 1 = 1)))
  | 9 => chk px.takesOrd (ordIn [.rlx, .acq, .rel, .ar] px.ordX) (px.gidOk && ordNoOfx px.ordX) (.atomSwap (headOf w) px.ordX (sregOf (fld w 15 5)) (sregOf (fld w 10 5)) (sregOf (fld w 5 5)) (decide (fld w 4 1 = 1)))
  | 10 => chk px.takesOrd (ordIn [.rlx, .acq, .rel, .ar] px.ordX) (px.gidOk && ordNoOfx px.ordX) (.atomCas (headOf w) px.ordX (sregOf (fld w 15 5)) (sregOf (fld w 10 5)) (sregOf (fld w 5 5)) (decide (fld w 4 1 = 1)))
  | 11 => chk px.takesOrd (fld w 4 1 == 1 && ordIn [.rlx, .acq, .rel, .ar] px.ordX) (px.gidOk && ordNoOfx px.ordX) (.atomFaddF32 (headOf w) px.ordX (sregOf (fld w 15 5)) (sregOf (fld w 10 5)) (sregOf (fld w 5 5)))
  | 12 => chk px.takesOrd (fld w 4 1 == 0 && ordIn [.rlx, .acq, .rel, .ar] px.ordX) (px.gidOk && ordNoOfx px.ordX) (.atomBadd (headOf w) px.ordX (sregOf (fld w 15 5)) (sregOf (fld w 10 5)) (sregOf (fld w 5 5)))
  | _ => .error .illfn

/-- OP 0x23, format F. -/
noncomputable def decodeFence (px : Px) (w : Nat) : Except DecodeFault Instr :=
  match fld w 18 2 with
  | 0 => chk px.isNone false true (.fenceAcq (headOf w) .core)
  | 1 => chk px.isNone (true) (fld w 0 8 == 0 && (fld w 16 2 == 1 || fld w 8 8 == 0)) (.fenceAcq (headOf w) (scopeOf (fld w 16 2) (fld w 8 8)))
  | 2 => chk px.isNone (true) (fld w 0 8 == 0 && (fld w 16 2 == 1 || fld w 8 8 == 0)) (.fenceRel (headOf w) (scopeOf (fld w 16 2) (fld w 8 8)))
  | _ => chk px.isNone (true) (fld w 0 8 == 0 && (fld w 16 2 == 1 || fld w 8 8 == 0)) (.fenceAr (headOf w) (scopeOf (fld w 16 2) (fld w 8 8)))

/-- OP 0x30, format V (R68, R133). -/
noncomputable def decodeVecInt (px : Px) (w : Nat) : Except DecodeFault Instr :=
  let h := headOf w
  let d := fld w 16 4
  let a := fld w 12 4
  let b := fld w 8 4
  let me := fld w 7 1
  let mk := fld w 4 3
  match fld w 0 4 with
  | 0 => chk px.takesVec (px.codesOk && vecFmt ⟨false, false, 1, 0, []⟩ px.vecX) ((me == 1 || mk == 0) && vecRsv ⟨false, false, 1, 0, []⟩ px.vecX (Fin.ofNat 16 b)) (.vaddI32 h px.vecX (Fin.ofNat 16 d) (Fin.ofNat 16 a) (Fin.ofNat 16 b) (maskOf me mk))
  | 1 => chk px.takesVec (px.codesOk && vecFmt ⟨false, false, 1, 0, []⟩ px.vecX) ((me == 1 || mk == 0) && vecRsv ⟨false, false, 1, 0, []⟩ px.vecX (Fin.ofNat 16 b)) (.vsubI32 h px.vecX (Fin.ofNat 16 d) (Fin.ofNat 16 a) (Fin.ofNat 16 b) (maskOf me mk))
  | 2 => chk px.takesVec (px.codesOk && vecFmt ⟨false, false, 1, 0, []⟩ px.vecX) ((me == 1 || mk == 0) && vecRsv ⟨false, false, 1, 0, []⟩ px.vecX (Fin.ofNat 16 b)) (.vmulI32 h px.vecX (Fin.ofNat 16 d) (Fin.ofNat 16 a) (Fin.ofNat 16 b) (maskOf me mk))
  | 3 => chk px.takesVec (px.codesOk && vecFmt ⟨false, false, 1, 0, []⟩ px.vecX) ((me == 1 || mk == 0) && vecRsv ⟨false, false, 1, 0, []⟩ px.vecX (Fin.ofNat 16 b)) (.vmulhI32 h px.vecX (Fin.ofNat 16 d) (Fin.ofNat 16 a) (Fin.ofNat 16 b) (maskOf me mk))
  | 4 => chk px.takesVec (px.codesOk && vecFmt ⟨false, false, 1, 0, []⟩ px.vecX) ((me == 1 || mk == 0) && vecRsv ⟨false, false, 1, 0, []⟩ px.vecX (Fin.ofNat 16 b)) (.vminI32 h px.vecX (Fin.ofNat 16 d) (Fin.ofNat 16 a) (Fin.ofNat 16 b) (maskOf me mk))
  | 5 => chk px.takesVec (px.codesOk && vecFmt ⟨false, false, 1, 0, []⟩ px.vecX) ((me == 1 || mk == 0) && vecRsv ⟨false, false, 1, 0, []⟩ px.vecX (Fin.ofNat 16 b)) (.vmaxI32 h px.vecX (Fin.ofNat 16 d) (Fin.ofNat 16 a) (Fin.ofNat 16 b) (maskOf me mk))
  | 6 => chk px.takesVec (px.codesOk && vecFmt ⟨false, false, 1, 0, []⟩ px.vecX) ((me == 1 || mk == 0) && vecRsv ⟨false, false, 1, 0, []⟩ px.vecX (Fin.ofNat 16 b)) (.vand h px.vecX (Fin.ofNat 16 d) (Fin.ofNat 16 a) (Fin.ofNat 16 b) (maskOf me mk))
  | 7 => chk px.takesVec (px.codesOk && vecFmt ⟨false, false, 1, 0, []⟩ px.vecX) ((me == 1 || mk == 0) && vecRsv ⟨false, false, 1, 0, []⟩ px.vecX (Fin.ofNat 16 b)) (.vor h px.vecX (Fin.ofNat 16 d) (Fin.ofNat 16 a) (Fin.ofNat 16 b) (maskOf me mk))
  | 8 => chk px.takesVec (px.codesOk && vecFmt ⟨false, false, 1, 0, []⟩ px.vecX) ((me == 1 || mk == 0) && vecRsv ⟨false, false, 1, 0, []⟩ px.vecX (Fin.ofNat 16 b)) (.vxor h px.vecX (Fin.ofNat 16 d) (Fin.ofNat 16 a) (Fin.ofNat 16 b) (maskOf me mk))
  | 9 => chk px.takesVec (px.codesOk && vecFmt ⟨false, false, 1, 0, []⟩ px.vecX) ((me == 1 || mk == 0) && vecRsv ⟨false, false, 1, 0, []⟩ px.vecX (Fin.ofNat 16 b)) (.vsll h px.vecX (Fin.ofNat 16 d) (Fin.ofNat 16 a) (Fin.ofNat 16 b) (maskOf me mk))
  | 10 => chk px.takesVec (px.codesOk && vecFmt ⟨false, false, 1, 0, []⟩ px.vecX) ((me == 1 || mk == 0) && vecRsv ⟨false, false, 1, 0, []⟩ px.vecX (Fin.ofNat 16 b)) (.vsrl h px.vecX (Fin.ofNat 16 d) (Fin.ofNat 16 a) (Fin.ofNat 16 b) (maskOf me mk))
  | 11 => chk px.takesVec (px.codesOk && vecFmt ⟨false, false, 1, 0, []⟩ px.vecX) ((me == 1 || mk == 0) && vecRsv ⟨false, false, 1, 0, []⟩ px.vecX (Fin.ofNat 16 b)) (.vsra h px.vecX (Fin.ofNat 16 d) (Fin.ofNat 16 a) (Fin.ofNat 16 b) (maskOf me mk))
  | 12 => chk px.takesVec (px.codesOk && vecFmt ⟨false, false, 1, 0, []⟩ px.vecX) ((me == 1 || mk == 0) && vecRsv ⟨false, false, 1, 0, []⟩ px.vecX (Fin.ofNat 16 b)) (.vaddsI32 h px.vecX (Fin.ofNat 16 d) (Fin.ofNat 16 a) (Fin.ofNat 16 b) (maskOf me mk))
  | 13 => chk px.takesVec (px.codesOk && vecFmt ⟨false, false, 1, 0, []⟩ px.vecX) ((me == 1 || mk == 0) && vecRsv ⟨false, false, 1, 0, []⟩ px.vecX (Fin.ofNat 16 b)) (.vsubsI32 h px.vecX (Fin.ofNat 16 d) (Fin.ofNat 16 a) (Fin.ofNat 16 b) (maskOf me mk))
  | 14 => chk px.takesVec (px.codesOk && vecFmt ⟨false, false, 0, 0, []⟩ px.vecX) ((me == 1 || mk == 0) && b == 0 && vecRsv ⟨false, false, 0, 0, []⟩ px.vecX 0) (.vabsI32 h px.vecX (Fin.ofNat 16 d) (Fin.ofNat 16 a) (maskOf me mk))
  | _ => chk px.takesVec (px.codesOk && vecFmt ⟨false, false, 1, 0, []⟩ px.vecX) ((me == 1 || mk == 0) && vecRsv ⟨false, false, 1, 0, []⟩ px.vecX (Fin.ofNat 16 b)) (.vminuI32 h px.vecX (Fin.ofNat 16 d) (Fin.ofNat 16 a) (Fin.ofNat 16 b) (maskOf me mk))

/-- OP 0x31, format V (R68, R133). -/
noncomputable def decodeVecF32 (px : Px) (w : Nat) : Except DecodeFault Instr :=
  let h := headOf w
  let d := fld w 16 4
  let a := fld w 12 4
  let b := fld w 8 4
  let me := fld w 7 1
  let mk := fld w 4 3
  match fld w 0 4 with
  | 0 => chk px.takesVec (px.codesOk && vecFmt ⟨true, false, 1, 0, []⟩ px.vecX) ((me == 1 || mk == 0) && vecRsv ⟨true, false, 1, 0, []⟩ px.vecX (Fin.ofNat 16 b)) (.vaddF32 h px.vecX (Fin.ofNat 16 d) (Fin.ofNat 16 a) (Fin.ofNat 16 b) (maskOf me mk))
  | 1 => chk px.takesVec (px.codesOk && vecFmt ⟨true, false, 1, 0, []⟩ px.vecX) ((me == 1 || mk == 0) && vecRsv ⟨true, false, 1, 0, []⟩ px.vecX (Fin.ofNat 16 b)) (.vsubF32 h px.vecX (Fin.ofNat 16 d) (Fin.ofNat 16 a) (Fin.ofNat 16 b) (maskOf me mk))
  | 2 => chk px.takesVec (px.codesOk && vecFmt ⟨true, false, 1, 0, []⟩ px.vecX) ((me == 1 || mk == 0) && vecRsv ⟨true, false, 1, 0, []⟩ px.vecX (Fin.ofNat 16 b)) (.vmulF32 h px.vecX (Fin.ofNat 16 d) (Fin.ofNat 16 a) (Fin.ofNat 16 b) (maskOf me mk))
  | 3 => chk px.takesVec (px.codesOk && vecFmt ⟨true, false, 1, 0, []⟩ px.vecX) ((me == 1 || mk == 0) && vecRsv ⟨true, false, 1, 0, []⟩ px.vecX (Fin.ofNat 16 b)) (.vfmaF32 h px.vecX (Fin.ofNat 16 d) (Fin.ofNat 16 a) (Fin.ofNat 16 b) (maskOf me mk))
  | 4 => chk px.takesVec (px.codesOk && vecFmt ⟨true, false, 1, 0, []⟩ px.vecX) ((me == 1 || mk == 0) && vecRsv ⟨true, false, 1, 0, []⟩ px.vecX (Fin.ofNat 16 b)) (.vfmsF32 h px.vecX (Fin.ofNat 16 d) (Fin.ofNat 16 a) (Fin.ofNat 16 b) (maskOf me mk))
  | 5 => chk px.takesVec (px.codesOk && vecFmt ⟨true, false, 1, 0, []⟩ px.vecX) ((me == 1 || mk == 0) && vecRsv ⟨true, false, 1, 0, []⟩ px.vecX (Fin.ofNat 16 b)) (.vminF32 h px.vecX (Fin.ofNat 16 d) (Fin.ofNat 16 a) (Fin.ofNat 16 b) (maskOf me mk))
  | 6 => chk px.takesVec (px.codesOk && vecFmt ⟨true, false, 1, 0, []⟩ px.vecX) ((me == 1 || mk == 0) && vecRsv ⟨true, false, 1, 0, []⟩ px.vecX (Fin.ofNat 16 b)) (.vmaxF32 h px.vecX (Fin.ofNat 16 d) (Fin.ofNat 16 a) (Fin.ofNat 16 b) (maskOf me mk))
  | 7 => chk px.takesVec (px.codesOk && vecFmt ⟨true, false, 0, 0, []⟩ px.vecX) ((me == 1 || mk == 0) && b == 0 && vecRsv ⟨true, false, 0, 0, []⟩ px.vecX 0) (.vabsF32 h px.vecX (Fin.ofNat 16 d) (Fin.ofNat 16 a) (maskOf me mk))
  | 8 => chk px.takesVec (px.codesOk && vecFmt ⟨true, false, 0, 0, []⟩ px.vecX) ((me == 1 || mk == 0) && b == 0 && vecRsv ⟨true, false, 0, 0, []⟩ px.vecX 0) (.vnegF32 h px.vecX (Fin.ofNat 16 d) (Fin.ofNat 16 a) (maskOf me mk))
  | 9 => chk px.takesVec (px.codesOk && vecFmt ⟨true, false, 1, 0, []⟩ px.vecX) ((me == 1 || mk == 0) && vecRsv ⟨true, false, 1, 0, []⟩ px.vecX (Fin.ofNat 16 b)) (.vfnmaF32 h px.vecX (Fin.ofNat 16 d) (Fin.ofNat 16 a) (Fin.ofNat 16 b) (maskOf me mk))
  | _ => .error .illfn

/-- OP 0x32, format V (R68, R133). -/
noncomputable def decodeVec16 (px : Px) (w : Nat) : Except DecodeFault Instr :=
  let h := headOf w
  let d := fld w 16 4
  let a := fld w 12 4
  let b := fld w 8 4
  let me := fld w 7 1
  let mk := fld w 4 3
  match fld w 0 4 with
  | 0 => chk px.takesVec (px.codesOk && vecFmt ⟨false, false, 1, 0, []⟩ px.vecX) ((me == 1 || mk == 0) && vecRsv ⟨false, false, 1, 0, []⟩ px.vecX (Fin.ofNat 16 b)) (.vaddI16 h px.vecX (Fin.ofNat 16 d) (Fin.ofNat 16 a) (Fin.ofNat 16 b) (maskOf me mk))
  | 1 => chk px.takesVec (px.codesOk && vecFmt ⟨false, false, 1, 0, []⟩ px.vecX) ((me == 1 || mk == 0) && vecRsv ⟨false, false, 1, 0, []⟩ px.vecX (Fin.ofNat 16 b)) (.vsubI16 h px.vecX (Fin.ofNat 16 d) (Fin.ofNat 16 a) (Fin.ofNat 16 b) (maskOf me mk))
  | 2 => chk px.takesVec (px.codesOk && vecFmt ⟨false, false, 1, 0, []⟩ px.vecX) ((me == 1 || mk == 0) && vecRsv ⟨false, false, 1, 0, []⟩ px.vecX (Fin.ofNat 16 b)) (.vmulI16 h px.vecX (Fin.ofNat 16 d) (Fin.ofNat 16 a) (Fin.ofNat 16 b) (maskOf me mk))
  | 3 => chk px.takesVec (px.codesOk && vecFmt ⟨false, false, 1, 0, []⟩ px.vecX) ((me == 1 || mk == 0) && vecRsv ⟨false, false, 1, 0, []⟩ px.vecX (Fin.ofNat 16 b)) (.vaddsI16 h px.vecX (Fin.ofNat 16 d) (Fin.ofNat 16 a) (Fin.ofNat 16 b) (maskOf me mk))
  | 4 => chk px.takesVec (px.codesOk && vecFmt ⟨false, false, 1, 0, []⟩ px.vecX) ((me == 1 || mk == 0) && vecRsv ⟨false, false, 1, 0, []⟩ px.vecX (Fin.ofNat 16 b)) (.vsubsI16 h px.vecX (Fin.ofNat 16 d) (Fin.ofNat 16 a) (Fin.ofNat 16 b) (maskOf me mk))
  | 5 => chk px.takesVec (px.codesOk && vecFmt ⟨false, false, 1, 0, []⟩ px.vecX) ((me == 1 || mk == 0) && vecRsv ⟨false, false, 1, 0, []⟩ px.vecX (Fin.ofNat 16 b)) (.vminI16 h px.vecX (Fin.ofNat 16 d) (Fin.ofNat 16 a) (Fin.ofNat 16 b) (maskOf me mk))
  | 6 => chk px.takesVec (px.codesOk && vecFmt ⟨false, false, 1, 0, []⟩ px.vecX) ((me == 1 || mk == 0) && vecRsv ⟨false, false, 1, 0, []⟩ px.vecX (Fin.ofNat 16 b)) (.vmaxI16 h px.vecX (Fin.ofNat 16 d) (Fin.ofNat 16 a) (Fin.ofNat 16 b) (maskOf me mk))
  | 8 => chk px.takesVec (px.codesOk && vecFmt ⟨true, false, 1, 0, []⟩ px.vecX) ((me == 1 || mk == 0) && vecRsv ⟨true, false, 1, 0, []⟩ px.vecX (Fin.ofNat 16 b)) (.vaddBf16 h px.vecX (Fin.ofNat 16 d) (Fin.ofNat 16 a) (Fin.ofNat 16 b) (maskOf me mk))
  | 9 => chk px.takesVec (px.codesOk && vecFmt ⟨true, false, 1, 0, []⟩ px.vecX) ((me == 1 || mk == 0) && vecRsv ⟨true, false, 1, 0, []⟩ px.vecX (Fin.ofNat 16 b)) (.vsubBf16 h px.vecX (Fin.ofNat 16 d) (Fin.ofNat 16 a) (Fin.ofNat 16 b) (maskOf me mk))
  | 10 => chk px.takesVec (px.codesOk && vecFmt ⟨true, false, 1, 0, []⟩ px.vecX) ((me == 1 || mk == 0) && vecRsv ⟨true, false, 1, 0, []⟩ px.vecX (Fin.ofNat 16 b)) (.vmulBf16 h px.vecX (Fin.ofNat 16 d) (Fin.ofNat 16 a) (Fin.ofNat 16 b) (maskOf me mk))
  | 11 => chk px.takesVec (px.codesOk && vecFmt ⟨true, false, 1, 0, []⟩ px.vecX) ((me == 1 || mk == 0) && vecRsv ⟨true, false, 1, 0, []⟩ px.vecX (Fin.ofNat 16 b)) (.vfmaBf16 h px.vecX (Fin.ofNat 16 d) (Fin.ofNat 16 a) (Fin.ofNat 16 b) (maskOf me mk))
  | 12 => chk px.takesVec (px.codesOk && vecFmt ⟨true, false, 1, 0, []⟩ px.vecX) ((me == 1 || mk == 0) && vecRsv ⟨true, false, 1, 0, []⟩ px.vecX (Fin.ofNat 16 b)) (.vminBf16 h px.vecX (Fin.ofNat 16 d) (Fin.ofNat 16 a) (Fin.ofNat 16 b) (maskOf me mk))
  | 13 => chk px.takesVec (px.codesOk && vecFmt ⟨true, false, 1, 0, []⟩ px.vecX) ((me == 1 || mk == 0) && vecRsv ⟨true, false, 1, 0, []⟩ px.vecX (Fin.ofNat 16 b)) (.vmaxBf16 h px.vecX (Fin.ofNat 16 d) (Fin.ofNat 16 a) (Fin.ofNat 16 b) (maskOf me mk))
  | _ => .error .illfn

/-- OP 0x33, format V (R68, R133). -/
noncomputable def decodeVec8 (px : Px) (w : Nat) : Except DecodeFault Instr :=
  let h := headOf w
  let d := fld w 16 4
  let a := fld w 12 4
  let b := fld w 8 4
  let me := fld w 7 1
  let mk := fld w 4 3
  match fld w 0 4 with
  | 0 => chk px.takesVec (px.codesOk && vecFmt ⟨false, false, 1, 0, []⟩ px.vecX) ((me == 1 || mk == 0) && vecRsv ⟨false, false, 1, 0, []⟩ px.vecX (Fin.ofNat 16 b)) (.vaddI8 h px.vecX (Fin.ofNat 16 d) (Fin.ofNat 16 a) (Fin.ofNat 16 b) (maskOf me mk))
  | 1 => chk px.takesVec (px.codesOk && vecFmt ⟨false, false, 1, 0, []⟩ px.vecX) ((me == 1 || mk == 0) && vecRsv ⟨false, false, 1, 0, []⟩ px.vecX (Fin.ofNat 16 b)) (.vsubI8 h px.vecX (Fin.ofNat 16 d) (Fin.ofNat 16 a) (Fin.ofNat 16 b) (maskOf me mk))
  | 2 => chk px.takesVec (px.codesOk && vecFmt ⟨false, false, 1, 0, []⟩ px.vecX) ((me == 1 || mk == 0) && vecRsv ⟨false, false, 1, 0, []⟩ px.vecX (Fin.ofNat 16 b)) (.vaddsI8 h px.vecX (Fin.ofNat 16 d) (Fin.ofNat 16 a) (Fin.ofNat 16 b) (maskOf me mk))
  | 3 => chk px.takesVec (px.codesOk && vecFmt ⟨false, false, 1, 0, []⟩ px.vecX) ((me == 1 || mk == 0) && vecRsv ⟨false, false, 1, 0, []⟩ px.vecX (Fin.ofNat 16 b)) (.vsubsI8 h px.vecX (Fin.ofNat 16 d) (Fin.ofNat 16 a) (Fin.ofNat 16 b) (maskOf me mk))
  | 4 => chk px.takesVec (px.codesOk && vecFmt ⟨false, false, 1, 0, []⟩ px.vecX) ((me == 1 || mk == 0) && vecRsv ⟨false, false, 1, 0, []⟩ px.vecX (Fin.ofNat 16 b)) (.vminI8 h px.vecX (Fin.ofNat 16 d) (Fin.ofNat 16 a) (Fin.ofNat 16 b) (maskOf me mk))
  | 5 => chk px.takesVec (px.codesOk && vecFmt ⟨false, false, 1, 0, []⟩ px.vecX) ((me == 1 || mk == 0) && vecRsv ⟨false, false, 1, 0, []⟩ px.vecX (Fin.ofNat 16 b)) (.vmaxI8 h px.vecX (Fin.ofNat 16 d) (Fin.ofNat 16 a) (Fin.ofNat 16 b) (maskOf me mk))
  | 6 => chk px.takesVec (px.codesOk && vecFmt ⟨true, true, 1, 0, []⟩ px.vecX) ((me == 1 || mk == 0) && vecRsv ⟨true, true, 1, 0, []⟩ px.vecX (Fin.ofNat 16 b)) (.vaddE4m3 h px.vecX (Fin.ofNat 16 d) (Fin.ofNat 16 a) (Fin.ofNat 16 b) (maskOf me mk))
  | 7 => chk px.takesVec (px.codesOk && vecFmt ⟨true, true, 1, 0, []⟩ px.vecX) ((me == 1 || mk == 0) && vecRsv ⟨true, true, 1, 0, []⟩ px.vecX (Fin.ofNat 16 b)) (.vsubE4m3 h px.vecX (Fin.ofNat 16 d) (Fin.ofNat 16 a) (Fin.ofNat 16 b) (maskOf me mk))
  | 8 => chk px.takesVec (px.codesOk && vecFmt ⟨true, true, 1, 0, []⟩ px.vecX) ((me == 1 || mk == 0) && vecRsv ⟨true, true, 1, 0, []⟩ px.vecX (Fin.ofNat 16 b)) (.vmulE4m3 h px.vecX (Fin.ofNat 16 d) (Fin.ofNat 16 a) (Fin.ofNat 16 b) (maskOf me mk))
  | 9 => chk px.takesVec (px.codesOk && vecFmt ⟨true, true, 1, 0, []⟩ px.vecX) ((me == 1 || mk == 0) && vecRsv ⟨true, true, 1, 0, []⟩ px.vecX (Fin.ofNat 16 b)) (.vminE4m3 h px.vecX (Fin.ofNat 16 d) (Fin.ofNat 16 a) (Fin.ofNat 16 b) (maskOf me mk))
  | 10 => chk px.takesVec (px.codesOk && vecFmt ⟨true, true, 1, 0, []⟩ px.vecX) ((me == 1 || mk == 0) && vecRsv ⟨true, true, 1, 0, []⟩ px.vecX (Fin.ofNat 16 b)) (.vmaxE4m3 h px.vecX (Fin.ofNat 16 d) (Fin.ofNat 16 a) (Fin.ofNat 16 b) (maskOf me mk))
  | 11 => chk px.takesVec (px.codesOk && vecFmt ⟨true, true, 1, 0, []⟩ px.vecX) ((me == 1 || mk == 0) && vecRsv ⟨true, true, 1, 0, []⟩ px.vecX (Fin.ofNat 16 b)) (.vaddE5m2 h px.vecX (Fin.ofNat 16 d) (Fin.ofNat 16 a) (Fin.ofNat 16 b) (maskOf me mk))
  | 12 => chk px.takesVec (px.codesOk && vecFmt ⟨true, true, 1, 0, []⟩ px.vecX) ((me == 1 || mk == 0) && vecRsv ⟨true, true, 1, 0, []⟩ px.vecX (Fin.ofNat 16 b)) (.vsubE5m2 h px.vecX (Fin.ofNat 16 d) (Fin.ofNat 16 a) (Fin.ofNat 16 b) (maskOf me mk))
  | 13 => chk px.takesVec (px.codesOk && vecFmt ⟨true, true, 1, 0, []⟩ px.vecX) ((me == 1 || mk == 0) && vecRsv ⟨true, true, 1, 0, []⟩ px.vecX (Fin.ofNat 16 b)) (.vmulE5m2 h px.vecX (Fin.ofNat 16 d) (Fin.ofNat 16 a) (Fin.ofNat 16 b) (maskOf me mk))
  | 14 => chk px.takesVec (px.codesOk && vecFmt ⟨true, true, 1, 0, []⟩ px.vecX) ((me == 1 || mk == 0) && vecRsv ⟨true, true, 1, 0, []⟩ px.vecX (Fin.ofNat 16 b)) (.vminE5m2 h px.vecX (Fin.ofNat 16 d) (Fin.ofNat 16 a) (Fin.ofNat 16 b) (maskOf me mk))
  | _ => chk px.takesVec (px.codesOk && vecFmt ⟨true, true, 1, 0, []⟩ px.vecX) ((me == 1 || mk == 0) && vecRsv ⟨true, true, 1, 0, []⟩ px.vecX (Fin.ofNat 16 b)) (.vmaxE5m2 h px.vecX (Fin.ofNat 16 d) (Fin.ofNat 16 a) (Fin.ofNat 16 b) (maskOf me mk))

/-- OP 0x34, format V (R68, R133). -/
noncomputable def decodeBlock (px : Px) (w : Nat) : Except DecodeFault Instr :=
  let h := headOf w
  let d := fld w 16 4
  let a := fld w 12 4
  let b := fld w 8 4
  let me := fld w 7 1
  let mk := fld w 4 3
  match fld w 0 4 with
  | 0 => chk px.takesVec (px.codesOk && me == 0 && vecFmt ⟨true, false, 0, 0, []⟩ px.vecX) (mk == 0 && b == 0 && vecRsv ⟨true, false, 0, 0, []⟩ px.vecX 0) (.quantQb8 h px.vecX (Fin.ofNat 16 d) (Fin.ofNat 16 a))
  | 1 => chk px.takesVec (px.codesOk && me == 0 && vecFmt ⟨true, false, 0, 0, []⟩ px.vecX) (mk == 0 && b == 0 && vecRsv ⟨true, false, 0, 0, []⟩ px.vecX 0) (.quantQb4 h px.vecX (Fin.ofNat 16 d) (Fin.ofNat 16 a))
  | 2 => chk px.takesVec (px.codesOk && vecFmt ⟨false, false, 0, 0, []⟩ px.vecX) ((me == 1 || mk == 0) && b == 0 && vecRsv ⟨false, false, 0, 0, []⟩ px.vecX 0) (.dequantQb8 h px.vecX (Fin.ofNat 16 d) (Fin.ofNat 16 a) (maskOf me mk))
  | 3 => chk px.takesVec (px.codesOk && vecFmt ⟨false, false, 0, 0, []⟩ px.vecX) ((me == 1 || mk == 0) && b == 0 && vecRsv ⟨false, false, 0, 0, []⟩ px.vecX 0) (.dequantQb4 h px.vecX (Fin.ofNat 16 d) (Fin.ofNat 16 a) (maskOf me mk))
  | 4 => chk px.takesVec (px.codesOk && me == 0 && vecFmt ⟨false, false, 0, 0, []⟩ px.vecX) (mk == 0 && b == 0 && vecRsv ⟨false, false, 0, 0, []⟩ px.vecX 0) (.qtobaQb8 h px.vecX (Fin.ofNat 16 d) (Fin.ofNat 16 a))
  | 5 => chk px.takesVec (px.codesOk && me == 0 && vecFmt ⟨false, false, 0, 0, []⟩ px.vecX) (mk == 0 && b == 0 && vecRsv ⟨false, false, 0, 0, []⟩ px.vecX 0) (.qtobaQb4 h px.vecX (Fin.ofNat 16 d) (Fin.ofNat 16 a))
  | 6 => chk px.takesVec (px.codesOk && me == 0 && vecFmt ⟨false, false, 0, 0, []⟩ px.vecX) (mk == 0 && vecRsv ⟨false, false, 0, 0, []⟩ px.vecX (Fin.ofNat 16 b)) (.badd h px.vecX (Fin.ofNat 16 d) (Fin.ofNat 16 a) (Fin.ofNat 16 b))
  | 7 => chk px.takesVec (px.codesOk && me == 0 && vecFmt ⟨false, false, 1, 0, []⟩ px.vecX) (mk == 0 && vecRsv ⟨false, false, 1, 0, []⟩ px.vecX (Fin.ofNat 16 b)) (.balign h px.vecX (Fin.ofNat 16 d) (Fin.ofNat 16 a) (Fin.ofNat 16 b))
  | 8 => chk px.takesVec (px.codesOk && vecFmt ⟨false, false, 0, 3, []⟩ px.vecX) ((me == 1 || mk == 0) && decide (b < 4) && vecRsv ⟨false, false, 0, 3, []⟩ px.vecX 0) (.vlut h px.vecX (Fin.ofNat 16 d) (Fin.ofNat 16 a) (Fin.ofNat 4 b) (maskOf me mk))
  | 9 => chk px.takesVec (px.codesOk && vecFmt ⟨true, false, 1, 7, []⟩ px.vecX) ((me == 1 || mk == 0) && vecRsv ⟨true, false, 1, 7, []⟩ px.vecX (Fin.ofNat 16 b)) (.vdqw h px.vecX (Fin.ofNat 16 d) (Fin.ofNat 16 a) (Fin.ofNat 16 b) (maskOf me mk))
  | _ => .error .illfn

/-- OP 0x35, format V (R68, R133). -/
noncomputable def decodeConvert (px : Px) (w : Nat) : Except DecodeFault Instr :=
  let h := headOf w
  let d := fld w 16 4
  let a := fld w 12 4
  let b := fld w 8 4
  let me := fld w 7 1
  let mk := fld w 4 3
  match fld w 0 4 with
  | 0 => chk px.takesVec (px.codesOk && vecFmt ⟨true, false, 0, 1, []⟩ px.vecX) ((me == 1 || mk == 0) && b == 0 && vecRsv ⟨true, false, 0, 1, []⟩ px.vecX 0) (.vcvtBf16F32 h px.vecX (Fin.ofNat 16 d) (Fin.ofNat 16 a) (maskOf me mk))
  | 1 => chk px.takesVec (px.codesOk && vecFmt ⟨false, false, 0, 1, []⟩ px.vecX) ((me == 1 || mk == 0) && b == 0 && vecRsv ⟨false, false, 0, 1, []⟩ px.vecX 0) (.vcvtF32Bf16 h px.vecX (Fin.ofNat 16 d) (Fin.ofNat 16 a) (maskOf me mk))
  | 2 => chk px.takesVec (px.codesOk && vecFmt ⟨true, true, 0, 3, []⟩ px.vecX) ((me == 1 || mk == 0) && b == 0 && vecRsv ⟨true, true, 0, 3, []⟩ px.vecX 0) (.vcvtE4m3F32 h px.vecX (Fin.ofNat 16 d) (Fin.ofNat 16 a) (maskOf me mk))
  | 3 => chk px.takesVec (px.codesOk && vecFmt ⟨true, true, 0, 3, []⟩ px.vecX) ((me == 1 || mk == 0) && b == 0 && vecRsv ⟨true, true, 0, 3, []⟩ px.vecX 0) (.vcvtE5m2F32 h px.vecX (Fin.ofNat 16 d) (Fin.ofNat 16 a) (maskOf me mk))
  | 4 => chk px.takesVec (px.codesOk && vecFmt ⟨false, false, 0, 3, []⟩ px.vecX) ((me == 1 || mk == 0) && b == 0 && vecRsv ⟨false, false, 0, 3, []⟩ px.vecX 0) (.vcvtF32E4m3 h px.vecX (Fin.ofNat 16 d) (Fin.ofNat 16 a) (maskOf me mk))
  | 5 => chk px.takesVec (px.codesOk && vecFmt ⟨false, false, 0, 3, []⟩ px.vecX) ((me == 1 || mk == 0) && b == 0 && vecRsv ⟨false, false, 0, 3, []⟩ px.vecX 0) (.vcvtF32E5m2 h px.vecX (Fin.ofNat 16 d) (Fin.ofNat 16 a) (maskOf me mk))
  | 6 => chk px.takesVec (px.codesOk && vecFmt ⟨true, true, 0, 1, []⟩ px.vecX) ((me == 1 || mk == 0) && b == 0 && vecRsv ⟨true, true, 0, 1, []⟩ px.vecX 0) (.vcvtE4m3Bf16 h px.vecX (Fin.ofNat 16 d) (Fin.ofNat 16 a) (maskOf me mk))
  | 7 => chk px.takesVec (px.codesOk && vecFmt ⟨true, true, 0, 1, []⟩ px.vecX) ((me == 1 || mk == 0) && b == 0 && vecRsv ⟨true, true, 0, 1, []⟩ px.vecX 0) (.vcvtE5m2Bf16 h px.vecX (Fin.ofNat 16 d) (Fin.ofNat 16 a) (maskOf me mk))
  | 8 => chk px.takesVec (px.codesOk && vecFmt ⟨false, false, 0, 1, []⟩ px.vecX) ((me == 1 || mk == 0) && b == 0 && vecRsv ⟨false, false, 0, 1, []⟩ px.vecX 0) (.vcvtBf16E4m3 h px.vecX (Fin.ofNat 16 d) (Fin.ofNat 16 a) (maskOf me mk))
  | 9 => chk px.takesVec (px.codesOk && vecFmt ⟨false, false, 0, 1, []⟩ px.vecX) ((me == 1 || mk == 0) && b == 0 && vecRsv ⟨false, false, 0, 1, []⟩ px.vecX 0) (.vcvtBf16E5m2 h px.vecX (Fin.ofNat 16 d) (Fin.ofNat 16 a) (maskOf me mk))
  | 10 => chk px.takesVec (px.codesOk && vecFmt ⟨true, false, 0, 0, []⟩ px.vecX) ((me == 1 || mk == 0) && b == 0 && vecRsv ⟨true, false, 0, 0, []⟩ px.vecX 0) (.vcvtI32F32 h px.vecX (Fin.ofNat 16 d) (Fin.ofNat 16 a) (maskOf me mk))
  | 11 => chk px.takesVec (px.codesOk && vecFmt ⟨true, false, 0, 0, []⟩ px.vecX) ((me == 1 || mk == 0) && b == 0 && vecRsv ⟨true, false, 0, 0, []⟩ px.vecX 0) (.vcvtF32I32 h px.vecX (Fin.ofNat 16 d) (Fin.ofNat 16 a) (maskOf me mk))
  | 12 => chk px.takesVec (px.codesOk && vecFmt ⟨false, false, 0, 3, []⟩ px.vecX) ((me == 1 || mk == 0) && b == 0 && vecRsv ⟨false, false, 0, 3, []⟩ px.vecX 0) (.vcvtBf16Q4 h px.vecX (Fin.ofNat 16 d) (Fin.ofNat 16 a) (maskOf me mk))
  | 13 => chk px.takesVec (px.codesOk && vecFmt ⟨false, false, 0, 3, []⟩ px.vecX) ((me == 1 || mk == 0) && b == 0 && vecRsv ⟨false, false, 0, 3, []⟩ px.vecX 0) (.vcvtI8I32 h px.vecX (Fin.ofNat 16 d) (Fin.ofNat 16 a) (maskOf me mk))
  | 14 => chk px.takesVec (px.codesOk && vecFmt ⟨false, false, 0, 3, []⟩ px.vecX) ((me == 1 || mk == 0) && b == 0 && vecRsv ⟨false, false, 0, 3, []⟩ px.vecX 0) (.vcvtI32I8 h px.vecX (Fin.ofNat 16 d) (Fin.ofNat 16 a) (maskOf me mk))
  | _ => .error .illfn

/-- OP 0x36, format V (R68, R133). -/
noncomputable def decodeSfu (px : Px) (w : Nat) : Except DecodeFault Instr :=
  let h := headOf w
  let d := fld w 16 4
  let a := fld w 12 4
  let b := fld w 8 4
  let me := fld w 7 1
  let mk := fld w 4 3
  match fld w 0 4 with
  | 0 => chk px.takesVec (px.codesOk && vecFmt ⟨true, false, 0, 0, []⟩ px.vecX) ((me == 1 || mk == 0) && b == 0 && vecRsv ⟨true, false, 0, 0, []⟩ px.vecX 0) (.vexp h px.vecX (Fin.ofNat 16 d) (Fin.ofNat 16 a) (maskOf me mk))
  | 1 => chk px.takesVec (px.codesOk && vecFmt ⟨true, false, 0, 0, []⟩ px.vecX) ((me == 1 || mk == 0) && b == 0 && vecRsv ⟨true, false, 0, 0, []⟩ px.vecX 0) (.vexp2 h px.vecX (Fin.ofNat 16 d) (Fin.ofNat 16 a) (maskOf me mk))
  | 2 => chk px.takesVec (px.codesOk && vecFmt ⟨true, false, 0, 0, []⟩ px.vecX) ((me == 1 || mk == 0) && b == 0 && vecRsv ⟨true, false, 0, 0, []⟩ px.vecX 0) (.vlog h px.vecX (Fin.ofNat 16 d) (Fin.ofNat 16 a) (maskOf me mk))
  | 3 => chk px.takesVec (px.codesOk && vecFmt ⟨true, false, 0, 0, []⟩ px.vecX) ((me == 1 || mk == 0) && b == 0 && vecRsv ⟨true, false, 0, 0, []⟩ px.vecX 0) (.vlog2 h px.vecX (Fin.ofNat 16 d) (Fin.ofNat 16 a) (maskOf me mk))
  | 4 => chk px.takesVec (px.codesOk && vecFmt ⟨true, false, 0, 0, []⟩ px.vecX) ((me == 1 || mk == 0) && b == 0 && vecRsv ⟨true, false, 0, 0, []⟩ px.vecX 0) (.vrcp h px.vecX (Fin.ofNat 16 d) (Fin.ofNat 16 a) (maskOf me mk))
  | 5 => chk px.takesVec (px.codesOk && vecFmt ⟨true, false, 0, 0, []⟩ px.vecX) ((me == 1 || mk == 0) && b == 0 && vecRsv ⟨true, false, 0, 0, []⟩ px.vecX 0) (.vrsqrt h px.vecX (Fin.ofNat 16 d) (Fin.ofNat 16 a) (maskOf me mk))
  | 6 => chk px.takesVec (px.codesOk && vecFmt ⟨true, false, 0, 0, []⟩ px.vecX) ((me == 1 || mk == 0) && b == 0 && vecRsv ⟨true, false, 0, 0, []⟩ px.vecX 0) (.vsqrt h px.vecX (Fin.ofNat 16 d) (Fin.ofNat 16 a) (maskOf me mk))
  | 7 => chk px.takesVec (px.codesOk && vecFmt ⟨true, false, 1, 0, []⟩ px.vecX) ((me == 1 || mk == 0) && vecRsv ⟨true, false, 1, 0, []⟩ px.vecX (Fin.ofNat 16 b)) (.vdiv h px.vecX (Fin.ofNat 16 d) (Fin.ofNat 16 a) (Fin.ofNat 16 b) (maskOf me mk))
  | 8 => chk px.takesVec (px.codesOk && vecFmt ⟨true, false, 0, 0, []⟩ px.vecX) ((me == 1 || mk == 0) && b == 0 && vecRsv ⟨true, false, 0, 0, []⟩ px.vecX 0) (.vtanh h px.vecX (Fin.ofNat 16 d) (Fin.ofNat 16 a) (maskOf me mk))
  | 9 => chk px.takesVec (px.codesOk && vecFmt ⟨true, false, 0, 0, []⟩ px.vecX) ((me == 1 || mk == 0) && b == 0 && vecRsv ⟨true, false, 0, 0, []⟩ px.vecX 0) (.vsigm h px.vecX (Fin.ofNat 16 d) (Fin.ofNat 16 a) (maskOf me mk))
  | 10 => chk px.takesVec (px.codesOk && vecFmt ⟨true, false, 0, 0, []⟩ px.vecX) ((me == 1 || mk == 0) && b == 0 && vecRsv ⟨true, false, 0, 0, []⟩ px.vecX 0) (.verf h px.vecX (Fin.ofNat 16 d) (Fin.ofNat 16 a) (maskOf me mk))
  | 11 => chk px.takesVec (px.codesOk && vecFmt ⟨true, false, 0, 0, []⟩ px.vecX) ((me == 1 || mk == 0) && b == 0 && vecRsv ⟨true, false, 0, 0, []⟩ px.vecX 0) (.vsin h px.vecX (Fin.ofNat 16 d) (Fin.ofNat 16 a) (maskOf me mk))
  | 12 => chk px.takesVec (px.codesOk && vecFmt ⟨true, false, 0, 0, []⟩ px.vecX) ((me == 1 || mk == 0) && b == 0 && vecRsv ⟨true, false, 0, 0, []⟩ px.vecX 0) (.vcos h px.vecX (Fin.ofNat 16 d) (Fin.ofNat 16 a) (maskOf me mk))
  | _ => .error .illfn

/-- OP 0x37, format V (R68, R133). -/
noncomputable def decodeMove (px : Px) (w : Nat) : Except DecodeFault Instr :=
  let h := headOf w
  let d := fld w 16 4
  let a := fld w 12 4
  let b := fld w 8 4
  let me := fld w 7 1
  let mk := fld w 4 3
  match fld w 0 4 with
  | 0 => chk px.takesVec (px.codesOk && vecFmt ⟨false, false, 0, 0, []⟩ px.vecX) ((me == 1 || mk == 0) && vecRsv ⟨false, false, 0, 0, []⟩ px.vecX (Fin.ofNat 16 b)) (.vperm h px.vecX (Fin.ofNat 16 d) (Fin.ofNat 16 a) (Fin.ofNat 16 b) (maskOf me mk))
  | 1 => if px.vecP.sb then chk px.takesVec (px.codesOk && vecPFmt ⟨false, false, 2, 0, []⟩ px.vecP) ((me == 1 || mk == 0) && a == 0 && b == 0 && vecPRsv ⟨false, false, 2, 0, []⟩ px.vecP 0) (.vbcastScalar h px.vecP (Fin.ofNat 16 d) (maskOf me mk))
    else chk px.takesVec (px.codesOk && vecFmt ⟨false, false, 0, 63, []⟩ px.vecX) ((me == 1 || mk == 0) && b == 0 && vecRsv ⟨false, false, 0, 63, []⟩ px.vecX 0) (.vbcast h px.vecX (Fin.ofNat 16 d) (Fin.ofNat 16 a) (maskOf me mk))
  | 2 => chk px.takesVec (px.codesOk && vecFmt ⟨false, false, 0, 63, []⟩ px.vecX) ((me == 1 || mk == 0) && b == 0 && vecRsv ⟨false, false, 0, 63, []⟩ px.vecX 0) (.vrot h px.vecX (Fin.ofNat 16 d) (Fin.ofNat 16 a) (maskOf me mk))
  | 3 => chk px.takesVec (px.codesOk && vecFmt ⟨false, false, 0, 0, []⟩ px.vecX) ((me == 1 || mk == 0) && a == 0 && b == 0 && vecRsv ⟨false, false, 0, 0, []⟩ px.vecX 0) (.viota h px.vecX (Fin.ofNat 16 d) (maskOf me mk))
  | 4 => chk px.takesVec (px.codesOk && me == 1 && vecFmt ⟨false, false, 1, 0, []⟩ px.vecX) (vecRsv ⟨false, false, 1, 0, []⟩ px.vecX (Fin.ofNat 16 b)) (.vsel h px.vecX (Fin.ofNat 16 d) (Fin.ofNat 16 a) (Fin.ofNat 16 b) (Fin.ofNat 8 mk))
  | 5 => chk px.takesVec (px.codesOk && me == 0 && vecPFmt ⟨false, false, 2, 63, []⟩ px.vecP) (mk == 0 && a == 0 && b == 0 && vecPRsv ⟨false, false, 2, 63, []⟩ px.vecP 0) (.vins h px.vecP (Fin.ofNat 16 d))
  | 6 => chk px.takesVec (px.codesOk && me == 0 && vecFmt ⟨false, false, 0, 63, []⟩ px.vecX) (mk == 0 && b == 0 && vecRsv ⟨false, false, 0, 63, []⟩ px.vecX 0) (.vext h px.vecX (Fin.ofNat 16 d) (Fin.ofNat 16 a))
  | 7 => if px.vecP.imm8 = 0 then chk px.takesVec (px.codesOk && me == 0 && vecPFmt ⟨false, false, 2, 0, []⟩ px.vecP) (mk == 0 && a == 0 && b == 0 && vecPRsv ⟨false, false, 2, 0, []⟩ px.vecP 0) (.vhdrWrite h px.vecP (Fin.ofNat 16 d))
    else chk px.takesVec (px.codesOk && me == 0 && vecPFmt ⟨false, false, 0, 1, []⟩ px.vecP && decide (px.vecP.imm8 = 1)) (mk == 0 && b == 0 && vecPRsv ⟨false, false, 0, 1, []⟩ px.vecP 0) (.vhdrRead h px.vecP (Fin.ofNat 16 d) (Fin.ofNat 16 a))
  | 8 => chk px.takesVec (px.codesOk && decide (d < 8) && vecFmt ⟨false, false, 1, 5, [.i8, .i16, .i32]⟩ px.vecX) ((me == 1 || mk == 0) && vecRsv ⟨false, false, 1, 5, [.i8, .i16, .i32]⟩ px.vecX (Fin.ofNat 16 b)) (.vcmpI32 h px.vecX (Fin.ofNat 8 d) (Fin.ofNat 16 a) (Fin.ofNat 16 b) (maskOf me mk))
  | 9 => chk px.takesVec (px.codesOk && decide (d < 8) && vecFmt ⟨false, false, 1, 6, [.f32, .bf16, .e4m3, .e5m2]⟩ px.vecX) ((me == 1 || mk == 0) && vecRsv ⟨false, false, 1, 6, [.f32, .bf16, .e4m3, .e5m2]⟩ px.vecX (Fin.ofNat 16 b)) (.vcmpF32 h px.vecX (Fin.ofNat 8 d) (Fin.ofNat 16 a) (Fin.ofNat 16 b) (maskOf me mk))
  | 10 => chk px.takesVec (px.codesOk && vecFmt ⟨true, false, 0, 0, []⟩ px.vecX) ((me == 1 || mk == 0) && b == 0 && vecRsv ⟨true, false, 0, 0, []⟩ px.vecX 0) (.vrsumF32 h px.vecX (Fin.ofNat 16 d) (Fin.ofNat 16 a) (maskOf me mk))
  | 11 => chk px.takesVec (px.codesOk && vecFmt ⟨false, false, 0, 0, []⟩ px.vecX) ((me == 1 || mk == 0) && b == 0 && vecRsv ⟨false, false, 0, 0, []⟩ px.vecX 0) (.vrsumI32 h px.vecX (Fin.ofNat 16 d) (Fin.ofNat 16 a) (maskOf me mk))
  | 12 => chk px.takesVec (px.codesOk && vecFmt ⟨false, false, 0, 0, []⟩ px.vecX) ((me == 1 || mk == 0) && b == 0 && vecRsv ⟨false, false, 0, 0, []⟩ px.vecX 0) (.vrmaxF32 h px.vecX (Fin.ofNat 16 d) (Fin.ofNat 16 a) (maskOf me mk))
  | 13 => chk px.takesVec (px.codesOk && vecFmt ⟨false, false, 0, 0, []⟩ px.vecX) ((me == 1 || mk == 0) && b == 0 && vecRsv ⟨false, false, 0, 0, []⟩ px.vecX 0) (.vrmaxI32 h px.vecX (Fin.ofNat 16 d) (Fin.ofNat 16 a) (maskOf me mk))
  | 14 => chk px.takesVec (px.codesOk && vecPFmt ⟨false, false, 2, 0, []⟩ px.vecP) ((me == 1 || mk == 0) && b == 0 && vecPRsv ⟨false, false, 2, 0, []⟩ px.vecP 0) (.vdraw h px.vecP (Fin.ofNat 16 d) (Fin.ofNat 16 a) (maskOf me mk))
  | _ => chk px.takesVec (px.codesOk && me == 0 && vecFmt ⟨false, false, 0, 0, []⟩ px.vecX) (mk == 0 && vecRsv ⟨false, false, 0, 0, []⟩ px.vecX (Fin.ofNat 16 b)) (.dmerge h px.vecX (Fin.ofNat 16 d) (Fin.ofNat 16 a) (Fin.ofNat 16 b))

/-- A second word, or a word without a prefix: ILLOP first, then the form of its OP (R67, R70). -/
noncomputable def decodeBody (px : Px) (w : Nat) : Except DecodeFault Instr :=
  if w = 0 || w = 0xFFFFFFFF then .error .illop
  else
    match fld w 24 6 with
    | 0x01 => decodeAlu px w
    | 0x02 => chk px.takesImm (true) (true) (.addi (headOf w) px.immX (sregOf (fld w 15 5)) (sregOf (fld w 10 5)) (BitVec.ofNat 10 (fld w 0 10)))
    | 0x03 => chk px.takesImm (true) (true) (.andi (headOf w) px.immX (sregOf (fld w 15 5)) (sregOf (fld w 10 5)) (BitVec.ofNat 10 (fld w 0 10)))
    | 0x04 => chk px.takesImm (true) (true) (.ori (headOf w) px.immX (sregOf (fld w 15 5)) (sregOf (fld w 10 5)) (BitVec.ofNat 10 (fld w 0 10)))
    | 0x05 => chk px.takesImm (true) (true) (.xori (headOf w) px.immX (sregOf (fld w 15 5)) (sregOf (fld w 10 5)) (BitVec.ofNat 10 (fld w 0 10)))
    | 0x06 => decodeShift px w
    | 0x07 => chk px.takesImm (true) (fld w 10 5 == 0) (.li (headOf w) px.immX (sregOf (fld w 15 5)) (BitVec.ofNat 10 (fld w 0 10)))
    | 0x08 => chk px.takesImm (true) (true) (.lih (headOf w) px.immX (sregOf (fld w 15 5)) (sregOf (fld w 10 5)) (BitVec.ofNat 10 (fld w 0 10)))
    | 0x09 => decodeCmp px w
    | 0x0A => decodeCmpi px w
    | 0x0B => decodePred px w
    | 0x0C => decodeExt px w
    | 0x0D => decodePeer px w
    | 0x0E => decodeMask px w
    | 0x10 => chk px.isNone (true) (true) (.b (headOf w) (BitVec.ofNat 20 (fld w 0 20)))
    | 0x11 => chk px.isNone (true) (true) (.call (headOf w) (BitVec.ofNat 20 (fld w 0 20)))
    | 0x12 => decodeJump px w
    | 0x13 => if fld w 18 1 = 1 then chk px.takesImm (decide ((BitVec.ofNat 13 (fld w 0 13)) ≠ 0)) (true) (.loopImm (headOf w) px.immX (decide (fld w 19 1 = 1)) (BitVec.ofNat 5 (fld w 13 5)) (BitVec.ofNat 13 (fld w 0 13)))
    else chk px.isNone (decide ((BitVec.ofNat 13 (fld w 0 13)) ≠ 0)) (true) (.loopReg (headOf w) (decide (fld w 19 1 = 1)) (sregOf (fld w 13 5)) (BitVec.ofNat 13 (fld w 0 13)))
    | 0x14 => decodeControl px w
    | 0x15 => if px.isNone && !csrAssigned (BitVec.ofNat 10 (fld w 0 10)) then .error .illcsr else chk px.isNone (true) (true) (.csrw (headOf w) (sregOf (fld w 15 5)) (sregOf (fld w 10 5)) (BitVec.ofNat 10 (fld w 0 10)))
    | 0x16 => if px.isNone && !csrAssigned (BitVec.ofNat 10 (fld w 0 10)) then .error .illcsr else chk px.isNone (true) (true) (.csrs (headOf w) (sregOf (fld w 15 5)) (sregOf (fld w 10 5)) (BitVec.ofNat 10 (fld w 0 10)))
    | 0x17 => if px.isNone && !csrAssigned (BitVec.ofNat 10 (fld w 0 10)) then .error .illcsr else chk px.isNone (true) (true) (.csrc (headOf w) (sregOf (fld w 15 5)) (sregOf (fld w 10 5)) (BitVec.ofNat 10 (fld w 0 10)))
    | 0x18 => chk px.takesImm (fld w 7 3 != 7) (true) (.ld (headOf w) px.immX (sregOf (fld w 15 5)) (sregOf (fld w 10 5)) (ldSizeOf (fld w 7 3)) (BitVec.ofNat 7 (fld w 0 7)))
    | 0x19 => chk px.takesImm (fld w 7 3 % 2 == 0) (true) (.st (headOf w) px.immX (sregOf (fld w 15 5)) (sregOf (fld w 10 5)) (stSizeOf (fld w 7 3)) (BitVec.ofNat 7 (fld w 0 7)))
    | 0x1A => chk px.takesImm (decide (fld w 15 5 < 16) && fld w 7 3 == 4) (true) (.vld (headOf w) px.immX (Fin.ofNat 16 (fld w 15 5)) (sregOf (fld w 10 5)) (BitVec.ofNat 7 (fld w 0 7)))
    | 0x1B => chk px.takesImm (decide (fld w 15 5 < 16) && fld w 7 3 == 4) (true) (.vst (headOf w) px.immX (Fin.ofNat 16 (fld w 15 5)) (sregOf (fld w 10 5)) (BitVec.ofNat 7 (fld w 0 7)))
    | 0x1C => decodeGather px w
    | 0x1D => decodeQld px w
    | 0x20 => chk px.takesRem (fld w 7 3 != 7 && remIn [.rlx, .acq] px.remX) (px.gidOk) (.rld (headOf w) px.remX (sregOf (fld w 15 5)) (sregOf (fld w 10 5)) (ldSizeOf (fld w 7 3)) (BitVec.ofNat 7 (fld w 0 7)))
    | 0x21 => chk px.takesRem (fld w 7 3 % 2 == 0 && remIn [.rlx, .rel] px.remX) (px.gidOk) (.rst (headOf w) px.remX (sregOf (fld w 15 5)) (sregOf (fld w 10 5)) (stSizeOf (fld w 7 3)) (BitVec.ofNat 7 (fld w 0 7)))
    | 0x22 => decodeAtom px w
    | 0x23 => decodeFence px w
    | 0x24 => decodeRvld px w
    | 0x25 => decodeRvst px w
    | 0x28 => decodeToken px w
    | 0x2C => decodeMessage px w
    | 0x2D => decodeCopy px w
    | 0x30 => decodeVecInt px w
    | 0x31 => decodeVecF32 px w
    | 0x32 => decodeVec16 px w
    | 0x33 => decodeVec8 px w
    | 0x34 => decodeBlock px w
    | 0x35 => decodeConvert px w
    | 0x36 => decodeSfu px w
    | 0x37 => decodeMove px w
    | 0x38 => decodeMma px w
    | 0x39 => decodePlane px w
    | 0x3A => decodeDrain px w
    | 0x3C => decodeLatch px w
    | 0x3D => decodeRng px w
    | 0x3E => decodeFp px w
    | _ => .error .illop

/-- Whether a word is a long-form prefix (R65); the word of all ones is not one. -/
def isPrefix (w : Nat) : Bool := w != 0xFFFFFFFF && fld w 24 6 == 0x3F

/-- The instruction that starts with word `w` (R65 to R70). `next` is the word after it, none when `w` lies at 0x2_FFFC;
`ends`: `w` is the last word of an active loop body. -/
noncomputable def decode (w : Nat) (next : Option Nat) (ends : Bool) : Except DecodeFault Instr :=
  if isPrefix w then
    match next with
    | none => .error .longform
    | some w2 =>
      if fld w 30 2 ≠ 0 || isPrefix w2 || ends then .error .longform
      else
        match fld w 22 2 with
        | 0 => decodeBody (.imm (fld w 0 22)) w2
        | 1 => decodeBody (.ord (fld w 0 22)) w2
        | 2 => decodeBody (.vec (fld w 0 22)) w2
        | _ => .error .longform
  else decodeBody .none w

/-- A prefix that passes its own checks, so that its second word is fetched (R70). -/
def prefixOk (w : Nat) (next : Option Nat) (ends : Bool) : Bool :=
  match next with
  | none => false
  | some w2 => isPrefix w && fld w 30 2 == 0 && fld w 22 2 != 3 && !isPrefix w2 && !ends

/-- The instruction of a word numbered as the table of operations numbers its bits: one word, and zeros after it. -/
noncomputable def decodeTableWord (nbits w : Nat) : Option Instr :=
  if nbits = 0 then none
  else
    match decode (fld w 0 32) (some (fld w 32 32)) false with
    | .ok i => some i
    | .error _ => none

/-! ## The encoder -/

/-- Format N. -/
def wordN (h : Head) (op d a b fn : Nat) : Nat :=
  h.code + op * 2 ^ 24 + d * 2 ^ 15 + a * 2 ^ 10 + b * 2 ^ 5 + fn
/-- Formats I and C. -/
def wordI (h : Head) (op d a imm : Nat) : Nat := h.code + op * 2 ^ 24 + d * 2 ^ 15 + a * 2 ^ 10 + imm
/-- Format M. -/
def wordM (h : Head) (op d a sz off : Nat) : Nat :=
  h.code + op * 2 ^ 24 + d * 2 ^ 15 + a * 2 ^ 10 + sz * 2 ^ 7 + off
/-- Format V. -/
def wordV (h : Head) (op d a b mask fn : Nat) : Nat :=
  h.code + op * 2 ^ 24 + d * 2 ^ 16 + a * 2 ^ 12 + b * 2 ^ 8 + mask + fn

/-- The prefix word of an IMM long form. -/
def immWords (x : ImmX) (w : Nat) : List Nat :=
  match x with
  | .none => [w]
  | .imm v => [0x3F000000 + v.toNat, w]

def ordWord (p : OrdPfx) : Nat :=
  0x3F400000 + orderCode p.ord * 2 ^ 20 + scopeCode p.scope * 2 ^ 18 + scopeGid p.scope * 2 ^ 10 + p.ofx.toNat

def ordWords (o : OrdX) (w : Nat) : List Nat :=
  match o with
  | .none => [w]
  | .ord p => [ordWord p, w]

def remWords (x : RemX) (w : Nat) : List Nat :=
  match x with
  | .none => [w]
  | .imm v => [0x3F000000 + v.toNat, w]
  | .ord p => [ordWord p, w]

def vecWord (p : VecPfx) : Nat :=
  0x3F800000 + fmtCode p.fmt2 * 2 ^ 18 + rmCode p.rm * 2 ^ 15 + boolCode p.sat * 2 ^ 14 + boolCode p.sb * 2 ^ 13
    + sregCode p.xb * 2 ^ 8 + p.imm8.toNat

def vecWords (x : VecX) (w : Nat) : List Nat :=
  match x with
  | .none => [w]
  | .vec p => [vecWord p, w]

/-- The words of a well-formed instruction, first word first; an event has none. -/
def encode : Instr → List Nat
  | .add h d a b => [wordN h 0x01 (sregCode d) (sregCode a) (sregCode b) 0]
  | .sub h d a b => [wordN h 0x01 (sregCode d) (sregCode a) (sregCode b) 1]
  | .and h d a b => [wordN h 0x01 (sregCode d) (sregCode a) (sregCode b) 2]
  | .or h d a b => [wordN h 0x01 (sregCode d) (sregCode a) (sregCode b) 3]
  | .xor h d a b => [wordN h 0x01 (sregCode d) (sregCode a) (sregCode b) 4]
  | .sll h d a b => [wordN h 0x01 (sregCode d) (sregCode a) (sregCode b) 5]
  | .srl h d a b => [wordN h 0x01 (sregCode d) (sregCode a) (sregCode b) 6]
  | .sra h d a b => [wordN h 0x01 (sregCode d) (sregCode a) (sregCode b) 7]
  | .min h d a b => [wordN h 0x01 (sregCode d) (sregCode a) (sregCode b) 8]
  | .max h d a b => [wordN h 0x01 (sregCode d) (sregCode a) (sregCode b) 9]
  | .minu h d a b => [wordN h 0x01 (sregCode d) (sregCode a) (sregCode b) 10]
  | .maxu h d a b => [wordN h 0x01 (sregCode d) (sregCode a) (sregCode b) 11]
  | .mul h d a b => [wordN h 0x01 (sregCode d) (sregCode a) (sregCode b) 12]
  | .mulh h d a b => [wordN h 0x01 (sregCode d) (sregCode a) (sregCode b) 13]
  | .mulhu h d a b => [wordN h 0x01 (sregCode d) (sregCode a) (sregCode b) 14]
  | .div h d a b => [wordN h 0x01 (sregCode d) (sregCode a) (sregCode b) 15]
  | .divu h d a b => [wordN h 0x01 (sregCode d) (sregCode a) (sregCode b) 16]
  | .rem h d a b => [wordN h 0x01 (sregCode d) (sregCode a) (sregCode b) 17]
  | .remu h d a b => [wordN h 0x01 (sregCode d) (sregCode a) (sregCode b) 18]
  | .adds h d a b => [wordN h 0x01 (sregCode d) (sregCode a) (sregCode b) 19]
  | .subs h d a b => [wordN h 0x01 (sregCode d) (sregCode a) (sregCode b) 20]
  | .clz h d a => [wordN h 0x01 (sregCode d) (sregCode a) 0 21]
  | .popc h d a => [wordN h 0x01 (sregCode d) (sregCode a) 0 22]
  | .andn h d a b => [wordN h 0x01 (sregCode d) (sregCode a) (sregCode b) 23]
  | .orn h d a b => [wordN h 0x01 (sregCode d) (sregCode a) (sregCode b) 24]
  | .addi h x d a imm => immWords x (wordI h 0x02 (sregCode d) (sregCode a) imm.toNat)
  | .andi h x d a imm => immWords x (wordI h 0x03 (sregCode d) (sregCode a) imm.toNat)
  | .ori h x d a imm => immWords x (wordI h 0x04 (sregCode d) (sregCode a) imm.toNat)
  | .xori h x d a imm => immWords x (wordI h 0x05 (sregCode d) (sregCode a) imm.toNat)
  | .slli h d a sh => [wordI h 0x06 (sregCode d) (sregCode a) (0 + sh.toNat)]
  | .srli h d a sh => [wordI h 0x06 (sregCode d) (sregCode a) (64 + sh.toNat)]
  | .srai h d a sh => [wordI h 0x06 (sregCode d) (sregCode a) (128 + sh.toNat)]
  | .rori h d a sh => [wordI h 0x06 (sregCode d) (sregCode a) (192 + sh.toNat)]
  | .li h x d imm => immWords x (wordI h 0x07 (sregCode d) 0 imm.toNat)
  | .lih h x d a imm => immWords x (wordI h 0x08 (sregCode d) (sregCode a) imm.toNat)
  | .cmpEq h d a b => [wordN h 0x09 d.val (sregCode a) (sregCode b) 0]
  | .cmpNe h d a b => [wordN h 0x09 d.val (sregCode a) (sregCode b) 1]
  | .cmpLt h d a b => [wordN h 0x09 d.val (sregCode a) (sregCode b) 2]
  | .cmpGe h d a b => [wordN h 0x09 d.val (sregCode a) (sregCode b) 3]
  | .cmpLtu h d a b => [wordN h 0x09 d.val (sregCode a) (sregCode b) 4]
  | .cmpGeu h d a b => [wordN h 0x09 d.val (sregCode a) (sregCode b) 5]
  | .cmpBits h d a b => [wordN h 0x09 d.val (sregCode a) (sregCode b) 6]
  | .cmpNbits h d a b => [wordN h 0x09 d.val (sregCode a) (sregCode b) 7]
  | .cmpiEq h x d a imm => immWords x (wordM h 0x0A d.val (sregCode a) 0 imm.toNat)
  | .cmpiNe h x d a imm => immWords x (wordM h 0x0A d.val (sregCode a) 1 imm.toNat)
  | .cmpiLt h x d a imm => immWords x (wordM h 0x0A d.val (sregCode a) 2 imm.toNat)
  | .cmpiGe h x d a imm => immWords x (wordM h 0x0A d.val (sregCode a) 3 imm.toNat)
  | .cmpiLtu h x d a imm => immWords x (wordM h 0x0A d.val (sregCode a) 4 imm.toNat)
  | .cmpiGeu h x d a imm => immWords x (wordM h 0x0A d.val (sregCode a) 5 imm.toNat)
  | .cmpiBits h x d a imm => immWords x (wordM h 0x0A d.val (sregCode a) 6 imm.toNat)
  | .cmpiNbits h x d a imm => immWords x (wordM h 0x0A d.val (sregCode a) 7 imm.toNat)
  | .pand h d a b => [wordN h 0x0B d.val a.val b.val 0]
  | .por h d a b => [wordN h 0x0B d.val a.val b.val 1]
  | .pxor h d a b => [wordN h 0x0B d.val a.val b.val 2]
  | .pandn h d a b => [wordN h 0x0B d.val a.val b.val 3]
  | .pnot h d a => [wordN h 0x0B d.val a.val 0 4]
  | .pmov h d a => [wordN h 0x0B d.val a.val 0 5]
  | .pset h d => [wordN h 0x0B d.val 0 0 6]
  | .pclr h d => [wordN h 0x0B d.val 0 0 7]
  | .sext8 h d a => [wordN h 0x0C (sregCode d) (sregCode a) 0 0]
  | .sext16 h d a => [wordN h 0x0C (sregCode d) (sregCode a) 0 1]
  | .sext32 h d a => [wordN h 0x0C (sregCode d) (sregCode a) 0 2]
  | .zext8 h d a => [wordN h 0x0C (sregCode d) (sregCode a) 0 3]
  | .zext16 h d a => [wordN h 0x0C (sregCode d) (sregCode a) 0 4]
  | .zext32 h d a => [wordN h 0x0C (sregCode d) (sregCode a) 0 5]
  | .bswap h d a => [wordN h 0x0C (sregCode d) (sregCode a) 0 6]
  | .ctz h d a => [wordN h 0x0C (sregCode d) (sregCode a) 0 7]
  | .peer h d a b => [wordN h 0x0D (sregCode d) (sregCode a) (sregCode b) 0]
  | .peero h d a b => [wordN h 0x0D (sregCode d) (sregCode a) (sregCode b) 1]
  | .pidx h d a => [wordN h 0x0D (sregCode d) (sregCode a) 0 2]
  | .mand h d a b => [wordN h 0x0E d.val a.val b.val 0]
  | .mor h d a b => [wordN h 0x0E d.val a.val b.val 1]
  | .mxor h d a b => [wordN h 0x0E d.val a.val b.val 2]
  | .mandn h d a b => [wordN h 0x0E d.val a.val b.val 3]
  | .mnot h d a => [wordN h 0x0E d.val a.val 0 4]
  | .mset h d a => [wordN h 0x0E d.val (sregCode a) 0 5]
  | .mget h d a => [wordN h 0x0E (sregCode d) a.val 0 6]
  | .mpop h d a => [wordN h 0x0E (sregCode d) a.val 0 7]
  | .mfirst h d a => [wordN h 0x0E (sregCode d) a.val 0 8]
  | .b h off => [h.code + 0x10 * 2 ^ 24 + off.toNat]
  | .call h off => [h.code + 0x11 * 2 ^ 24 + off.toNat]
  | .jr h a => [wordN h 0x12 0 (sregCode a) 0 0]
  | .jalr h d a => [wordN h 0x12 (sregCode d) (sregCode a) 0 1]
  | .ret h => [wordN h 0x12 0 0 0 2]
  | .loopReg h lv ca len => [h.code + 0x13 * 2 ^ 24 + boolCode lv * 2 ^ 19 + sregCode ca * 2 ^ 13 + len.toNat]
  | .loopImm h x lv ca len => immWords x (h.code + 0x13 * 2 ^ 24 + boolCode lv * 2 ^ 19 + 2 ^ 18 + ca.toNat * 2 ^ 13 + len.toNat)
  | .wait h d a => [wordN h 0x14 (sregCode d) (sregCode a) 0 0]
  | .waita h o d a b => ordWords o (wordN h 0x14 (sregCode d) (sregCode a) (sregCode b) 1)
  | .yield h => [wordN h 0x14 0 0 0 2]
  | .endTask h => [wordN h 0x14 0 0 0 3]
  | .trap h a => [wordN h 0x14 0 (sregCode a) 0 4]
  | .isync h => [wordN h 0x14 0 0 0 5]
  | .nop h => [wordN h 0x14 0 0 0 6]
  | .csrw h d a csr => [wordI h 0x15 (sregCode d) (sregCode a) csr.toNat]
  | .csrs h d a csr => [wordI h 0x16 (sregCode d) (sregCode a) csr.toNat]
  | .csrc h d a csr => [wordI h 0x17 (sregCode d) (sregCode a) csr.toNat]
  | .ld h x d a sz off => immWords x (wordM h 0x18 (sregCode d) (sregCode a) (ldSizeCode sz) off.toNat)
  | .st h x d a sz off => immWords x (wordM h 0x19 (sregCode d) (sregCode a) (stSizeCode sz) off.toNat)
  | .vld h x d a off => immWords x (wordM h 0x1A d.val (sregCode a) 4 off.toNat)
  | .vst h x d a off => immWords x (wordM h 0x1B d.val (sregCode a) 4 off.toNat)
  | .vgathI32 h d a b mk => [h.code + 0x1C * 2 ^ 24 + d.val * 2 ^ 16 + sregCode a * 2 ^ 10 + b.val * 2 ^ 6 + maskBits mk 5 2 + 0]
  | .vscatI32 h d a b mk => [h.code + 0x1C * 2 ^ 24 + d.val * 2 ^ 16 + sregCode a * 2 ^ 10 + b.val * 2 ^ 6 + maskBits mk 5 2 + 1]
  | .vgathI16 h d a b mk => [h.code + 0x1C * 2 ^ 24 + d.val * 2 ^ 16 + sregCode a * 2 ^ 10 + b.val * 2 ^ 6 + maskBits mk 5 2 + 2]
  | .vscatI16 h d a b mk => [h.code + 0x1C * 2 ^ 24 + d.val * 2 ^ 16 + sregCode a * 2 ^ 10 + b.val * 2 ^ 6 + maskBits mk 5 2 + 3]
  | .qldQb8 h d a b => [wordN h 0x1D d.val (sregCode a) (sregCode b) 0]
  | .qldQb4 h d a b => [wordN h 0x1D d.val (sregCode a) (sregCode b) 1]
  | .qstQb8 h d a b => [wordN h 0x1D d.val (sregCode a) (sregCode b) 2]
  | .qstQb4 h d a b => [wordN h 0x1D d.val (sregCode a) (sregCode b) 3]
  | .rld h x d a sz off => remWords x (wordM h 0x20 (sregCode d) (sregCode a) (ldSizeCode sz) off.toNat)
  | .rst h x d a sz off => remWords x (wordM h 0x21 (sregCode d) (sregCode a) (stSizeCode sz) off.toNat)
  | .atomAdd h o d a b w => ordWords o (wordN h 0x22 (sregCode d) (sregCode a) (sregCode b) (boolCode w * 16 + 0))
  | .atomSub h o d a b w => ordWords o (wordN h 0x22 (sregCode d) (sregCode a) (sregCode b) (boolCode w * 16 + 1))
  | .atomAnd h o d a b w => ordWords o (wordN h 0x22 (sregCode d) (sregCode a) (sregCode b) (boolCode w * 16 + 2))
  | .atomOr h o d a b w => ordWords o (wordN h 0x22 (sregCode d) (sregCode a) (sregCode b) (boolCode w * 16 + 3))
  | .atomXor h o d a b w => ordWords o (wordN h 0x22 (sregCode d) (sregCode a) (sregCode b) (boolCode w * 16 + 4))
  | .atomMin h o d a b w => ordWords o (wordN h 0x22 (sregCode d) (sregCode a) (sregCode b) (boolCode w * 16 + 5))
  | .atomMax h o d a b w => ordWords o (wordN h 0x22 (sregCode d) (sregCode a) (sregCode b) (boolCode w * 16 + 6))
  | .atomMinu h o d a b w => ordWords o (wordN h 0x22 (sregCode d) (sregCode a) (sregCode b) (boolCode w * 16 + 7))
  | .atomMaxu h o d a b w => ordWords o (wordN h 0x22 (sregCode d) (sregCode a) (sregCode b) (boolCode w * 16 + 8))
  | .atomSwap h o d a b w => ordWords o (wordN h 0x22 (sregCode d) (sregCode a) (sregCode b) (boolCode w * 16 + 9))
  | .atomCas h o d a b w => ordWords o (wordN h 0x22 (sregCode d) (sregCode a) (sregCode b) (boolCode w * 16 + 10))
  | .atomFaddF32 h o d a b => ordWords o (wordN h 0x22 (sregCode d) (sregCode a) (sregCode b) 27)
  | .atomBadd h o d a b => ordWords o (wordN h 0x22 (sregCode d) (sregCode a) (sregCode b) 12)
  | .fenceAcq h sc => [h.code + 0x23 * 2 ^ 24 + 1 * 2 ^ 18 + scopeCode sc * 2 ^ 16 + scopeGid sc * 2 ^ 8]
  | .fenceRel h sc => [h.code + 0x23 * 2 ^ 24 + 2 * 2 ^ 18 + scopeCode sc * 2 ^ 16 + scopeGid sc * 2 ^ 8]
  | .fenceAr h sc => [h.code + 0x23 * 2 ^ 24 + 3 * 2 ^ 18 + scopeCode sc * 2 ^ 16 + scopeGid sc * 2 ^ 8]
  | .rvld h o d a b => ordWords o (wordN h 0x24 d.val (sregCode a) (sregCode b) 0)
  | .rvst h o d a b => ordWords o (wordN h 0x25 d.val (sregCode a) (sregCode b) 0)
  | .tdecl h a b => [wordN h 0x28 0 (sregCode a) (sregCode b) 0]
  | .tlend h a b => [wordN h 0x28 0 (sregCode a) (sregCode b) 1]
  | .tret h a => [wordN h 0x28 0 (sregCode a) 0 2]
  | .tsplit h a b => [wordN h 0x28 0 (sregCode a) (sregCode b) 3]
  | .tjoin h a => [wordN h 0x28 0 (sregCode a) 0 4]
  | .tshare h a b => [wordN h 0x28 0 (sregCode a) (sregCode b) 5]
  | .tunsh h a => [wordN h 0x28 0 (sregCode a) 0 6]
  | .tqry h d a b => [wordN h 0x28 (sregCode d) (sregCode a) (sregCode b) 7]
  | .trecl h a => [wordN h 0x28 0 (sregCode a) 0 8]
  | .tclean h a b => [wordN h 0x28 0 (sregCode a) (sregCode b) 9]
  | .send h o d a b => ordWords o (wordN h 0x2C (d.toNat * 4) (sregCode a) (sregCode b) 0)
  | .sendr h o a b => ordWords o (wordN h 0x2C 0 (sregCode a) (sregCode b) 1)
  | .door h o d a b => ordWords o (wordN h 0x2C (sregCode d) (sregCode a) (sregCode b) 2)
  | .doorq h o d a => ordWords o (wordN h 0x2C (sregCode d) (sregCode a) 0 3)
  | .submit h o a b => ordWords o (wordN h 0x2C 0 (sregCode a) (sregCode b) 4)
  | .ckpt h o a b => ordWords o (wordN h 0x2C 0 (sregCode a) (sregCode b) 5)
  | .cpy h o a b => ordWords o (wordN h 0x2D 0 (sregCode a) (sregCode b) 0)
  | .cpyq h d => [wordN h 0x2D (sregCode d) 0 0 1]
  | .cpyx h o a b => ordWords o (wordN h 0x2D 0 (sregCode a) (sregCode b) 2)
  | .vaddI32 h x d a b mk => vecWords x (wordV h 0x30 d.val a.val b.val (maskBits mk 7 4) 0)
  | .vsubI32 h x d a b mk => vecWords x (wordV h 0x30 d.val a.val b.val (maskBits mk 7 4) 1)
  | .vmulI32 h x d a b mk => vecWords x (wordV h 0x30 d.val a.val b.val (maskBits mk 7 4) 2)
  | .vmulhI32 h x d a b mk => vecWords x (wordV h 0x30 d.val a.val b.val (maskBits mk 7 4) 3)
  | .vminI32 h x d a b mk => vecWords x (wordV h 0x30 d.val a.val b.val (maskBits mk 7 4) 4)
  | .vmaxI32 h x d a b mk => vecWords x (wordV h 0x30 d.val a.val b.val (maskBits mk 7 4) 5)
  | .vand h x d a b mk => vecWords x (wordV h 0x30 d.val a.val b.val (maskBits mk 7 4) 6)
  | .vor h x d a b mk => vecWords x (wordV h 0x30 d.val a.val b.val (maskBits mk 7 4) 7)
  | .vxor h x d a b mk => vecWords x (wordV h 0x30 d.val a.val b.val (maskBits mk 7 4) 8)
  | .vsll h x d a b mk => vecWords x (wordV h 0x30 d.val a.val b.val (maskBits mk 7 4) 9)
  | .vsrl h x d a b mk => vecWords x (wordV h 0x30 d.val a.val b.val (maskBits mk 7 4) 10)
  | .vsra h x d a b mk => vecWords x (wordV h 0x30 d.val a.val b.val (maskBits mk 7 4) 11)
  | .vaddsI32 h x d a b mk => vecWords x (wordV h 0x30 d.val a.val b.val (maskBits mk 7 4) 12)
  | .vsubsI32 h x d a b mk => vecWords x (wordV h 0x30 d.val a.val b.val (maskBits mk 7 4) 13)
  | .vabsI32 h x d a mk => vecWords x (wordV h 0x30 d.val a.val 0 (maskBits mk 7 4) 14)
  | .vminuI32 h x d a b mk => vecWords x (wordV h 0x30 d.val a.val b.val (maskBits mk 7 4) 15)
  | .vaddF32 h x d a b mk => vecWords x (wordV h 0x31 d.val a.val b.val (maskBits mk 7 4) 0)
  | .vsubF32 h x d a b mk => vecWords x (wordV h 0x31 d.val a.val b.val (maskBits mk 7 4) 1)
  | .vmulF32 h x d a b mk => vecWords x (wordV h 0x31 d.val a.val b.val (maskBits mk 7 4) 2)
  | .vfmaF32 h x d a b mk => vecWords x (wordV h 0x31 d.val a.val b.val (maskBits mk 7 4) 3)
  | .vfmsF32 h x d a b mk => vecWords x (wordV h 0x31 d.val a.val b.val (maskBits mk 7 4) 4)
  | .vminF32 h x d a b mk => vecWords x (wordV h 0x31 d.val a.val b.val (maskBits mk 7 4) 5)
  | .vmaxF32 h x d a b mk => vecWords x (wordV h 0x31 d.val a.val b.val (maskBits mk 7 4) 6)
  | .vabsF32 h x d a mk => vecWords x (wordV h 0x31 d.val a.val 0 (maskBits mk 7 4) 7)
  | .vnegF32 h x d a mk => vecWords x (wordV h 0x31 d.val a.val 0 (maskBits mk 7 4) 8)
  | .vfnmaF32 h x d a b mk => vecWords x (wordV h 0x31 d.val a.val b.val (maskBits mk 7 4) 9)
  | .vaddI16 h x d a b mk => vecWords x (wordV h 0x32 d.val a.val b.val (maskBits mk 7 4) 0)
  | .vsubI16 h x d a b mk => vecWords x (wordV h 0x32 d.val a.val b.val (maskBits mk 7 4) 1)
  | .vmulI16 h x d a b mk => vecWords x (wordV h 0x32 d.val a.val b.val (maskBits mk 7 4) 2)
  | .vaddsI16 h x d a b mk => vecWords x (wordV h 0x32 d.val a.val b.val (maskBits mk 7 4) 3)
  | .vsubsI16 h x d a b mk => vecWords x (wordV h 0x32 d.val a.val b.val (maskBits mk 7 4) 4)
  | .vminI16 h x d a b mk => vecWords x (wordV h 0x32 d.val a.val b.val (maskBits mk 7 4) 5)
  | .vmaxI16 h x d a b mk => vecWords x (wordV h 0x32 d.val a.val b.val (maskBits mk 7 4) 6)
  | .vaddBf16 h x d a b mk => vecWords x (wordV h 0x32 d.val a.val b.val (maskBits mk 7 4) 8)
  | .vsubBf16 h x d a b mk => vecWords x (wordV h 0x32 d.val a.val b.val (maskBits mk 7 4) 9)
  | .vmulBf16 h x d a b mk => vecWords x (wordV h 0x32 d.val a.val b.val (maskBits mk 7 4) 10)
  | .vfmaBf16 h x d a b mk => vecWords x (wordV h 0x32 d.val a.val b.val (maskBits mk 7 4) 11)
  | .vminBf16 h x d a b mk => vecWords x (wordV h 0x32 d.val a.val b.val (maskBits mk 7 4) 12)
  | .vmaxBf16 h x d a b mk => vecWords x (wordV h 0x32 d.val a.val b.val (maskBits mk 7 4) 13)
  | .vaddI8 h x d a b mk => vecWords x (wordV h 0x33 d.val a.val b.val (maskBits mk 7 4) 0)
  | .vsubI8 h x d a b mk => vecWords x (wordV h 0x33 d.val a.val b.val (maskBits mk 7 4) 1)
  | .vaddsI8 h x d a b mk => vecWords x (wordV h 0x33 d.val a.val b.val (maskBits mk 7 4) 2)
  | .vsubsI8 h x d a b mk => vecWords x (wordV h 0x33 d.val a.val b.val (maskBits mk 7 4) 3)
  | .vminI8 h x d a b mk => vecWords x (wordV h 0x33 d.val a.val b.val (maskBits mk 7 4) 4)
  | .vmaxI8 h x d a b mk => vecWords x (wordV h 0x33 d.val a.val b.val (maskBits mk 7 4) 5)
  | .vaddE4m3 h x d a b mk => vecWords x (wordV h 0x33 d.val a.val b.val (maskBits mk 7 4) 6)
  | .vsubE4m3 h x d a b mk => vecWords x (wordV h 0x33 d.val a.val b.val (maskBits mk 7 4) 7)
  | .vmulE4m3 h x d a b mk => vecWords x (wordV h 0x33 d.val a.val b.val (maskBits mk 7 4) 8)
  | .vminE4m3 h x d a b mk => vecWords x (wordV h 0x33 d.val a.val b.val (maskBits mk 7 4) 9)
  | .vmaxE4m3 h x d a b mk => vecWords x (wordV h 0x33 d.val a.val b.val (maskBits mk 7 4) 10)
  | .vaddE5m2 h x d a b mk => vecWords x (wordV h 0x33 d.val a.val b.val (maskBits mk 7 4) 11)
  | .vsubE5m2 h x d a b mk => vecWords x (wordV h 0x33 d.val a.val b.val (maskBits mk 7 4) 12)
  | .vmulE5m2 h x d a b mk => vecWords x (wordV h 0x33 d.val a.val b.val (maskBits mk 7 4) 13)
  | .vminE5m2 h x d a b mk => vecWords x (wordV h 0x33 d.val a.val b.val (maskBits mk 7 4) 14)
  | .vmaxE5m2 h x d a b mk => vecWords x (wordV h 0x33 d.val a.val b.val (maskBits mk 7 4) 15)
  | .quantQb8 h x d a => vecWords x (wordV h 0x34 d.val a.val 0 0 0)
  | .quantQb4 h x d a => vecWords x (wordV h 0x34 d.val a.val 0 0 1)
  | .dequantQb8 h x d a mk => vecWords x (wordV h 0x34 d.val a.val 0 (maskBits mk 7 4) 2)
  | .dequantQb4 h x d a mk => vecWords x (wordV h 0x34 d.val a.val 0 (maskBits mk 7 4) 3)
  | .qtobaQb8 h x d a => vecWords x (wordV h 0x34 d.val a.val 0 0 4)
  | .qtobaQb4 h x d a => vecWords x (wordV h 0x34 d.val a.val 0 0 5)
  | .badd h x d a b => vecWords x (wordV h 0x34 d.val a.val b.val 0 6)
  | .balign h x d a b => vecWords x (wordV h 0x34 d.val a.val b.val 0 7)
  | .vlut h x d a kn mk => vecWords x (wordV h 0x34 d.val a.val kn.val (maskBits mk 7 4) 8)
  | .vdqw h x d a b mk => vecWords x (wordV h 0x34 d.val a.val b.val (maskBits mk 7 4) 9)
  | .vcvtBf16F32 h x d a mk => vecWords x (wordV h 0x35 d.val a.val 0 (maskBits mk 7 4) 0)
  | .vcvtF32Bf16 h x d a mk => vecWords x (wordV h 0x35 d.val a.val 0 (maskBits mk 7 4) 1)
  | .vcvtE4m3F32 h x d a mk => vecWords x (wordV h 0x35 d.val a.val 0 (maskBits mk 7 4) 2)
  | .vcvtE5m2F32 h x d a mk => vecWords x (wordV h 0x35 d.val a.val 0 (maskBits mk 7 4) 3)
  | .vcvtF32E4m3 h x d a mk => vecWords x (wordV h 0x35 d.val a.val 0 (maskBits mk 7 4) 4)
  | .vcvtF32E5m2 h x d a mk => vecWords x (wordV h 0x35 d.val a.val 0 (maskBits mk 7 4) 5)
  | .vcvtE4m3Bf16 h x d a mk => vecWords x (wordV h 0x35 d.val a.val 0 (maskBits mk 7 4) 6)
  | .vcvtE5m2Bf16 h x d a mk => vecWords x (wordV h 0x35 d.val a.val 0 (maskBits mk 7 4) 7)
  | .vcvtBf16E4m3 h x d a mk => vecWords x (wordV h 0x35 d.val a.val 0 (maskBits mk 7 4) 8)
  | .vcvtBf16E5m2 h x d a mk => vecWords x (wordV h 0x35 d.val a.val 0 (maskBits mk 7 4) 9)
  | .vcvtI32F32 h x d a mk => vecWords x (wordV h 0x35 d.val a.val 0 (maskBits mk 7 4) 10)
  | .vcvtF32I32 h x d a mk => vecWords x (wordV h 0x35 d.val a.val 0 (maskBits mk 7 4) 11)
  | .vcvtBf16Q4 h x d a mk => vecWords x (wordV h 0x35 d.val a.val 0 (maskBits mk 7 4) 12)
  | .vcvtI8I32 h x d a mk => vecWords x (wordV h 0x35 d.val a.val 0 (maskBits mk 7 4) 13)
  | .vcvtI32I8 h x d a mk => vecWords x (wordV h 0x35 d.val a.val 0 (maskBits mk 7 4) 14)
  | .vexp h x d a mk => vecWords x (wordV h 0x36 d.val a.val 0 (maskBits mk 7 4) 0)
  | .vexp2 h x d a mk => vecWords x (wordV h 0x36 d.val a.val 0 (maskBits mk 7 4) 1)
  | .vlog h x d a mk => vecWords x (wordV h 0x36 d.val a.val 0 (maskBits mk 7 4) 2)
  | .vlog2 h x d a mk => vecWords x (wordV h 0x36 d.val a.val 0 (maskBits mk 7 4) 3)
  | .vrcp h x d a mk => vecWords x (wordV h 0x36 d.val a.val 0 (maskBits mk 7 4) 4)
  | .vrsqrt h x d a mk => vecWords x (wordV h 0x36 d.val a.val 0 (maskBits mk 7 4) 5)
  | .vsqrt h x d a mk => vecWords x (wordV h 0x36 d.val a.val 0 (maskBits mk 7 4) 6)
  | .vdiv h x d a b mk => vecWords x (wordV h 0x36 d.val a.val b.val (maskBits mk 7 4) 7)
  | .vtanh h x d a mk => vecWords x (wordV h 0x36 d.val a.val 0 (maskBits mk 7 4) 8)
  | .vsigm h x d a mk => vecWords x (wordV h 0x36 d.val a.val 0 (maskBits mk 7 4) 9)
  | .verf h x d a mk => vecWords x (wordV h 0x36 d.val a.val 0 (maskBits mk 7 4) 10)
  | .vsin h x d a mk => vecWords x (wordV h 0x36 d.val a.val 0 (maskBits mk 7 4) 11)
  | .vcos h x d a mk => vecWords x (wordV h 0x36 d.val a.val 0 (maskBits mk 7 4) 12)
  | .vperm h x d a b mk => vecWords x (wordV h 0x37 d.val a.val b.val (maskBits mk 7 4) 0)
  | .vbcast h x d a mk => vecWords x (wordV h 0x37 d.val a.val 0 (maskBits mk 7 4) 1)
  | .vbcastScalar h x d mk => [vecWord x, wordV h 0x37 d.val 0 0 (maskBits mk 7 4) 1]
  | .vrot h x d a mk => vecWords x (wordV h 0x37 d.val a.val 0 (maskBits mk 7 4) 2)
  | .viota h x d mk => vecWords x (wordV h 0x37 d.val 0 0 (maskBits mk 7 4) 3)
  | .vsel h x d a b mk => vecWords x (wordV h 0x37 d.val a.val b.val (2 ^ 7 + mk.val * 2 ^ 4) 4)
  | .vins h x d => [vecWord x, wordV h 0x37 d.val 0 0 0 5]
  | .vext h x d a => vecWords x (wordV h 0x37 d.val a.val 0 0 6)
  | .vhdrWrite h x d => [vecWord x, wordV h 0x37 d.val 0 0 0 7]
  | .vhdrRead h x d a => [vecWord x, wordV h 0x37 d.val a.val 0 0 7]
  | .vcmpI32 h x d a b mk => vecWords x (wordV h 0x37 d.val a.val b.val (maskBits mk 7 4) 8)
  | .vcmpF32 h x d a b mk => vecWords x (wordV h 0x37 d.val a.val b.val (maskBits mk 7 4) 9)
  | .vrsumF32 h x d a mk => vecWords x (wordV h 0x37 d.val a.val 0 (maskBits mk 7 4) 10)
  | .vrsumI32 h x d a mk => vecWords x (wordV h 0x37 d.val a.val 0 (maskBits mk 7 4) 11)
  | .vrmaxF32 h x d a mk => vecWords x (wordV h 0x37 d.val a.val 0 (maskBits mk 7 4) 12)
  | .vrmaxI32 h x d a mk => vecWords x (wordV h 0x37 d.val a.val 0 (maskBits mk 7 4) 13)
  | .vdraw h x d a mk => [vecWord x, wordV h 0x37 d.val a.val 0 (maskBits mk 7 4) 14]
  | .dmerge h x d a b => vecWords x (wordV h 0x37 d.val a.val b.val 0 15)
  | .mmaF8f8 h d a b => [wordN h 0x38 d.val (sregCode a) (sregCode b) 0]
  | .mmaB16b16 h d a b => [wordN h 0x38 d.val (sregCode a) (sregCode b) 1]
  | .mmaF8i4 h d a b => [wordN h 0x38 (boolCode d * 2) (sregCode a) (sregCode b) 2]
  | .mmaB16i4 h d a b => [wordN h 0x38 (boolCode d * 2) (sregCode a) (sregCode b) 3]
  | .mmaB16l4 h d a b => [wordN h 0x38 (boolCode d * 2) (sregCode a) (sregCode b) 4]
  | .mmaQb8 h d a b => [wordN h 0x38 d.val (sregCode a) (sregCode b) 5]
  | .mmaQb4 h d a b => [wordN h 0x38 d.val (sregCode a) (sregCode b) 6]
  | .mldw h a b => [wordN h 0x39 0 (sregCode a) (sregCode b) 0]
  | .mswap h => [wordN h 0x39 0 0 0 1]
  | .mldk h d a => [wordN h 0x39 d.val a.val 0 2]
  | .mcolq h d a b => [wordN h 0x39 (boolCode d * 2) a.val b.val 3]
  | .mzero h d => [wordN h 0x39 d.val 0 0 4]
  | .mmovaToVector h d a g => [wordN h 0x39 d.val a.val g.toNat 5]
  | .mmovaToAcc h d a g => [wordN h 0x39 d.val a.val (g.toNat + 4) 5]
  | .mrsum h d a => [wordN h 0x39 d.val a.val 0 6]
  | .mchk h d a => [wordN h 0x39 (sregCode d) a.val 0 7]
  | .msync h d => [wordN h 0x39 (sregCode d) 0 0 8]
  | .mdrainF32 h x d a g z => vecWords x (wordN h 0x3A d.val a.val (g.toNat + boolCode z * 4) 4)
  | .mdrainBf16 h x d a g z => vecWords x (wordN h 0x3A d.val a.val (g.toNat + boolCode z * 4) 5)
  | .mdrainE4m3 h x d a g z => vecWords x (wordN h 0x3A d.val a.val (g.toNat + boolCode z * 4) 6)
  | .mdrainE5m2 h x d a g z => vecWords x (wordN h 0x3A d.val a.val (g.toNat + boolCode z * 4) 7)
  | .mdrainQb8 h x d a g z => vecWords x (wordN h 0x3A d.val a.val (g.toNat + boolCode z * 4) 8)
  | .mdrainQb4 h x d a g z => vecWords x (wordN h 0x3A d.val a.val (g.toNat + boolCode z * 4) 9)
  | .mdrainBa32 h x d a g z => vecWords x (wordN h 0x3A d.val a.val (g.toNat + boolCode z * 4) 12)
  | .linit h o a b => ordWords o (wordN h 0x3C 0 (sregCode a) (sregCode b) 0)
  | .larv h o d a b => ordWords o (wordN h 0x3C (sregCode d) (sregCode a) (sregCode b) 1)
  | .lwait h o d a b => ordWords o (wordN h 0x3C (sregCode d) (sregCode a) (sregCode b) 2)
  | .ltest h o d a => ordWords o (wordN h 0x3C (sregCode d) (sregCode a) 0 3)
  | .lreg h o a b => ordWords o (wordN h 0x3C 0 (sregCode a) (sregCode b) 4)
  | .ldrop h o a b => ordWords o (wordN h 0x3C 0 (sregCode a) (sregCode b) 5)
  | .lbytes h o d a b => ordWords o (wordN h 0x3C (sregCode d) (sregCode a) (sregCode b) 6)
  | .rngget h d => [wordN h 0x3D (sregCode d) 0 0 0]
  | .fadd h x d a b => vecWords x (wordN h 0x3E (sregCode d) (sregCode a) (sregCode b) 0)
  | .fsub h x d a b => vecWords x (wordN h 0x3E (sregCode d) (sregCode a) (sregCode b) 1)
  | .fmul h x d a b => vecWords x (wordN h 0x3E (sregCode d) (sregCode a) (sregCode b) 2)
  | .fdiv h x d a b => vecWords x (wordN h 0x3E (sregCode d) (sregCode a) (sregCode b) 3)
  | .fsqrt h x d a => vecWords x (wordN h 0x3E (sregCode d) (sregCode a) 0 4)
  | .fma h x d a b => vecWords x (wordN h 0x3E (sregCode d) (sregCode a) (sregCode b) 5)
  | .fmin h x d a b => vecWords x (wordN h 0x3E (sregCode d) (sregCode a) (sregCode b) 6)
  | .fmax h x d a b => vecWords x (wordN h 0x3E (sregCode d) (sregCode a) (sregCode b) 7)
  | .feq h x d a b => vecWords x (wordN h 0x3E d.val (sregCode a) (sregCode b) 8)
  | .flt h x d a b => vecWords x (wordN h 0x3E d.val (sregCode a) (sregCode b) 9)
  | .fle h x d a b => vecWords x (wordN h 0x3E d.val (sregCode a) (sregCode b) 10)
  | .fcvti h x d a => vecWords x (wordN h 0x3E (sregCode d) (sregCode a) 0 11)
  | .fcvtf h x d a => vecWords x (wordN h 0x3E (sregCode d) (sregCode a) 0 12)
  | .fabs h x d a => vecWords x (wordN h 0x3E (sregCode d) (sregCode a) 0 13)
  | .fneg h x d a => vecWords x (wordN h 0x3E (sregCode d) (sregCode a) 0 14)
  | .fclass h x d a => vecWords x (wordN h 0x3E (sregCode d) (sregCode a) 0 15)
  | _ => []

end Sys2Proof
end

