-- ==== Sys2Proof/Machine/CoreEvents.lean ====
section
/-! DEFINITION. Events inside a core: selection and ageing of slots (R316 to R318), results and stores (R75, R196), the
service of the special-function unit (R152), dispatch and completion of matrix commands (R160, R162), and the two fetch
faults (R69, R113). Each happens in the first cycle in which its condition holds. -/

namespace Sys2Proof.Machine

/-- An event of a core: it stops when there is no such core, or nothing of the kind is due there. -/
def coreEvent (s : State) (c : Nat) (f : Core → Option State) : Host.Outcome State Fault Refusal :=
  match (s.core? c).bind f with
  | some t => .next t
  | none => .fault .noSuchItem

/-! ## Selection (R317) and ageing (R318) -/

/-- A slot that selection may take. -/
def Core.canSelect (k : Core) (cyc : Nat) (sl : Fin 8) : Bool :=
  decide ((k.slot sl).st = .ready) && decide ((k.slot sl).readyAt ≤ cyc) && !(k.slot sl).stopped

/-- The READY slot to select: lowest PRIO, then longest READY, then lowest number; none while a slot is RUNNING. A slot that has just
yielded comes after every other of its priority (R123). -/
def Core.toSelect (k : Core) (cyc : Nat) : Option (Fin 8) :=
  if k.running.isSome then none
  else
    (List.finRange 8).foldl (fun best sl =>
      if !k.canSelect cyc sl then best
      else
        match best with
        | none => some sl
        | some b =>
          let x := k.slot sl
          let y := k.slot b
          if x.prio < y.prio || (x.prio = y.prio && (decide (x.readyAt < y.readyAt)
              || (decide (x.readyAt = y.readyAt) && decide (k.yielded = some b)))) then some sl else best) none

/-- SLOT_SELECTION: the first instruction may issue 2 cc after the slot became READY, 3 cc after the last issue, and no earlier than the
stall of the slot's own last instruction lets it (R71, R317); the fetch buffer has dropped its words (R192). -/
def execSlotSelection (c : Nat) (s : State) : Host.Outcome State Fault Refusal :=
  coreEvent s c fun k =>
    (k.toSelect (s.cyc c)).map fun sl =>
      s.modCore c fun k => { k with stale := [], yielded := none }.modSlot sl fun x =>
        { x with st := .running, nextIssue := max x.nextIssue (max (x.readyAt + 2) (match k.lastIssue with
            | some l => l + 3
            | none => 0)) }

/-- A slot whose age counter has reached 65,536 with a priority left to raise. -/
def Core.raises (k : Core) (cyc : Nat) (sl : Fin 8) : Bool :=
  decide ((k.slot sl).st = .ready) && decide ((k.slot sl).ageFrom + 65536 ≤ cyc) && decide ((k.slot sl).prio ≠ 0)

/-- PRIORITY_RAISE. -/
def execPriorityRaise (c : Nat) (sl : Fin 8) (s : State) : Host.Outcome State Fault Refusal :=
  coreEvent s c fun k =>
    if k.raises (s.cyc c) sl then
      some (s.modCore c fun k =>
        (k.modSlot sl fun x => { x with prio := x.prio - 1, ageFrom := s.cyc c }).count 20 1)
    else none

/-! ## Results and stores -/

/-- A store reaches the bank (R196): a partial write of a bad word fails and traps (R190). -/
def State.performStore (s : State) (c : Nat) (b : StoreBuf) : State :=
  let s := s.modCore c fun k => { k with stores := k.stores.filter fun e => decide (e.id ≠ b.id) }
  let s := s.modCore c fun k => k.injectPartial b.addr b.data.length
  match s.core? c with
  | none => s
  | some k =>
    match k.badPartial b.addr b.data.length with
    | some w => s.faultSlot c b.slot .uels ⟨BitVec.ofNat 64 w, (k.slot b.slot).pc, some b.issued, false, 0, 0, 0⟩
    | none => s.writeOwn c b.addr b.data

/-- A scoreboarded result is written, and its flags with it (R75, R114). -/
def State.performResult (s : State) (c : Nat) (r : Result) : State :=
  let s := s.modCore c fun k =>
    { k.setReg r.reg r.val with results := k.results.filter fun e => decide (e.id ≠ r.id) }
  (s.raiseFlags c r.slot r.flags r.trapEn r.pc r.issued).settleWaits c

/-- RESULT_WRITE: the result or the oldest store, when it is due. -/
def execResultWrite (c id : Nat) (s : State) : Host.Outcome State Fault Refusal :=
  coreEvent s c fun k =>
    match k.results.find? fun r => decide (r.id = id) && decide (r.due ≤ s.cyc c) with
    | some r => some (s.performResult c r)
    | none =>
      match k.stores.find? fun b => decide (b.id = id) && decide (b.due ≤ s.cyc c) with
      | some b => some (s.performStore c b)
      | none => none

/-! ## The special-function unit (R152) -/

/-- The request whose service starts now: the first not started, after the one before it has ended its service. -/
def Core.sfuStart (k : Core) (cyc : Nat) : Option SfuReq :=
  match k.sfu.find? fun q => q.start.isNone with
  | some q => if q.issued < cyc && decide (k.sfuNext ≤ cyc) then some q else none
  | none => none

/-- SFU_SERVICE_START: the request takes its values of the generator. -/
def execSfuServiceStart (c : Nat) (s : State) : Host.Outcome State Fault Refusal :=
  coreEvent s c fun k =>
    (k.sfuStart (s.cyc c)).map fun q =>
      let cyc := s.cyc c
      let r := q.compute k.regs.rng
      let q' : SfuReq := { q with start := some cyc, writeAt := cyc + q.fn.latency, result := r.1, flags := r.2.flags }
      s.modCore c fun k => { k with
        regs := { k.regs with rng := r.2.rng }
        sfuNext := cyc + q.fn.service
        sfu := (k.sfu.takeWhile fun e => e.start.isSome) ++ [q'] ++ (k.sfu.dropWhile fun e => e.start.isSome).drop 1 }

/-- The request whose result is written now: the head, no earlier than the cycle after the write before it. -/
def Core.sfuWriteDue (k : Core) (cyc : Nat) : Option SfuReq :=
  match k.sfu with
  | q :: _ => if q.start.isSome && decide (q.writeAt ≤ cyc) && decide (k.sfuWrite ≤ cyc) then some q else none
  | [] => none

/-- SFU_RESULT_WRITE. Where a result becomes ready in the very cycle in which the result before it is written, R152 names no cycle: it is
written in the one after (log 72). What the write releases issues from the next cycle on, so that no trap of the slot follows it in its
own (R153, log 73). -/
def execSfuResultWrite (c : Nat) (s : State) : Host.Outcome State Fault Refusal :=
  coreEvent s c fun k =>
    (k.sfuWriteDue (s.cyc c)).map fun q =>
      let s := s.modCore c fun k =>
        ({ k.setReg (.v q.d) (.vec q.result) with
          sfu := k.sfu.drop 1, sfuWrite := s.cyc c + 1, issueFrom := s.cyc c + 1 } : Core).count 9 1
      (s.raiseFlags c q.slot q.flags q.trapEn q.pc q.issued).settleWaits c

/-! ## The matrix unit -/

/-- MATRIX_DISPATCH. -/
def execMatrixDispatch (c : Nat) (s : State) : Host.Outcome State Fault Refusal :=
  coreEvent s c fun k => (k.dispatchable (s.cyc c)).map fun x => s.matrixDispatch c x

/-- A dispatched command that completes now. -/
def Core.matrixDue (k : Core) (cyc : Nat) : Option MEntry :=
  k.matrix.find? fun m => m.dispatched && decide (m.completeAt ≤ cyc)

/-- MATRIX_COMPLETION. -/
def execMatrixCompletion (c id : Nat) (s : State) : Host.Outcome State Fault Refusal :=
  coreEvent s c fun k =>
    (k.matrix.find? fun m => m.dispatched && decide (m.completeAt ≤ s.cyc c) && decide (m.id = id)).map fun x =>
      s.matrixComplete c x

/-! ## Words that are not instructions -/

/-- The last word of an active loop body lies at `pc` (R66, R69). -/
def Slot.endsBody (x : Slot) (pc : Nat) : Bool :=
  ((x.loop[(0 : Fin 2)]).active && decide ((x.loop[(0 : Fin 2)]).last = pc))
    || ((x.loop[(1 : Fin 2)]).active && decide ((x.loop[(1 : Fin 2)]).last = pc))

/-- The words that decide an instruction at `pc`: the second is none at 0x2_FFFC. -/
def Core.words (k : Core) (fresh pc : Nat) : Nat × Option Nat :=
  ((k.fetchWord fresh pc).toNat, if pc = 0x2FFFC then none else some (k.fetchWord fresh (pc + 4)).toNat)

/-- A CSR instruction's word is checked for STALL before its CSR number is (R69, R70): its guard, or operand A under a true guard, is in
flight (R73). -/
def Core.csrStalls (k : Core) (sl : Fin 8) (cyc w : Nat) : Bool :=
  let h := headOf w
  (k.slot sl).schk && (k.inFlight (.p sl h.gp) cyc || (k.getP sl h.gp != h.neg && k.inFlight (sid sl (sregOf (fld w 10 5))) cyc))

/-- NOT_AN_INSTRUCTION: fetch faults of the words read come first, then the decode fault (R69, R70, R369). The second word
is read when the first is a prefix that passes its own checks. -/
def execNotAnInstruction (f : DecodeFault) (s : State) : Host.Outcome State Fault Refusal :=
  let c := s.cur
  match s.core? c with
  | none => .fault .noRunningSlot
  | some k =>
    match k.running with
    | none => .fault .noRunningSlot
    | some sl =>
      let pc := (k.slot sl).pc
      let w := k.words s.fresh pc
      let n := if prefixOk w.1 w.2 ((k.slot sl).endsBody pc) then 2 else 1
      let s := s.modCore c fun k => k.injectRead pc (4 * n)
      match (s.core? c).bind fun k => k.fetchFault pc n with
      | some e => .next (s.finish c sl 0 pc pc (.fault e.1 (BitVec.ofNat 64 e.2)))
      | none =>
        let stall := decide (f = .illcsr) && k.csrStalls sl (s.cyc c) w.1
        .next (s.finish c sl 0 pc pc (.fault (if stall then .stall else Cause.ofDecode f) (BitVec.ofNat 64 pc)))

/-- FETCH_PAST_LOCAL_STORE: LRANGE with FADDR 0x3_0000 (R113). -/
def execFetchPastLocalStore (s : State) : Host.Outcome State Fault Refusal :=
  let c := s.cur
  match s.core? c with
  | none => .fault .noRunningSlot
  | some k =>
    match k.running with
    | none => .fault .noRunningSlot
    | some sl =>
      if (k.slot sl).pc < 0x30000 then .fault .noSuchItem
      else .next (s.finish c sl 0 (k.slot sl).pc (k.slot sl).pc (.fault .lrange 0x30000))

end Sys2Proof.Machine
end

