-- ==== Sys2Proof/Machine/Service.lean ====
section
/-! DEFINITION. Requests at their homes and their ends: service at cores, edge homes and host ports (R205, R212, R214, R294), age
discards and ageing (R294, R297), replies, retries and unknown outcomes (R293, R301), walks (R267), grants (R240, R247) and revoke
notices (R245). -/

namespace Sys2Proof.Machine

/-- A message in flight that has arrived and can be performed: a frozen core's are held (R273). -/
def State.arrived (s : State) (id : Nat) : Option Packet :=
  s.net.find? fun p => decide (p.id = id) && decide (p.arrive ≤ s.now) && !p.atDevice && !p.crcBad && !s.isFrozen p.dst

/-! ## Service at a home -/

/-- The token request of a message at its home (R236): a pass-on whose grant goes to another core is answered later. -/
def State.tokServe (s : State) (pk : Packet) (own : Bool) (op : ROp) (subject : BitVec 21) : State × Option Served :=
  let n := pk.dst
  let cc := if own then 0 else 4
  let answer (r : State × TokEnd) : State × Option Served :=
    match r.2 with
    | .done none d => (r.1, some (.done d cc))
    | .done (some c) _ => (r.1, some (.fail c cc))
    | .refused c => (r.1, some (.fail c cc))
    | .waits => (r.1.launchAt n, none)
  match op with
  | .tok o a va b e k => answer (s.tokRun n subject o a va b e k false pk.id (s.ahead n cc))
  | .killRet a e => answer (s.tokRun n subject .ret a 0 0 (some e) 0 true pk.id 0)
  | .tqry a => (s, some (.done (tokReport (s.tokEnv n subject) a (s.toks n)) 4))
  | _ => (s, none)

/-- How a request's message reaches its home. -/
def State.viaOf (s : State) (src : Node) (reqId : Nat) : Via :=
  if s.isWindow src reqId then .window else if s.isLocal src reqId then .ownPeer else .fabric

/-- What the atomic unit does with a request takes it for some cc (R205, R208). -/
def ROp.unitTime : ROp → Nat
  | .atom _ _ _ _ _ | .latch _ _ _ => 2
  | .badd _ _ => 9
  | _ => 0

/-- A request performed at a core home. -/
def State.coreServe (s : State) (pk : Packet) (c : Nat) (via : Via) (rid : BitVec 22) (ser : BitVec 32) (subject : BitVec 21)
    (op : ROp) : State × Option Served :=
  let s := if op.unitTime = 0 then s else s.modCore c fun k => { k with atomNext := s.now + s.ahead (.core c) op.unitTime }
  let some_ (r : State × Served) : State × Option Served := (r.1, some r.2)
  match op with
  | .tok _ _ _ _ _ _ | .killRet _ _ | .tqry _ => s.tokServe pk (via ≠ .fabric) op subject
  | .send m => some_ (s.sendServe c m)
  | .latch o a b => some_ (s.latchServe c via subject rid ser o a b)
  | .grant sl base size e k =>
    let port : Option Nat := match pk.src with
      | .port p => some p
      | _ => none
    let r := s.acceptGrant c port sl base size e k
    match r.2 with
    | none => (r.1, some (.done 0 4))
    | some x => (r.1, some (.fail x 4))
  | _ => some_ (s.homeAccess c via subject rid ser op)

/-- A request accepted at an edge home or host port: an access waits for its device. -/
def State.portServe (s : State) (pk : Packet) (p : Nat) (subject : BitVec 21) (op : ROp) : State × Option Served :=
  match op with
  | .tok _ _ _ _ _ _ | .killRet _ _ | .tqry _ => s.tokServe pk false op subject
  | _ =>
    match s.edgeDenied p subject op with
    | some e => (s, some (.fail e 0))
    | none => (s, none)

/-- The device time of a message that has just been handed to its device; a host read ends after 500 µs (R389). -/
def State.startDevice (s : State) (id : Nat) : State :=
  { s with
    net := s.net.map fun p => if p.id = id && p.atDevice && p.arrive ≤ s.now then
      { p with arrive := s.now + Config.deviceTime s.fresh, base := s.now + 650000 } else p
    fresh := s.fresh + 1 }

/-- Service of one request message at its home: by serial for a write-like request, again and again for a read. Requests of a
dead agent are refused (R252, R253). -/
def State.serviceOf (s : State) (pk : Packet) : State :=
  if s.isDead pk.src then s.dropPacket pk.id
  else match pk.body with
  | .request rid ser _ _ _ _ subject _ reqId op =>
    match pk.dst with
    | .core c =>
      match s.core? c with
      | none => s.dropPacket pk.id
      | some _ => s.serve pk fun t => t.coreServe pk c (s.viaOf pk.src reqId) rid ser subject op
    | .port p =>
      let q := s.port p
      if !q.isMem && !q.isHost then s.dropPacket pk.id
      else
        match op with
        | .tok _ _ _ _ _ _ | .killRet _ _ | .tqry _ => s.serve pk fun t => t.portServe pk p subject op
        | _ => (s.serve pk fun t => t.portServe pk p subject op).startDevice pk.id
    | .mgr => s.dropPacket pk.id
  | _ => s

/-- A home already knows the serial of a message. -/
def State.knownSerial (s : State) (n : Node) (rid : BitVec 22) (ser : BitVec 32) : Bool :=
  (s.once n).cache.any fun e => decide (e.2.rid = rid ∧ e.2.ser = ser)

/-- A token request that a core's home logic is to perform for a slot of its own, before that slot issues again (R236, R383). -/
def Packet.ownToken (p : Packet) (c : Nat) : Bool :=
  decide (p.src = .core c) && decide (p.dst = .core c) && !p.atDevice && (match p.body with
    | .request _ _ _ _ _ _ _ _ _ (.tok _ _ _ _ _ _) => true
    | _ => false)

/-- Accesses, latch operations among them, that have reached a home and are not performed yet: at a core they queue for its atomic unit,
at an edge home they wait for a device. -/
def State.accessPending (s : State) (n : Node) : Bool :=
  s.net.any fun p => decide (p.dst = n) && (p.atDevice || decide (p.arrive ≤ s.now)) && !p.crcBad && (match p.body with
    | .request _ _ _ _ _ sts _ _ reqId o =>
      (o.range.isSome || o.writesStore) && (p.atDevice || s.isLocal p.src reqId || !s.tooOld sts)
    | _ => false)

/-- A token request that gives a region to a slot of the home's own core: it is a grant to that slot, and takes its turn with the grants
(R247, R383). -/
def ROp.givesAt (op : ROp) (n : Node) : Bool :=
  match n, op with
  | .core c, .tok o _ _ b _ _ => (o = .lend || o = .share) && decide (bits b 0 18 = c)
  | _, _ => false

/-- The leaf that a token request gives to a slot of its own home core has bytes that local accesses have not let go of (R237). -/
def State.giveHeld (s : State) (n : Node) (op : ROp) : Bool :=
  match n, op with
  | .core c, .tok _ a _ _ _ _ =>
    match s.core? c, leafBase (s.toks n) 256 a with
    | some k, some (_, e) => op.givesAt n && k.localBusy c (e.base * 256) (e.limit * 256) (s.cyc c)
    | _, _ => false
  | _, _ => false

/-- A token request at a home must wait: for a grant's outcome (R240), behind one of the home core's own (R383), for local accesses to
what it gives (R237), and a recall, or any request at an edge home, for the accesses that came before it (R221, R245). -/
def State.tokHeld (s : State) (pk : Packet) (op : ROp) : Bool :=
  let n := pk.dst
  let own : Bool := match n with
    | .core c => pk.ownToken c
    | _ => false
  match op with
  | .tok _ a _ _ _ _ | .tqry a | .killRet a _ =>
    grantWaits (s.toks n) (tokUnit n) a || s.giveHeld n op || (match n, op with
      | .port _, _ => s.accessPending n
      | _, .tok .recl _ _ _ _ _ => s.accessPending n
      | _, _ => false)
      || (match n with
        | .core c => !own && s.net.any fun p => p.ownToken c
        | _ => false)
  | _ => false

/-- A request message that its home serves now. -/
def State.serviceReady (s : State) (pk : Packet) : Bool :=
  match pk.body with
  | .request rid ser _ _ _ sts _ wr reqId op =>
    decide (pk.arrive ≤ s.now) && !pk.atDevice && !pk.crcBad && !op.isTransfer && (s.isLocal pk.src reqId || !s.tooOld sts)
      && ((wr && s.knownSerial pk.dst rid ser)
        || (!s.tokHeld pk op && (op.unitTime = 0 || (match pk.dst with
          | .core c => match s.core? c with
            | some k => decide (k.atomNext ≤ s.now)
            | none => true
          | _ => true))))
  | _ => false

def ROp.isGrant : ROp → Bool
  | .grant _ _ _ _ _ => true
  | _ => false

def ROp.isSubmit : ROp → Bool
  | .submit _ _ => true
  | _ => false

/-- A request message by kind: written, read or a grant. -/
def State.serviceEvent (s : State) (id : Nat) (f : Bool → ROp → Bool) : Host.Outcome State Fault Refusal :=
  match s.net.find? fun p => decide (p.id = id) && s.serviceReady p with
  | some pk =>
    match pk.body with
    | .request _ _ _ _ _ _ _ wr _ op => if f wr op then .next (s.serviceOf pk) else .fault .noSuchItem
    | _ => .fault .noSuchItem
  | none => .fault .noSuchItem

/-- WRITE_REQUEST_SERVICE (R294). -/
def execWriteRequestService (id : Nat) (s : State) : Host.Outcome State Fault Refusal :=
  s.serviceEvent id fun wr op => wr && !op.isGrant && !op.isSubmit

/-- READ_REQUEST_SERVICE (R214). -/
def execReadRequestService (id : Nat) (s : State) : Host.Outcome State Fault Refusal :=
  s.serviceEvent id fun wr _ => !wr

/-- GRANT_ARRIVAL (R247). -/
def execGrantArrival (id : Nat) (s : State) : Host.Outcome State Fault Refusal :=
  s.serviceEvent id fun _ op => op.isGrant

/-! ## Completions at ports (R212, R388, R389) -/

/-- A message whose device completes now. -/
def State.atDevice (s : State) (id : Nat) (host : Bool) : Option (Packet × Nat × ROp) :=
  match s.net.find? fun p => decide (p.id = id) && p.atDevice && decide (p.arrive ≤ s.now) with
  | some pk =>
    match pk.dst, pk.body with
    | .port p, .request _ _ _ _ _ _ _ _ _ op =>
      if op.range.isSome && (s.port p).isHost == host then some (pk, p, op) else none
    | _, _ => none
  | none => none

/-- CXL_MEM_COMPLETION: the next 64-byte request of an access completes (R388, log 64); after the last the access is answered. -/
def execCxlMemCompletion (id : Nat) (s : State) : Host.Outcome State Fault Refusal :=
  match s.atDevice id false with
  | some (pk, p, op) =>
    match op.range with
    | none => .fault .noSuchItem
    | some (a, n, _) =>
      let l := deviceLines a n
      let line := l.getD pk.lines.length (a, n)
      let r := s.deviceLine p op line.1 line.2
      let lines := pk.lines ++ [r.2]
      if l.length ≤ lines.length then .next (r.1.serveLater pk (deviceOutcome op lines))
      else
        .next { r.1 with
          net := r.1.net.map fun m => if m.id = id then { m with lines := lines, arrive := s.now + Config.deviceTime s.fresh } else m
          fresh := s.fresh + 1 }
  | none => .fault .noSuchItem

/-- HOST_PORT_COMPLETION. -/
def execHostPortCompletion (id : Nat) (s : State) : Host.Outcome State Fault Refusal :=
  match s.atDevice id true with
  | some (pk, p, op) =>
    let r := s.hostAccess p op
    .next (r.1.serveLater pk r.2)
  | none => .fault .noSuchItem

/-- HOST_READ_TIMEOUT: 500 µs without a completion. -/
def execHostReadTimeout (id : Nat) (s : State) : Host.Outcome State Fault Refusal :=
  match s.net.find? fun p => decide (p.id = id) && p.atDevice && decide (p.base ≤ s.now) with
  | some pk =>
    match pk.dst, pk.body with
    | .port p, .request _ _ _ _ _ _ _ _ _ (.load _ _ _) =>
      if (s.port p).isHost then .next (s.serveLater pk (.fail .xlate 0)) else .fault .noSuchItem
    | _, _ => .fault .noSuchItem
  | none => .fault .noSuchItem

/-! ## Ageing (R294, R297) -/

/-- A request message that no one serves any more: older than 64 µs. -/
def State.ageDue (s : State) (pk : Packet) : Bool :=
  match pk.body with
  | .request _ _ _ _ _ sts _ _ reqId _ => !pk.atDevice && !s.isLocal pk.src reqId && s.tooOld sts
  | _ => false

/-- REQUEST_AGE_DISCARD. -/
def execRequestAgeDiscard (id : Nat) (s : State) : Host.Outcome State Fault Refusal :=
  match s.net.find? fun p => decide (p.id = id) && s.ageDue p with
  | some _ => .next (s.dropPacket id)
  | none => .fault .noSuchItem

/-- REPLY_ENTRY_AGEING: a freeable entry is freed. -/
def execReplyEntryAgeing (n : Node) (i : Nat) (s : State) : Host.Outcome State Fault Refusal :=
  match aget i (s.once n).cache with
  | some e => if e.freeable s.timeNs then .next (s.modOnce n fun o => { o with cache := adel i o.cache }) else .fault .noSuchItem
  | none => .fault .noSuchItem

/-- REQUESTER_ENTRY_AGEING. -/
def execRequesterEntryAgeing (n : Node) (i : Nat) (s : State) : Host.Outcome State Fault Refusal :=
  match aget i (s.once n).reqs with
  | some e => if e.freeable s.timeNs then .next (s.modOnce n fun o => { o with reqs := adel i o.reqs }) else .fault .noSuchItem
  | none => .fault .noSuchItem

/-! ## The end of a request -/

/-- How a request ends. -/
inductive ReqEnd where
  | done (data : Word) (bytes : List Byte)
  | fail (c : Cause)
  | unknown
  deriving DecidableEq, Repr

/-- The cause that its requester gets. -/
def ReqEnd.cause : ReqEnd → Option (Cause × Bool)
  | .done _ _ => none
  | .fail c => some (c, false)
  | .unknown => some (.fabricLost, true)

/-- The waiter of a grant hears of its outcome: a token instruction of the home core, or a pass-on's message. -/
def State.endWaiter (s : State) (n : Node) (waiter : Nat) (g : GrantEnd) : State :=
  match s.findReq n waiter, n with
  | some q, .core c =>
    let s := s.dropReq n waiter
    let s := match g.cause with
      | some e => s.failReq c q e (decide (g = GrantEnd.unknown))
      | none => s
    s.settleWaits c
  | _, _ =>
    match s.net.find? fun p => decide (p.id = waiter) && p.atDevice with
    | some pk =>
      s.serveLater pk (match g.cause with
        | some e => .fail e 0
        | none => .done 0 0)
    | none => s

/-- A grant ends (R240, R243). -/
def State.endGrant (s : State) (n : Node) (q : Req) (r : ReqEnd) : State :=
  match q.sink with
  | .grantFor i named kind waiter =>
    let g : GrantEnd := match r with
      | .done _ _ => .accepted
      | .fail c => .refused c
      | .unknown => .unknown
    (s.grantEnd n i named kind g).endWaiter n waiter g
  | _ => s

/-- The register value of a reply. -/
def Sink.value (k : Core) (data : Word) (bytes : List Byte) : Sink → Option (RegId × RegVal)
  | .scalar r sz => some (r, .word (ldExtend sz (ofBytes bytes)))
  | .vector n => some (.v n, .vec { k.getV n with lanes := lanesOf bytes })
  | .data r w32 => some (r, .word (if w32 then BitVec.ofNat 64 (bits data 0 32) else data))
  | _ => none

/-- What a successful reply does at a core. The replies of a killed slot write no register (R374). -/
def State.replyDone (s : State) (c : Nat) (q : Req) (data : Word) (bytes : List Byte) : State :=
  match s.core? c with
  | none => s
  | some k =>
    let tables (f : Tables → Tables) : State := s.modCore c fun k => { k with tables := f k.tables }
    match q.sink with
    | .heldEntry i _ _ =>
      tables fun t => { t with held := amod i (fun h => { h with reserved := false }) t.held }
    | .membership a n => tables fun t => t.addMember q.slot a n
    | .unregister a n => tables fun t => t.dropMember q.slot a n
    | .submitWord off tag =>
      if (k.slot q.slot).killed then s
      else s.writeOwn c off (bytesLE 8 (tag.toNat * 2 ^ 32 + bits data 0 32))
    | .copyRead _ _ | .copyUnit _ | .copyDone _ => s.copyReply c q bytes none
    | k0 =>
      match k0.value k data bytes with
      | some (r, v) => if (k.slot q.slot).killed then s else s.modCore c fun k => k.setReg r v
      | none => s

/-- What a failure does at a core. -/
def State.replyFail (s : State) (c : Nat) (q : Req) (e : Cause) (unk : Bool) : State :=
  match q.sink with
  | .heldEntry i _ _ =>
    (s.modCore c fun k => k.dropHeld i).failReq c q e unk
  | .copyRead _ _ | .copyUnit _ | .copyDone _ => s.copyReply c q [] (some (e, unk))
  | _ =>
    -- transfers of the router, and kill-returns, TUNSHs and BREAKs of the token agent have no slot left to trap
    if q.rid.getLsbD 21 then
      s.coreReport c e ⟨q.faddr, 0, none, unk, q.inc, q.ser, q.rid⟩
    else s.failReq c q e unk

/-- A request ends: its entry is freed, and its requester gets the outcome. -/
def State.endReq (s : State) (n : Node) (q : Req) (r : ReqEnd) : State :=
  let s := s.dropReq n q.id
  match q.sink, n with
  | .grantFor _ _ _ _, _ => s.endGrant n q r
  | _, .core c =>
    let s := match r with
      | .done d bs => s.replyDone c q d bs
      | .fail e => s.replyFail c q e false
      | .unknown => s.replyFail c q .fabricLost true
    (s.settleWaits c).copyFlush c
  | _, _ => s

/-! ## Replies and timers (R293) -/

/-- What a reply's STATUS does to an outstanding request. -/
def State.replyTo (s : State) (n : Node) (q0 : Req) (inc status : Byte) (data : Word) (bytes : List Byte) : State :=
  let q := { q0 with inc := inc }
  match Cause.ofCode status.toNat with
  | none => s.endReq n q (.done data bytes)
  | some .rcfull | some .frozen => (s.putReq n q).countAt n 15
  | some .restarted => s.endReq n q .unknown
  | some e => s.endReq n q (.fail e)

/-- A reply that reaches its requester; FINJ may drop one of its flits there (R377), of the own home logic's none; a reply that matches
no request is discarded. -/
def State.takeReply (s : State) (pk : Packet) : State :=
  match pk.body with
  | .reply _ ser reqId inc status data bytes =>
    let s := s.dropPacket pk.id
    let q := s.findReq pk.dst reqId
    let own : Bool := q.any fun q => q.localWait
    let f : Bool × State := match pk.dst with
      | .core c => if own then (false, s) else s.finj c 1 2 (flits bytes.length)
      | _ => (false, s)
    if f.1 then f.2
    else
      match q with
      | some q => if own || decide (q.ser = ser) then f.2.replyTo pk.dst q inc status data bytes else f.2
      | none => f.2
  | _ => s

/-- A reply for a grant, or for any other request. -/
def State.replyKind (s : State) (pk : Packet) : Option Bool :=
  match pk.body with
  | .reply _ _ reqId _ _ _ _ =>
    match s.findReq pk.dst reqId with
    | some q => match q.sink with
      | .grantFor _ _ _ _ => some true
      | _ => some false
    | none => some false
  | _ => none

/-- REPLY_ARRIVAL. -/
def execReplyArrival (id : Nat) (s : State) : Host.Outcome State Fault Refusal :=
  match s.arrived id with
  | some pk => if s.replyKind pk = some false then .next (s.takeReply pk) else .fault .noSuchItem
  | none => .fault .noSuchItem

/-- GRANT_OUTCOME (R240): the reply of a grant. -/
def execGrantOutcome (id : Nat) (s : State) : Host.Outcome State Fault Refusal :=
  match s.arrived id with
  | some pk => if s.replyKind pk = some true then .next (s.takeReply pk) else .fault .noSuchItem
  | none => .fault .noSuchItem

/-- A request whose timer expires. -/
def Req.timerDue (q : Req) (now : Nat) : Bool :=
  decide (0 < q.att) && decide (q.due ≤ now) && !q.localWait && q.walk.isNone

/-- RETRY_TIMER_EXPIRY: the next attempt, or after the eighth the end: unknown for a write-like request, FABRIC_LOST for a read
(R301). -/
def execRetryTimerExpiry (n : Node) (id : Nat) (s : State) : Host.Outcome State Fault Refusal :=
  match s.findReq n id with
  | some q =>
    if !q.timerDue s.now then .fault .noSuchItem
    else if q.att < 8 then .next (s.transmit n q 0)
    else .next (s.endReq n q (if q.wr then .unknown else .fail .fabricLost))
  | none => .fault .noSuchItem

/-! ## Walks (R267) -/

/-- The request's operation at another address of its home. -/
def ROp.atAddr (op : ROp) (a : Nat) : ROp :=
  match op with
  | .load _ n t => .load a n t
  | .store _ d t => .store a d t
  | .cword _ v d b => .cword a v d b
  | .atom o w _ b d => .atom o w a b d
  | .badd _ b => .badd a b
  | .tok o _ va b e k => .tok o a va b e k
  | .tqry _ => .tqry a
  | .latch o _ b => .latch o a b
  | .killRet _ e => .killRet a e
  | o => o

/-- A walk that starts again after a shootdown (R268). -/
def State.walkAgain (s : State) (c : Nat) (k : Core) (q : Req) (w : Walk) : State :=
  match s.walk (s.partOf k) w.va with
  | .refused => s.endReq (.core c) q (.fail .xlate)
  | .poison => s.endReq (.core c) q (.fail .uexlate)
  | .ok x =>
    match s.targetOf x w.va w.write with
    | .error e => s.endReq (.core c) q (.fail e)
    | .ok t =>
      { s.putReq (.core c) { q with
          home := .port t.1, op := q.op.atAddr t.2
          walk := some ⟨some (s.now + Config.deviceTime s.fresh), w.va, w.write, x, false⟩ } with fresh := s.fresh + 1 }

/-- A walk of a request is complete. -/
def Walk.over (w : Walk) (now : Nat) : Bool := w.due.any fun d => decide (d ≤ now)

/-- The misses at the head of a field's queue leave it, oldest first: one whose page is being walked by then joins that walk, another
takes a free one of the 16 (R267). -/
def State.startWalks (fld : Nat) : Nat → State → State
  | 0, s => s
  | fuel + 1, s =>
    let queued := (s.cores.flatMap fun e => if fieldOf e.1 = fld then e.2.reqs else []).filter fun r => r.walk.any fun w => w.due.isNone
    let oldest := queued.foldl (fun (m : Option Req) r => match m with
      | some q => if r.id < q.id then some r else some q
      | none => some r) none
    match oldest with
    | none => s
    | some q =>
      match q.walk with
      | none => s
      | some w =>
        let ws := s.walking fld
        let start (due : Nat) (s : State) : State := { s with
          cores := s.cores.map fun (e : Nat × Core) =>
            (e.1, { e.2 with reqs := e.2.reqs.map fun r => if r.id = q.id then { r with walk := some { w with due := some due } } else r }) }
        match walkDue ws w.found with
        | some d => State.startWalks fld fuel (start d s)
        | none =>
          if 16 ≤ (walkedPages ws).length then s
          else State.startWalks fld fuel (start (s.now + Config.deviceTime s.fresh) { s with fresh := s.fresh + 1 })

/-- The miss queues of all fields move on. -/
def State.moveWalks (s : State) : State :=
  if s.cores.any fun e => e.2.reqs.any fun r => r.walk.any fun w => w.due.isNone then
    (List.range 48).foldl (fun s f => s.startWalks f 528) s
  else s

/-- TRANSLATION_WALK_COMPLETE: the core's TLB and the field's cache take the translation, and the request is sent. -/
def execTranslationWalkComplete (c id : Nat) (s : State) : Host.Outcome State Fault Refusal :=
  match s.core? c, s.findReq (.core c) id with
  | some k, some q =>
    match q.walk with
    | none => .fault .noSuchItem
    | some w =>
      if !w.over s.now then .fault .noSuchItem
      else if w.again then .next (s.walkAgain c k q w)
      else
        let q1 := { q with walk := none }
        let s := ((s.modField (fieldOf c) fun f => f.fill w.found).modCore c fun k => k.fillTlb w.found).putReq (.core c) q1
        .next ((s.transmit (.core c) q1 0).copyFlush c)
  | _, _ => .fault .noSuchItem

/-! ## Revoke notices (R245, R382) -/

/-- REVOKE_NOTICE_ARRIVAL. -/
def execRevokeNoticeArrival (id : Nat) (s : State) : Host.Outcome State Fault Refusal :=
  match s.arrived id with
  | some pk =>
    match pk.body with
    | .revoke i base size => .next ((s.dropPacket id).unhold i base size)
    | _ => .fault .noSuchItem
  | none => .fault .noSuchItem

end Sys2Proof.Machine
end

