-- ==== Sys2Proof/Machine/TaskEnd.lean ====
section
/-! DEFINITION. The end of a task: END (R124), the end of DRAINING with the returns of R255 and R256 and the notices of R359, and
the expiry of a wait's limit (R120, R122, R356). -/

namespace Sys2Proof.Machine

/-- A request that a core sends for a slot that has ended or was killed. -/
def agentReq (c : Nat) (sl : Fin 8) (rid : BitVec 22) (t : Access) (faddr bytes : Nat) (cyc : Nat) (op : ROp) : Req where
  id := 0
  rid := rid
  slot := sl
  ser := 0
  op := op
  home := t.home
  wr := true
  subject := ident c sl
  sink := .quiet
  att := 0
  fts := 0
  due := 0
  issued := cyc
  faddr := BitVec.ofNat 64 faddr
  lo := t.lo
  hi := t.lo + bytes
  acq := none
  walk := t.walk
  localWait := decide (t.home = .core c)
  waits := false
  inc := 0
  cls := 3

/-- Sends one, when there is room for its walk and, for an ended slot's own, a free request entry (R203, R236); one that the tables refuse is a fault of the slot, reported as R372 gives for a DRAINING
slot, or a report of the token agent (R265). -/
def State.agentSend (s : State) (c : Nat) (k : Core) (sl : Fin 8) (killed : Bool) (a bytes : Nat) (op : Nat → ROp) : Option State :=
  let rid := if killed then engineRid c 2 else slotRid c sl
  if !killed && !k.reqFree then none
  else
  match s.remAddr c k a 1 true with
  | .ok t => some ((s.translated c t).sendReq (.core c) (agentReq c sl rid t a bytes (s.cyc c) (op t.addr)) (s.ahead (.core c) t.lat))
  | .fault e =>
    some (if killed then s.coreReport c e ⟨BitVec.ofNat 64 a, 0, none, false, 0, 0, rid⟩
      else s.faultSlot c sl e ⟨BitVec.ofNat 64 a, (k.slot sl).pc, some (s.cyc c), false, 0, 0, rid⟩)
  | .hold => none

/-- A held entry goes back when the work of its slot has ended (R255, R256): TRET or TUNSH by the slot, or at a kill a kill-return or
TUNSH by the token agent. A LOST entry is only removed. None while it must wait. -/
def State.returnHeld (s : State) (c : Nat) (sl : Fin 8) (killed : Bool) (i : Nat) (h : HeldTok) : Option State :=
  match s.core? c with
  | none => none
  | some k =>
    let a := h.base * 256
    let ownBase := peerBase c
    let s1 := s.modCore c fun k => k.dropHeld i
    if h.lost || h.reserved then some s1
    else if ownBase ≤ a && decide (a < ownBase + 0x30000) then
      let kill := killed && decide (h.kind = 0)
      some (s1.tokRun (.core c) (ident c sl) (if h.kind = 0 then .ret else .unsh) (a - ownBase) a 0 (some h.epoch) h.kind kill 0 0).1
    else if h.kind = 0 then
      s1.agentSend c k sl killed a 0 fun p => if killed then .killRet p h.epoch else .tok .ret p a 0 (some h.epoch) 0
    else s1.agentSend c k sl killed a 0 fun p => .tok .unsh p a 0 (some h.epoch) h.kind

/-- The regions that the slot declared with REL are withdrawn (R256). -/
def State.withdrawRel (s : State) (c : Nat) (sl : Fin 8) : State :=
  let mine := (s.toks (.core c)).filter fun e => e.2.rel && decide (e.2.dslot = sl) && decide (e.2.st ≠ .split)
  mine.foldl (fun s e =>
    let r := tokWithdraw (s.toks (.core c)) e.1
    (s.setToks (.core c) r.1).revoke (.core c) (fabBase (.core c) 0 e.2) (e.2.size256 (.core c)) r.2) s

/-- BREAK notices for the memberships of a killed slot (R359). -/
def State.breakLatches (s : State) (c : Nat) (sl : Fin 8) : State :=
  match s.core? c with
  | none => s
  | some k =>
    let mine := k.tables.members.filter fun e => decide (e.2.slot = sl)
    let s := s.modCore c fun k => { k with tables := { k.tables with
      members := k.tables.members.filter fun e => decide (e.2.slot ≠ sl) } }
    mine.foldl (fun s e => (s.agentSend c k sl true e.2.addr 0 fun p => .latch .brk p 0).getD s) s

/-- The core in whose peer range an address lies. -/
def peerCore (a : Nat) : Nat := (a - 0x1000000000) / 2 ^ 18

/-- The membership that an ended slot drops next (R358): the lowest entry, once no earlier operation of the slot on its latch is
outstanding (R203, R354) and no acquire of the slot whose scope has the latch's home (R218, R224). -/
def Core.dropNext (k : Core) (c : Nat) (sl : Fin 8) : Option (Nat × Member) :=
  (k.tables.members.find? fun e => decide (e.2.slot = sl)).filter fun e =>
    !k.overlapHold sl e.2.addr 16 true && !k.acqHold c sl (.core (peerCore e.2.addr))

/-- The slot becomes FREE, with what R256, R359 and R374 do then, and held messages are taken (R314); in a partition that is killed a
task so placed is killed (R346). -/
def State.freeSlot (s : State) (c : Nat) (sl : Fin 8) (killed : Bool) : State :=
  let s := s.withdrawRel c sl
  let s := if killed then s.breakLatches c sl else s
  ((s.modCore c fun k => k.modSlot sl fun x => { x with st := .free, killed := false, ended := false, wait := none }).dispatchHeld
    c).killPlaced c

/-- What a DRAINING slot does next (R124, R302, R374): an ended one drops its memberships as their latches allow; when nothing of it is
outstanding, its held tokens go back; when their requests have ended too, it becomes FREE. -/
def State.drainStep (s : State) (c : Nat) (sl : Fin 8) : Option State :=
  match s.core? c with
  | none => none
  | some k =>
    let x := k.slot sl
    if x.st ≠ .draining then none
    else
      match if x.killed then none else k.dropNext c sl with
      | some (i, m) =>
        (s.modCore c fun k => { k with tables := { k.tables with members := adel i k.tables.members } }).agentSend c k sl false m.addr 16
          fun p => .latch .endDrop p (BitVec.ofNat 64 (m.count + 2 ^ 16))
      | none =>
        if k.working sl || (!x.killed && k.tables.members.any fun e => decide (e.2.slot = sl)) then none
        else
          let mine := k.tables.held.filter fun e => decide (e.2.slot = sl)
          if mine.isEmpty then some (s.freeSlot c sl x.killed)
          else mine.findSome? fun e => s.returnHeld c sl x.killed e.1 e.2

/-- As far as a DRAINING slot gets at once. -/
def State.drain (c : Nat) (sl : Fin 8) : Nat → State → State
  | 0, s => s
  | fuel + 1, s =>
    match s.drainStep c sl with
    | some t => State.drain c sl fuel t
    | none => s

/-- END (R124, R373): INTRAP is cleared; with nothing outstanding the slot is FREE at once. -/
def execEndTask (h : Head) : State → Host.Outcome State Fault Refusal :=
  issue h 1 usesNone fun x s =>
    .stop ((s.modCore x.c fun k =>
      k.leave.modSlot x.sl fun y => { y with st := .draining, ended := true, intrap := false }).drain x.c x.sl 65)

/-- DRAINING_END: the next step of a DRAINING slot, the last of which makes it FREE. -/
def execDrainingEnd (c : Nat) (sl : Fin 8) (s : State) : Host.Outcome State Fault Refusal :=
  match s.drainStep c sl with
  | some t => .next t
  | none => .fault .noSuchItem

/-- A wait whose limit has passed on a core that is not halted (R340). -/
def Core.waitOver (k : Core) (sl : Fin 8) (ns : Nat) : Bool :=
  let past (l : Option Nat) : Bool := match l with
    | some t => decide (t ≤ ns)
    | none => false
  decide ((k.slot sl).st = .waiting) && !k.halted && !k.frozen && (match (k.slot sl).wait with
    | some (.all _ l) => past l
    | some (.word _ l _ _) => past l
    | some (.latch _ l _ _) => past l
    | none => false)

/-- WAIT_LIMIT_EXPIRY (R120, R122, R356): d is 1, or the word at expiry. -/
def execWaitLimitExpiry (c : Nat) (sl : Fin 8) (s : State) : Host.Outcome State Fault Refusal :=
  match s.core? c with
  | none => .fault .noSuchItem
  | some k =>
    if !k.waitOver sl s.timeNs then .fault .noSuchItem
    else
      let word (d : SReg) (a n : Nat) : State :=
        let s := s.modCore c fun k => k.injectRead a n
        if ((s.core? c).bind fun k => k.badIn a n).isSome then
          s.faultSlot c sl .uels (FaultInfo.here (BitVec.ofNat 64 a) (k.slot sl).pc)
        else s.modCore c fun k => k.endWait sl d (BitVec.ofNat 64 (k.mem.readLE a 8)) (s.cyc c)
      match (k.slot sl).wait with
      | some (.all d _) => .next (s.modCore c fun k => k.endWait sl d 1 (s.cyc c))
      | some (.word d _ a _) => .next (word d a 8)
      | some (.latch d _ a _) => .next (word d a 16)
      | none => .fault .noSuchItem

end Sys2Proof.Machine
end

