-- ==== Sys2Proof/Machine/Binding.lean ====
section
/-! DEFINITION. The binding of logical cores to physical cores (R269 to R271, R275): the choice of a spare, the change of an
entry with the records it touches, and the link class entries that follow (R276). -/

namespace Sys2Proof.Machine

/-- A binding entry (R269). -/
def bindEntry (gen : BitVec 32) (frz : Bool) (p : Nat × Nat) : Word :=
  BitVec.ofNat 64 (gen.toNat * 2 ^ 32 + (if frz then 2 ^ 27 else 0) + 2 ^ 26 + p.2 * 2 ^ 9 + p.1)

/-- Sets the ST of a physical core's record; MARG stays. -/
def State.setPhys (s : State) (p : Nat × Nat) (st : Nat) : State :=
  let k := physKey p
  let old := (aget k s.mgr.phys).getD (s.physRec p)
  { s with mgr := { s.mgr with phys := aset k (putBits old 0 3 st) s.mgr.phys } }

/-- The FRZ bit of a binding entry. -/
def State.setFrz (s : State) (c : Nat) (b : Bool) : State :=
  { s with mgr := { s.mgr with bind := aset c (putBits (s.binding c) 27 1 (if b then 1 else 0)) s.mgr.bind } }

/-- A logical core is bound to a physical one: the entry with a GEN, the records of both (R272). The physical core that it leaves
becomes RETIRED, also where a fenced field has taken it rather than a failure (log 69: R270 gives no ST for that case). -/
def State.bindTo (s : State) (c : Nat) (p : Nat × Nat) (gen : BitVec 32) : State :=
  let old := s.physOf c
  let s := if (s.binding c).getLsbD 26 then s.setPhys old 2 else s
  let s := s.setPhys p 1
  { s with mgr := { s.mgr with bind := aset c (bindEntry gen false p) s.mgr.bind } }

/-- The logical neighbours of a core inside the advertised array. -/
def State.logicalNbrs (s : State) (c : Nat) : List Nat :=
  (if coreX c + 1 < s.mgr.cols then [c + 1] else []) ++ (if 0 < coreX c then [c - 1] else [])
    ++ (if coreY c + 1 < Config.rows then [c + 512] else []) ++ (if 0 < coreY c then [c - 512] else [])

/-- Every link path of a core bound at a position would have h of at most 63 (R271). A neighbour without a good physical core
has no link path; it is counted when it is bound in its turn. -/
def State.linksReach (s : State) (c : Nat) (p : Nat × Nat) : Bool :=
  let t := s.bindTo c p 0
  (t.logicalNbrs c).all fun n =>
    if !(t.binding n).getLsbD 26 || !t.physGood (t.physOf n) then true
    else
      match t.pathLen p (t.physOf n) with
      | some len => decide (len ≤ 64)
      | none => false

/-- The physical positions of a field, row by row. -/
def fieldPositions (fld : Nat) : List (Nat × Nat) :=
  (List.range 75).flatMap fun y => (List.range 60).map fun x => (60 * (fld % 8) + x, 75 * (fld / 8) + y)

/-- A spare that a retirement in progress has chosen (R272). -/
def State.reserved (s : State) (p : Nat × Nat) : Bool := s.mgr.retiring.any fun r => decide (r.2.1 = physKey p)

/-- The spare of a field that step 1 of R271 takes: nearest the nominal position, then lower py, then lower px. -/
def State.spareIn (s : State) (c fld : Nat) : Option (Nat × Nat) :=
  let n := nominalPos c
  (fieldPositions fld).foldl (fun best p =>
    let closer : Bool := match best with
      | none => true
      | some b => decide (manhattan n p < manhattan n b)
    if closer && decide (physSt (s.physRec p) = 0) && !s.reserved p && s.linksReach c p then some p else best) none

/-- Own field, then the same field column by distance, north first, then the same field row by distance, west first. -/
def spareFields (c : Nat) : List Nat :=
  let f := fieldOf c
  let x := f % 8
  let y := f / 8
  [f]
    ++ ((List.range 5).flatMap fun d =>
      (if d + 1 ≤ y then [8 * (y - (d + 1)) + x] else []) ++ if y + d + 1 < 6 then [8 * (y + d + 1) + x] else [])
    ++ (List.range 7).flatMap fun d =>
      (if d + 1 ≤ x then [8 * y + x - (d + 1)] else []) ++ if x + d + 1 < 8 then [8 * y + x + d + 1] else []

/-- The spare that R271 chooses. -/
def State.chooseSpare (s : State) (c : Nat) : Option (Nat × Nat) := (spareFields c).findSome? fun f => s.spareIn c f

/-- The link class entries of cores are computed again (R276). -/
def State.relink (s : State) (cs : List Nat) : State :=
  { s with mgr := { s.mgr with links := cs.foldl (fun l c => aset c (s.computeLink c) l) s.mgr.links } }

/-- The cores whose entries a change of the binding of some cores touches. -/
def State.withNbrs (s : State) (cs : List Nat) : List Nat := (cs.flatMap fun c => c :: s.logicalNbrs c).eraseDups

/-- One change of the binding table in service: BINDGEN, the entry, the records, the links (R272, R275). -/
def State.rebind (s : State) (c : Nat) (p : Nat × Nat) : State :=
  let gen := s.mgr.bindgen + 1
  let s : State := { s with mgr := { s.mgr with bindgen := gen } }
  (s.bindTo c p gen).relink (c :: s.logicalNbrs c)

/-! ## The array shrinks (R9, R271) -/

/-- Active partitions (R22). -/
def PartState.active : PartState → Bool
  | .placed | .loading | .running | .halting | .resuming => true
  | _ => false

/-- The fields of an entry. -/
def PartEntry.fieldList (p : PartEntry) : List Nat :=
  (List.range 6).flatMap fun y => ((List.range 8).filter fun x =>
    decide (p.fylo ≤ y) && decide (y ≤ p.fyhi) && decide (p.fxlo ≤ x) && decide (x ≤ p.fxhi)).map fun x => 8 * y + x

/-- The logical cores of a column. -/
def columnCores (x : Nat) : List Nat := (List.range Config.rows).map fun y => y * 512 + x

/-- The easternmost column leaves the array, and its good cores become spares (R9, R271). -/
def State.shrink (s : State) (gen : BitVec 32) : State :=
  let x := s.mgr.cols - 1
  let s := (columnCores x).foldl (fun s c =>
    let s := if (s.binding c).getLsbD 26 && physSt (s.physRec (s.physOf c)) = 1 then s.setPhys (s.physOf c) 0 else s
    { s with mgr := { s.mgr with bind := aset c (BitVec.ofNat 64 (gen.toNat * 2 ^ 32)) s.mgr.bind } }) s
  { s with mgr := { s.mgr with
      cols := x
      dead := s.mgr.dead.filter fun n => match n with
        | .core c => decide (coreX c < x)
        | _ => true } }

/-- Some partition has the field column of the easternmost logical column. -/
def State.eastHeld (s : State) : Bool :=
  s.mgr.table.toList.any fun e => (e.st.active || decide (e.st = .saved))
    && e.fieldList.any fun f => decide (f % 8 = (s.mgr.cols - 1) / 60)

/-- A logical core is bound again, or the array shrinks until it can be, or is gone (R271, R347). `may` says whether a column may
leave; without it nothing is changed. -/
def State.rebindOrShrink (s : State) (may : State → Bool) (gen : BitVec 32) (c : Nat) : Nat → Option State
  | 0 => none
  | n + 1 =>
    if s.mgr.cols ≤ coreX c then some s
    else
      match s.chooseSpare c with
      | some p => some (s.bindTo c p gen)
      | none => if s.mgr.cols = 0 || !may s then none else (s.shrink gen).rebindOrShrink may gen c n

/-- A core with nothing in its stores: its serial counters, its incarnation (R288, R300) and its cycle offset go on. -/
def Core.bare (k : Core) : Core :=
  { Core.reset with
    next := k.next
    tables := { Tables.reset with once := { Once.reset with inc := k.tables.once.inc } }
    cycOff := k.cycOff }

/-- A dead core of a field that no partition holds is bound to a spare, or the array shrinks by the columns that no partition
holds; until it can, the core stays dead and its field waits (R347). It is one change of the binding table (R275). NEXT and INC go on
(R288); what its store and its shadow store held is lost. -/
def State.rebindDead (s : State) (c : Nat) : State :=
  if !s.isDead (.core c) || s.fenced (fieldOf c) then s
  else
    let gen := s.mgr.bindgen + 1
    let n := s.mgr.cols
    match ({ s with mgr := { s.mgr with bindgen := gen } } : State).rebindOrShrink (fun t => !t.eastHeld) gen c 480 with
    | none => s
    | some t =>
      let gone := (List.range (n - t.mgr.cols)).flatMap fun i => columnCores (t.mgr.cols + i)
      ({ t with idle := amod c Core.bare t.idle, mgr := { t.mgr with dead := t.mgr.dead.erase (.core c) } } : State).relink
        (t.withNbrs (c :: gone))

/-- The dead cores that no partition holds. -/
def State.deadFree (s : State) : List Nat :=
  s.mgr.dead.filterMap fun n => match n with
    | .core c => if s.mgr.table.toList.any fun e => (e.st.active || decide (e.st = .saved)) && e.fieldList.contains (fieldOf c)
        then none else some c
    | _ => none

end Sys2Proof.Machine
end

