-- ==== Sys2Proof/Machine/Launch.lean ====
section
/-! DEFINITION. The launch path: records and their refusals (R333, R335, R338), the journal (R337), images (R85 to R87), groups
(R278), placement (R336), the open and close waves (R25, R88), seeds (R334), the hang monitor (R345) and the kill of a partition
(R346). -/

namespace Sys2Proof.Machine

/-! ## The slot table and the journal -/

def PartState.code : PartState → BitVec 4
  | .free => 0
  | .placed => 1
  | .loading => 2
  | .running => 3
  | .halting => 4
  | .saved => 5
  | .resuming => 6
  | .closed => 7
  | .failed => 8

def State.part (s : State) (e : Nat) : PartEntry := vat s.mgr.table e PartEntry.reset

/-- The TIME as a 64-bit word. -/
def State.timeWord (s : State) : Word := BitVec.ofNat 64 s.timeNs

/-- CODE of a launch (R335): live until it ends. -/
def PartEntry.journalCode (p : PartEntry) : Byte :=
  match p.st with
  | .closed | .failed | .free => p.reason
  | _ => 1

/-- The journal entry of a slot-table entry is written (R337). -/
def State.journalPart (s : State) (e : Nat) : State :=
  let p := s.part e
  let j := s.mgr.journal.map fun x =>
    if x.2.seq = p.seq then
      (x.1, { x.2 with
        code := p.journalCode, st := p.st.code, entry := BitVec.ofNat 6 e
        fields := BitVec.ofNat 12 (p.fyhi * 512 + p.fxhi * 64 + p.fylo * 8 + p.fxlo), changed := s.timeWord })
    else x
  { s with mgr := { s.mgr with journal := j } }

/-- A change of an entry, journalled when it changes STATE. -/
def State.modPart (s : State) (e : Nat) (f : PartEntry → PartEntry) : State :=
  let p := f (s.part e)
  let t := { s with mgr := { s.mgr with table := s.mgr.table.setIfInBounds e p } }
  if p.st = (s.part e).st then t else t.journalPart e

/-- The logical rectangle of an entry (R22, R86). -/
def PartEntry.rect (p : PartEntry) : Rect :=
  ⟨60 * p.fxlo, firstRow p.fylo, 60 * p.fxhi + 59, firstRow p.fyhi + fieldRows p.fyhi - 1⟩

def Rect.width (r : Rect) : Nat := r.xhi + 1 - r.xlo
def Rect.height (r : Rect) : Nat := r.yhi + 1 - r.ylo

/-- The cores of a rectangle, in increasing logical index. -/
def Rect.cores (r : Rect) : List Nat :=
  (List.range r.height).flatMap fun y => (List.range r.width).map fun x => (r.ylo + y) * 512 + r.xlo + x

/-- The cores that serve an entry now. -/
def State.coresOf (s : State) (e : Nat) : List Nat :=
  (s.cores.filter fun k => decide (k.2.entry = e)).map fun k => k.1

/-- The entry whose active partition holds a field. -/
def State.activeOn (s : State) (fld : Nat) : Option Nat :=
  (List.range 48).find? fun e => (s.part e).st.active && (s.part e).fieldList.contains fld

/-- A SAVED partition, other than the named one, whose context lies in a field. -/
def State.savedOn (s : State) (fld : Nat) (but : Option Nat) : Bool :=
  (List.range 48).any fun e => decide ((s.part e).st = .saved) && (s.part e).fieldList.contains fld && decide (but ≠ some e)

/-- Logical cores of a field. -/
def fieldCores (fld : Nat) : List Nat :=
  (Rect.mk (60 * (fld % 8)) (firstRow (fld / 8)) (60 * (fld % 8) + 59) (firstRow (fld / 8) + fieldRows (fld / 8) - 1)).cores

/-- A field that a partition can be made of: not fenced (R22), and whole in the advertised array (R9, log 40). -/
def State.usable (s : State) (fld : Nat) : Bool := !s.fenced fld && decide (60 * (fld % 8) + 60 ≤ s.mgr.cols)

/-- A field holds a dead core that awaits its rebinding (R347). -/
def State.fieldDead (s : State) (fld : Nat) : Bool :=
  s.mgr.dead.any fun n => match n with
    | .core c => decide (fieldOf c = fld)
    | _ => false

/-- A field that a placement may take now (R22, R347). -/
def State.fieldFree (s : State) (fld : Nat) : Bool :=
  s.usable fld && (s.activeOn fld).isNone && !s.fieldDead fld

/-! ## Launch records (R333) -/

def recW (r : Vector Word 8) (i : Nat) : Word := vat r i 0
def recTag (r : Vector Word 8) : BitVec 32 := (recW r 3).extractLsb' 32 32
def recNseed (r : Vector Word 8) : Nat := bits (recW r 3) 0 32
def recPrio (r : Vector Word 8) : Nat := bits (recW r 6) 13 2
def recNrange (r : Vector Word 8) : Nat := bits (recW r 6) 15 7
def recFix (r : Vector Word 8) : Bool := (recW r 6).getLsbD 6
def recFy (r : Vector Word 8) : Nat := bits (recW r 6) 10 3
def recFx (r : Vector Word 8) : Nat := bits (recW r 6) 7 3
def recH (r : Vector Word 8) : Nat := bits (recW r 6) 3 3 + 1
def recWidth (r : Vector Word 8) : Nat := bits (recW r 6) 0 3 + 1

/-- The slot-table entry of a record placed at (fx, fy) (R286). -/
def recEntry (r : Vector Word 8) (seq fx fy : Nat) : PartEntry :=
  { PartEntry.reset with
    tag := recTag r
    st := .placed
    prio := BitVec.ofNat 2 (recPrio r)
    fyhi := fy + recH r - 1
    fxhi := fx + recWidth r - 1
    fylo := fy
    fxlo := fx
    image := recW r 0
    gtab := recW r 1
    seedsAt := recW r 2
    nseed := recNseed r
    root := recW r 4
    rtab := recW r 5
    pre := (recW r 6).getLsbD 30
    hang := (recW r 6).extractLsb' 22 8
    nrange := recNrange r
    seq := seq }

/-! ## Reading a launch's memory -/

/-- The pages of 4 KiB that a range touches. -/
def touchedPages (a n : Nat) : List Nat :=
  if n = 0 then [] else (List.range ((a + n - 1) / 4096 - a / 4096 + 1)).map fun i => (a / 4096 + i) * 4096

/-- Where a launch's page lies: its port and device address. -/
def State.pageOf (s : State) (e : PartEntry) (va : Nat) : Option (Nat × Nat) :=
  let w := windowOf va
  if w ≠ .cxl && w ≠ .host then none
  else
    match s.walk e va with
    | .ok x => match s.targetOf x va false with
      | .ok t => some t
      | .error _ => none
    | _ => none

/-- Every byte of a range is mapped with read permission. -/
def State.mapped (s : State) (e : PartEntry) (a n : Nat) : Bool := (touchedPages a n).all fun p => (s.pageOf e p).isSome

/-- `n` bytes at a fabric address as a launch's tables translate it; none where a byte cannot be read. -/
def State.fabRead (s : State) (e : PartEntry) (a n : Nat) : Option (List Byte) :=
  (touchedPages a n).foldl (fun (acc : Option (List Byte)) p =>
    match acc, s.pageOf e p with
    | some l, some (port, dev) =>
      let lo := max a p
      let len := min (a + n) (p + 4096) - lo
      let q := s.port port
      let at_ := dev + (lo - p)
      if (q.isMem && decide (q.cap.toNat * 2 ^ 30 < at_ + len)) || !q.up || q.poisoned at_ len then none
      else some (l ++ q.mem.readN at_ len)
    | _, _ => none) (some [])

/-- Little-endian field of a byte list. -/
def fieldLE (bs : List Byte) (off n : Nat) : Nat := ofBytes ((bs.drop off).take n)

/-! ## Images (R85 to R87) -/

/-- The header's fields. -/
structure ImgHeader where
  nrect : Nat
  nseg : Nat
  ndoor : Nat
  nroute : Nat
  rectOff : Nat
  segOff : Nat
  doorOff : Nat
  routeOff : Nat
  poolOff : Nat
  poolLen : Nat
  len : Nat
  crc : Nat
  deriving DecidableEq, Repr

def imgHeader (h : List Byte) : ImgHeader where
  nrect := fieldLE h 0x08 4
  nseg := fieldLE h 0x0C 4
  ndoor := fieldLE h 0x10 4
  nroute := fieldLE h 0x14 4
  rectOff := fieldLE h 0x18 4
  segOff := fieldLE h 0x1C 4
  doorOff := fieldLE h 0x20 4
  routeOff := fieldLE h 0x24 4
  poolOff := fieldLE h 0x28 4
  poolLen := fieldLE h 0x2C 4
  len := fieldLE h 0x30 4
  crc := fieldLE h 0x34 4

/-- The header check of the port (R87). A table or pool that reaches past IMGLEN is refused, an empty one too (log 74). -/
def headerOk (h : List Byte) : Bool :=
  let x := imgHeader h
  decide (fieldLE h 0 4 = 0x4D495751) && decide (fieldLE h 4 2 = 1) && decide (fieldLE h 6 2 = 0)
    && decide (64 ≤ x.len) && decide (x.len ≤ 2 ^ 30)
    && decide (x.rectOff + 8 * x.nrect ≤ x.len) && decide (x.segOff + 16 * x.nseg ≤ x.len)
    && decide (x.doorOff + 8 * x.ndoor ≤ x.len) && decide (x.routeOff + 16 * x.nroute ≤ x.len)
    && decide (x.poolOff + x.poolLen ≤ x.len)

/-- One byte of CRC-32, reflected. -/
def crcBits : Nat → Nat → Nat
  | 0, c => c
  | n + 1, c => crcBits n (if c % 2 = 1 then (c / 2) ^^^ 0xEDB88320 else c / 2)

/-- CRC-32 (IEEE 802.3) of a list of bytes. -/
def crc32 (bs : List Byte) : Nat :=
  (bs.foldl (fun c b => crcBits 8 (c ^^^ b.toNat)) 0xFFFFFFFF) ^^^ 0xFFFFFFFF

/-- A rectangle as an image or a group table writes it (R86). -/
def rectOfWord (w : Nat) : Rect := ⟨w % 512, w / 2 ^ 9 % 512, w / 2 ^ 18 % 512, w / 2 ^ 27 % 512⟩

/-- Bounds in order, and inside a partition of w × h cores. -/
def Rect.fits (r : Rect) (w h : Nat) : Bool :=
  decide (r.xlo ≤ r.xhi) && decide (r.ylo ≤ r.yhi) && decide (r.xhi < w) && decide (r.yhi < h)

def Rect.shift (r : Rect) (x y : Nat) : Rect := ⟨r.xlo + x, r.ylo + y, r.xhi + x, r.yhi + y⟩

def Rect.meets (r q : Rect) : Bool :=
  decide (r.xlo ≤ q.xhi) && decide (q.xlo ≤ r.xhi) && decide (r.ylo ≤ q.yhi) && decide (q.ylo ≤ r.yhi)

/-- A segment, a door record or a route record with the rectangles it applies to. -/
structure ImgSeg where
  rects : List Rect
  pool : Nat
  dest : Nat
  len : Nat
  zero : Bool
  deriving DecidableEq, Repr

structure ImgDoor where
  rects : List Rect
  door : Nat
  entry : BitVec 32
  deriving DecidableEq, Repr

structure ImgRoute where
  rects : List Rect
  rt : Nat
  entry : Word
  deriving DecidableEq, Repr

/-- The parts of an image. -/
structure Image where
  rects : List Rect
  segs : List ImgSeg
  doors : List ImgDoor
  routes : List ImgRoute
  pool : List Byte
  deriving DecidableEq, Repr

/-- NR and FIRST of a record are in bounds (R86). -/
def rectSetOk (nrect w : Nat) : Bool :=
  let nr := w / 2 ^ 16 % 16
  decide (1 ≤ nr) && decide (nr ≤ 8) && decide (w % 2 ^ 16 + nr ≤ nrect)

def rectSet (rs : List Rect) (w : Nat) : List Rect := (rs.drop (w % 2 ^ 16)).take (w / 2 ^ 16 % 16)

/-- The parts as the tables of an image hold them. -/
def parseImage (bs : List Byte) : Image :=
  let h := imgHeader bs
  let rects := (List.range h.nrect).map fun i => rectOfWord (fieldLE bs (h.rectOff + 8 * i) 8)
  { rects := rects
    segs := (List.range h.nseg).map fun i =>
      let o := h.segOff + 16 * i
      let w2 := fieldLE bs (o + 8) 4
      ⟨rectSet rects (fieldLE bs (o + 12) 4), fieldLE bs o 4, fieldLE bs (o + 4) 4 % 2 ^ 18, w2 % 2 ^ 18, w2 / 2 ^ 18 % 2 = 1⟩
    doors := (List.range h.ndoor).map fun i =>
      let w := fieldLE bs (h.doorOff + 8 * i) 8
      ⟨rectSet rects w, w / 2 ^ 20 % 32, BitVec.ofNat 32 (w / 2 ^ 32)⟩
    routes := (List.range h.nroute).map fun i =>
      let o := h.routeOff + 16 * i
      let w := fieldLE bs o 8
      ⟨rectSet rects w, w / 2 ^ 20 % 64, BitVec.ofNat 64 (fieldLE bs (o + 8) 8)⟩
    pool := (bs.drop h.poolOff).take h.poolLen }

/-- Two records reach a common core. -/
def rectsMeet (a b : List Rect) : Bool := a.any fun r => b.any fun q => r.meets q

/-- No two members of a list clash. -/
def noClash {α : Type} (clash : α → α → Bool) : List α → Bool
  | [] => true
  | x :: l => !(l.any (clash x)) && noClash clash l

/-- A route entry's check (R280) on the cores of a rectangle of a partition of w × h cores. -/
def routeOk (e : Word) (w h : Nat) (r : Rect) : Bool :=
  let uses (p : Nat) : Bool := routeIn e p || routeOut e p
  !routeV e ||
    (decide (routeOp e ≤ 4) && !(routeDk e && decide (routeOp e ≠ 0) && decide (routeOp e ≠ 4))
      && !(routeOut e 4 && !routeDk e && decide (0x30000 < routeDest e + 272))
      && !(uses 0 && decide (r.ylo = 0)) && !(uses 1 && decide (r.xhi + 1 = w))
      && !(uses 2 && decide (r.yhi + 1 = h)) && !(uses 3 && decide (r.xlo = 0)))

/-- The placement checks of an image (R86, R87, R280) for a partition of w × h cores. R87 lists the refusals; a break of the format that it
does not list (ROUTEOFF not 0 without a route, bytes of a segment past POOLLEN) is answered in the same way (log 74). -/
def imageOk (bs : List Byte) (w h : Nat) : Bool :=
  let x := imgHeader bs
  let im := parseImage bs
  let sets : List Nat := ((List.range x.nseg).map fun i => fieldLE bs (x.segOff + 16 * i + 12) 4)
    ++ ((List.range x.ndoor).map fun i => fieldLE bs (x.doorOff + 8 * i) 4)
    ++ (List.range x.nroute).map fun i => fieldLE bs (x.routeOff + 16 * i) 4
  headerOk bs && decide (crc32 (bs.take 0x34 ++ [0, 0, 0, 0] ++ bs.drop 0x38) = x.crc)
    && decide (x.rectOff % 8 = 0) && decide (x.segOff % 8 = 0) && decide (x.doorOff % 8 = 0) && decide (x.routeOff % 8 = 0)
    && (decide (x.nroute ≠ 0) || decide (x.routeOff = 0))
    && (im.rects.all fun r => r.fits w h) && (sets.all fun v => rectSetOk x.nrect v)
    && (im.segs.all fun g => decide (g.dest % 4 = 0) && decide (g.len % 4 = 0) && decide (g.dest + g.len ≤ 0x30000)
      && if g.zero then decide (g.pool = 0) else decide (g.pool + g.len ≤ x.poolLen))
    && (im.routes.all fun r => r.rects.all fun q => routeOk r.entry w h q)
    && noClash (fun a b : ImgSeg => decide (a.dest < b.dest + b.len) && decide (b.dest < a.dest + a.len)
      && decide (0 < a.len) && decide (0 < b.len) && rectsMeet a.rects b.rects) im.segs
    && noClash (fun a b : ImgDoor => decide (a.door = b.door) && rectsMeet a.rects b.rects) im.doors
    && noClash (fun a b : ImgRoute => decide (a.rt = b.rt) && rectsMeet a.rects b.rects) im.routes

/-- The header of a launch's image, when it can be read and passes the port's check. -/
def State.imageHeader (s : State) (e : PartEntry) : Option (List Byte) :=
  if e.image.toNat % 256 ≠ 0 then none
  else
    match s.fabRead e e.image.toNat 64 with
    | some h => if headerOk h then some h else none
    | none => none

/-- The whole image. -/
def State.imageBytes (s : State) (e : PartEntry) : Option (List Byte) :=
  match s.imageHeader e with
  | some h => s.fabRead e e.image.toNat (imgHeader h).len
  | none => none

/-! ## Groups and seeds (R278, R334) -/

/-- The non-empty groups of a group table, relative to the partition; none when an entry breaks R278. -/
def parseGroups (bs : List Byte) (w h : Nat) : Option (List (Nat × List Rect)) :=
  (List.range 256).foldl (fun (acc : Option (List (Nat × List Rect))) g =>
    match acc with
    | none => none
    | some l =>
      let nr := fieldLE bs (72 * g) 8 % 16
      let rs := (List.range nr).map fun j => rectOfWord (fieldLE bs (72 * g + 8 + 8 * j) 8)
      if 8 < nr || !(rs.all fun r => r.fits w h) then none
      else if nr = 0 then some l else some (l ++ [(g, rs)])) (some [])

/-- The groups that cover a core. -/
def groupsAt (gs : List (Nat × List Rect)) (x y : Nat) : List (Nat × List Rect) :=
  gs.filter fun g => g.2.any fun r => decide (r.xlo ≤ x) && decide (x ≤ r.xhi) && decide (r.ylo ≤ y) && decide (y ≤ r.yhi)

/-- No core lies in more than 4 groups: it suffices to look where a west and a north edge meet. -/
def groupsOk (gs : List (Nat × List Rect)) : Bool :=
  let rs := gs.flatMap fun g => g.2
  (rs.map fun r => r.xlo).eraseDups.all fun x => (rs.map fun r => r.ylo).eraseDups.all fun y =>
    decide ((groupsAt gs x y).length ≤ 4)

/-- The seeds of a list, with absolute core indices; none when one breaks R334. -/
def parseSeeds (bs : List Byte) (n : Nat) (p : Rect) : Option (List Seed) :=
  (List.range n).foldl (fun (acc : Option (List Seed)) i =>
    match acc with
    | none => none
    | some l =>
      let w := fieldLE bs (48 * i) 8
      let x := w % 512
      let y := w / 2 ^ 9 % 512
      let len := w / 2 ^ 18 % 64
      if 32 < len || p.width ≤ x || p.height ≤ y then none
      else some (l ++ [⟨(p.ylo + y) * 512 + p.xlo + x, len, BitVec.ofNat 256 (fieldLE bs (48 * i + 16) 32)⟩])) (some [])

/-! ## The decision of a store (R335) -/

/-- A record breaks the conditions of BADREC. -/
def State.badRecord (s : State) (r : Vector Word 8) : Bool :=
  let e := recEntry r 0 0 0
  let inWindow (a n : Nat) : Bool := s.mapped e a n
  decide (bits (recW r 4) 0 12 ≠ 0) || decide (bits (recW r 6) 31 33 ≠ 0) || decide (recW r 7 ≠ 0)
    || decide (64 < recNrange r) || decide (2 ^ 20 < recNseed r)
    || decide (e.gtab.toNat % 8 ≠ 0) || decide (e.seedsAt.toNat % 16 ≠ 0) || decide (bits e.rtab 0 58 % 32 ≠ 0)
    || decide ((List.range e.nrange).any fun i =>
        s.tableRead e (bits e.rtab 58 6) (bits e.rtab 0 58 + 32 * i) 4 = .refused)
    || !inWindow e.gtab.toNat 18432 || !inWindow e.seedsAt.toNat (48 * e.nseed)
    || (recFix r && (decide (8 < recFx r + recWidth r) || decide (6 < recFy r + recH r)))

/-- The north-west fields (fx, fy) that a record may take, in the order of R336. -/
def recPlaces (r : Vector Word 8) : List (Nat × Nat) :=
  if recFix r then [(recFx r, recFy r)]
  else (List.range (7 - recH r)).flatMap fun y => (List.range (9 - recWidth r)).map fun x => (x, y)

/-- The fields of a record's rectangle at (fx, fy). -/
def recFields (r : Vector Word 8) (p : Nat × Nat) : List Nat := (recEntry r 0 p.1 p.2).fieldList

/-- The journal has no room for a further launch. -/
def State.journalFull (s : State) : Bool :=
  match aget ((s.mgr.jseq + 1) % 4096) s.mgr.journal with
  | some j => decide (j.code = 1)
  | none => false

/-- The CODE of a store, in the order of R335; `floor`: the PRIO of a SUBMIT's issuer (R338). -/
def State.launchCode (s : State) (r : Vector Word 8) (floor : Option (BitVec 2)) : Nat :=
  let lowPrio : Bool := match floor with
    | some p => decide (recPrio r < p.toNat)
    | none => false
  let anyplace := ((List.range (7 - recH r)).flatMap fun y => (List.range (9 - recWidth r)).map fun x => (x, y)).any fun p =>
    (recFields r p).all s.usable
  if !s.mgr.ready then 2
  else if s.badRecord r || lowPrio then 5
  else if (s.imageHeader (recEntry r 0 0 0)).isNone then 4
  else if recFix r && (recFields r (recFx r, recFy r)).any s.fenced then 6
  else if !anyplace then 3
  else if decide (64 ≤ s.mgr.queue.length) || s.journalFull then 2
  else 1

/-- Decides a record: CODE and the low 24 bits of SEQ; an accepted one is queued and journalled. -/
def State.decideLaunch (s : State) (r : Vector Word 8) (floor : Option (BitVec 2)) : State × Nat :=
  let code := s.launchCode r floor
  if code ≠ 1 then (s, code * 2 ^ 24)
  else
    let seq := s.mgr.jseq + 1
    let j : Journal := {
      seq := seq, tag := recTag r, code := 1, st := 0, prio := BitVec.ofNat 2 (recPrio r), entry := 63, fields := 0
      accepted := s.timeWord, changed := s.timeWord }
    ({ s with mgr := { s.mgr with
        jseq := seq, queue := s.mgr.queue ++ [⟨seq, r⟩], journal := aset (seq % 4096) j s.mgr.journal } },
      2 ^ 24 + seq % 2 ^ 24)

/-- A host port that answers its host. -/
def State.hostUp (s : State) (p : Nat) : Bool := (s.port p).isHost && (s.port p).up

/-- LAUNCH_STORE: a store at anything but a host port that is up reaches no launch port. -/
def execLaunchStore (port : Nat) (r : Vector Word 8) (s : State) : Host.Outcome State Fault Refusal :=
  if !s.hostUp port then .next s
  else
    let d := s.decideLaunch r none
    .next (d.1.modPort port fun q => { q with result := BitVec.ofNat 64 ((recTag r).toNat * 2 ^ 32 + d.2) })

/-- SUBMIT_SERVICE (R338): once per serial, as an edge home serves. -/
def execSubmitService (id : Nat) (s : State) : Host.Outcome State Fault Refusal :=
  match s.net.find? fun p => decide (p.id = id) && s.serviceReady p with
  | some pk =>
    match pk.dst, pk.body with
    | .mgr, .request _ _ _ _ _ _ _ _ _ (.submit r prio) =>
      .next (s.serve pk fun s =>
        let d := s.decideLaunch r (some prio)
        (d.1, some (.done (BitVec.ofNat 64 d.2) (Config.firmwareTime s.fresh))))
    | _, _ => .fault .noSuchItem
  | none => .fault .noSuchItem

/-! ## Placement (R336) -/

/-- The launch that is placed next: the lowest PRIO, then the earliest. -/
def State.headLaunch (s : State) : Option Launch :=
  s.mgr.queue.foldl (fun best l =>
    match best with
    | none => some l
    | some b => if recPrio l.record < recPrio b.record then some l else some b) none

/-- A launch names a fixed place that has been fenced since it was accepted (R287). -/
def State.fixFenced (s : State) (r : Vector Word 8) : Bool :=
  recFix r && (recFields r (recFx r, recFy r)).any s.fenced

/-- The place of the head launch, when it can be placed now: its entry and north-west field. A launch whose fixed place has been
fenced waits until the partitions there have closed (R347). -/
def State.placeFor (s : State) : Option (Launch × Nat × Nat × Nat) :=
  match s.headLaunch with
  | none => none
  | some l =>
    let waits : Bool := match aget (l.seq % 4096) s.mgr.journal with
      | some j => decide (s.timeNs < j.accepted.toNat + Config.launchTime l.seq)
      | none => false
    let free := (List.range 48).find? fun e => decide ((s.part e).st = .free)
    let place := if s.fixFenced l.record then
        (if (recFields l.record (recFx l.record, recFy l.record)).all fun f => (s.activeOn f).isNone
          then some (recFx l.record, recFy l.record) else none)
      else (recPlaces l.record).find? fun p => (recFields l.record p).all s.fieldFree
    match waits, free, place with
    | false, some e, some p => some (l, e, p.1, p.2)
    | _, _, _ => none

/-- The checks of a placement: its groups and seeds, or the REASON of its failure. -/
def State.placeCheck (s : State) (p : PartEntry) : Except Byte (List (Nat × List Rect) × List Seed) :=
  let r := p.rect
  if p.fieldList.any s.fenced then .error 6
  else
    match s.fabRead p p.gtab.toNat 18432, s.fabRead p p.seedsAt.toNat (48 * p.nseed) with
    | some g, some sd =>
      match parseGroups g r.width r.height, parseSeeds sd p.nseed r with
      | some gs, some seeds =>
        if !groupsOk gs then .error 5
        else
          match s.imageBytes p with
          | some im => if imageOk im r.width r.height then
              .ok (gs.map fun x => (x.1, x.2.map fun q => q.shift r.xlo r.ylo), seeds) else .error 4
          | none => .error 4
      | _, _ => .error 5
    | _, _ => .error 5

/-- PLACEMENT. -/
def execPlacement (s : State) : Host.Outcome State Fault Refusal :=
  match s.placeFor with
  | none => .fault .noSuchItem
  | some (l, e, fx, fy) =>
    let p := recEntry l.record l.seq fx fy
    let s := { s with mgr := { s.mgr with queue := s.mgr.queue.filter fun q => decide (q.seq ≠ l.seq) } }
    let s := s.modPart e fun _ => { p with waitUntil := s.now + Config.launchTime (s.fresh + 1) }
    match s.placeCheck p with
    | .error c => .next (s.modPart e fun q => { q with st := .failed, reason := c })
    | .ok (gs, seeds) =>
      let s := s.modPart e fun q => { q with groups := gs, seeds := seeds }
      .next { p.fieldList.foldl (fun s f => s.modField f fun x => { x with placedSince := true }) s with fresh := s.fresh + 2 }

/-! ## The open wave (R88) -/

/-- A record applies to a core at partition-relative (x, y). -/
def rectsHold (rs : List Rect) (x y : Nat) : Bool :=
  rs.any fun r => decide (r.xlo ≤ x) && decide (x ≤ r.xhi) && decide (r.ylo ≤ y) && decide (y ≤ r.yhi)

/-- GEOM (R98). -/
def geomOf (cols : Nat) : BitVec 25 := BitVec.ofNat 25 (Config.rows * 2 ^ 16 + cols % 512)

/-- PART (R98). -/
def partOfRect (r : Rect) : BitVec 36 := BitVec.ofNat 36 (r.yhi * 2 ^ 27 + r.xhi * 2 ^ 18 + r.ylo * 2 ^ 9 + r.xlo)

/-- What a core keeps while it has no partition: its serial counters and incarnation (R288, R300), a saved context (R194), its
cycle offset. -/
def Core.keep (k : Core) : Core := { k.bare with shadow := k.shadow }

/-- The core without a partition. -/
def State.idleCore (s : State) (c : Nat) : Core := (aget c s.idle).getD Core.reset

/-- A core as the open wave makes it; a door's PEND and its reserved bits are 0 (R3, R311). -/
def openCore (idle : Core) (e cols : Nat) (p : PartEntry) (im : Image) (c : Nat) : Core :=
  let r := p.rect
  let x := coreX c - r.xlo
  let y := coreY c - r.ylo
  let k := idle.keep
  let segs := im.segs.filter fun g => !g.zero && rectsHold g.rects x y
  let mem := segs.foldl (fun (m : Mem) g => m.writeN g.dest ((im.pool.drop g.pool).take g.len)) []
  let doors := (im.doors.filter fun d => rectsHold d.rects x y).foldl (fun v d =>
    v.setIfInBounds d.door (putBits d.entry 16 11 0)) Tables.reset.doors
  let routes := (im.routes.filter fun d => rectsHold d.rects x y).foldl (fun v d => v.setIfInBounds d.rt d.entry) Tables.reset.routes
  { k with
    regs := { Regs.reset with
      part := partOfRect r
      groups := (p.groups.filter fun g => g.2.any fun q => q.holds c).map fun g => ⟨BitVec.ofNat 8 g.1, g.2⟩
      geom := geomOf cols }
    tables := { k.tables with doors := doors, routes := routes, once := { k.tables.once with inc := k.tables.once.inc + 1 } }
    mem := mem
    entry := e }

/-- OPEN_WAVE: a range table or an image that can no longer be read fails the launch, in the order of R335 (R287). The image is read again here, and only
its header is checked again: what changed in it after the placement's checks is loaded as it is found (log 49, DESIGN CHOICE). -/
def execOpenWave (e : Nat) (s : State) : Host.Outcome State Fault Refusal :=
  let p := s.part e
  if p.st ≠ .placed || p.killing.isSome || decide (s.now < p.waitUntil) then .fault .noSuchItem
  else
    match s.readRanges p, s.imageBytes p with
    | .ok _, none => .next (s.modPart e fun q => { q with st := .failed, reason := 4 })
    | .ok ranges, some bs =>
      let im := parseImage bs
      let s := s.modPart e fun q => { q with st := .loading, waitUntil := s.now + Config.launchTime s.fresh }
      let cs := p.rect.cores
      let s : State := { s with
        cores := cs.foldl (fun l c => aset c (openCore (s.idleCore c) e s.mgr.cols p im c) l) s.cores
        idle := s.idle.filter fun i => !p.rect.holds i.1
        fresh := s.fresh + 1 }
      let s := s.mgr.retiring.foldl (fun s r => s.modCore r.1 fun k => { k with frozen := true }) s
      .next (p.fieldList.foldl (fun s f => s.modField f fun x => { x with cache := [], ranges := ranges }) s)
    | _, _ => .next (s.modPart e fun q => { q with st := .failed, reason := 5 })

/-- LOAD_COMPLETE (R24). -/
def execLoadComplete (e : Nat) (s : State) : Host.Outcome State Fault Refusal :=
  let p := s.part e
  if p.st ≠ .loading || p.killing.isSome || decide (s.now < p.waitUntil) then .fault .noSuchItem
  else .next { s.modPart e fun q => { q with
    st := .running, progressNs := s.timeNs, waitUntil := s.now + Config.launchTime s.fresh } with fresh := s.fresh + 1 }

/-- A core that can take a seed at door 0 (R312). -/
def State.seedRoom (s : State) (c : Nat) : Bool :=
  !s.doorFull c 0 && (match s.core? c with | some k => k.doorIn.isEmpty | none => true)

/-- A seed is due: the next of the list, once its door can hold or place it. -/
def State.seedDue (s : State) (e : Nat) : Bool :=
  let p := s.part e
  decide (p.st = .running) && p.killing.isNone && decide (p.waitUntil ≤ s.now)
    && (match p.seeds with | [] => false | x :: _ => s.seedRoom x.core)

/-- SEED_INJECTION (R334): the next seed reaches the door logic as a message of KIND 2 and RID 0. -/
def execSeedInjection (e : Nat) (s : State) : Host.Outcome State Fault Refusal :=
  if !s.seedDue e then .fault .noSuchItem
  else
    match (s.part e).seeds with
    | [] => .fault .noSuchItem
    | x :: rest =>
      let s := s.modPart e fun q => { q with seeds := rest, waitUntil := s.now + Config.launchTime s.fresh }
      .next { s.modCore x.core fun k => { k with doorIn := k.doorIn ++ [mkMsg x.payload 0 2 x.len 0 0] } with fresh := s.fresh + 1 }

/-! ## Quiescence and the close wave (R25) -/

/-- Nothing of a core is left to do; a killed partition's open rounds are discarded. -/
def Core.quiet (k : Core) (killed : Bool) : Bool :=
  ((List.finRange 8).all fun sl => decide ((k.slot sl).st = .free)) && k.tables.msgs.isEmpty && k.doorIn.isEmpty
    && k.deliveries.isEmpty && k.matrix.isEmpty && k.copies.isEmpty && k.reqs.isEmpty && (killed || k.rounds.isEmpty)
    && k.results.isEmpty && k.sfu.isEmpty && k.stores.isEmpty

/-- An agent belongs to a partition. -/
def PartEntry.owns (p : PartEntry) : Node → Bool
  | .core c => p.rect.holds c
  | _ => false

/-- R25. -/
def State.quiescent (s : State) (e : Nat) : Bool :=
  let p := s.part e
  (s.cores.all fun k => decide (k.2.entry ≠ e) || k.2.quiet p.killing.isSome)
    && (s.net.all fun m => !p.owns m.src && !p.owns m.dst)

/-- The number that stands for no partition in an edge home's entry: its declarer has ended. -/
def noPart : Nat := 48

/-- HOME or SHARED: what the end of the declaring partition frees (R259). -/
def HomeTok.closes (t : HomeTok) : Bool := decide (t.st = .home) || decide (t.st = .shared)

/-- TAINTED, LOST or UNCERTAIN: what it leaves and reports. -/
def HomeTok.lingers (t : HomeTok) : Bool := decide (t.st = .tainted) || decide (t.st = .lost) || decide (t.st = .uncertain)

/-- An entry that the partition of slot-table entry e declared. -/
def HomeTok.declaredIn (t : HomeTok) (e : Nat) : Bool := !t.ext && decide (t.part = e)

/-- Entries freed one by one, each with the SPLIT entries above it that have no descendant left (R256). -/
def tokDrops (l : List (Nat × HomeTok)) (ids : List Nat) : List (Nat × HomeTok) := ids.foldl (fun l i => tokDrop l i l.length) l

/-- The entries of an edge home after the end of the partition of slot-table entry e: of those that it declared the HOME and SHARED
ones are freed, and the others are left without a declarer, for firmware to free (R259). -/
def closeToks (e : Nat) (l : List (Nat × HomeTok)) : List (Nat × HomeTok) :=
  (tokDrops l ((l.filter fun t => t.2.declaredIn e && t.2.closes).map fun t => t.1)).map fun t =>
    if t.2.declaredIn e then (t.1, { t.2 with part := noPart }) else t

/-- The edge homes' entries that a partition leaves, reported with its exit: the port and the entry (R259). -/
def State.leftToks (s : State) (e : Nat) : List (Nat × Nat) :=
  (List.range 64).flatMap fun p => ((s.port p).toks.filter fun t => t.2.declaredIn e && t.2.lingers).map fun t => (p, t.1)

/-- The edge homes at the end of a partition (R259). -/
def State.endToks (s : State) (e : Nat) : State :=
  let left := s.leftToks e
  let s : State := { s with ports := vmap (fun q : Port => { q with toks := closeToks e q.toks }) s.ports }
  { s with mgr := { s.mgr with table := s.mgr.table.setIfInBounds e { s.part e with left := left } } }

/-- A core without the context of an entry in its shadow store. -/
def Core.dropShadow (k : Core) (e : Nat) : Core :=
  match k.shadow with
  | some x => if x.entry = e then { k with shadow := none } else k
  | none => k

/-- The cores of an entry leave it; so does a context of it that was to be resumed. -/
def State.releaseCores (s : State) (e : Nat) : State :=
  let mine := s.cores.filter fun k => decide (k.2.entry = e)
  { s with
    cores := s.cores.filter fun k => decide (k.2.entry ≠ e)
    idle := mine.foldl (fun l k => aset k.1 (k.2.keep.dropShadow e) l) s.idle }

/-- The response word of a command (R343). -/
def State.respond (s : State) (a : Option (Nat × BitVec 32)) (status : Nat) : State :=
  match a with
  | some (p, tag) => s.modPort p fun q => { q with response := BitVec.ofNat 64 (tag.toNat * 2 ^ 32 + status) }
  | none => s

/-- A partition may close: it has run its seeds and is quiescent, or its kill has drained. -/
def State.closeDue (s : State) (e : Nat) : Bool :=
  let p := s.part e
  p.st.active && (p.killing.isSome || (decide (p.st = .running) && p.seeds.isEmpty && decide (p.waitUntil ≤ s.now)))
    && s.quiescent e

/-- CLOSE_WAVE: CLOSED with its REASON; the fields are freed, cached translations dropped, the edge homes' entries freed, dead
cores bound again (R347). -/
def execCloseWave (e : Nat) (s : State) : Host.Outcome State Fault Refusal :=
  if !s.closeDue e then .fault .noSuchItem
  else
    let p := s.part e
    let s := s.releaseCores e
    let s := s.endToks e
    let s := p.fieldList.foldl (fun s f => s.modField f fun x => { x with cache := [], ranges := [] }) s
    let s := s.modPart e fun q => { q with st := .closed, reason := p.killing.getD 0x10, asker := none }
    let s := s.deadFree.foldl (fun s c => s.rebindDead c) s
    .next (s.respond p.asker 1)

/-! ## Kills and the hang monitor (R345, R346) -/

/-- The held messages of a core are discarded. -/
def Core.dropMessages (k : Core) : Core :=
  { k with tables := { k.tables with msgs := [], doors := vmap (fun d => putBits d 16 8 0) k.tables.doors } }

/-- A partition is killed with a REASON: its slots, held messages and seeds go; a PREEMPT in progress fails (log 41). -/
def State.killPartition (s : State) (e : Nat) (reason : Byte) : State :=
  if !(s.part e).st.active || (s.part e).killing.isSome then s
  else
    let s := s.respond (s.part e).asker 0x22
    let s := s.modPart e fun q => { q with
      killing := some reason, seeds := [], asker := none, resumeEntry := none, swapStep := .none }
    (s.coresOf e).foldl (fun s c =>
      let s := s.modCore c fun k => { k.dropMessages with halted := false }
      (List.finRange 8).foldl (fun s sl => s.kill c sl) s) s

/-- A SAVED partition is killed: its shadow contexts are discarded (R346), and its tokens end as at a close wave (log 70). -/
def State.killSaved (s : State) (e : Nat) (reason : Byte) : State :=
  let s : State := { s with
    cores := s.cores.map fun (k : Nat × Core) => (k.1, k.2.dropShadow e)
    idle := s.idle.map fun (k : Nat × Core) => (k.1, k.2.dropShadow e) }
  (s.endToks e).modPart e fun q => { q with st := .closed, reason := reason }

/-- A core has made progress in the last 1 ms. -/
def State.progressed (s : State) (c : Nat) (k : Core) : Bool :=
  let ms := (s.islandAt (islandOf (s.physOf c))).fmhz * 1000
  let cyc := s.cyc c
  (match k.lastIssue with
    | some t => decide (cyc ≤ t + ms)
    | none => false)
  || ((List.finRange 8).any fun sl => match (k.slot sl).trapAt with
    | some t => decide (cyc ≤ t + ms)
    | none => false)
  || (decide (0 < k.lastWork) && decide (s.now ≤ k.lastWork + 1300000))

/-- The HANG limit in ns; none when there is none (R333). -/
def hangLimit (h : Byte) : Option Nat :=
  if h = 0 then some 2000000000 else if h = 255 then none else some (h.toNat * 100000000)

/-- The monitor's look at one partition. -/
def State.hangCheck (s : State) (e : Nat) : State :=
  let p := s.part e
  if p.st ≠ .running then s
  else if s.cores.any fun k => decide (k.2.entry = e) && s.progressed k.1 k.2 then
    s.modPart e fun q => { q with progressNs := s.timeNs }
  else
    match hangLimit p.hang with
    | some n => if p.progressNs + n ≤ s.timeNs then s.killPartition e 0x12 else s
    | none => s

/-- HANG_MONITOR_SAMPLE (R345): every 1 ms. -/
def execHangMonitorSample (s : State) : Host.Outcome State Fault Refusal :=
  if s.timeNs < s.mgr.hangNs then .fault .noSuchItem
  else
    let s := (List.range 48).foldl (fun s e => s.hangCheck e) s
    .next { s with mgr := { s.mgr with hangNs := (s.timeNs / 1000000 + 1) * 1000000 } }

end Sys2Proof.Machine
end

