-- ==== Sys2Proof/Machine/Halt.lean ====
section
/-! DEFINITION. Pre-emption and resumption (R340 to R342) and the management mailbox (R343, R344): PREEMPT, RESUME, KILL,
SHOOTDOWN, CLEARRET, READBIND and FREE; and the discarded host writes (R390). -/

namespace Sys2Proof.Machine

/-- Waits are looked at again (R122): at resumption, at HALTFAIL, on a spare. -/
def State.reWait (s : State) (c : Nat) : State := (s.settleWaits c).wakeWatchers c 0 0x30000

/-! ## The halt (R340) -/

/-- Halt-ready slots. -/
def Core.haltReady (k : Core) (sl : Fin 8) : Bool :=
  match (k.slot sl).st with
  | .free | .waiting | .draining => true
  | .ready => (k.slot sl).stopped
  | _ => false

/-- A core may halt: its slots are halt-ready and its queues empty. -/
def Core.canHalt (k : Core) : Bool :=
  ((List.finRange 8).all k.haltReady) && k.copies.isEmpty && k.matrix.isEmpty && k.sfu.isEmpty && k.reqs.isEmpty
    && k.rounds.isEmpty && k.deliveries.isEmpty && k.results.isEmpty && k.stores.isEmpty && k.doorIn.isEmpty
    && !k.halted && !k.frozen

/-- A core of a HALTING partition that halts now. -/
def State.haltDue (s : State) (k : Core) : Bool :=
  let p := s.partOf k
  decide (p.st = .halting) && p.killing.isNone && k.canHalt

/-- CORE_HALT: the combination of halt-complete takes a free time after the last of them (log 6). -/
def execCoreHalt (c : Nat) (s : State) : Host.Outcome State Fault Refusal :=
  match s.core? c with
  | none => .fault .noSuchItem
  | some k =>
    if !s.haltDue k then .fault .noSuchItem
    else
      .next { (s.modCore c fun k => { k with halted := true }).modPart k.entry fun q =>
        { q with waitUntil := max q.waitUntil (s.now + Config.firmwareTime s.fresh) } with fresh := s.fresh + 1 }

/-- The live ranges of a core (R339, R340): those of its table, or the whole store where there is no table that keeps the rules and that
can be read (log 48). -/
def Core.liveRanges (k : Core) : List (Nat × Nat) :=
  let l := k.tables.lrt
  let hdr := k.mem.readLE l.addr 8
  let es := (List.range (hdr % 128)).map fun i => k.mem.readLE (l.addr + 8 + 8 * i) 8
  if l.valid && decide (l.addr + 8 + 8 * (hdr % 128) ≤ 0x30000) && (k.badIn l.addr (8 + 8 * (hdr % 128))).isNone && ckptOk hdr es then
    es.map fun e => (e % 2 ^ 18, e / 2 ^ 18 % 2 ^ 18)
  else [(0, 0x30000)]

/-- The read of the table at the halt (R377). -/
def Core.readTable (k : Core) : Core :=
  if k.tables.lrt.valid then k.injectRead k.tables.lrt.addr (8 + 8 * (k.mem.readLE k.tables.lrt.addr 8 % 128)) else k

/-- A core's place in a partition: (y − YLO) × width + (x − XLO). -/
def Rect.indexOf (r : Rect) (c : Nat) : Nat := (coreY c - r.ylo) * r.width + (coreX c - r.xlo)

/-- Where a core's local store lies in a spill area: port and device address of byte 0. -/
def spillBase (spill : Word) (r : Rect) (c : Nat) : Nat × Nat := (bits spill 58 6, bits spill 0 58 + 2 ^ 18 * r.indexOf c)

/-- The copy of a live range to a spill area, or back (R340): data class, no completion word. -/
def spillCopy (id : Nat) (port dev : Nat) (r : Nat × Nat) (back : Bool) (ns cyc : Nat) : Copy :=
  let a := spillWindow + dev + r.1
  { id := id, slot := 0, src := if back then a else r.1, dst := if back then r.1 else a, cw := 0, dl := 0, ncw := true, dla := false
    offload := false, len := r.2, rows := 1, dstr := 0, sstr := 0, value := 0, issuedNs := ns, issued := cyc, active := false
    begun := 0, sent := 0, ended := 0, ready := [], late := false, abandoned := false, completing := false, snap := []
    spill := some port }

/-- The engine of a core gets the copies of some live ranges. -/
def State.queueSpill (s : State) (spill : Word) (r : Rect) (c : Nat) (ranges : List (Nat × Nat)) (back : Bool) : State :=
  let b := spillBase spill r c
  (ranges.filter fun e => decide (e.2 ≠ 0)).foldl (fun s e =>
    { s.modCore c fun k => { k with
        copies := k.copies ++ [{ spillCopy s.nextId b.1 b.2 e back s.timeNs (s.cyc c) with snap := if back then [] else [k.mem] }] } with
      nextId := s.nextId + 1 }) s

/-- A store cleared to zero (R340). -/
def Core.clearStore (k : Core) : Core := { k with mem := [], badWords := [], soft := [], stale := [] }

/-- A slot as it is saved: a RUNNING one resumes READY (R316). -/
def Slot.save (x : Slot) (cyc : Nat) : Slot :=
  if x.st = .free then x
  else { x with st := .saved, savedAs := if x.st = .running then .ready else x.st, savedAge := min 65536 (cyc - x.ageFrom) }

/-- A slot as it resumes: it is READY from then on (R317), and its age goes on from where it stopped (R318). -/
def Slot.resume (x : Slot) (cyc : Nat) : Slot :=
  if x.st = .saved then
    { x with st := x.savedAs, savedAs := .free, readyAt := cyc, ageFrom := cyc - x.savedAge, stopped := false, nextIssue := 0 }
  else x

/-- The context that leaves a core for its shadow store (R194). -/
def Core.context (k : Core) (cyc : Nat) : Context where
  regs := { k.regs with slots := vmap (fun x => x.save cyc) k.regs.slots }
  tables := k.tables
  entry := k.entry
  ranges := k.live
  bad := false

/-- A core that takes a saved context: its serial counters and incarnation stay (R288, R300), and residues are computed anew
(R185). -/
def Core.takeContext (k : Core) (x : Context) (cyc : Nat) : Core :=
  { k.keep with
    regs := { x.regs with slots := vmap (fun y => y.resume cyc) x.regs.slots, badRows := [] }
    tables := { x.tables with once := { x.tables.once with inc := k.tables.once.inc } }
    entry := x.entry
    mem := k.mem
    badWords := k.badWords
    soft := k.soft
    shadow := none }

/-- A bad context met at a restore: UECORE logged, and the partition is killed (R376). -/
def State.restored (s : State) (e : Nat) (bad : List Nat) : State :=
  match bad with
  | [] => s
  | _ => (bad.foldl (fun s c => s.coreReport c .uecore ⟨0, 0, none, false, 0, 0, 0⟩) s).killPartition e 0x11

/-- A core that halted has no open round of its router since (R283), and nothing of it is on the way (R340). -/
def Core.haltKept (k : Core) : Bool :=
  k.halted && k.rounds.isEmpty && k.deliveries.isEmpty && k.reqs.isEmpty && k.copies.isEmpty && k.doorIn.isEmpty

/-- All cores of a halting or a resuming partition stand, with nothing of them on the way and no retirement in progress: the next step of
R340 can begin when its time has come. -/
def State.haltDone (s : State) (e : Nat) : Bool :=
  let p := s.part e
  (decide (p.st = .halting) || decide (p.st = .resuming)) && p.killing.isNone
    && (s.cores.all fun k => decide (k.2.entry ≠ e) || (k.2.haltKept && !k.2.frozen))
    && (s.net.all fun m => !p.owns m.src && !p.owns m.dst)

/-- Step 3 of R340 for one core of entry `e`: the running context goes into the shadow store, or none on a core that no partition has run
on since, and the saved one, if any, comes out. -/
def State.exchange (s : State) (c : Nat) (out : Bool) : State :=
  match s.core? c with
  | none => s
  | some k =>
    let cyc := s.cyc c
    let saved := if out then some (k.context cyc) else none
    match k.shadow with
    | some x => s.modCore c fun k => { k.takeContext x cyc with shadow := saved }
    | none =>
      { s with
        cores := adel c s.cores
        idle := aset c { k.keep with shadow := saved, mem := k.mem, badWords := k.badWords, soft := k.soft } s.idle }

/-- Resumed cores look at their waits and messages again. -/
def State.wakeCores (s : State) (e : Nat) : State :=
  (s.coresOf e).foldl (fun s c => (s.reWait c).dispatchHeld c) s

/-- The range store of the fields of an entry, loaded again. -/
def State.loadRanges (s : State) (e : Nat) : State :=
  match s.readRanges (s.part e) with
  | .ok l => (s.part e).fieldList.foldl (fun s f => s.modField f fun x => { x with ranges := l }) s
  | _ => s

/-- The spill area and the ranges of a core's saved context. -/
def Core.savedRanges (k : Core) : List (Nat × Nat) :=
  match k.shadow with
  | some x => x.ranges
  | none => []

/-- Step 1 of R340: the live ranges of every core go out. -/
def State.spillStep (s : State) (e : Nat) : State :=
  let p := s.part e
  (s.coresOf e).foldl (fun s c =>
    let s := s.modCore c fun k => { k.readTable with live := k.readTable.liveRanges }
    s.queueSpill p.spill p.rect c (((s.core? c).map fun k => k.live).getD []) false)
    (s.modPart e fun q => { q with swapStep := .spill })

/-- Step 2 of R340: every core's store is cleared, and the live ranges of entry `r` come back from its spill area. -/
def State.refillStep (s : State) (e r : Nat) : State :=
  let p := s.part r
  (s.coresOf e).foldl (fun s c =>
    let ranges := ((s.core? c).map fun k => k.savedRanges).getD []
    (s.modCore c Core.clearStore).queueSpill p.spill p.rect c ranges true)
    (s.modPart e fun q => { q with swapStep := .refill })

/-- Step 3 of R340 begins: it takes 520 cc of each core's island (R5). -/
def State.swapStart (s : State) (e : Nat) : State :=
  s.modPart e fun q => { q with
    swapStep := .swap
    waitUntil := (s.coresOf e).foldl (fun t c => max t (s.now + s.ahead (.core c) 520)) s.now }

/-- A bad context that is about to be restored (R376). -/
def Core.badContext (k : Core) : Bool :=
  match k.shadow with
  | some x => x.bad
  | none => false

/-- The contexts are exchanged (R340 steps 3 and 4): the outgoing partition is SAVED, and the resumed one, if any, runs. -/
def State.swapEnd (s : State) (e : Nat) (out : Bool) (resumed : Option Nat) : State :=
  let p := s.part e
  let cs := s.coresOf e
  let bad := cs.filter fun c => (s.core? c).any Core.badContext
  let s := cs.foldl (fun s c => s.exchange c out) s
  let s := p.fieldList.foldl (fun s f => s.modField f fun x =>
    { x with cache := [], ranges := if out then [] else x.ranges, placedSince := if out then resumed.isSome else x.placedSince }) s
  let s := if out then s.modPart e fun q => { q with st := .saved, asker := none, resumeEntry := none, swapStep := .none } else s
  let s := match resumed with
    | none => s
    | some r =>
      let s := if out then (s.modPart r fun q => { q with st := .resuming }).loadRanges r else s
      let s := s.modPart r fun q => { q with st := .running, progressNs := s.timeNs, asker := none, swapStep := .none }
      (s.wakeCores r).restored r bad
  s.respond p.asker 1

/-- HALT_COMPLETE: the next step of R340 for a partition that is halted, or of R341 for one that is resumed: its cores are all through
with the step before. -/
def execHaltComplete (e : Nat) (s : State) : Host.Outcome State Fault Refusal :=
  let p := s.part e
  if !s.haltDone e || decide (s.now < p.waitUntil) then .fault .noSuchItem
  else
    match p.swapStep, p.resumeEntry with
    | .none, _ => .next (s.spillStep e)
    | .spill, some r => .next (s.refillStep e r)
    | .spill, none => .next (s.swapStart e)
    | .refill, _ => .next (s.swapStart e)
    | .swap, r => .next (if p.st = .resuming then s.swapEnd e false (some e) else s.swapEnd e true r)

/-- HALTFAIL (R342). -/
def execHaltfail (e : Nat) (s : State) : Host.Outcome State Fault Refusal :=
  let p := s.part e
  if p.st ≠ .halting || p.killing.isSome || decide (p.swapStep ≠ .none) || decide (s.timeNs < p.haltNs + 10000000)
      || (s.cores.all fun k => decide (k.2.entry ≠ e) || k.2.haltKept) then .fault .noSuchItem
  else
    let s := s.modPart e fun q => { q with st := .running, asker := none, resumeEntry := none, progressNs := s.timeNs }
    let s := (s.coresOf e).foldl (fun s c => s.modCore c fun k =>
      { k with halted := false, regs := { k.regs with slots := vmap (fun x : Slot => { x with stopped := false }) k.regs.slots } }) s
    .next ((s.wakeCores e).respond p.asker 0x22)

/-! ## The mailbox (R343, R344) -/

/-- A command that lasts is executing. -/
def State.mgrBusy (s : State) : Bool :=
  s.mgr.shoot.isSome || (List.range 48).any fun e => (s.part e).asker.isSome

/-- A command written at a host port: BUSY while another executes, unless it may break in; else it is carried out or answered
with the status that refuses it. -/
def State.command (s : State) (q : MailCmd) (breaksIn : Bool) (f : State → Except Nat State) : Host.Outcome State Fault Refusal :=
  if !s.hostUp q.port then .next s
  else if s.mgrBusy && !breaksIn then .next (s.respond (some (q.port, q.tag)) 0x23)
  else
    match f s with
    | .ok t => .next t
    | .error st => .next (s.respond (some (q.port, q.tag)) st)

/-- Who awaits the response of a command. -/
def askerOf (q : MailCmd) : Option (Nat × BitVec 32) := some (q.port, q.tag)

/-- The slot-table entry that a word names. -/
def entryOf (w : Word) : Option Nat := if w.toNat ≤ 47 then some w.toNat else none

/-- A spill area: 256 KiB aligned, on a memory port. R344 does not say what another one is answered: BADCMD (log 74). -/
def State.spillOk (s : State) (w : Word) : Bool := decide (bits w 0 58 % 2 ^ 18 = 0) && (s.port (bits w 58 6)).isMem

/-- PREEMPT (R340, R342): HALTING, or BADCMD or NOPRE. The only SAVED partition of its fields may be the one to resume, and a partition that
is being killed is not halted: the answer is BADCMD (log 74). -/
def execPreempt (q : MailCmd) (s : State) : Host.Outcome State Fault Refusal :=
  s.command q false fun s =>
    let resumed := q.opt.bind entryOf
    match entryOf q.a0 with
    | none => .error 0x20
    | some e =>
      let p := s.part e
      let optBad : Bool := match q.opt, resumed with
        | none, _ => false
        | some _, none => true
        | some _, some r => decide ((s.part r).st ≠ .saved) || decide ((s.part r).fieldList ≠ p.fieldList)
      if p.st ≠ .running then .error 0x20
      else if !p.pre then .error 0x21
      else if p.killing.isSome || optBad || !s.spillOk q.a1 || p.fieldList.any (fun f => s.savedOn f resumed) then .error 0x20
      else .ok (s.modPart e fun x => { x with
        st := .halting, swapStep := .none, haltNs := s.timeNs, spill := q.a1, resumeEntry := resumed, asker := askerOf q })

/-- A core of a partition that is to be resumed where no partition runs: it stands halted, with its saved context in the shadow store; the
store is kept on a field that no partition has used since the halt, and else cleared, to come back from the spill area (R341). -/
def State.swapIn (s : State) (e : Nat) (spill : Word) (c : Nat) : State :=
  let k := s.idleCore c
  if k.shadow.isNone then s
  else
    let used := (s.fieldAt (fieldOf c)).placedSince
    let stands : Core := { k.keep with entry := e, halted := true, frozen := s.mgr.retiring.any fun r => decide (r.1 = c) }
    let k1 : Core := if used then stands else { stands with mem := k.mem, badWords := k.badWords, soft := k.soft }
    let s : State := { s with cores := aset c k1 s.cores, idle := adel c s.idle }
    if used then s.queueSpill spill (s.part e).rect c k.savedRanges true else s

/-- RESUME (R341): step 2 of R340 begins. R343 does not name an entry whose fields hold another active partition: BADCMD (log 74). -/
def execResume (q : MailCmd) (s : State) : Host.Outcome State Fault Refusal :=
  s.command q false fun s =>
    match entryOf q.a0 with
    | none => .error 0x20
    | some e =>
      let p := s.part e
      if p.st ≠ .saved || !s.spillOk q.a1 || !(p.fieldList.all s.fieldFree) then .error 0x20
      else
        let s := (s.modPart e fun x => { x with
          st := .resuming, swapStep := .refill, spill := q.a1, waitUntil := s.now, asker := askerOf q }).loadRanges e
        .ok (p.rect.cores.foldl (fun s c => s.swapIn e q.a1 c) s)

/-- KILL (R346): answered when the partition has closed. During a PREEMPT it acts at once, and the PREEMPT ends with HALTFAIL
(R342, log 41). -/
def execKill (q : MailCmd) (s : State) : Host.Outcome State Fault Refusal :=
  let breaksIn : Bool := match entryOf q.a0 with
    | some e => decide ((s.part e).st = .halting) && (s.part e).killing.isNone && s.mgr.shoot.isNone
    | none => false
  s.command q breaksIn fun s =>
    match entryOf q.a0 with
    | none => .error 0x20
    | some e =>
      let p := s.part e
      if p.st = .saved then
        let s := s.killSaved e 0x11
        .ok ((s.deadFree.foldl (fun s c => s.rebindDead c) s).respond (askerOf q) 1)
      else if !p.st.active then .error 0x20
      else
        .ok ((s.killPartition e 0x11).modPart e fun x => { x with asker := askerOf q })

/-- A translation overlaps a range of fabric addresses. -/
def Xlate.overlaps (x : Xlate) (lo hi : Nat) : Bool := decide (x.base < hi) && decide (lo < x.limit)

/-- Step 1 of a shootdown at a field (R268). -/
def Field.shoot (f : Field) (lo hi : Nat) : Field :=
  { f with cache := f.cache.filter fun x => !x.overlaps lo hi, ranges := f.ranges.filter fun x => !x.overlaps lo hi }

/-- A walk in flight that overlaps starts again. -/
def Req.shoot (r : Req) (lo hi : Nat) : Req :=
  match r.walk with
  | some w => if w.found.overlaps lo hi || (decide (lo ≤ w.va) && decide (w.va < hi)) then
      { r with walk := some { w with again := true } } else r
  | none => r

/-- SHOOTDOWN (R268): the translations are dropped now; the command is answered when the accesses that may have used them have
been performed. -/
def execShootdown (q : MailCmd) (s : State) : Host.Outcome State Fault Refusal :=
  s.command q false fun s =>
    match entryOf q.a0 with
    | none => .error 0x20
    | some e =>
      let p := s.part e
      let lo := q.a1.toNat
      let hi := q.a2.toNat
      match p.st with
      | .loading | .running | .halting | .saved | .resuming =>
        let s := p.fieldList.foldl (fun s f => s.modField f fun x => x.shoot lo hi) s
        let s := (s.coresOf e).foldl (fun s c => s.modCore c fun k => { k with
          tlb := k.tlb.filter fun x => !x.overlaps lo hi
          reqs := k.reqs.map fun r => r.shoot lo hi }) s
        let s := s.modPart e fun x => { x with oldWords := [] }
        let ids := (s.cores.filter fun k => decide (k.2.entry = e)).flatMap fun k =>
          (k.2.reqs.filter fun r => r.walk.isNone && (match r.home with
            | .port _ => true
            | _ => false)).map fun r => r.id
        .ok { s with mgr := { s.mgr with shoot := some (q.port, q.tag, ids) } }
      | _ => .error 0x20

/-- A shootdown whose accesses have all ended is answered. -/
def State.settleShoot (s : State) : State :=
  match s.mgr.shoot with
  | none => s
  | some (p, tag, ids) =>
    if s.cores.any fun k => k.2.reqs.any fun r => ids.contains r.id then s
    else ({ s with mgr := { s.mgr with shoot := none } } : State).respond (some (p, tag)) 1

/-- CLEARRET (R270): ST RETIRED becomes SPARE. -/
def execClearret (q : MailCmd) (s : State) : Host.Outcome State Fault Refusal :=
  s.command q false fun s =>
    let pos := (q.a0.toNat, q.a1.toNat)
    if 479 < pos.1 || 449 < pos.2 then .error 0x20
    else if physSt (s.physRec pos) ≠ 2 then .error 0x20
    else
      let r := s.physRec pos
      .ok (({ s with mgr := { s.mgr with phys := aset (physKey pos) (putBits r 0 3 0) s.mgr.phys } } : State).respond (askerOf q) 1)

/-- READBIND: the binding entry of a logical index (R269). -/
def execReadbind (q : MailCmd) (s : State) : Host.Outcome State Fault Refusal :=
  s.command q false fun s =>
    if 2 ^ 18 ≤ q.a0.toNat then .error 0x20
    else .ok ((s.modPort q.port fun p => { p with readbind := s.binding q.a0.toNat }).respond (askerOf q) 1)

/-- FREE: a CLOSED or FAILED entry becomes FREE. -/
def execFree (q : MailCmd) (s : State) : Host.Outcome State Fault Refusal :=
  s.command q false fun s =>
    match entryOf q.a0 with
    | none => .error 0x20
    | some e =>
      match (s.part e).st with
      | .closed | .failed => .ok ((s.modPart e fun x => { x with st := .free }).respond (askerOf q) 1)
      | _ => .error 0x20

/-- The bytes of a command store as its command: CMD, TAG and the arguments (R343). -/
def mailOf (port : Nat) (data : List Byte) : MailCmd :=
  let w (i : Nat) : Word := BitVec.ofNat 64 (ofBytes ((data.drop (8 * i)).take 8))
  ⟨port, (w 0).extractLsb' 32 32, w 1, w 2, w 3, none⟩

/-- HOST_WINDOW_WRITE (R390): discarded. The 64-byte store of a launch and a 64-byte command that R344 lists are other events; a
command that R344 does not list is answered BADCMD (log 43). -/
def execHostWindowWrite (port off : Nat) (data : List Byte) (s : State) : Host.Outcome State Fault Refusal :=
  let cmd := ofBytes (data.take 1)
  if data.length = 64 && off = 0 then .fault .noSuchItem
  else if data.length = 64 && off = 0x100 then
    if 1 ≤ cmd && cmd ≤ 7 then .fault .noSuchItem
    else s.command (mailOf port data) false fun _ => .error 0x20
  else .next s

end Sys2Proof.Machine
end

