-- ==== Sys2Proof/Machine/Retire.lean ====
section
/-! DEFINITION. Retirement of a core in service (R272, R273, R283), death of a core or edge home (R252 to R254), and the restart of
an edge home (R300). -/

namespace Sys2Proof.Machine

/-! ## Death (R252 to R254) -/

/-- Sends the death notices of an agent: to the cores of its partition, or of all for an edge home, and to every edge home. -/
def State.deathNotices (s : State) (n : Node) (entry : Option Nat) : State :=
  let cs := (s.cores.filter fun k => decide (Node.core k.1 ≠ n) && (match entry with
    | some e => decide (k.2.entry = e)
    | none => match n with
      | .port _ => true
      | _ => false)).map fun k => Node.core k.1
  let ps := ((List.range 64).filter fun p => (s.port p).isMem && decide (Node.port p ≠ n)).map fun p => Node.port p
  (cs ++ ps).foldl (fun s d => s.post .mgr d 0 1 0 1 (.death n s.mgr.bindgen)) s

/-- What is left of a dead core while its partition closes: nothing runs, nothing is outstanding; its serial counters and its
incarnation stay (R288). -/
def Core.corpse (k : Core) : Core := { k.bare with entry := k.entry, halted := true }

/-- The SAVED partitions whose context a core holds are lost with it. -/
def State.loseShadow (s : State) (k : Core) : State :=
  match k.shadow with
  | some x => if (s.part x.entry).st = .saved then s.killSaved x.entry 0x13 else s
  | none => s

/-- A core or an edge home is declared dead: its partition is killed with REASON DEAD, and the notices go out. A core without a
partition is bound again at once where a spare exists (R347). -/
def State.declareDead (s : State) (n : Node) : State :=
  if s.isDead n then s
  else
    let s : State := { s with mgr := { s.mgr with dead := s.mgr.dead ++ [n] } }
    match n with
    | .core c =>
      let s : State := { s with mgr := { s.mgr with retiring := s.mgr.retiring.filter fun r => decide (r.1 ≠ c) } }
      match s.core? c with
      | some k =>
        let s := (s.loseShadow k).modCore c Core.corpse
        let s := (s.killPartition k.entry 0x13).modCore c fun k => { k with halted := true }
        s.deathNotices n (some k.entry)
      | none => ((s.loseShadow (s.idleCore c)).deathNotices n none).rebindDead c
    | _ => s.deathNotices n none

/-- DEATH_DECLARATION. -/
def execDeathDeclaration (n : Node) (s : State) : Host.Outcome State Fault Refusal := .next (s.declareDead n)

/-- A home's entries after the death of a core: leaves lent to it are LOST, its named shares are cleared, and anonymous ones are
suspect (R251, R253). -/
def HomeTok.afterDeath (t : HomeTok) (d : Nat) : HomeTok :=
  match t.st with
  | .lent | .uncertain => if identCore t.holder = d then { t with st := .lost } else t
  | .shared =>
    { t with
      named := vmap (fun n => match n with
        | some i => if identCore i = d then none else some i
        | none => none) t.named
      susp := t.susp || decide (0 < t.anon) }
  | _ => t

/-- A held entry lies at a dead home: in the peer range of a core, or it is an entry that the edge home has granted. -/
def HeldTok.at (h : HeldTok) (n : Node) : Bool :=
  match n with
  | .core d => decide (peerBase d ≤ h.base * 256) && decide (h.base * 256 < peerBase d + 2 ^ 18)
  | .port p => decide (h.port = some p)
  | .mgr => false

/-- Requests to a dead home end with TLOST (R254). -/
def State.endDeadReqs (s : State) (at_ n : Node) : State :=
  ((s.reqsOf at_).filter fun q => decide (q.home = n) && !q.localWait).foldl (fun s q => s.endReq at_ q (.fail .tlost)) s

/-- DEATH_NOTICE_ARRIVAL. -/
def execDeathNoticeArrival (id : Nat) (s : State) : Host.Outcome State Fault Refusal :=
  match s.arrived id with
  | some pk =>
    match pk.body with
    | .death n _ =>
      let s := s.dropPacket id
      let s := match n with
        | .core d => s.setToks pk.dst ((s.toks pk.dst).map fun (t : Nat × HomeTok) => (t.1, t.2.afterDeath d))
        | _ => s
      let s := match pk.dst with
        | .core c => s.modCore c fun k => { k with tables := { k.tables with
            held := k.tables.held.map fun (h : Nat × HeldTok) => if h.2.at n then (h.1, { h.2 with lost := true }) else h } }
        | _ => s
      .next (s.endDeadReqs pk.dst n)
    | _ => .fault .noSuchItem
  | none => .fault .noSuchItem

/-! ## Retirement (R272) -/

/-- Early forward (R283): the open rounds of a router are sent on, and go on from their counts with no partial. -/
def State.forwardRounds (s : State) (c : Nat) : State :=
  match s.core? c with
  | none => s
  | some k =>
    let s := k.rounds.foldl (fun s r =>
      match r.acc with
      | some p => s.sendPartial c r.rt k.tables.routes[r.rt] p r.ofs (r.free - s.now) none
      | none => s) s
    s.modCore c fun k => { k with rounds := k.rounds.map fun r => { r with acc := none } }

/-- A core that can begin a retirement: bound, and neither frozen nor dead. -/
def State.retirable (s : State) (c : Nat) : Bool :=
  s.coreOk c && (s.binding c).getLsbD 26 && !(s.binding c).getLsbD 27 && !s.isDead (.core c)
    && (s.mgr.retiring.all fun r => decide (r.1 ≠ c))

/-- RETIREMENT_START: the range is frozen and its spare reserved, issue halts, open rounds are forwarded early; with no spare the
core is dead (R271). A core that no partition holds is retired in the same way. -/
def execRetirementStart (c : Nat) (s : State) : Host.Outcome State Fault Refusal :=
  if !s.retirable c then .fault .noSuchItem
  else
    match s.chooseSpare c with
    | none => .next (s.declareDead (.core c))
    | some p =>
      let s := (s.setFrz c true).modCore c fun k => { k with frozen := true }
      let s : State := { s with mgr := { s.mgr with retiring := s.mgr.retiring ++ [(c, physKey p, s.timeNs)] } }
      .next (s.forwardRounds c)

/-- Requests of the copy engine. -/
def Sink.isCopy : Sink → Bool
  | .copyRead _ _ | .copyUnit _ | .copyDone _ => true
  | _ => false

/-- The queues of a frozen core have drained: nothing runs in it, and no copy transfer is on the way. -/
def State.retireReady (s : State) (k : Core) : Bool :=
  let ids := (k.reqs.filter fun q => q.sink.isCopy).map fun q => q.id
  k.sfu.isEmpty && k.matrix.isEmpty && k.results.isEmpty && k.stores.isEmpty
    && !(s.net.any fun m => match m.body with
      | .request _ _ _ _ _ _ _ _ r _ => ids.contains r
      | _ => false)

/-- The retirement of a core that is in progress: the spare and the time of the freeze. -/
def State.retiringOf (s : State) (c : Nat) : Option ((Nat × Nat) × Nat) :=
  (s.mgr.retiring.find? fun r => decide (r.1 = c)).map fun r => ((r.2.1 % 480, r.2.1 / 480), r.2.2)

/-- The spare of a retirement at the time of its copy: the one it reserved while that still qualifies, else another (R271). -/
def State.spareFor (s : State) (c : Nat) (p : Nat × Nat) : Option (Nat × Nat) :=
  if physSt (s.physRec p) = 0 && s.linksReach c p then some p else s.chooseSpare c

/-- A core as its spare goes on: the fetch buffer, the floors and the cached translations are discarded (R29, R261), the residues
computed anew (R185). Its cycle count goes on: `ahead` is by how much the old island's count leads. -/
def Core.onSpare (k : Core) (ahead : Int) : Core :=
  { k with
    frozen := false, stale := [], inflight := [], floors := [], tlb := [], held := none, cycOff := k.cycOff + ahead
    regs := { k.regs with badRows := [] } }

/-- A retirement is over. -/
def State.endRetirement (s : State) (c : Nat) : State :=
  { s with mgr := { s.mgr with retiring := s.mgr.retiring.filter fun r => decide (r.1 ≠ c) } }

/-- RETIREMENT_COPY: the state goes to the spare, the binding changes, and the spare resumes. The field's cached translations go too (R29). -/
def execRetirementCopy (c : Nat) (s : State) : Host.Outcome State Fault Refusal :=
  match s.retiringOf c with
  | none => .fault .noSuchItem
  | some (p, _) =>
    if (s.core? c).any fun k => !k.frozen || !s.retireReady k then .fault .noSuchItem
    else
      match s.spareFor c p with
      | none => .next (s.declareDead (.core c))
      | some p =>
        let cycles (q : Nat × Nat) : Int := ((s.islandAt (islandOf q)).cycles s.now : Nat)
        let ahead := cycles (s.physOf c) - cycles p
        let s := (s.forwardRounds c).rebind c p
        let s := s.modField (fieldOf c) fun f => { f with cache := [] }
        let s : State := { s.modCore c (Core.onSpare · ahead) with
          idle := amod c (fun k => { k with cycOff := k.cycOff + ahead }) s.idle }
        .next ((s.endRetirement c).reWait c)

/-- RETIREMENT_TIMEOUT: not complete within 100 µs, the core is dead, bound with FRZ = 1 (R272). -/
def execRetirementTimeout (c : Nat) (s : State) : Host.Outcome State Fault Refusal :=
  match s.retiringOf c with
  | some (_, t) => if s.timeNs < t + 100000 then .fault .noSuchItem else .next (s.declareDead (.core c))
  | none => .fault .noSuchItem

/-! ## Edge homes (R300) -/

/-- An edge home restarts: both exactly-once tables empty, a new incarnation, RSTT. -/
def State.restartEdge (s : State) (p : Nat) : State :=
  let us := s.timeUs
  let ns := s.timeNs
  s.modPort p fun q => { q with once := ⟨[], [], q.once.inc + 1⟩, restartNs := some ns, rstt := us }

/-- EDGE_HOME_RESTART: accesses that it had not completed get no reply; it is dead no more. -/
def execEdgeHomeRestart (p : Nat) (s : State) : Host.Outcome State Fault Refusal :=
  if !(s.port p).isMem then .fault .noSuchItem
  else
    let s := s.restartEdge p
    .next { s with
      net := s.net.filter fun m => !(decide (m.dst = .port p) && m.atDevice)
      mgr := { s.mgr with dead := s.mgr.dead.filter fun n => decide (n ≠ .port p) } }

end Sys2Proof.Machine
end

