-- ==== Sys2Proof/Machine/Module.lean ====
section
/-! DEFINITION. The module: link loss and retraining of edge ports (R394), bring-up (R393), power, temperature and ageing (R364,
R365, R396 to R398), external segments (R259), soft errors (R190, R376), the scrubber, and the fates of flits (R31, R307). -/

namespace Sys2Proof.Machine

/-! ## Ports (R394) -/

/-- Messages that a port holds while its device works. -/
def State.heldAtPort (s : State) (p : Nat) : List Packet := s.net.filter fun m => decide (m.dst = .port p) && m.atDevice

/-- A host port's link is lost: reads fail with XLATE; a write has been sent on the link, and stands, or fails (log 5). -/
def State.hostLoss (s : State) (p : Nat) : State :=
  (s.heldAtPort p).zipIdx.foldl (fun s m =>
    match m.1.body with
    | .request _ _ _ _ _ _ _ _ _ op =>
      let write : Bool := match op.range with
        | some (_, _, w) => w
        | none => false
      if write && Config.pick s.fresh (3000 + m.2) then
        let r := s.hostAccess p op
        r.1.serveLater m.1 r.2
      else s.serveLater m.1 (.fail .xlate 0)
    | _ => s) s

/-- The grants of an edge home that is lost have unknown outcomes (R240). -/
def State.loseGrants (s : State) (p : Nat) : State :=
  let l := (s.port p).reqs
  let s := s.modPort p fun q => { q with reqs := [] }
  l.foldl (fun s q => match q.sink with
    | .grantFor i named kind _ => s.grantEnd (.port p) i named kind .unknown
    | _ => s) s

/-- PORT_LINK_LOSS. A lost memory port's edge home is announced lost (R252). -/
def execPortLinkLoss (p : Nat) (s : State) : Host.Outcome State Fault Refusal :=
  let q := s.port p
  if !q.up || q.failed then .fault .noSuchItem
  else
    let down (s : State) : State := s.modPort p fun q => { q with up := false, width := 0, rate := 0, retryAt := s.now + 1300000000 }
    if q.isHost then .next (down (s.hostLoss p) |> fun s => { s with fresh := s.fresh + 1 })
    else
      let s := down s
      let s : State := { s with net := s.net.filter fun m => !(decide (m.dst = .port p) && m.atDevice) }
      .next ((s.loseGrants p).declareDead (.port p))

/-- What R386 lets a link come up at: x16, x8 or x4, at 64 or 32 GT/s. -/
def trains (r : Training) : Bool :=
  r.up && (decide (r.width = 16) || decide (r.width = 8) || decide (r.width = 4)) && (decide (r.rate = 1) || decide (r.rate = 2))

/-- A link comes up at a width and a rate. -/
def Port.linked (q : Port) (width : BitVec 5) (rate : BitVec 2) : Port :=
  { q with up := true, width := width, rate := rate, lastWidth := width }

/-- A port that is down and is retrained every second. -/
def Port.retrains (q : Port) : Bool := (decide (q.kind = 1) || decide (q.kind = 2)) && !q.up && !q.failed && !q.changed

/-- PORT_RETRAIN_ATTEMPT. A memory port comes up no wider than it was: at the same width or narrower (R394, log 71). -/
def execPortRetrainAttempt (p : Nat) (r : Training) (s : State) : Host.Outcome State Fault Refusal :=
  let q := s.port p
  if !q.retrains || decide (s.now < q.retryAt) || !s.mgr.power then .fault .noSuchItem
  else if !trains r then .next (s.modPort p fun q => { q with retryAt := s.now + 1300000000 })
  else if q.kind = 2 then .next (s.modPort p fun q => q.linked r.width r.rate)
  else if !r.sameDevice then .next (s.modPort p fun q => { q with changed := true })
  else
    let s := (s.modPort p fun q => q.linked (if q.lastWidth < r.width then q.lastWidth else r.width) r.rate).restartEdge p
    .next { s with mgr := { s.mgr with dead := s.mgr.dead.filter fun n => decide (n ≠ .port p) } }

/-- HDM_DECODER_BASE_WRITE (R389). -/
def execHdmDecoderBaseWrite (port : Nat) (base : Word) (s : State) : Host.Outcome State Fault Refusal :=
  if (s.port port).isHost then .next (s.modPort port fun q => { q with hdm := base }) else .fault .noSuchItem

/-- EXTERNAL_SEGMENT_DECLARATION (R232, R259): an EXT entry over 4 KiB units that no entry covers is made, or the one with these
bounds is freed; so is an entry with these bounds that an ended partition has left. -/
def execExternalSegmentDeclaration (port : Nat) (base limit : Word) (make : Bool) (s : State) : Host.Outcome State Fault Refusal :=
  let q := s.port port
  let lo := base.toNat / 4096
  let hi := limit.toNat / 4096
  if !q.isMem then .fault .noSuchItem
  else if base.toNat % 4096 ≠ 0 || limit.toNat % 4096 ≠ 0 || hi ≤ lo || 2 ^ 33 ≤ hi then .next s
  else if make then
    if q.toks.any fun t => decide (t.2.base < hi) && decide (lo < t.2.limit) then .next s
    else
      match afree (tokCap (.port port)) q.toks with
      | none => .next s
      | some i => .next (s.modPort port fun q => { q with toks := aset i { HomeTok.fresh lo hi with ext := true } q.toks })
  else .next (s.modPort port fun q => { q with
    toks := tokDrops q.toks ((q.toks.filter fun t => decide (t.2.st ≠ .split) && (t.2.ext || decide (t.2.part = noPart))
      && decide (t.2.base = lo) && decide (t.2.limit = hi)).map fun t => t.1) })

/-! ## Power-good and its loss (R393, R396) -/

/-- The domains in the order in which they are raised (R396). -/
def Domain.order : List Domain := [.arrays, .logic, .links, .phys]

def Manager.raise (m : Manager) (d : Domain) : Manager := { m with rails := d :: m.rails }

/-- The domains are lowered, the last raised first (R396). -/
def Manager.lowerRails (m : Manager) : Manager := m.rails.foldl (fun m _ => { m with rails := m.rails.tail }) m

/-- An island without power: its record stays as firmware last wrote it, its plan stays, its clock stands at 0. -/
def Island.unpowered (i : Island) : Island := { i with lowered := 0, cooled := 0, hot := false, stepMs := 0, baseCyc := 0, baseAt := 0 }

/-- What outlives the power: the persisted state of the manager, with FRZ clear (R269), the islands' records, the memory of the
devices and hosts; the model's own fields go on. -/
def State.powerless (s : State) : State :=
  let kept (q : Port) (r : Port) : Port := { r with mem := q.mem, hdm := if r.kind = 2 then q.hdm else 0 }
  { State.reset with
    mgr := { Manager.reset with
      boots := s.mgr.boots, fence := s.mgr.fence, bindgen := s.mgr.bindgen, phys := s.mgr.phys, cols := s.mgr.cols
      bind := s.mgr.bind.map fun (e : Nat × Word) => (e.1, putBits e.2 27 1 0)
      rails := s.mgr.lowerRails.rails
      portMap := s.mgr.portMap }
    ports := vgen fun i : Fin 64 => kept (s.port i.val) { Port.reset i.val with kind := vat s.mgr.portMap i.val 0 }
    islands := vmap Island.unpowered s.islands
    inputs := s.inputs
    nextId := s.nextId
    fresh := s.fresh
    now := s.now }

/-- POWER_GOOD: bring-up starts, and TIME with it. -/
def execPowerGood (s : State) : Host.Outcome State Fault Refusal :=
  if s.mgr.power then .fault .noSuchItem
  else
    let s := s.powerless
    .next { s with now := 0, mgr := { s.mgr with power := true, boots := s.mgr.boots + 1 } }

/-- POWER_GOOD_LOSS. -/
def execPowerGoodLoss (s : State) : Host.Outcome State Fault Refusal :=
  if s.mgr.power then .next s.powerless else .fault .noSuchItem

/-! ## Bring-up (R393) -/

/-- The logical cores bound to failed physical cores, in increasing index. -/
def State.boundTo (s : State) (failed : List Nat) : List Nat :=
  ((List.range Config.rows).flatMap fun y => (List.range s.mgr.cols).map fun x => y * 512 + x).filter fun c =>
    (s.binding c).getLsbD 26 && failed.contains (physKey (s.physOf c))

/-- Self-test (R274): failed BOUND and SPARE cores become RETIRED, MARG is updated, and cores are bound again in one change. -/
def State.selfTest (s : State) (failed marginal : List Nat) : State :=
  let pos (k : Nat) : Nat × Nat := (k % 480, k / 480)
  let todo := s.boundTo failed
  let s := failed.foldl (fun s k => if physSt (s.physRec (pos k)) ≤ 1 then s.setPhys (pos k) 2 else s) s
  let marg (s : State) (k : Nat) (b : Bool) : State :=
    let r := s.physRec (pos k)
    if physSt r = 4 then s else { s with mgr := { s.mgr with phys := aset k (putBits r 3 1 (if b then 1 else 0)) s.mgr.phys } }
  let s := (s.mgr.phys.map fun e => e.1).foldl (fun s k =>
    if failed.contains k || marginal.contains k then s else marg s k false) s
  let s := (marginal.filter fun k => !failed.contains k).foldl (fun s k => marg s k true) s
  if todo.isEmpty then s
  else
    let gen := s.mgr.bindgen + 1
    let s : State := { s with mgr := { s.mgr with bindgen := gen } }
    todo.foldl (fun s c => (s.rebindOrShrink (fun _ => true) gen c 480).getD s) s

/-- The link class table at bring-up: every entry anew (R276). -/
def State.linkTable (s : State) : State := { s with mgr := { s.mgr with links := [], linkBase := s.mgr.tables } }

/-- GiB of the memory ports so far (R388). -/
def State.mappedGib (s : State) : Nat := s.ports.toList.foldl (fun n q => if q.isMem then n + q.cap.toNat else n) 0

/-- A port trained at bring-up, or failed after its three retries. -/
def State.trainPort (s : State) (kind : Nat) (obs : List (Nat × Training)) (p : Nat) : State :=
  if (s.port p).kind ≠ kind then s
  else
    match (obs.find? fun o => decide (o.1 = p)).map fun o => o.2 with
    | some t =>
      if !trains t then s.modPort p fun q => { q with failed := true, tries := 3 }
      else if kind = 2 then s.modPort p fun q => q.linked t.width t.rate
      else
        let room := 32768 - s.mappedGib
        s.modPort p fun q => { q.linked t.width t.rate with
          cap := BitVec.ofNat 24 (min t.gib.toNat room), unmap := decide (room < t.gib.toNat)
          toks := [], once := Once.reset, reqs := [], restartNs := none, rstt := 0, changed := false }
    | none => s.modPort p fun q => { q with failed := true, tries := 3 }

def State.trainPorts (s : State) (kind : Nat) (obs : List (Nat × Training)) : State :=
  (List.range 64).foldl (fun s p => s.trainPort kind obs p) s

/-- The port map with the changes that firmware has made between bring-ups: at most 8 host ports (R387). -/
def newPortMap (old : Vector Nat 64) (map : List (Nat × Nat)) : Vector Nat 64 :=
  let v := map.foldl (fun v e => if e.2 ≤ 2 then v.setIfInBounds e.1 e.2 else v) old
  if 8 < v.toList.countP (· = 2) then old else v

/-- The ports are what the port map says (R387). -/
def State.mapPorts (s : State) (map : List (Nat × Nat)) : State :=
  let v := newPortMap s.mgr.portMap map
  { s with
    ports := vgen fun i : Fin 64 => { s.port i.val with kind := vat v i.val 0 }
    mgr := { s.mgr with portMap := v } }

/-- Stage 1: the domains are raised in order, and the link voltages of the field columns set (R396). -/
def State.raiseDomains (s : State) (linkMv : List (Nat × Nat)) : State :=
  { s with mgr := { Domain.order.foldl Manager.raise s.mgr with
      linkMv := linkMv.foldl (fun v e => v.setIfInBounds e.1 e.2) s.mgr.linkMv } }

/-- An island's record as bring-up writes it (R348): the guardband of the last record, FMHZ 0 in a fenced field (R395). -/
def Island.broughtUp (i : Island) (now : Nat) (gen : BitVec 32) (fenced : Bool) : Island :=
  { i with
    fmhz := if fenced then 0 else i.planned
    vmv := i.vplan, slack := i.splan.getD i.slack, splan := none, plans := 0, tplan := 0, gen := gen
    baseCyc := i.cycles now, baseAt := now }

/-- Stage 3: the link class table, and the islands' guardbands from the last records. -/
def State.setGuardbands (s : State) : State :=
  { s.linkTable with
    islands := vgen fun i : Fin 96 => (s.islandAt i.val).broughtUp s.now s.mgr.bindgen (s.fenced (i.val / 2)) }

/-- BRING_UP_STAGE: the work of the next stage is done, and STAGE written. -/
def execBringUpStage (o : BringUpObs) (s : State) : Host.Outcome State Fault Refusal :=
  let m := s.mgr
  if !m.power || m.ready then .fault .noSuchItem
  else
    let t : State :=
      match m.stage with
      | 0 => (s.mapPorts o.map).raiseDomains o.linkMv
      | 1 => s.selfTest o.failed o.marginal
      | 2 => s.setGuardbands
      | 3 => s.trainPorts 1 o.ports
      | 4 => s.trainPorts 2 o.ports
      | 5 => { s with mgr := { s.mgr with journal := [], jseq := 0, log := [], logseq := 0, ready := true } }
      | _ => s
    .next { t with mgr := { t.mgr with stage := m.stage + 1 } }

/-! ## Islands: monitors, clocks, power and temperature (R364, R365, R397, R398) -/

def State.modIsland (s : State) (i : Nat) (f : Island → Island) : State :=
  { s with islands := s.islands.setIfInBounds i (f (s.islandAt i)) }

/-- Firmware writes an island's record: GEN with it (R364). -/
def State.writeRecord (s : State) (i : Nat) (f : Island → Island) : State :=
  s.modIsland i fun x => { f x with gen := s.mgr.bindgen }

/-- The binding entries of a field's cores change, with a new GEN: a fence takes V away and its end gives it back (R9, R275). -/
def State.regenField (s : State) (fld : Nat) (fence : BitVec 48) : State :=
  let gen := s.mgr.bindgen + 1
  let cs := (fieldCores fld).filter fun c => decide (coreX c < s.mgr.cols)
  let t : State := { s with mgr := { s.mgr with
      bindgen := gen, fence := fence
      bind := cs.foldl (fun l c => aset c (putBits (putBits (s.binding c) 26 2 1) 32 32 gen.toNat) l) s.mgr.bind } }
  t.relink (t.withNbrs cs)

/-- The logical cores of other fields that are bound in a field. -/
def State.guestsOf (s : State) (fld : Nat) : List Nat :=
  (s.mgr.bind.filter fun e => decide (fieldOf e.1 ≠ fld) && (s.binding e.1).getLsbD 26 && decide (physField (s.physOf e.1) = fld)).map
    fun e => e.1

/-- The cores of a list of physical fields are gone at once. -/
def State.corpsesIn (s : State) (fld : Nat) : State :=
  { s with cores := s.cores.map fun (k : Nat × Core) => if physField (s.physOf k.1) = fld then (k.1, k.2.corpse) else k }

/-- A field is fenced (R347, R398): partitions on it end with REASON DEAD, its cores and those bound into it run no more, its
entries of the binding table lose V, its island records read FMHZ 0 from the next 1 ms boundary on (R395, R397). -/
def State.fenceField (s : State) (fld : Nat) : State :=
  if s.fenced fld then s
  else
    let guests := s.guestsOf fld
    let s := s.corpsesIn fld
    let s := (List.range 48).foldl (fun s e =>
      if (s.part e).fieldList.contains fld then
        (if (s.part e).st = .saved then s.killSaved e 0x13 else s.killPartition e 0x13)
      else s) s
    let s : State := { s with mgr := { s.mgr with retiring := s.mgr.retiring.filter fun r => decide (fieldOf r.1 ≠ fld) } }
    let s := s.regenField fld (s.mgr.fence ||| ((1 : BitVec 48) <<< fld))
    let s := (s.writeRecord (2 * fld) id).writeRecord (2 * fld + 1) id
    guests.foldl (fun s c => s.declareDead (.core c)) s

/-- FENCE_CLEAR_COMMAND (R398): the field must pass self-test. Its islands are planned as at the first bring-up, and run again from the next
1 ms boundary on (R397). -/
def execFenceClearCommand (fld : Nat) (pass : Bool) (s : State) : Host.Outcome State Fault Refusal :=
  if !s.fenced fld then .fault .noSuchItem
  else if !pass then .next s
  else
    let s := s.regenField fld (s.mgr.fence &&& ~~~((1 : BitVec 48) <<< fld))
    let on (i : Island) : Island :=
      { Island.reset with
        plans := i.plans, tplan := i.tplan, temp := i.temp, hot := i.hot, fmhz := i.fmhz, vmv := i.vmv, slack := i.slack
        splan := some Island.reset.slack, stepMs := i.stepMs, baseCyc := i.baseCyc, baseAt := i.baseAt }
    let s := (s.writeRecord (2 * fld) on).writeRecord (2 * fld + 1) on
    .next (s.deadFree.foldl (fun s c => s.rebindDead c) s)

/-- The re-plan (R365, R398): 5 mV up to 880 mV, then 13 MHz down to 650 MHz, until SLACK is 40 ps or more; false when it fails.
`rest` is the slack that the monitors give after each step; where they give no more, a step changes it no more. `sl` is the slack so
far. -/
def Island.replan (i : Island) (sl : BitVec 16) : Nat → List (BitVec 16) → Island × Bool
  | 0, _ => (i, false)
  | n + 1, rest =>
    if 40 ≤ sl.toInt then ({ i with splan := some sl }, true)
    else if i.vplan < 880 then { i with vplan := min 880 (i.vplan + 5) }.replan (rest.headD sl) n rest.tail
    else if 663 ≤ i.planned then { i with planned := i.planned - 13 }.replan (rest.headD sl) n rest.tail
    else (i, false)

/-- Too hot from 100.0 °C until below 95.0 °C (R397). -/
def Island.heats (i : Island) (temp : BitVec 16) : Bool := decide (1000 ≤ temp.toInt) || (i.hot && decide (950 ≤ temp.toInt))

/-- One island's reading. A re-plan's voltage and clock, and the slack that they give, stand in the record from the next 1 ms
boundary on. The islands of a fenced field are read, and not planned again. -/
def State.readIsland (s : State) (r : IslandReading) : State :=
  let i := s.islandAt r.island
  if 96 ≤ r.island then s
  else
    let j := { i with temp := r.temp, slack := r.slack, hot := i.heats r.temp }
    if s.fenced (r.island / 2) || decide (25 ≤ r.slack.toInt) then s.writeRecord r.island fun _ => j
    else
      let n := j.replan r.slack 2000 r.steps
      let s := s.writeRecord r.island fun _ => { n.1 with plans := n.1.plans + 1, tplan := s.timeWord }
      if n.2 then s else s.fenceField (r.island / 2)

/-- ISLAND_MONITOR_READ (R364). -/
def execIslandMonitorRead (rs : List IslandReading) (s : State) : Host.Outcome State Fault Refusal :=
  .next (rs.foldl (fun s r => s.readIsland r) s)

/-- The clock that an island's plan, power and temperature give: the lower of the two reductions (R397). -/
def Island.target (i : Island) : Nat := i.planned - 13 * max i.lowered i.cooled

/-- The clock that an island is to run at: none in a fenced field. -/
def State.clockOf (s : State) (i : Nat) : Nat := if s.fenced (i / 2) then 0 else (s.islandAt i).target

/-- A change of FMHZ or of the voltage takes effect now: a 1 ms boundary of TIME. -/
def State.clockDue (s : State) (i : Nat) : Bool :=
  let x := s.islandAt i
  decide (s.now % 1300000 = 0) && decide (i < 96) && (decide (x.fmhz ≠ s.clockOf i)
    || !s.fenced (i / 2) && (decide (x.vmv ≠ x.vplan) || x.splan.isSome))

/-- A module time to come, as it stands when an island's clock changes now: as many of its cycles lie before it as did (R5). -/
def Island.recount (old new : Island) (now t : Nat) : Nat :=
  if t ≤ now || old.fmhz = 0 || new.fmhz = 0 then t else now + new.after now (old.cycles t - old.cycles now)

/-- The times of a core that its island's clock counts: of its atomic unit, its copy engine, its router's rounds and deliveries, and of
grants that are not sent yet. -/
def Core.recount (k : Core) (f : Nat → Nat) : Core :=
  { k with
    atomNext := f k.atomNext
    copyNext := f k.copyNext
    rounds := k.rounds.map fun r => { r with free := f r.free }
    deliveries := k.deliveries.map fun d => { d with due := f d.due }
    reqs := k.reqs.map fun q => match q.sink with
      | .grantFor _ _ _ _ => if q.att = 0 then { q with due := f q.due } else q
      | _ => q }

/-- A message of a core that is under way or inside it: its formula latency counts its sender's cycles, its delay does not. -/
def Packet.recount (p : Packet) (f : Nat → Nat) : Packet :=
  if p.atDevice then p
  else { p with leave := f p.leave, base := f p.base, arrive := f p.base + (p.arrive - p.base), since := f p.since }

/-- The intervals that the cycles of an island's cores count are counted anew from now on (R5). -/
def State.recount (s : State) (i : Nat) (old new : Island) : State :=
  let f := old.recount new s.now
  let mine (c : Nat) : Bool := decide (islandOf (s.physOf c) = i)
  { s with
    cores := s.cores.map fun (e : Nat × Core) => if mine e.1 then (e.1, e.2.recount f) else e
    net := s.net.map fun p => match p.src with
      | .core c => if mine c then p.recount f else p
      | _ => p }

/-- ISLAND_CLOCK_CHANGE. -/
def execIslandClockChange (i : Nat) (s : State) : Host.Outcome State Fault Refusal :=
  if !s.clockDue i then .fault .noSuchItem
  else
    let x := s.islandAt i
    let y : Island := { x with baseCyc := x.cycles s.now, baseAt := s.now, fmhz := s.clockOf i }
    let z : Island := if s.fenced (i / 2) then y else { y with vmv := x.vplan, slack := x.splan.getD x.slack, splan := none }
    .next ((s.writeRecord i fun _ => z).recount i x z)

/-- A 1 ms boundary of TIME that has not been acted on: `done` is the last one that has (R397). -/
def State.msTurn (s : State) (done : Nat) : Bool := decide (s.now % 1300000 = 0) && decide (done < s.now / 1300000)

/-- POWER_LIMIT_STEP (R397): a reading of the power, and each 1 ms what follows from it: lowered after 10 ms above 40,000 W and until
39,000 W, raised again from 37,000 W. The raising pauses while WATTS is above 37,000 (log 74). -/
def execPowerLimitStep (amps watts : BitVec 32) (s : State) : Host.Outcome State Fault Refusal :=
  let w := watts.toNat
  let t := s.timeNs
  let turn := s.msTurn s.mgr.stepMs
  let active : Bool := match s.mgr.overNs with
    | some o => decide (o + 10000000 ≤ t)
    | none => false
  let above : Option Nat :=
    if active then (if w ≤ 39000 then none else s.mgr.overNs)
    else if w ≤ 40000 then none else some (s.mgr.overNs.getD t)
  let step (i : Island) : Island :=
    if !turn then i
    else if active && decide (39000 < w) then { i with lowered := i.lowered + 1 }
    else if w ≤ 37000 then { i with lowered := i.lowered - 1 } else i
  .next { s with
    islands := vmap step s.islands
    mgr := { s.mgr with
      amps := amps, watts := watts, overNs := above, stepMs := if turn then s.now / 1300000 else s.mgr.stepMs } }

/-- THERMAL_THROTTLE_STEP (R397): a reading of a temperature, and each 1 ms what follows from it. -/
def execThermalThrottleStep (i : Nat) (temp : BitVec 16) (s : State) : Host.Outcome State Fault Refusal :=
  .next (s.writeRecord i fun x =>
    let turn := s.msTurn x.stepMs
    { x with
      temp := temp, hot := x.heats temp, cooled := if x.heats temp && turn then x.cooled + 1 else x.cooled
      stepMs := if turn then s.now / 1300000 else x.stepMs })

/-- What R397 asks for with the readings as they stand: a shutdown, and at a 1 ms boundary the steps. -/
def State.limitDue (s : State) : Option Instr :=
  if !s.mgr.power || !(s.mgr.overNs.isSome || s.islands.toList.any fun i => i.hot || decide (0 < i.lowered)) then none
  else
    match (List.range 96).find? fun i => (s.islandAt i).hot && decide (1100 ≤ (s.islandAt i).temp.toInt) with
    | some i => some (.overtempShutdown i (s.islandAt i).temp)
    | none =>
      if s.msTurn s.mgr.stepMs && (s.mgr.overNs.isSome || s.islands.toList.any fun i => decide (0 < i.lowered)) then
        some (.powerLimitStep s.mgr.amps s.mgr.watts)
      else
        ((List.range 96).find? fun i => (s.islandAt i).hot && s.msTurn (s.islandAt i).stepMs).map fun i =>
          .thermalThrottleStep i (s.islandAt i).temp

/-- OVERTEMP_SHUTDOWN (R397): every partition is journalled CLOSED with KILLED, the ports go down, and the rails are lowered. -/
def execOvertempShutdown (i : Nat) (temp : BitVec 16) (s : State) : Host.Outcome State Fault Refusal :=
  if temp.toInt < 1100 || 96 ≤ i then .fault .noSuchItem
  else
    let s := s.writeRecord i fun x => { x with temp := temp }
    let s := (List.range 48).foldl (fun s e =>
      if (s.part e).st.active || decide ((s.part e).st = .saved) then
        s.modPart e fun q => { q with st := .closed, reason := 0x11, asker := none, seeds := [] }
      else s) s
    .next { s with
      cores := [], idle := [], net := []
      ports := vmap (fun q : Port => { q with up := false, width := 0, rate := 0, reqs := [] }) s.ports
      mgr := { s.mgr.lowerRails with power := false, ready := false, stage := 0, retiring := [], shoot := none } }

/-! ## Errors and scrubbing (R190, R376) -/

/-- The turns of the patrol scrubber up to a module time: one word each 5,288 cc, so that its round of 24,576 words takes less
than 100 ms (R190). -/
def scrubTurn (now : Nat) : Nat := now / 5288

/-- The word whose turn it is. -/
def scrubWord (now : Nat) : Nat := scrubTurn now % 24576

/-- PATROL_SCRUB: the word is read, and a single-bit error corrected. -/
def execPatrolScrub (c word : Nat) (s : State) : Host.Outcome State Fault Refusal :=
  match s.core? c with
  | none => .fault .noSuchItem
  | some _ => .next (s.modCore c fun k =>
      { k.injectRead (8 * word) 8 with scrubbed := if word = scrubWord s.now then scrubTurn s.now else k.scrubbed })

/-- The number of bits set. -/
def popBits {w : Nat} (v : BitVec w) : Nat := (List.range w).foldl (fun n i => if v.getLsbD i then n + 1 else n) 0

/-- Flips of a local-store word: one wrong bit is correctable, two or more are not. -/
def Core.flipWord (k : Core) (word : Nat) (flip : Word) : Core :=
  let old := ((k.soft.find? fun e => decide (e.1 = word)).map fun e => e.2).getD 0
  let now := old ^^^ flip
  let rest := k.soft.filter fun e => decide (e.1 ≠ word)
  if k.badWords.contains word || 24576 ≤ word then k
  else if now = 0 then { k with soft := rest }
  else if popBits now = 1 then { k with soft := rest ++ [(word, now)] }
  else { k with soft := rest, badWords := word :: k.badWords }

def Core.badReg (k : Core) (r : RegId) : Core :=
  if r.hardwired || k.regs.badRegs.contains r then k else { k with regs := { k.regs with badRegs := r :: k.regs.badRegs } }

/-- A flip in an accumulator lane: its row's sum changes by as much (R185). -/
def Core.flipAcc (k : Core) (a : Fin 4) (lane : Fin 256) (flip : Lane) : Core :=
  let acc := k.regs.acc[a]
  let old := acc.lanes[lane]
  let new := old ^^^ flip
  let k : Core := { k with regs := { k.regs with acc := k.regs.acc.set a { acc with lanes := acc.lanes.set lane new } } }
  k.offRow (accRow a, lane.val / 16) ((new.toNat : Int) - old.toNat)

/-- Flips one bit of a plane or codebook. -/
def flipBit {w : Nat} (v : BitVec w) (i : Nat) : BitVec w := v ^^^ BitVec.ofNat w (2 ^ i)

/-- By how much a flip changes the sum of 32-bit words (R185). -/
def flipSum {w : Nat} (v : BitVec w) (i : Nat) : Int := if v.getLsbD i then -(2 ^ (i % 32)) else 2 ^ (i % 32)

/-- A saved context that an error has struck. -/
def Core.badShadow (k : Core) : Core :=
  match k.shadow with
  | some x => { k with shadow := some { x with bad := true } }
  | none => k

/-- SOFT_ERROR. An error in a core's tables makes it dead; an entry of a TLB, a translation cache or a fetch buffer is discarded and
fetched again, a flit dropped as a CRC failure (R376). -/
def execSoftError (e : SoftErr) (s : State) : Host.Outcome State Fault Refusal :=
  let on (c : Nat) (f : Core → Core) : Host.Outcome State Fault Refusal :=
    match s.core? c with
    | none => .fault .noSuchItem
    | some _ => .next (s.modCore c f)
  match e with
  | .store c word flip => on c fun k => k.flipWord word flip
  | .gReg c n => on c fun k => k.badReg (.g n)
  | .tReg c sl n => on c fun k => k.badReg (.t sl n)
  | .vReg c n => on c fun k => k.badReg (.v n)
  | .mReg c n => on c fun k => k.badReg (.m n)
  | .accLane c a lane flip => on c fun k => k.flipAcc a lane flip
  | .plane c st bit =>
    if 32768 ≤ bit then .fault .noSuchItem
    else on c fun k =>
      if st then
        ({ k with regs := { k.regs with ws := flipBit k.regs.ws bit } } : Core).offRow (4, 32 + bit / 2048) (flipSum k.regs.ws bit)
      else ({ k with regs := { k.regs with wa := flipBit k.regs.wa bit } } : Core).offRow (4, 16 + bit / 2048) (flipSum k.regs.wa bit)
  | .codebook c n bit =>
    if 256 ≤ bit then .fault .noSuchItem
    else on c fun k => ({ k with regs := { k.regs with kb := k.regs.kb.set n (flipBit k.regs.kb[n] bit) } } : Core).offRow
      (4, 48 + n.val) (flipSum k.regs.kb[n] bit)
  | .table c =>
    match s.core? c with
    | none => .fault .noSuchItem
    | some _ => .next ((s.coreReport c .uecore ⟨0, 0, none, false, 0, 0, 0⟩).declareDead (.core c))
  | .shadow c =>
    .next { s with
      cores := amod c Core.badShadow s.cores
      idle := amod c Core.badShadow s.idle }
  | .device p addr =>
    if (s.port p).isMem then
      let line := addr / 64 * 64
      .next (s.modPort p fun q => { q with poison := line :: q.poison.filter fun x => decide (x ≠ line) })
    else .fault .noSuchItem
  | .tlb c n => on c fun k => { k with tlb := k.tlb.eraseIdx n }
  | .fieldCache fld n => .next (s.modField fld fun f => { f with cache := f.cache.eraseIdx n })
  | .fetchBuf c addr => on c fun k => { k with stale := k.stale.filter fun e => decide (e.1 ≠ addr) }
  | .flit id => .next { s with net := s.net.map fun (p : Packet) => if p.id = id && !p.atDevice then { p with crcBad := true } else p }

/-! ## Flits (R31, R307) -/

/-- The router that drops a flit of a message: between cores the one next to the sender on the way (R16); the way of a message to or from
the rim is not architected (R205), so that any core's may be it (log 6). -/
def State.dropRouter (s : State) (p : Packet) : Option Nat :=
  match p.src, p.dst with
  | .core a, .core b => some (nextCore a b)
  | _, _ => (s.cores.map fun e => e.1)[Config.rimLeg 48 s.fresh % max 1 s.cores.length]?

/-- FLIT_CRC_DROP: the message is lost at the next router, which counts it. -/
def execFlitCrcDrop (id : Nat) (s : State) : Host.Outcome State Fault Refusal :=
  match s.net.find? fun p => decide (p.id = id) && p.crcBad && decide (p.sentAt < s.now) with
  | none => .fault .noSuchItem
  | some pk =>
    let t := { s.dropPacket id with fresh := s.fresh + 1 }
    match s.dropRouter pk with
    | some c => .next (t.modCore c fun k => k.count 21 1)
    | none => .next t

/-- FLIT_AGE_PRIORITY (R307): a message that has waited 1,024 cc at a port is sent next there, whatever its class; what holds it up at the
ports after that is free again (log 6). -/
def execFlitAgePriority (id : Nat) (s : State) : Host.Outcome State Fault Refusal :=
  match s.net.find? fun p => decide (p.id = id) && !p.atDevice && decide (p.since + 1024 ≤ s.now) && decide (s.now < p.arrive) with
  | none => .fault .noSuchItem
  | some _ =>
    .next { s with
      net := s.net.map fun (p : Packet) => if p.id = id then { p with arrive := s.now + Config.delay s.fresh, since := s.now } else p
      fresh := s.fresh + 1 }

end Sys2Proof.Machine
end

