-- ==== Sys2Proof/Machine/Dispatch.lean ====
section
/-! DEFINITION. The dispatch: one arm per row of the table, each one direct call of its meaning. -/

namespace Sys2Proof.Machine

def exec (i : Instr) (s : State) : Host.Outcome State Fault Refusal :=
  match i with
  | .slotSelection c => Sys2Proof.Machine.execSlotSelection c s
  | .priorityRaise c sl => Sys2Proof.Machine.execPriorityRaise c sl s
  | .waitLimitExpiry c sl => Sys2Proof.Machine.execWaitLimitExpiry c sl s
  | .resultWrite c id => Sys2Proof.Machine.execResultWrite c id s
  | .sfuServiceStart c => Sys2Proof.Machine.execSfuServiceStart c s
  | .sfuResultWrite c => Sys2Proof.Machine.execSfuResultWrite c s
  | .matrixDispatch c => Sys2Proof.Machine.execMatrixDispatch c s
  | .matrixCompletion c id => Sys2Proof.Machine.execMatrixCompletion c id s
  | .drainingEnd c sl => Sys2Proof.Machine.execDrainingEnd c sl s
  | .messageArrival c msg => Sys2Proof.Machine.execMessageArrival c msg s
  | .writeRequestService id => Sys2Proof.Machine.execWriteRequestService id s
  | .readRequestService id => Sys2Proof.Machine.execReadRequestService id s
  | .cxlMemCompletion id => Sys2Proof.Machine.execCxlMemCompletion id s
  | .hostPortCompletion id => Sys2Proof.Machine.execHostPortCompletion id s
  | .hostReadTimeout id => Sys2Proof.Machine.execHostReadTimeout id s
  | .replyArrival id => Sys2Proof.Machine.execReplyArrival id s
  | .retryTimerExpiry n id => Sys2Proof.Machine.execRetryTimerExpiry n id s
  | .requestAgeDiscard id => Sys2Proof.Machine.execRequestAgeDiscard id s
  | .replyEntryAgeing n ent => Sys2Proof.Machine.execReplyEntryAgeing n ent s
  | .requesterEntryAgeing n ent => Sys2Proof.Machine.execRequesterEntryAgeing n ent s
  | .translationWalkComplete c id => Sys2Proof.Machine.execTranslationWalkComplete c id s
  | .partialArrival id => Sys2Proof.Machine.execPartialArrival id s
  | .routeDelivery c id => Sys2Proof.Machine.execRouteDelivery c id s
  | .renormaliseNoticeArrival id => Sys2Proof.Machine.execRenormaliseNoticeArrival id s
  | .grantArrival id => Sys2Proof.Machine.execGrantArrival id s
  | .grantOutcome id => Sys2Proof.Machine.execGrantOutcome id s
  | .revokeNoticeArrival id => Sys2Proof.Machine.execRevokeNoticeArrival id s
  | .deathDeclaration n => Sys2Proof.Machine.execDeathDeclaration n s
  | .deathNoticeArrival id => Sys2Proof.Machine.execDeathNoticeArrival id s
  | .copyActivation c => Sys2Proof.Machine.execCopyActivation c s
  | .copyUnitSend c => Sys2Proof.Machine.execCopyUnitSend c s
  | .copyCompletionWrite c id => Sys2Proof.Machine.execCopyCompletionWrite c id s
  | .copyDeadline c id => Sys2Proof.Machine.execCopyDeadline c id s
  | .copyClassRaise c id => Sys2Proof.Machine.execCopyClassRaise c id s
  | .launchStore port r => Sys2Proof.Machine.execLaunchStore port r s
  | .submitService id => Sys2Proof.Machine.execSubmitService id s
  | .placement => Sys2Proof.Machine.execPlacement s
  | .openWave e => Sys2Proof.Machine.execOpenWave e s
  | .loadComplete e => Sys2Proof.Machine.execLoadComplete e s
  | .seedInjection e => Sys2Proof.Machine.execSeedInjection e s
  | .closeWave e => Sys2Proof.Machine.execCloseWave e s
  | .hangMonitorSample => Sys2Proof.Machine.execHangMonitorSample s
  | .preempt q => Sys2Proof.Machine.execPreempt q s
  | .coreHalt c => Sys2Proof.Machine.execCoreHalt c s
  | .haltComplete e => Sys2Proof.Machine.execHaltComplete e s
  | .haltfail e => Sys2Proof.Machine.execHaltfail e s
  | .resume q => Sys2Proof.Machine.execResume q s
  | .kill q => Sys2Proof.Machine.execKill q s
  | .shootdown q => Sys2Proof.Machine.execShootdown q s
  | .clearret q => Sys2Proof.Machine.execClearret q s
  | .readbind q => Sys2Proof.Machine.execReadbind q s
  | .free q => Sys2Proof.Machine.execFree q s
  | .hostWindowWrite port off data => Sys2Proof.Machine.execHostWindowWrite port off data s
  | .retirementStart c => Sys2Proof.Machine.execRetirementStart c s
  | .retirementCopy c => Sys2Proof.Machine.execRetirementCopy c s
  | .retirementTimeout c => Sys2Proof.Machine.execRetirementTimeout c s
  | .edgeHomeRestart p => Sys2Proof.Machine.execEdgeHomeRestart p s
  | .portLinkLoss p => Sys2Proof.Machine.execPortLinkLoss p s
  | .portRetrainAttempt p r => Sys2Proof.Machine.execPortRetrainAttempt p r s
  | .powerGood => Sys2Proof.Machine.execPowerGood s
  | .bringUpStage o => Sys2Proof.Machine.execBringUpStage o s
  | .islandMonitorRead rs => Sys2Proof.Machine.execIslandMonitorRead rs s
  | .islandClockChange isl => Sys2Proof.Machine.execIslandClockChange isl s
  | .powerLimitStep amps watts => Sys2Proof.Machine.execPowerLimitStep amps watts s
  | .thermalThrottleStep isl temp => Sys2Proof.Machine.execThermalThrottleStep isl temp s
  | .overtempShutdown isl temp => Sys2Proof.Machine.execOvertempShutdown isl temp s
  | .patrolScrub c word => Sys2Proof.Machine.execPatrolScrub c word s
  | .flitCrcDrop id => Sys2Proof.Machine.execFlitCrcDrop id s
  | .flitAgePriority id => Sys2Proof.Machine.execFlitAgePriority id s
  | .notAnInstruction f => Sys2Proof.Machine.execNotAnInstruction f s
  | .fetchPastLocalStore => Sys2Proof.Machine.execFetchPastLocalStore s
  | .softError e => Sys2Proof.Machine.execSoftError e s
  | .powerGoodLoss => Sys2Proof.Machine.execPowerGoodLoss s
  | .hdmDecoderBaseWrite port base => Sys2Proof.Machine.execHdmDecoderBaseWrite port base s
  | .fenceClearCommand fld pass => Sys2Proof.Machine.execFenceClearCommand fld pass s
  | .externalSegmentDeclaration port base limit make => Sys2Proof.Machine.execExternalSegmentDeclaration port base limit make s
  | .add h d a b => Sys2Proof.Machine.execAdd h d a b s
  | .sub h d a b => Sys2Proof.Machine.execSub h d a b s
  | .and h d a b => Sys2Proof.Machine.execAnd h d a b s
  | .or h d a b => Sys2Proof.Machine.execOr h d a b s
  | .xor h d a b => Sys2Proof.Machine.execXor h d a b s
  | .sll h d a b => Sys2Proof.Machine.execSll h d a b s
  | .srl h d a b => Sys2Proof.Machine.execSrl h d a b s
  | .sra h d a b => Sys2Proof.Machine.execSra h d a b s
  | .min h d a b => Sys2Proof.Machine.execMin h d a b s
  | .max h d a b => Sys2Proof.Machine.execMax h d a b s
  | .minu h d a b => Sys2Proof.Machine.execMinu h d a b s
  | .maxu h d a b => Sys2Proof.Machine.execMaxu h d a b s
  | .mul h d a b => Sys2Proof.Machine.execMul h d a b s
  | .mulh h d a b => Sys2Proof.Machine.execMulh h d a b s
  | .mulhu h d a b => Sys2Proof.Machine.execMulhu h d a b s
  | .div h d a b => Sys2Proof.Machine.execDiv h d a b s
  | .divu h d a b => Sys2Proof.Machine.execDivu h d a b s
  | .rem h d a b => Sys2Proof.Machine.execRem h d a b s
  | .remu h d a b => Sys2Proof.Machine.execRemu h d a b s
  | .adds h d a b => Sys2Proof.Machine.execAdds h d a b s
  | .subs h d a b => Sys2Proof.Machine.execSubs h d a b s
  | .clz h d a => Sys2Proof.Machine.execClz h d a s
  | .popc h d a => Sys2Proof.Machine.execPopc h d a s
  | .andn h d a b => Sys2Proof.Machine.execAndn h d a b s
  | .orn h d a b => Sys2Proof.Machine.execOrn h d a b s
  | .addi h x d a imm => Sys2Proof.Machine.execAddi h x d a imm s
  | .andi h x d a imm => Sys2Proof.Machine.execAndi h x d a imm s
  | .ori h x d a imm => Sys2Proof.Machine.execOri h x d a imm s
  | .xori h x d a imm => Sys2Proof.Machine.execXori h x d a imm s
  | .slli h d a sh => Sys2Proof.Machine.execSlli h d a sh s
  | .srli h d a sh => Sys2Proof.Machine.execSrli h d a sh s
  | .srai h d a sh => Sys2Proof.Machine.execSrai h d a sh s
  | .rori h d a sh => Sys2Proof.Machine.execRori h d a sh s
  | .li h x d imm => Sys2Proof.Machine.execLi h x d imm s
  | .lih h x d a imm => Sys2Proof.Machine.execLih h x d a imm s
  | .cmpEq h d a b => Sys2Proof.Machine.execCmpEq h d a b s
  | .cmpNe h d a b => Sys2Proof.Machine.execCmpNe h d a b s
  | .cmpLt h d a b => Sys2Proof.Machine.execCmpLt h d a b s
  | .cmpGe h d a b => Sys2Proof.Machine.execCmpGe h d a b s
  | .cmpLtu h d a b => Sys2Proof.Machine.execCmpLtu h d a b s
  | .cmpGeu h d a b => Sys2Proof.Machine.execCmpGeu h d a b s
  | .cmpBits h d a b => Sys2Proof.Machine.execCmpBits h d a b s
  | .cmpNbits h d a b => Sys2Proof.Machine.execCmpNbits h d a b s
  | .cmpiEq h x d a imm => Sys2Proof.Machine.execCmpiEq h x d a imm s
  | .cmpiNe h x d a imm => Sys2Proof.Machine.execCmpiNe h x d a imm s
  | .cmpiLt h x d a imm => Sys2Proof.Machine.execCmpiLt h x d a imm s
  | .cmpiGe h x d a imm => Sys2Proof.Machine.execCmpiGe h x d a imm s
  | .cmpiLtu h x d a imm => Sys2Proof.Machine.execCmpiLtu h x d a imm s
  | .cmpiGeu h x d a imm => Sys2Proof.Machine.execCmpiGeu h x d a imm s
  | .cmpiBits h x d a imm => Sys2Proof.Machine.execCmpiBits h x d a imm s
  | .cmpiNbits h x d a imm => Sys2Proof.Machine.execCmpiNbits h x d a imm s
  | .pand h d a b => Sys2Proof.Machine.execPand h d a b s
  | .por h d a b => Sys2Proof.Machine.execPor h d a b s
  | .pxor h d a b => Sys2Proof.Machine.execPxor h d a b s
  | .pandn h d a b => Sys2Proof.Machine.execPandn h d a b s
  | .pnot h d a => Sys2Proof.Machine.execPnot h d a s
  | .pmov h d a => Sys2Proof.Machine.execPmov h d a s
  | .pset h d => Sys2Proof.Machine.execPset h d s
  | .pclr h d => Sys2Proof.Machine.execPclr h d s
  | .sext8 h d a => Sys2Proof.Machine.execSext8 h d a s
  | .sext16 h d a => Sys2Proof.Machine.execSext16 h d a s
  | .sext32 h d a => Sys2Proof.Machine.execSext32 h d a s
  | .zext8 h d a => Sys2Proof.Machine.execZext8 h d a s
  | .zext16 h d a => Sys2Proof.Machine.execZext16 h d a s
  | .zext32 h d a => Sys2Proof.Machine.execZext32 h d a s
  | .bswap h d a => Sys2Proof.Machine.execBswap h d a s
  | .ctz h d a => Sys2Proof.Machine.execCtz h d a s
  | .peer h d a b => Sys2Proof.Machine.execPeer h d a b s
  | .peero h d a b => Sys2Proof.Machine.execPeero h d a b s
  | .pidx h d a => Sys2Proof.Machine.execPidx h d a s
  | .mand h d a b => Sys2Proof.Machine.execMand h d a b s
  | .mor h d a b => Sys2Proof.Machine.execMor h d a b s
  | .mxor h d a b => Sys2Proof.Machine.execMxor h d a b s
  | .mandn h d a b => Sys2Proof.Machine.execMandn h d a b s
  | .mnot h d a => Sys2Proof.Machine.execMnot h d a s
  | .mset h d a => Sys2Proof.Machine.execMset h d a s
  | .mget h d a => Sys2Proof.Machine.execMget h d a s
  | .mpop h d a => Sys2Proof.Machine.execMpop h d a s
  | .mfirst h d a => Sys2Proof.Machine.execMfirst h d a s
  | .b h off => Sys2Proof.Machine.execB h off s
  | .call h off => Sys2Proof.Machine.execCall h off s
  | .jr h a => Sys2Proof.Machine.execJr h a s
  | .jalr h d a => Sys2Proof.Machine.execJalr h d a s
  | .ret h => Sys2Proof.Machine.execRet h s
  | .loopReg h lv ca len => Sys2Proof.Machine.execLoopReg h lv ca len s
  | .loopImm h x lv ca len => Sys2Proof.Machine.execLoopImm h x lv ca len s
  | .wait h d a => Sys2Proof.Machine.execWait h d a s
  | .waita h o d a b => Sys2Proof.Machine.execWaita h o d a b s
  | .yield h => Sys2Proof.Machine.execYield h s
  | .endTask h => Sys2Proof.Machine.execEndTask h s
  | .trap h a => Sys2Proof.Machine.execTrap h a s
  | .isync h => Sys2Proof.Machine.execIsync h s
  | .nop h => Sys2Proof.Machine.execNop h s
  | .csrw h d a csr => Sys2Proof.Machine.execCsrw h d a csr s
  | .csrs h d a csr => Sys2Proof.Machine.execCsrs h d a csr s
  | .csrc h d a csr => Sys2Proof.Machine.execCsrc h d a csr s
  | .ld h x d a sz off => Sys2Proof.Machine.execLd h x d a sz off s
  | .st h x d a sz off => Sys2Proof.Machine.execSt h x d a sz off s
  | .vld h x d a off => Sys2Proof.Machine.execVld h x d a off s
  | .vst h x d a off => Sys2Proof.Machine.execVst h x d a off s
  | .vgathI32 h d a b mk => Sys2Proof.Machine.execVgathI32 h d a b mk s
  | .vscatI32 h d a b mk => Sys2Proof.Machine.execVscatI32 h d a b mk s
  | .vgathI16 h d a b mk => Sys2Proof.Machine.execVgathI16 h d a b mk s
  | .vscatI16 h d a b mk => Sys2Proof.Machine.execVscatI16 h d a b mk s
  | .qldQb8 h d a b => Sys2Proof.Machine.execQldQb8 h d a b s
  | .qldQb4 h d a b => Sys2Proof.Machine.execQldQb4 h d a b s
  | .qstQb8 h d a b => Sys2Proof.Machine.execQstQb8 h d a b s
  | .qstQb4 h d a b => Sys2Proof.Machine.execQstQb4 h d a b s
  | .rld h x d a sz off => Sys2Proof.Machine.execRld h x d a sz off s
  | .rst h x d a sz off => Sys2Proof.Machine.execRst h x d a sz off s
  | .atomAdd h o d a b w => Sys2Proof.Machine.execAtomAdd h o d a b w s
  | .atomSub h o d a b w => Sys2Proof.Machine.execAtomSub h o d a b w s
  | .atomAnd h o d a b w => Sys2Proof.Machine.execAtomAnd h o d a b w s
  | .atomOr h o d a b w => Sys2Proof.Machine.execAtomOr h o d a b w s
  | .atomXor h o d a b w => Sys2Proof.Machine.execAtomXor h o d a b w s
  | .atomMin h o d a b w => Sys2Proof.Machine.execAtomMin h o d a b w s
  | .atomMax h o d a b w => Sys2Proof.Machine.execAtomMax h o d a b w s
  | .atomMinu h o d a b w => Sys2Proof.Machine.execAtomMinu h o d a b w s
  | .atomMaxu h o d a b w => Sys2Proof.Machine.execAtomMaxu h o d a b w s
  | .atomSwap h o d a b w => Sys2Proof.Machine.execAtomSwap h o d a b w s
  | .atomCas h o d a b w => Sys2Proof.Machine.execAtomCas h o d a b w s
  | .atomFaddF32 h o d a b => Sys2Proof.Machine.execAtomFaddF32 h o d a b s
  | .atomBadd h o d a b => Sys2Proof.Machine.execAtomBadd h o d a b s
  | .fenceAcq h sc => Sys2Proof.Machine.execFenceAcq h sc s
  | .fenceRel h sc => Sys2Proof.Machine.execFenceRel h sc s
  | .fenceAr h sc => Sys2Proof.Machine.execFenceAr h sc s
  | .rvld h o d a b => Sys2Proof.Machine.execRvld h o d a b s
  | .rvst h o d a b => Sys2Proof.Machine.execRvst h o d a b s
  | .tdecl h a b => Sys2Proof.Machine.execTdecl h a b s
  | .tlend h a b => Sys2Proof.Machine.execTlend h a b s
  | .tret h a => Sys2Proof.Machine.execTret h a s
  | .tsplit h a b => Sys2Proof.Machine.execTsplit h a b s
  | .tjoin h a => Sys2Proof.Machine.execTjoin h a s
  | .tshare h a b => Sys2Proof.Machine.execTshare h a b s
  | .tunsh h a => Sys2Proof.Machine.execTunsh h a s
  | .tqry h d a b => Sys2Proof.Machine.execTqry h d a b s
  | .trecl h a => Sys2Proof.Machine.execTrecl h a s
  | .tclean h a b => Sys2Proof.Machine.execTclean h a b s
  | .send h o d a b => Sys2Proof.Machine.execSend h o d a b s
  | .sendr h o a b => Sys2Proof.Machine.execSendr h o a b s
  | .door h o d a b => Sys2Proof.Machine.execDoor h o d a b s
  | .doorq h o d a => Sys2Proof.Machine.execDoorq h o d a s
  | .submit h o a b => Sys2Proof.Machine.execSubmit h o a b s
  | .ckpt h o a b => Sys2Proof.Machine.execCkpt h o a b s
  | .cpy h o a b => Sys2Proof.Machine.execCpy h o a b s
  | .cpyq h d => Sys2Proof.Machine.execCpyq h d s
  | .cpyx h o a b => Sys2Proof.Machine.execCpyx h o a b s
  | .vaddI32 h x d a b mk => Sys2Proof.Machine.execVaddI32 h x d a b mk s
  | .vsubI32 h x d a b mk => Sys2Proof.Machine.execVsubI32 h x d a b mk s
  | .vmulI32 h x d a b mk => Sys2Proof.Machine.execVmulI32 h x d a b mk s
  | .vmulhI32 h x d a b mk => Sys2Proof.Machine.execVmulhI32 h x d a b mk s
  | .vminI32 h x d a b mk => Sys2Proof.Machine.execVminI32 h x d a b mk s
  | .vmaxI32 h x d a b mk => Sys2Proof.Machine.execVmaxI32 h x d a b mk s
  | .vand h x d a b mk => Sys2Proof.Machine.execVand h x d a b mk s
  | .vor h x d a b mk => Sys2Proof.Machine.execVor h x d a b mk s
  | .vxor h x d a b mk => Sys2Proof.Machine.execVxor h x d a b mk s
  | .vsll h x d a b mk => Sys2Proof.Machine.execVsll h x d a b mk s
  | .vsrl h x d a b mk => Sys2Proof.Machine.execVsrl h x d a b mk s
  | .vsra h x d a b mk => Sys2Proof.Machine.execVsra h x d a b mk s
  | .vaddsI32 h x d a b mk => Sys2Proof.Machine.execVaddsI32 h x d a b mk s
  | .vsubsI32 h x d a b mk => Sys2Proof.Machine.execVsubsI32 h x d a b mk s
  | .vabsI32 h x d a mk => Sys2Proof.Machine.execVabsI32 h x d a mk s
  | .vminuI32 h x d a b mk => Sys2Proof.Machine.execVminuI32 h x d a b mk s
  | .vaddF32 h x d a b mk => Sys2Proof.Machine.execVaddF32 h x d a b mk s
  | .vsubF32 h x d a b mk => Sys2Proof.Machine.execVsubF32 h x d a b mk s
  | .vmulF32 h x d a b mk => Sys2Proof.Machine.execVmulF32 h x d a b mk s
  | .vfmaF32 h x d a b mk => Sys2Proof.Machine.execVfmaF32 h x d a b mk s
  | .vfmsF32 h x d a b mk => Sys2Proof.Machine.execVfmsF32 h x d a b mk s
  | .vminF32 h x d a b mk => Sys2Proof.Machine.execVminF32 h x d a b mk s
  | .vmaxF32 h x d a b mk => Sys2Proof.Machine.execVmaxF32 h x d a b mk s
  | .vabsF32 h x d a mk => Sys2Proof.Machine.execVabsF32 h x d a mk s
  | .vnegF32 h x d a mk => Sys2Proof.Machine.execVnegF32 h x d a mk s
  | .vfnmaF32 h x d a b mk => Sys2Proof.Machine.execVfnmaF32 h x d a b mk s
  | .vaddI16 h x d a b mk => Sys2Proof.Machine.execVaddI16 h x d a b mk s
  | .vsubI16 h x d a b mk => Sys2Proof.Machine.execVsubI16 h x d a b mk s
  | .vmulI16 h x d a b mk => Sys2Proof.Machine.execVmulI16 h x d a b mk s
  | .vaddsI16 h x d a b mk => Sys2Proof.Machine.execVaddsI16 h x d a b mk s
  | .vsubsI16 h x d a b mk => Sys2Proof.Machine.execVsubsI16 h x d a b mk s
  | .vminI16 h x d a b mk => Sys2Proof.Machine.execVminI16 h x d a b mk s
  | .vmaxI16 h x d a b mk => Sys2Proof.Machine.execVmaxI16 h x d a b mk s
  | .vaddBf16 h x d a b mk => Sys2Proof.Machine.execVaddBf16 h x d a b mk s
  | .vsubBf16 h x d a b mk => Sys2Proof.Machine.execVsubBf16 h x d a b mk s
  | .vmulBf16 h x d a b mk => Sys2Proof.Machine.execVmulBf16 h x d a b mk s
  | .vfmaBf16 h x d a b mk => Sys2Proof.Machine.execVfmaBf16 h x d a b mk s
  | .vminBf16 h x d a b mk => Sys2Proof.Machine.execVminBf16 h x d a b mk s
  | .vmaxBf16 h x d a b mk => Sys2Proof.Machine.execVmaxBf16 h x d a b mk s
  | .vaddI8 h x d a b mk => Sys2Proof.Machine.execVaddI8 h x d a b mk s
  | .vsubI8 h x d a b mk => Sys2Proof.Machine.execVsubI8 h x d a b mk s
  | .vaddsI8 h x d a b mk => Sys2Proof.Machine.execVaddsI8 h x d a b mk s
  | .vsubsI8 h x d a b mk => Sys2Proof.Machine.execVsubsI8 h x d a b mk s
  | .vminI8 h x d a b mk => Sys2Proof.Machine.execVminI8 h x d a b mk s
  | .vmaxI8 h x d a b mk => Sys2Proof.Machine.execVmaxI8 h x d a b mk s
  | .vaddE4m3 h x d a b mk => Sys2Proof.Machine.execVaddE4m3 h x d a b mk s
  | .vsubE4m3 h x d a b mk => Sys2Proof.Machine.execVsubE4m3 h x d a b mk s
  | .vmulE4m3 h x d a b mk => Sys2Proof.Machine.execVmulE4m3 h x d a b mk s
  | .vminE4m3 h x d a b mk => Sys2Proof.Machine.execVminE4m3 h x d a b mk s
  | .vmaxE4m3 h x d a b mk => Sys2Proof.Machine.execVmaxE4m3 h x d a b mk s
  | .vaddE5m2 h x d a b mk => Sys2Proof.Machine.execVaddE5m2 h x d a b mk s
  | .vsubE5m2 h x d a b mk => Sys2Proof.Machine.execVsubE5m2 h x d a b mk s
  | .vmulE5m2 h x d a b mk => Sys2Proof.Machine.execVmulE5m2 h x d a b mk s
  | .vminE5m2 h x d a b mk => Sys2Proof.Machine.execVminE5m2 h x d a b mk s
  | .vmaxE5m2 h x d a b mk => Sys2Proof.Machine.execVmaxE5m2 h x d a b mk s
  | .quantQb8 h x d a => Sys2Proof.Machine.execQuantQb8 h x d a s
  | .quantQb4 h x d a => Sys2Proof.Machine.execQuantQb4 h x d a s
  | .dequantQb8 h x d a mk => Sys2Proof.Machine.execDequantQb8 h x d a mk s
  | .dequantQb4 h x d a mk => Sys2Proof.Machine.execDequantQb4 h x d a mk s
  | .qtobaQb8 h x d a => Sys2Proof.Machine.execQtobaQb8 h x d a s
  | .qtobaQb4 h x d a => Sys2Proof.Machine.execQtobaQb4 h x d a s
  | .badd h x d a b => Sys2Proof.Machine.execBadd h x d a b s
  | .balign h x d a b => Sys2Proof.Machine.execBalign h x d a b s
  | .vlut h x d a kn mk => Sys2Proof.Machine.execVlut h x d a kn mk s
  | .vdqw h x d a b mk => Sys2Proof.Machine.execVdqw h x d a b mk s
  | .vcvtBf16F32 h x d a mk => Sys2Proof.Machine.execVcvtBf16F32 h x d a mk s
  | .vcvtF32Bf16 h x d a mk => Sys2Proof.Machine.execVcvtF32Bf16 h x d a mk s
  | .vcvtE4m3F32 h x d a mk => Sys2Proof.Machine.execVcvtE4m3F32 h x d a mk s
  | .vcvtE5m2F32 h x d a mk => Sys2Proof.Machine.execVcvtE5m2F32 h x d a mk s
  | .vcvtF32E4m3 h x d a mk => Sys2Proof.Machine.execVcvtF32E4m3 h x d a mk s
  | .vcvtF32E5m2 h x d a mk => Sys2Proof.Machine.execVcvtF32E5m2 h x d a mk s
  | .vcvtE4m3Bf16 h x d a mk => Sys2Proof.Machine.execVcvtE4m3Bf16 h x d a mk s
  | .vcvtE5m2Bf16 h x d a mk => Sys2Proof.Machine.execVcvtE5m2Bf16 h x d a mk s
  | .vcvtBf16E4m3 h x d a mk => Sys2Proof.Machine.execVcvtBf16E4m3 h x d a mk s
  | .vcvtBf16E5m2 h x d a mk => Sys2Proof.Machine.execVcvtBf16E5m2 h x d a mk s
  | .vcvtI32F32 h x d a mk => Sys2Proof.Machine.execVcvtI32F32 h x d a mk s
  | .vcvtF32I32 h x d a mk => Sys2Proof.Machine.execVcvtF32I32 h x d a mk s
  | .vcvtBf16Q4 h x d a mk => Sys2Proof.Machine.execVcvtBf16Q4 h x d a mk s
  | .vcvtI8I32 h x d a mk => Sys2Proof.Machine.execVcvtI8I32 h x d a mk s
  | .vcvtI32I8 h x d a mk => Sys2Proof.Machine.execVcvtI32I8 h x d a mk s
  | .vexp h x d a mk => Sys2Proof.Machine.execVexp h x d a mk s
  | .vexp2 h x d a mk => Sys2Proof.Machine.execVexp2 h x d a mk s
  | .vlog h x d a mk => Sys2Proof.Machine.execVlog h x d a mk s
  | .vlog2 h x d a mk => Sys2Proof.Machine.execVlog2 h x d a mk s
  | .vrcp h x d a mk => Sys2Proof.Machine.execVrcp h x d a mk s
  | .vrsqrt h x d a mk => Sys2Proof.Machine.execVrsqrt h x d a mk s
  | .vsqrt h x d a mk => Sys2Proof.Machine.execVsqrt h x d a mk s
  | .vdiv h x d a b mk => Sys2Proof.Machine.execVdiv h x d a b mk s
  | .vtanh h x d a mk => Sys2Proof.Machine.execVtanh h x d a mk s
  | .vsigm h x d a mk => Sys2Proof.Machine.execVsigm h x d a mk s
  | .verf h x d a mk => Sys2Proof.Machine.execVerf h x d a mk s
  | .vsin h x d a mk => Sys2Proof.Machine.execVsin h x d a mk s
  | .vcos h x d a mk => Sys2Proof.Machine.execVcos h x d a mk s
  | .vperm h x d a b mk => Sys2Proof.Machine.execVperm h x d a b mk s
  | .vbcast h x d a mk => Sys2Proof.Machine.execVbcast h x d a mk s
  | .vbcastScalar h x d mk => Sys2Proof.Machine.execVbcastScalar h x d mk s
  | .vrot h x d a mk => Sys2Proof.Machine.execVrot h x d a mk s
  | .viota h x d mk => Sys2Proof.Machine.execViota h x d mk s
  | .vsel h x d a b mk => Sys2Proof.Machine.execVsel h x d a b mk s
  | .vins h x d => Sys2Proof.Machine.execVins h x d s
  | .vext h x d a => Sys2Proof.Machine.execVext h x d a s
  | .vhdrWrite h x d => Sys2Proof.Machine.execVhdrWrite h x d s
  | .vhdrRead h x d a => Sys2Proof.Machine.execVhdrRead h x d a s
  | .vcmpI32 h x d a b mk => Sys2Proof.Machine.execVcmpI32 h x d a b mk s
  | .vcmpF32 h x d a b mk => Sys2Proof.Machine.execVcmpF32 h x d a b mk s
  | .vrsumF32 h x d a mk => Sys2Proof.Machine.execVrsumF32 h x d a mk s
  | .vrsumI32 h x d a mk => Sys2Proof.Machine.execVrsumI32 h x d a mk s
  | .vrmaxF32 h x d a mk => Sys2Proof.Machine.execVrmaxF32 h x d a mk s
  | .vrmaxI32 h x d a mk => Sys2Proof.Machine.execVrmaxI32 h x d a mk s
  | .vdraw h x d a mk => Sys2Proof.Machine.execVdraw h x d a mk s
  | .dmerge h x d a b => Sys2Proof.Machine.execDmerge h x d a b s
  | .mmaF8f8 h d a b => Sys2Proof.Machine.execMmaF8f8 h d a b s
  | .mmaB16b16 h d a b => Sys2Proof.Machine.execMmaB16b16 h d a b s
  | .mmaF8i4 h d a b => Sys2Proof.Machine.execMmaF8i4 h d a b s
  | .mmaB16i4 h d a b => Sys2Proof.Machine.execMmaB16i4 h d a b s
  | .mmaB16l4 h d a b => Sys2Proof.Machine.execMmaB16l4 h d a b s
  | .mmaQb8 h d a b => Sys2Proof.Machine.execMmaQb8 h d a b s
  | .mmaQb4 h d a b => Sys2Proof.Machine.execMmaQb4 h d a b s
  | .mldw h a b => Sys2Proof.Machine.execMldw h a b s
  | .mswap h => Sys2Proof.Machine.execMswap h s
  | .mldk h d a => Sys2Proof.Machine.execMldk h d a s
  | .mcolq h d a b => Sys2Proof.Machine.execMcolq h d a b s
  | .mzero h d => Sys2Proof.Machine.execMzero h d s
  | .mmovaToVector h d a g => Sys2Proof.Machine.execMmovaToVector h d a g s
  | .mmovaToAcc h d a g => Sys2Proof.Machine.execMmovaToAcc h d a g s
  | .mrsum h d a => Sys2Proof.Machine.execMrsum h d a s
  | .mchk h d a => Sys2Proof.Machine.execMchk h d a s
  | .msync h d => Sys2Proof.Machine.execMsync h d s
  | .mdrainF32 h x d a g z => Sys2Proof.Machine.execMdrainF32 h x d a g z s
  | .mdrainBf16 h x d a g z => Sys2Proof.Machine.execMdrainBf16 h x d a g z s
  | .mdrainE4m3 h x d a g z => Sys2Proof.Machine.execMdrainE4m3 h x d a g z s
  | .mdrainE5m2 h x d a g z => Sys2Proof.Machine.execMdrainE5m2 h x d a g z s
  | .mdrainQb8 h x d a g z => Sys2Proof.Machine.execMdrainQb8 h x d a g z s
  | .mdrainQb4 h x d a g z => Sys2Proof.Machine.execMdrainQb4 h x d a g z s
  | .mdrainBa32 h x d a g z => Sys2Proof.Machine.execMdrainBa32 h x d a g z s
  | .linit h o a b => Sys2Proof.Machine.execLinit h o a b s
  | .larv h o d a b => Sys2Proof.Machine.execLarv h o d a b s
  | .lwait h o d a b => Sys2Proof.Machine.execLwait h o d a b s
  | .ltest h o d a => Sys2Proof.Machine.execLtest h o d a s
  | .lreg h o a b => Sys2Proof.Machine.execLreg h o a b s
  | .ldrop h o a b => Sys2Proof.Machine.execLdrop h o a b s
  | .lbytes h o d a b => Sys2Proof.Machine.execLbytes h o d a b s
  | .rngget h d => Sys2Proof.Machine.execRngget h d s
  | .fadd h x d a b => Sys2Proof.Machine.execFadd h x d a b s
  | .fsub h x d a b => Sys2Proof.Machine.execFsub h x d a b s
  | .fmul h x d a b => Sys2Proof.Machine.execFmul h x d a b s
  | .fdiv h x d a b => Sys2Proof.Machine.execFdiv h x d a b s
  | .fsqrt h x d a => Sys2Proof.Machine.execFsqrt h x d a s
  | .fma h x d a b => Sys2Proof.Machine.execFma h x d a b s
  | .fmin h x d a b => Sys2Proof.Machine.execFmin h x d a b s
  | .fmax h x d a b => Sys2Proof.Machine.execFmax h x d a b s
  | .feq h x d a b => Sys2Proof.Machine.execFeq h x d a b s
  | .flt h x d a b => Sys2Proof.Machine.execFlt h x d a b s
  | .fle h x d a b => Sys2Proof.Machine.execFle h x d a b s
  | .fcvti h x d a => Sys2Proof.Machine.execFcvti h x d a s
  | .fcvtf h x d a => Sys2Proof.Machine.execFcvtf h x d a s
  | .fabs h x d a => Sys2Proof.Machine.execFabs h x d a s
  | .fneg h x d a => Sys2Proof.Machine.execFneg h x d a s
  | .fclass h x d a => Sys2Proof.Machine.execFclass h x d a s

end Sys2Proof.Machine
end

