-- ==== Sys2Proof/Machine/Schedule.lean ====
section
/-! DEFINITION. What happens next: the due events of a state, in a fixed order within one cycle of module time (log 42). An instruction
that writes FINJ or door 31 comes first of all (R377, R378), then inputs and notices; then in each core what its copies have become
(R379), what completes there, in the order in which it was issued (R369), what the engines begin, and its issue; then requests at their
homes, timers and the manager; then results of the special-function unit, which a trap of the same cycle cancels (R153); then slots that
drain, and only then arrivals at doors, seeds first, in port order (R314, R315); stages; grants, which a state change of the same cycle
precedes (R247); raises and selection. When nothing is due, module time advances by one cc. -/

namespace Sys2Proof.Machine

/-- What a step does. -/
inductive Act where
  | event (i : Instr)
  | input (i : Instr) (rest : List Input)
  | issue (c : Nat)
  | tick

/-- The RUNNING slot of a core may issue in this cycle. -/
def Core.issueReady (k : Core) (now cyc : Nat) : Bool :=
  match k.running with
  | none => false
  | some sl => decide ((k.slot sl).nextIssue ≤ cyc) && decide (k.issueFrom ≤ cyc) && !k.frozen && !k.halted && (match k.held with
      | some (t, _) => decide (t ≤ now)
      | none => true)

/-- An instruction of a slot meets no fault and no hold before its own effect: its words and registers can be read, and its guard is
true; `v` is the core as its reads see it. -/
def Core.issuesClean (k v : Core) (sl : Fin 8) (h : Head) (words cyc : Nat) (u : Uses) : Bool :=
  let guard := RegId.p sl h.gp
  (k.fetchFault (k.slot sl).pc words).isNone && v.getP sl h.gp != h.neg
    && !((k.slot sl).schk && ((!guard.hardwired && k.inFlight guard cyc) || u.reads.any fun r => k.inFlight r cyc))
    && !((u.reads ++ u.writes).any fun r => k.isPending r) && !u.reads.any fun r => k.regs.badRegs.contains r

/-- The instruction of two words acts before any other event of its cycle: one that writes FINJ (R377), or a DOOR on door 31 (R378). -/
noncomputable def Core.firstOfAll (k v : Core) (sl : Fin 8) (cyc : Nat) (w : Nat × Option Nat) : Bool :=
  match decode w.1 w.2 ((k.slot sl).endsBody (k.slot sl).pc) with
  | .ok (.csrw h d a csr) => decide (csr = 0x040) && k.issuesClean v sl h 1 cyc (usesRR d a sl)
  | .ok (.csrs h d a csr) | .ok (.csrc h d a csr) =>
    decide (csr = 0x040) && decide (a ≠ .g 0) && k.issuesClean v sl h 1 cyc (usesRR d a sl)
  | .ok (.door h o d a b) =>
    let n := (v.getS sl a).toNat
    decide (n % 32 = 31) && decide (n < 96) && k.issuesClean v sl h (if o.present then 2 else 1) cyc (usesRRR d a b sl)
  | _ => false

/-- The words with which such an instruction may begin. -/
def mayBeFirst (w : Nat) : Bool :=
  let op := fld w 24 6
  op = 0x15 || op = 0x16 || op = 0x17 || op = 0x2C || op = 0x3F

/-- The RUNNING slot of a core issues such an instruction in this cycle. -/
noncomputable def State.actsFirst (s : State) (c : Nat) (k0 : Core) : Bool :=
  match k0.running with
  | none => false
  | some sl =>
    let cyc := s.cyc c
    let pc := (k0.slot sl).pc
    let w := k0.words s.fresh pc
    if k0.issueReady s.now cyc && decide (pc < 0x30000) && mayBeFirst w.1 then
      let k := k0.land cyc
      k.firstOfAll (k.view s.fresh) sl cyc w && !(s.net.any fun p => p.ownToken c)
    else false

/-- A notice that has arrived: performed before any later request (R252). -/
def State.noticeDue (s : State) (p : Packet) : Option Instr :=
  if p.arrive ≤ s.now && !p.crcBad && !s.isFrozen p.dst then
    match p.body with
    | .revoke _ _ _ => some (.revokeNoticeArrival p.id)
    | .death _ _ => some (.deathNoticeArrival p.id)
    | .renorm _ _ _ => some (.renormaliseNoticeArrival p.id)
    | _ => none
  else none

/-- A message held at a port while its device works. -/
def State.deviceDue (s : State) (p : Packet) : Option Instr :=
  match p.dst, p.body with
  | .port n, .request _ _ _ _ _ _ _ _ _ op =>
    if !op.range.isSome then none
    else if p.arrive ≤ s.now then some (if (s.port n).isHost then .hostPortCompletion p.id else .cxlMemCompletion p.id)
    else
      match op with
      | .load _ _ _ => if (s.port n).isHost && decide (p.base ≤ s.now) then some (.hostReadTimeout p.id) else none
      | _ => none
  | _, _ => none

def ROp.isSend : ROp → Bool
  | .send _ => true
  | _ => false

/-- A message that its receiver takes now, apart from what waits for a later turn of the cycle: grants, those to a slot of the home's own
core among them, and SENDs at a door. Replies to
a core and the tokens of its own slots are taken among its completions, partials in the order of their ports. -/
def State.messageDue (s : State) (p : Packet) : Option Instr :=
  if p.crcBad then (if p.sentAt < s.now then some (.flitCrcDrop p.id) else none)
  else if p.atDevice then s.deviceDue p
  else if s.now < p.arrive then (if p.since + 1024 ≤ s.now then some (.flitAgePriority p.id) else none)
  else if s.ageDue p then some (.requestAgeDiscard p.id)
  else
    match p.body, p.dst with
    | .request _ _ _ _ _ _ _ wr _ op, _ =>
      if !op.isGrant && !op.isSend && !op.givesAt p.dst && s.serviceReady p then
        some (if op.isSubmit then .submitService p.id else if wr then .writeRequestService p.id else .readRequestService p.id)
      else none
    | .reply _ _ _ _ _ _ _, .core _ => none
    | .reply _ _ _ _ _ _ _, _ => if s.replyKind p = some true then some (.grantOutcome p.id) else some (.replyArrival p.id)
    | _, _ => none

/-- A grant that has arrived, or a request that makes one to a slot of its home (R247). -/
def State.grantDue (s : State) (p : Packet) : Option Instr :=
  match p.body with
  | .request _ _ _ _ _ _ _ _ _ op =>
    if op.isGrant && s.serviceReady p then some (.grantArrival p.id)
    else if op.givesAt p.dst && s.serviceReady p then some (.writeRequestService p.id)
    else none
  | _ => none

/-! ## Inside a core -/

/-- What the copy engine of a core does for one of its copies: it takes an active position, its completion word is written, or its next
unit is sent. -/
def Core.copyWork (c : Nat) (k : Core) (now cyc : Nat) : List (Nat × Instr) :=
  if k.frozen then []
  else
    (k.copyWaiting.toList.map fun x => (x.issued, .copyActivation c))
      ++ ((k.copies.filter fun x => x.complete && (x.ncw || decide (x.cw < 0x30000) || decide (k.copyNext ≤ now))).map fun x =>
        (x.issued, .copyCompletionWrite c x.id))
      ++ (if k.copyNext ≤ now then (k.copyNextUnit cyc).toList.map fun x => (x.issued, .copyUnitSend c) else [])

/-- What completes in a core, each with the cycle of its issue: results, stores, matrix commands, copies, replies, token instructions of
its own slots, and the timers of its requests. -/
def State.completions (s : State) (c : Nat) (k : Core) : List (Nat × Instr) :=
  let cyc := s.cyc c
  let issued (id : Nat) : Nat := ((k.reqs.find? fun q => decide (q.id = id)).map fun q => q.issued).getD cyc
  let messages := s.net.filterMap fun p =>
    if p.dst ≠ .core c || s.now < p.arrive || p.crcBad then none
    else
      match p.body with
      | .reply _ _ id _ _ _ _ =>
        if k.frozen then none else some (issued id, if s.replyKind p = some true then .grantOutcome p.id else .replyArrival p.id)
      | .request _ _ _ _ _ _ _ _ id op =>
        if p.ownToken c && !op.givesAt p.dst && s.serviceReady p then some (issued id, .writeRequestService p.id) else none
      | _ => none
  ((k.results.filter fun r => decide (r.due ≤ cyc)).map fun r => (r.issued, .resultWrite c r.id))
    ++ ((k.stores.filter fun b => decide (b.due ≤ cyc)).map fun b => (b.issued, .resultWrite c b.id))
    ++ ((k.matrix.filter fun m => m.dispatched && decide (m.completeAt ≤ cyc)).map fun m => (m.issued, .matrixCompletion c m.id))
    ++ k.copyWork c s.now cyc ++ messages
    ++ (if k.frozen then [] else k.reqs.filterMap fun q =>
      match q.walk with
      | some w => if w.over s.now then some (q.issued, .translationWalkComplete c q.id) else none
      | none => if q.timerDue s.now then some (q.issued, .retryTimerExpiry (.core c) q.id) else none)

/-- Of two faults that reach a slot in one cycle that of the operation issued first comes first (R369). -/
def oldest (l : List (Nat × Instr)) : Option Instr :=
  (l.foldl (fun (m : Option (Nat × Instr)) e => match m with
    | some x => if e.1 < x.1 then some e else some x
    | none => some e) none).map fun e => e.2

/-- A raise or a deadline of a copy, which comes before all else of its core, at a thaw too (R379). -/
def copyMark (c : Nat) (k : Core) (ns : Nat) : Option Instr :=
  if k.frozen then none
  else
    match k.copies.find? fun x => x.raiseDue ns with
    | some x => some (.copyClassRaise c x.id)
    | none => (k.copies.find? fun x => x.deadlineDue ns).map fun x => .copyDeadline c x.id

/-- What a core does next in a cycle: what its copies have become, what completes, what its engines begin, and its issue, which waits for
the token instructions of its slots (R383). -/
def State.coreAct (s : State) (c : Nat) (k : Core) : Option Act :=
  let cyc := s.cyc c
  match copyMark c k s.timeNs with
  | some i => some (.event i)
  | none =>
    match oldest (s.completions c k) with
    | some i => some (.event i)
    | none =>
      if (k.dispatchable cyc).isSome then some (.event (.matrixDispatch c))
      else if (k.sfuStart cyc).isSome then some (.event (.sfuServiceStart c))
      else if k.issueReady s.now cyc && !(s.net.any fun p => p.ownToken c) then some (.issue c)
      else none

/-! ## Arrivals, engines and timers -/

/-- The port order of partials that reach a router in one cycle: L, N, E, S, W (R281). -/
def portOrder : List Nat := [4, 0, 1, 2, 3]

/-- The partial that a router takes next. -/
def State.partialDue (s : State) : Option Instr :=
  portOrder.findSome? fun q =>
    (s.net.find? fun p => decide (p.arrive ≤ s.now) && !p.crcBad && (match p.body with
      | .request _ _ _ _ _ _ _ _ _ (.partialTo _ _ _ port) => decide (port = q)
      | _ => false) && s.partialReady p).map fun p => .partialArrival p.id

/-- The port by which a message of a core reaches another: along its row, then along the column of the target (R16). -/
def arrivalPort (src dst : Nat) : Nat :=
  if src = dst then 4
  else if coreY src < coreY dst then 0
  else if coreY dst < coreY src then 2
  else if coreX dst < coreX src then 1
  else 3

/-- An arrival at the doors of a core, in port order: seeds and route deliveries come through port L (R315). -/
def State.doorDue (s : State) (c : Nat) (k : Core) : Option Instr :=
  match if k.frozen then none else k.doorIn.find? fun m => !s.seedWaits c m with
  | some m => some (.messageArrival c m)
  | none =>
    portOrder.findSome? fun q =>
      (s.net.find? fun p => decide (p.dst = .core c) && (match p.src, p.body with
        | .core a, .request _ _ _ _ _ _ _ _ _ op => op.isSend && decide (arrivalPort a c = q) && s.serviceReady p
        | _, _ => false)).map fun p => .writeRequestService p.id

/-- A delivery of a core's router. -/
def deliveryDue (c : Nat) (k : Core) (now : Nat) : Option Instr :=
  if k.frozen then none else (k.deliveries.find? fun d => k.deliveryDue now d).map fun d => .routeDelivery c d.id

/-- Entries of a home's tables that leave at the latest now: within 1,200 µs of becoming freeable (R297). -/
def onceDue (n : Node) (o : Once) (ns : Nat) : Option Instr :=
  match o.cache.find? fun e => e.2.done && decide (e.2.timeNs + 2287000 ≤ ns) with
  | some e => some (.replyEntryAgeing n e.1)
  | none => (o.reqs.find? fun e => decide (e.2.lastNs + 1263000 ≤ ns)).map fun e => .requesterEntryAgeing n e.1

/-- Waits of a core whose limit has passed (R120), and ageing, which a freeze does not stop (R297). -/
def timerDue (c : Nat) (k : Core) (ns : Nat) : Option Instr :=
  match if k.frozen then none else (List.finRange 8).find? fun sl => k.waitOver sl ns with
  | some sl => some (.waitLimitExpiry c sl)
  | none => onceDue (.core c) k.tables.once ns

/-- Timers of an edge home. -/
def portTimer (p : Nat) (q : Port) (now ns : Nat) : Option Instr :=
  match q.reqs.find? fun r => r.timerDue now with
  | some r => some (.retryTimerExpiry (.port p) r.id)
  | none => onceDue (.port p) q.once ns

/-- A DRAINING slot that can go on. -/
def State.drainDue (s : State) (c : Nat) (_ : Core) : Option Instr :=
  ((List.finRange 8).find? fun sl => (s.drainStep c sl).isSome).map fun sl => .drainingEnd c sl

/-- Halt and retirement. -/
def State.lifeDue (s : State) (c : Nat) (k : Core) : Option Instr :=
  if s.haltDue k then some (.coreHalt c)
  else if k.frozen then
    match s.retiringOf c with
    | some (_, t) =>
      if s.retireReady k then some (.retirementCopy c)
      else if t + 100000 ≤ s.timeNs then some (.retirementTimeout c) else none
    | none => none
  else none

/-- The stages of a slot-table entry. -/
def State.partDue (s : State) (e : Nat) : Option Instr :=
  let p := s.part e
  match p.st with
  | .placed => if p.killing.isNone then (if p.waitUntil ≤ s.now then some (.openWave e) else none)
      else if s.closeDue e then some (.closeWave e) else none
  | .loading => if p.killing.isNone then (if p.waitUntil ≤ s.now then some (.loadComplete e) else none)
      else if s.closeDue e then some (.closeWave e) else none
  | .running => if s.closeDue e then some (.closeWave e) else none
  | .halting | .resuming =>
    if s.closeDue e then some (.closeWave e)
    else if s.haltDone e && decide (p.waitUntil ≤ s.now) then some (.haltComplete e)
    else if p.st = .halting && p.killing.isNone && decide (p.swapStep = .none) && decide (p.haltNs + 10000000 ≤ s.timeNs)
        && !(s.cores.all fun k => decide (k.2.entry ≠ e) || k.2.haltKept) then some (.haltfail e)
    else none
  | _ => none

/-- A retirement of a core that no partition holds: there is nothing to wait for. -/
def State.idleRetirement (s : State) : Option Instr :=
  (s.mgr.retiring.find? fun r => (s.core? r.1).isNone).map fun r => .retirementCopy r.1

/-- What the module manager does of itself before the stages: limits of power and temperature, clocks, the hang monitor, retirements
of idle cores. -/
def State.managerDue (s : State) : Option Instr :=
  match s.limitDue with
  | some i => some i
  | none =>
  match if s.now % 1300000 = 0 then (List.range 96).find? s.clockDue else none with
  | some i => some (.islandClockChange i)
  | none =>
    if s.mgr.power && decide (s.mgr.hangNs ≤ s.timeNs) then some .hangMonitorSample else s.idleRetirement

/-- The patrol scrubber of a core (R190). -/
def scrubDue (c : Nat) (k : Core) (now : Nat) : Option Instr :=
  if k.scrubbed < scrubTurn now then some (.patrolScrub c (scrubWord now)) else none

/-- Placement, the stages of slot-table entries, and the manager's own table of requests. -/
def State.stageDue (s : State) : Option Instr :=
  if !s.mgr.power then none
  else if s.mgr.ready && s.placeFor.isSome then some .placement
  else
    match (List.range 48).findSome? s.partDue with
    | some i => some i
    | none => onceDue .mgr s.mgr.once s.timeNs

/-- A seed that dispatch injects now: it comes through port L, before what arrives at the other ports (R315). -/
def State.seedTurn (s : State) : Option Instr :=
  if s.mgr.power then ((List.range 48).find? fun e => s.seedDue e).map fun e => .seedInjection e else none

/-- Raises, which a halt or a freeze does not stop (R318), and selection (R317). -/
def selectDue (c : Nat) (k : Core) (cyc : Nat) : Option Instr :=
  match (List.finRange 8).find? fun sl => k.raises cyc sl with
  | some sl => some (.priorityRaise c sl)
  | none => if !k.frozen && !k.halted && (k.toSelect cyc).isSome then some (.slotSelection c) else none

/-- The first of the events that some cores have due. -/
def State.anyCore (s : State) (f : Nat → Core → Option Instr) : Option Instr := s.cores.findSome? fun e => f e.1 e.2

/-- The turns of a cycle after the cores' own. -/
def State.turns : List (State → Option Instr) :=
  [State.partialDue,
   fun s => s.net.findSome? s.messageDue,
   fun s => s.anyCore fun c k => deliveryDue c k s.now,
   fun s => s.anyCore fun c k => timerDue c k s.timeNs,
   fun s => (List.range 64).findSome? fun p => portTimer p (s.port p) s.now s.timeNs,
   State.managerDue,
   fun s => s.anyCore fun c k => scrubDue c k s.now,
   fun s => s.anyCore fun c k => if (k.sfuWriteDue (s.cyc c)).isSome then some (.sfuResultWrite c) else none,
   fun s => s.anyCore s.drainDue,
   State.seedTurn,
   fun s => s.anyCore s.doorDue,
   fun s => s.anyCore s.lifeDue,
   State.stageDue,
   fun s => s.net.findSome? s.grantDue,
   fun s => s.anyCore fun c k => selectDue c k (s.cyc c)]

/-- What happens next. -/
noncomputable def State.nextAct (s : State) : Act :=
  match s.cores.find? fun e => s.actsFirst e.1 e.2 with
  | some e => .issue e.1
  | none =>
  match s.inputs.find? fun i => decide (i.time ≤ s.now) with
  | some i => .input i.event (s.inputs.erase i)
  | none =>
  match s.net.findSome? s.noticeDue with
  | some i => .event i
  | none =>
  match s.cores.findSome? fun e => s.coreAct e.1 e.2 with
  | some a => a
  | none =>
  match State.turns.findSome? fun f => f s with
  | some i => .event i
  | none => .tick

/-- A hold at issue is tried again after an event. -/
def State.wakeHeld (s : State) : State :=
  { s with cores := s.cores.map fun (e : Nat × Core) => if e.2.held.isSome then (e.1, { e.2 with held := none }) else e }

/-- Events after which no instruction issues in their cycle: a grant is seen from the next cycle on (R385). -/
def endsCycle : Instr → Bool
  | .grantArrival _ | .slotSelection _ | .priorityRaise _ _ => true
  | _ => false

/-- What follows every event at once: holds are tried again, grants leave that waited for local work, requests that waited for room
and walks that waited for a walker, copies go on, a shootdown is answered. -/
def State.settle (s : State) (i : Instr) : State :=
  let s := if endsCycle i then s else s.wakeHeld
  let s := s.cores.foldl (fun (s : State) (e : Nat × Core) =>
    if e.2.reqs.isEmpty && e.2.copies.isEmpty then s else ((s.launchGrants e.1).sendWaiting (.core e.1)).copyFlush e.1) s
  let s := (List.range 64).foldl (fun (s : State) (p : Nat) =>
    if (s.port p).reqs.isEmpty then s else (s.launchEdgeGrants p).sendWaiting (.port p)) s
  s.moveWalks.settleShoot

/-- The events of `n` cycles of a core that counters count by level (R363); a selection written in a cycle counts from the next. -/
def Core.countCycle (k : Core) (cyc n conflicts : Nat) : Core :=
  if n = 0 then k
  else
    let k :=
      if k.regs.pmsel = 0 then k
      else
        let k := (k.count 1 n).count 6 conflicts
        let k := if k.running.isSome then k.count 3 n else k
        let k := if k.running.isSome && decide (k.lastIssue ≠ some cyc) then k.count 4 n else k
        let scoreboard : Bool := match k.held with
          | some (_, b) => b
          | none => false
        let k := if scoreboard then k.count 5 n else k
        if cyc < k.computeFree then k.count 8 n else k
    { k with regs := { k.regs with pmsel := k.regs.pmselNew.getD k.regs.pmsel, pmselNew := none } }

/-- Module time advances by one cc. -/
def State.tick (s : State) : State :=
  let t : State := { s with now := s.now + 1, fresh := s.fresh + 1 }
  { t with
    cores := s.cores.map fun (e : Nat × Core) =>
      (e.1, e.2.countCycle (s.cyc e.1) (t.cyc e.1 - s.cyc e.1) (Config.bankConflicts (s.fresh + e.1))) }

end Sys2Proof.Machine
end

