-- ==== Sys2Proof/Machine/Fetch.lean ====
section
/-! DEFINITION. Fetch and decode of the instruction that the RUNNING slot of a core issues (R69, R113, R192), and the placing of
an instruction's words where the next step fetches them. -/

namespace Sys2Proof.Machine

/-- The instruction that the RUNNING slot of core `c` issues; none where no slot is RUNNING. The pc past 0x2_FFFC is a row of
its own, and so are words that are no instruction. -/
noncomputable def State.nextInstr (s : State) (c : Nat) : Option Instr :=
  match s.core? c with
  | none => none
  | some k =>
    match k.running with
    | none => none
    | some sl =>
      let pc := (k.slot sl).pc
      if 0x30000 ≤ pc then some .fetchPastLocalStore
      else
        let w := k.words s.fresh pc
        match decode w.1 w.2 ((k.slot sl).endsBody pc) with
        | .ok i => some i
        | .error f => some (.notAnInstruction f)

/-- Slot 0 RUNNING at pc 0, outside every loop body, free to issue at once; the other slots not RUNNING. -/
def runAtZero (slots : Vector Slot 8) : Vector Slot 8 :=
  vgen fun i =>
    let x := slots[i]
    if i = 0 then { x with st := .running, pc := 0, nextIssue := 0, loop := Vector.replicate 2 LoopLevel.reset }
    else if x.st = .running then { x with st := .ready } else x

/-- Core 0, with `bytes` at offset 0 of its local store and slot 0 about to issue there; nothing is under way in it that could come
first. -/
def Core.withBytes (k : Core) (bytes : List Byte) : Core :=
  { k with
    regs := { k.regs with slots := runAtZero k.regs.slots }
    mem := k.mem.writeN 0 bytes
    badWords := k.badWords.filter fun w => decide (1 < w)
    stale := k.stale.filter fun e => decide (8 ≤ e.1)
    tables := { k.tables with home := k.tables.home.filter fun e => decide (e.2.base ≠ 0) }
    held := none
    issueFrom := 0
    frozen := false
    halted := false
    results := []
    stores := []
    matrix := []
    sfu := []
    copies := []
    reqs := [] }

/-- The state in which the next step issues the instruction whose words are `w`, from offset 0 of core 0: nothing is due before
it. -/
def State.placeWord (s : State) (nbits w : Nat) : State :=
  let bytes := bytesLE 8 (w % 2 ^ nbits)
  let k := ((s.core? 0).getD Core.reset).withBytes bytes
  { s with
    cores := aset 0 k s.cores
    inputs := s.inputs.filter fun i => decide (s.now < i.time)
    net := s.net.filter fun p => (s.noticeDue p).isNone && !p.ownToken 0 && !(decide (p.dst = .core 0) && decide (p.arrive ≤ s.now)) }

end Sys2Proof.Machine
end

