-- ==== Sys2Proof/Machine/Step.lean ====
section
/-! DEFINITION. One step of the module: the next due event, an input, the issue of one instruction, or one cc of module time.
It is noncomputable because the decoder is (Decode.lean). -/

namespace Sys2Proof.Machine

/-- A next state, with what follows the event. -/
def settled (i : Instr) (o : Host.Outcome State Fault Refusal) : Host.Outcome State Fault Refusal :=
  match o with
  | .next t => .next (t.settle i)
  | .fault f => .fault f
  | .refused r => .refused r

/-- An input whose item does not exist changes nothing but the list of inputs. -/
def takeInput (i : Instr) (s : State) : Host.Outcome State Fault Refusal :=
  match exec i s with
  | .next t => .next (t.settle i)
  | .fault _ => .next s
  | .refused r => .refused r

/-- The step. -/
noncomputable def step (s : State) : Host.Outcome State Fault Refusal :=
  match s.nextAct with
  | .event i => settled i (exec i s)
  | .input i rest => takeInput i { s with inputs := rest }
  | .issue c =>
    match s.nextInstr c with
    | some i => exec i { s with cur := c }
    | none => .fault .noRunningSlot
  | .tick => .next s.tick

/-- The state in which the next step fetches and runs the instruction whose bits are `w`. -/
def State.withFetchWord (s : State) (nbits w : Nat) : State := s.placeWord nbits w

end Sys2Proof.Machine
end

