-- ==== Sys2Proof/Machine/Uses.lean ====
section
/-! DEFINITION. The registers that each instruction reads and writes, as the scoreboard and the checks of R73, R75 and R376 see them. The
matrix registers are not among them: matrix commands act in the order of their queue (R157). -/

namespace Sys2Proof.Machine

/-- The registers that an instruction of slot `sl` reads, its guard apart, and those that it writes; none for an event. -/
def usesOf (i : Instr) (sl : Fin 8) : Uses :=
  match i with
  | .add _ d a b => usesRRR d a b sl
  | .sub _ d a b => usesRRR d a b sl
  | .and _ d a b => usesRRR d a b sl
  | .or _ d a b => usesRRR d a b sl
  | .xor _ d a b => usesRRR d a b sl
  | .sll _ d a b => usesRRR d a b sl
  | .srl _ d a b => usesRRR d a b sl
  | .sra _ d a b => usesRRR d a b sl
  | .min _ d a b => usesRRR d a b sl
  | .max _ d a b => usesRRR d a b sl
  | .minu _ d a b => usesRRR d a b sl
  | .maxu _ d a b => usesRRR d a b sl
  | .mul _ d a b => usesRRR d a b sl
  | .mulh _ d a b => usesRRR d a b sl
  | .mulhu _ d a b => usesRRR d a b sl
  | .div _ d a b => usesRRR d a b sl
  | .divu _ d a b => usesRRR d a b sl
  | .rem _ d a b => usesRRR d a b sl
  | .remu _ d a b => usesRRR d a b sl
  | .adds _ d a b => usesRRR d a b sl
  | .subs _ d a b => usesRRR d a b sl
  | .clz _ d a => usesRR d a sl
  | .popc _ d a => usesRR d a sl
  | .andn _ d a b => usesRRR d a b sl
  | .orn _ d a b => usesRRR d a b sl
  | .addi _ _ d a _ => usesRR d a sl
  | .andi _ _ d a _ => usesRR d a sl
  | .ori _ _ d a _ => usesRR d a sl
  | .xori _ _ d a _ => usesRR d a sl
  | .slli _ d a _ => usesRR d a sl
  | .srli _ d a _ => usesRR d a sl
  | .srai _ d a _ => usesRR d a sl
  | .rori _ d a _ => usesRR d a sl
  | .li _ _ d _ => usesD d sl
  | .lih _ _ d a _ => usesRR d a sl
  | .cmpEq _ d a b => ⟨[sid sl a, sid sl b], [.p sl d]⟩
  | .cmpNe _ d a b => ⟨[sid sl a, sid sl b], [.p sl d]⟩
  | .cmpLt _ d a b => ⟨[sid sl a, sid sl b], [.p sl d]⟩
  | .cmpGe _ d a b => ⟨[sid sl a, sid sl b], [.p sl d]⟩
  | .cmpLtu _ d a b => ⟨[sid sl a, sid sl b], [.p sl d]⟩
  | .cmpGeu _ d a b => ⟨[sid sl a, sid sl b], [.p sl d]⟩
  | .cmpBits _ d a b => ⟨[sid sl a, sid sl b], [.p sl d]⟩
  | .cmpNbits _ d a b => ⟨[sid sl a, sid sl b], [.p sl d]⟩
  | .cmpiEq _ _ d a _ => ⟨[sid sl a], [.p sl d]⟩
  | .cmpiNe _ _ d a _ => ⟨[sid sl a], [.p sl d]⟩
  | .cmpiLt _ _ d a _ => ⟨[sid sl a], [.p sl d]⟩
  | .cmpiGe _ _ d a _ => ⟨[sid sl a], [.p sl d]⟩
  | .cmpiLtu _ _ d a _ => ⟨[sid sl a], [.p sl d]⟩
  | .cmpiGeu _ _ d a _ => ⟨[sid sl a], [.p sl d]⟩
  | .cmpiBits _ _ d a _ => ⟨[sid sl a], [.p sl d]⟩
  | .cmpiNbits _ _ d a _ => ⟨[sid sl a], [.p sl d]⟩
  | .pand _ d a b => ⟨[.p sl a, .p sl b], [.p sl d]⟩
  | .por _ d a b => ⟨[.p sl a, .p sl b], [.p sl d]⟩
  | .pxor _ d a b => ⟨[.p sl a, .p sl b], [.p sl d]⟩
  | .pandn _ d a b => ⟨[.p sl a, .p sl b], [.p sl d]⟩
  | .pnot _ d a => ⟨[.p sl a], [.p sl d]⟩
  | .pmov _ d a => ⟨[.p sl a], [.p sl d]⟩
  | .pset _ d => ⟨[], [.p sl d]⟩
  | .pclr _ d => ⟨[], [.p sl d]⟩
  | .sext8 _ d a => usesRR d a sl
  | .sext16 _ d a => usesRR d a sl
  | .sext32 _ d a => usesRR d a sl
  | .zext8 _ d a => usesRR d a sl
  | .zext16 _ d a => usesRR d a sl
  | .zext32 _ d a => usesRR d a sl
  | .bswap _ d a => usesRR d a sl
  | .ctz _ d a => usesRR d a sl
  | .peer _ d a b => usesRRR d a b sl
  | .peero _ d a b => usesRRR d a b sl
  | .pidx _ d a => usesRR d a sl
  | .mand _ d a b => ⟨[.m a, .m b], [.m d]⟩
  | .mor _ d a b => ⟨[.m a, .m b], [.m d]⟩
  | .mxor _ d a b => ⟨[.m a, .m b], [.m d]⟩
  | .mandn _ d a b => ⟨[.m a, .m b], [.m d]⟩
  | .mnot _ d a => ⟨[.m a], [.m d]⟩
  | .mset _ d a => ⟨[sid sl a], [.m d]⟩
  | .mget _ d a => ⟨[.m a], [sid sl d]⟩
  | .mpop _ d a => ⟨[.m a], [sid sl d]⟩
  | .mfirst _ d a => ⟨[.m a], [sid sl d]⟩
  | .b _ _ => usesNone sl
  | .call _ _ => usesD (SReg.t 15) sl
  | .jr _ a => usesA a sl
  | .jalr _ d a => usesRR d a sl
  | .ret _ => usesA (SReg.t 15) sl
  | .loopReg _ _ ca _ => usesA ca sl
  | .loopImm _ _ _ _ _ => usesNone sl
  | .wait _ d a => usesRR d a sl
  | .waita _ _ d a b => usesRRRd d a b sl
  | .yield _ => usesNone sl
  | .endTask _ => usesNone sl
  | .trap _ a => usesA a sl
  | .isync _ => usesNone sl
  | .nop _ => usesNone sl
  | .csrw _ d a _ => usesRR d a sl
  | .csrs _ d a _ => usesRR d a sl
  | .csrc _ d a _ => usesRR d a sl
  | .ld _ _ d a _ _ => usesRR d a sl
  | .st _ _ d a _ _ => usesAB d a sl
  | .vld _ _ d a _ => ⟨[sid sl a], [.v d]⟩
  | .vst _ _ d a _ => ⟨[sid sl a, .v d], []⟩
  | .vgathI32 _ d a b mk => ⟨[sid sl a, .v b] ++ maskRegs mk, [.v d]⟩
  | .vscatI32 _ d a b mk => ⟨[sid sl a, .v b, .v d] ++ maskRegs mk, []⟩
  | .vgathI16 _ d a b mk => ⟨[sid sl a, .v b] ++ maskRegs mk, [.v d]⟩
  | .vscatI16 _ d a b mk => ⟨[sid sl a, .v b, .v d] ++ maskRegs mk, []⟩
  | .qldQb8 _ d a b => ⟨[sid sl a, sid sl b], [.v d]⟩
  | .qldQb4 _ d a b => ⟨[sid sl a, sid sl b], [.v d]⟩
  | .qstQb8 _ d a b => ⟨[sid sl a, sid sl b, .v d], []⟩
  | .qstQb4 _ d a b => ⟨[sid sl a, sid sl b, .v d], []⟩
  | .rld _ _ d a _ _ => usesRR d a sl
  | .rst _ _ d a _ _ => usesAB d a sl
  | .atomAdd _ _ d a b _ => usesRRR d a b sl
  | .atomSub _ _ d a b _ => usesRRR d a b sl
  | .atomAnd _ _ d a b _ => usesRRR d a b sl
  | .atomOr _ _ d a b _ => usesRRR d a b sl
  | .atomXor _ _ d a b _ => usesRRR d a b sl
  | .atomMin _ _ d a b _ => usesRRR d a b sl
  | .atomMax _ _ d a b _ => usesRRR d a b sl
  | .atomMinu _ _ d a b _ => usesRRR d a b sl
  | .atomMaxu _ _ d a b _ => usesRRR d a b sl
  | .atomSwap _ _ d a b _ => usesRRR d a b sl
  | .atomCas _ _ d a b _ => usesRRRd d a b sl
  | .atomFaddF32 _ _ d a b => usesRRR d a b sl
  | .atomBadd _ _ d a b => usesRRR d a b sl
  | .fenceAcq _ _ => usesNone sl
  | .fenceRel _ _ => usesNone sl
  | .fenceAr _ _ => usesNone sl
  | .rvld _ _ d a b => ⟨[sid sl a, sid sl b], [.v d]⟩
  | .rvst _ _ d a b => ⟨[sid sl a, sid sl b, .v d], []⟩
  | .tdecl _ a b => usesAB a b sl
  | .tlend _ a b => usesAB a b sl
  | .tret _ a => usesA a sl
  | .tsplit _ a b => usesAB a b sl
  | .tjoin _ a => usesA a sl
  | .tshare _ a b => usesAB a b sl
  | .tunsh _ a => usesA a sl
  | .tqry _ d a b => usesRRR d a b sl
  | .trecl _ a => usesA a sl
  | .tclean _ a b => usesAB a b sl
  | .send _ _ d a b => ⟨List.map (sid sl) (sendRegs d) ++ [sid sl a, sid sl b], []⟩
  | .sendr _ _ a b => usesAB a b sl
  | .door _ _ d a b => usesRRR d a b sl
  | .doorq _ _ d a => usesRR d a sl
  | .submit _ _ a b => usesAB a b sl
  | .ckpt _ _ a b => usesAB a b sl
  | .cpy _ _ a b => usesAB a b sl
  | .cpyq _ d => usesD d sl
  | .cpyx _ _ a b => usesAB a b sl
  | .vaddI32 _ x d a b mk => usesV x d a b mk false sl
  | .vsubI32 _ x d a b mk => usesV x d a b mk false sl
  | .vmulI32 _ x d a b mk => usesV x d a b mk false sl
  | .vmulhI32 _ x d a b mk => usesV x d a b mk false sl
  | .vminI32 _ x d a b mk => usesV x d a b mk false sl
  | .vmaxI32 _ x d a b mk => usesV x d a b mk false sl
  | .vand _ x d a b mk => usesV x d a b mk false sl
  | .vor _ x d a b mk => usesV x d a b mk false sl
  | .vxor _ x d a b mk => usesV x d a b mk false sl
  | .vsll _ x d a b mk => usesV x d a b mk false sl
  | .vsrl _ x d a b mk => usesV x d a b mk false sl
  | .vsra _ x d a b mk => usesV x d a b mk false sl
  | .vaddsI32 _ x d a b mk => usesV x d a b mk false sl
  | .vsubsI32 _ x d a b mk => usesV x d a b mk false sl
  | .vabsI32 _ _ d a mk => usesV2 d a mk sl
  | .vminuI32 _ x d a b mk => usesV x d a b mk false sl
  | .vaddF32 _ x d a b mk => usesV x d a b mk false sl
  | .vsubF32 _ x d a b mk => usesV x d a b mk false sl
  | .vmulF32 _ x d a b mk => usesV x d a b mk false sl
  | .vfmaF32 _ x d a b mk => usesV x d a b mk true sl
  | .vfmsF32 _ x d a b mk => usesV x d a b mk true sl
  | .vminF32 _ x d a b mk => usesV x d a b mk false sl
  | .vmaxF32 _ x d a b mk => usesV x d a b mk false sl
  | .vabsF32 _ _ d a mk => usesV2 d a mk sl
  | .vnegF32 _ _ d a mk => usesV2 d a mk sl
  | .vfnmaF32 _ x d a b mk => usesV x d a b mk true sl
  | .vaddI16 _ x d a b mk => usesV x d a b mk false sl
  | .vsubI16 _ x d a b mk => usesV x d a b mk false sl
  | .vmulI16 _ x d a b mk => usesV x d a b mk false sl
  | .vaddsI16 _ x d a b mk => usesV x d a b mk false sl
  | .vsubsI16 _ x d a b mk => usesV x d a b mk false sl
  | .vminI16 _ x d a b mk => usesV x d a b mk false sl
  | .vmaxI16 _ x d a b mk => usesV x d a b mk false sl
  | .vaddBf16 _ x d a b mk => usesV x d a b mk false sl
  | .vsubBf16 _ x d a b mk => usesV x d a b mk false sl
  | .vmulBf16 _ x d a b mk => usesV x d a b mk false sl
  | .vfmaBf16 _ x d a b mk => usesV x d a b mk true sl
  | .vminBf16 _ x d a b mk => usesV x d a b mk false sl
  | .vmaxBf16 _ x d a b mk => usesV x d a b mk false sl
  | .vaddI8 _ x d a b mk => usesV x d a b mk false sl
  | .vsubI8 _ x d a b mk => usesV x d a b mk false sl
  | .vaddsI8 _ x d a b mk => usesV x d a b mk false sl
  | .vsubsI8 _ x d a b mk => usesV x d a b mk false sl
  | .vminI8 _ x d a b mk => usesV x d a b mk false sl
  | .vmaxI8 _ x d a b mk => usesV x d a b mk false sl
  | .vaddE4m3 _ x d a b mk => usesV x d a b mk false sl
  | .vsubE4m3 _ x d a b mk => usesV x d a b mk false sl
  | .vmulE4m3 _ x d a b mk => usesV x d a b mk false sl
  | .vminE4m3 _ x d a b mk => usesV x d a b mk false sl
  | .vmaxE4m3 _ x d a b mk => usesV x d a b mk false sl
  | .vaddE5m2 _ x d a b mk => usesV x d a b mk false sl
  | .vsubE5m2 _ x d a b mk => usesV x d a b mk false sl
  | .vmulE5m2 _ x d a b mk => usesV x d a b mk false sl
  | .vminE5m2 _ x d a b mk => usesV x d a b mk false sl
  | .vmaxE5m2 _ x d a b mk => usesV x d a b mk false sl
  | .quantQb8 _ _ d a => ⟨[.v a], [.v d]⟩
  | .quantQb4 _ _ d a => ⟨[.v a], [.v d]⟩
  | .dequantQb8 _ _ d a mk => usesV2 d a mk sl
  | .dequantQb4 _ _ d a mk => usesV2 d a mk sl
  | .qtobaQb8 _ _ d a => ⟨[.v a], [.v d]⟩
  | .qtobaQb4 _ _ d a => ⟨[.v a], [.v d]⟩
  | .badd _ _ d a b => ⟨[.v a, .v b], [.v d]⟩
  | .balign _ x d a b => ⟨[.v a] ++ vbRegs x b sl, [.v d]⟩
  | .vlut _ _ d a kn mk => ⟨[.v a, .kb kn] ++ maskRegs mk, [.v d]⟩
  | .vdqw _ x d a b mk => usesV x d a b mk true sl
  | .vcvtBf16F32 _ _ d a mk => usesV2 d a mk sl
  | .vcvtF32Bf16 _ _ d a mk => usesV2 d a mk sl
  | .vcvtE4m3F32 _ _ d a mk => usesV2 d a mk sl
  | .vcvtE5m2F32 _ _ d a mk => usesV2 d a mk sl
  | .vcvtF32E4m3 _ _ d a mk => usesV2 d a mk sl
  | .vcvtF32E5m2 _ _ d a mk => usesV2 d a mk sl
  | .vcvtE4m3Bf16 _ _ d a mk => usesV2 d a mk sl
  | .vcvtE5m2Bf16 _ _ d a mk => usesV2 d a mk sl
  | .vcvtBf16E4m3 _ _ d a mk => usesV2 d a mk sl
  | .vcvtBf16E5m2 _ _ d a mk => usesV2 d a mk sl
  | .vcvtI32F32 _ _ d a mk => usesV2 d a mk sl
  | .vcvtF32I32 _ _ d a mk => usesV2 d a mk sl
  | .vcvtBf16Q4 _ _ d a mk => usesV2 d a mk sl
  | .vcvtI8I32 _ _ d a mk => usesV2 d a mk sl
  | .vcvtI32I8 _ _ d a mk => usesV2 d a mk sl
  | .vexp _ _ d a mk => usesV2 d a mk sl
  | .vexp2 _ _ d a mk => usesV2 d a mk sl
  | .vlog _ _ d a mk => usesV2 d a mk sl
  | .vlog2 _ _ d a mk => usesV2 d a mk sl
  | .vrcp _ _ d a mk => usesV2 d a mk sl
  | .vrsqrt _ _ d a mk => usesV2 d a mk sl
  | .vsqrt _ _ d a mk => usesV2 d a mk sl
  | .vdiv _ x d a b mk => usesV x d a b mk false sl
  | .vtanh _ _ d a mk => usesV2 d a mk sl
  | .vsigm _ _ d a mk => usesV2 d a mk sl
  | .verf _ _ d a mk => usesV2 d a mk sl
  | .vsin _ _ d a mk => usesV2 d a mk sl
  | .vcos _ _ d a mk => usesV2 d a mk sl
  | .vperm _ x d a b mk => usesV x d a b mk false sl
  | .vbcast _ _ d a mk => usesV2 d a mk sl
  | .vbcastScalar _ x d mk => ⟨[sid sl x.xb] ++ maskRegs mk, [.v d]⟩
  | .vrot _ _ d a mk => usesV2 d a mk sl
  | .viota _ _ d mk => ⟨maskRegs mk, [.v d]⟩
  | .vsel _ x d a b mk => usesV x d a b (MaskX.by mk) false sl
  | .vins _ x d => ⟨[sid sl x.xb], [.v d]⟩
  | .vext _ _ d a => ⟨[.v a], [.g d]⟩
  | .vhdrWrite _ x d => ⟨[sid sl x.xb], [.v d]⟩
  | .vhdrRead _ _ d a => ⟨[.v a], [.g d]⟩
  | .vcmpI32 _ x d a b mk => usesVcmp x d a b mk sl
  | .vcmpF32 _ x d a b mk => usesVcmp x d a b mk sl
  | .vrsumF32 _ _ d a mk => usesV2 d a mk sl
  | .vrsumI32 _ _ d a mk => usesV2 d a mk sl
  | .vrmaxF32 _ _ d a mk => usesV2 d a mk sl
  | .vrmaxI32 _ _ d a mk => usesV2 d a mk sl
  | .vdraw _ x d a mk => ⟨[sid sl x.xb, .v a, .v d] ++ maskRegs mk, [.v d]⟩
  | .dmerge _ _ d a b => ⟨[.v a, .v b], [.v d]⟩
  | .mmaF8f8 _ _ a b => usesAB a b sl
  | .mmaB16b16 _ _ a b => usesAB a b sl
  | .mmaF8i4 _ _ a b => usesAB a b sl
  | .mmaB16i4 _ _ a b => usesAB a b sl
  | .mmaB16l4 _ _ a b => usesAB a b sl
  | .mmaQb8 _ _ a b => usesAB a b sl
  | .mmaQb4 _ _ a b => usesAB a b sl
  | .mldw _ a b => usesAB a b sl
  | .mswap _ => usesNone sl
  | .mldk _ _ a => ⟨[.v a], []⟩
  | .mcolq _ _ a b => ⟨[.v a, .v b], []⟩
  | .mzero _ _ => usesNone sl
  | .mmovaToVector _ d _ _ => ⟨[], [.v d]⟩
  | .mmovaToAcc _ _ a _ => ⟨[.v a], []⟩
  | .mrsum _ d _ => ⟨[], [.v d]⟩
  | .mchk _ d _ => usesD d sl
  | .msync _ d => usesD d sl
  | .mdrainF32 _ _ d _ _ _ => ⟨[], [.v d]⟩
  | .mdrainBf16 _ _ d _ _ _ => ⟨[], [.v d]⟩
  | .mdrainE4m3 _ _ d _ _ _ => ⟨[], [.v d]⟩
  | .mdrainE5m2 _ _ d _ _ _ => ⟨[], [.v d]⟩
  | .mdrainQb8 _ _ d _ _ _ => ⟨[], [.v d]⟩
  | .mdrainQb4 _ _ d _ _ _ => ⟨[], [.v d]⟩
  | .mdrainBa32 _ _ d _ _ _ => ⟨[], [.v d]⟩
  | .linit _ _ a b => usesAB a b sl
  | .larv _ _ d a b => usesRRR d a b sl
  | .lwait _ _ d a b => usesRRRd d a b sl
  | .ltest _ _ d a => usesRR d a sl
  | .lreg _ _ a b => usesAB a b sl
  | .ldrop _ _ a b => usesAB a b sl
  | .lbytes _ _ d a b => usesRRR d a b sl
  | .rngget _ d => usesD d sl
  | .fadd _ _ d a b => usesRRR d a b sl
  | .fsub _ _ d a b => usesRRR d a b sl
  | .fmul _ _ d a b => usesRRR d a b sl
  | .fdiv _ _ d a b => usesRRR d a b sl
  | .fsqrt _ _ d a => usesRR d a sl
  | .fma _ _ d a b => usesRRRd d a b sl
  | .fmin _ _ d a b => usesRRR d a b sl
  | .fmax _ _ d a b => usesRRR d a b sl
  | .feq _ _ d a b => ⟨[sid sl a, sid sl b], [.p sl d]⟩
  | .flt _ _ d a b => ⟨[sid sl a, sid sl b], [.p sl d]⟩
  | .fle _ _ d a b => ⟨[sid sl a, sid sl b], [.p sl d]⟩
  | .fcvti _ _ d a => usesRR d a sl
  | .fcvtf _ _ d a => usesRR d a sl
  | .fabs _ _ d a => usesRR d a sl
  | .fneg _ _ d a => usesRR d a sl
  | .fclass _ _ d a => usesRR d a sl
  | .slotSelection .. | .priorityRaise .. | .waitLimitExpiry .. | .resultWrite .. | .sfuServiceStart .. | .sfuResultWrite ..
  | .matrixDispatch .. | .matrixCompletion .. | .drainingEnd .. | .messageArrival .. | .writeRequestService ..
  | .readRequestService .. | .cxlMemCompletion .. | .hostPortCompletion .. | .hostReadTimeout .. | .replyArrival ..
  | .retryTimerExpiry .. | .requestAgeDiscard .. | .replyEntryAgeing .. | .requesterEntryAgeing ..
  | .translationWalkComplete .. | .partialArrival .. | .routeDelivery .. | .renormaliseNoticeArrival .. | .grantArrival ..
  | .grantOutcome .. | .revokeNoticeArrival .. | .deathDeclaration .. | .deathNoticeArrival .. | .copyActivation ..
  | .copyUnitSend .. | .copyCompletionWrite .. | .copyDeadline .. | .copyClassRaise .. | .launchStore .. | .submitService ..
  | .placement .. | .openWave .. | .loadComplete .. | .seedInjection .. | .closeWave .. | .hangMonitorSample ..
  | .preempt .. | .coreHalt .. | .haltComplete .. | .haltfail .. | .resume .. | .kill .. | .shootdown .. | .clearret ..
  | .readbind .. | .free .. | .hostWindowWrite .. | .retirementStart .. | .retirementCopy .. | .retirementTimeout ..
  | .edgeHomeRestart .. | .portLinkLoss .. | .portRetrainAttempt .. | .powerGood .. | .bringUpStage ..
  | .islandMonitorRead .. | .islandClockChange .. | .powerLimitStep .. | .thermalThrottleStep .. | .overtempShutdown ..
  | .patrolScrub .. | .flitCrcDrop .. | .flitAgePriority .. | .notAnInstruction .. | .fetchPastLocalStore .. | .softError ..
  | .powerGoodLoss .. | .hdmDecoderBaseWrite .. | .fenceClearCommand .. | .externalSegmentDeclaration .. => ⟨[], []⟩

end Sys2Proof.Machine
end

