-- ==== Sys2Proof/Machine/Window.lean ====
section
/-! DEFINITION. The device window that every host port presents (R390 to R392), as 8-byte words: the launch port's RESULT (R335),
the mailbox (R343), the status block (R392), the journal (R337), the fault log (R375), the island records (R364) and the link class
table (R276). A host's read changes nothing. -/

namespace Sys2Proof.Machine

/-- KIND of a port as the status block reports it (R392, R393). -/
def Port.kindCode (q : Port) : Nat := if q.failed then 3 else q.kind

/-- The status word of a port (R392): CAP, INC and UNMAP of a memory port. -/
def Port.statusWord (q : Port) : Word :=
  let memory := decide (q.kind = 1)
  BitVec.ofNat 64 ((if memory then q.cap.toNat * 2 ^ 40 + q.once.inc.toNat * 2 ^ 32 + (if q.unmap then 2 ^ 12 else 0) else 0)
    + q.width.toNat * 2 ^ 7 + q.rate.toNat * 2 ^ 5 + q.kindCode * 4 + if q.up then 2 else 0)

/-- The status block (R392), word by word. -/
def State.statusWord (s : State) (i : Nat) : Word :=
  let m := s.mgr
  match i with
  | 0 => BitVec.ofNat 64 (m.boots.toNat * 2 ^ 32 + m.stage * 2 ^ 8 + if m.ready then 1 else 0)
  | 1 => BitVec.ofNat 64 m.jseq
  | 2 => BitVec.ofNat 64 m.logseq
  | 3 => m.bindgen.setWidth 64
  | 4 => (geomOf m.cols).setWidth 64
  | 5 => BitVec.ofNat 64 (m.amps.toNat * 2 ^ 32 + m.watts.toNat)
  | 6 => m.fence.setWidth 64
  | 7 => 0
  | n => if n < 72 then (s.port (n - 8)).statusWord else 0

/-- A journal entry (R337), word by word. -/
def Journal.word (j : Journal) (i : Nat) : Word :=
  match i with
  | 0 => BitVec.ofNat 64 j.seq
  | 1 => BitVec.ofNat 64 (j.tag.toNat * 2 ^ 32 + j.code.toNat * 2 ^ 24 + j.st.toNat * 2 ^ 20 + j.prio.toNat * 2 ^ 18
      + j.entry.toNat * 2 ^ 12 + j.fields.toNat)
  | 2 => j.accepted
  | _ => j.changed

/-- An island record (R364), word by word; a fenced field's reads FMHZ 0 (R395). -/
def Island.word (x : Island) (i : Nat) : Word :=
  match i with
  | 0 => BitVec.ofNat 64 (x.fmhz * 2 ^ 48 + x.vmv * 2 ^ 32 + x.temp.toNat * 2 ^ 16 + x.slack.toNat)
  | 1 => BitVec.ofNat 64 (x.plans.toNat * 2 ^ 32 + x.gen.toNat)
  | 2 => x.tplan
  | _ => 0

/-- The word at an 8-byte-aligned offset of a port's window as bring-up makes it; reserved bytes read as 0. -/
def State.windowWord (s : State) (p off : Nat) : Word :=
  let q := s.port p
  if off = 0x40 then q.result
  else if off = 0x180 then q.response
  else if off = 0x188 then q.readbind
  else if off < 0x1000 then 0
  else if off < 0x1400 then s.statusWord ((off - 0x1000) / 8)
  else if off < 0x20000 then 0
  else if off < 0x40000 then
    match aget ((off - 0x20000) / 32) s.mgr.journal with
    | some j => j.word (off % 32 / 8)
    | none => 0
  else if off < 0x60000 then
    match aget ((off - 0x40000) / 32) s.mgr.log with
    | some r => vat r (off % 32 / 8) 0
    | none => 0
  else if off < 0x80000 then 0
  else if off < 0x80C00 then (s.islandAt ((off - 0x80000) / 32)).word (off % 32 / 8)
  else if off < 0x100000 then 0
  else if off < 0x200000 then
    let i := (off - 0x100000) / 4
    BitVec.ofNat 64 ((s.linkEntry (i + 1)).toNat * 2 ^ 32 + (s.linkEntry i).toNat)
  else 0

/-- What a host's read of its window returns: nothing before stage 5, or while the port is down (R393, R394). -/
def State.windowRead (s : State) (p off : Nat) : Option Word :=
  if s.hostUp p && decide (5 ≤ s.mgr.stage) then some (s.windowWord p off) else none

end Sys2Proof.Machine
end

