-- ==== Sys2Proof/Safety.lean ====
section
/-! DEFINITION. The terms in which claims are made: when an instruction may issue, what completing it means, the forms of result
that instructions share, and what a safe state and a safe run are. -/

namespace Sys2Proof.Machine

/-! ## Issue -/

/-- The state in which an instruction of `n` words of slot `sl` of the current core takes effect: writes that have landed are no
longer in flight, and the words of the instruction have been read (R73, R190, R377). -/
def State.atIssue (s : State) (sl : Fin 8) (n : Nat) : State :=
  s.modCore s.cur fun k => (k.land (s.cyc s.cur)).injectRead (k.slot sl).pc (4 * n)

/-- The same with the model's counter of free choices at `f`: a claim about it holds for every value of the counter. -/
def State.seen (s : State) (sl : Fin 8) (n : Nat) (f : Nat) : State := { s.atIssue sl n with fresh := f }

/-- The current core issues from slot `sl`; `k` is the core after the fetch of `n` words, and none of them faults (R369 step 1). -/
structure Fetches (s : State) (n : Nat) (k : Core) (sl : Fin 8) : Prop where
  core : (s.atIssue sl n).core? s.cur = some k
  running : (s.core? s.cur).bind Core.running = some sl
  fetch : k.fetchFault (k.slot sl).pc n = none

/-- The guard of the instruction is read without a STALL fault (R61, R73, R116). -/
def GuardReads (s : State) (h : Head) (k : Core) (sl : Fin 8) : Prop :=
  ((k.slot sl).schk && !(RegId.p sl h.gp).hardwired && k.inFlight (.p sl h.gp) (s.cyc s.cur)) = false

/-- An instruction of `n` words issues and takes effect: it is fetched, its guard holds, no register it names is pending, and
with SCHK.EN none it reads is in flight, and none it reads is uncorrectable (R61, R73, R75, R369, R376). -/
structure Ready (s : State) (h : Head) (n : Nat) (uses : Fin 8 → Uses) (k : Core) (sl : Fin 8) : Prop where
  fetches : Fetches s n k sl
  guardReads : GuardReads s h k sl
  guard : ((k.view s.fresh).getP sl h.gp == h.neg) = false
  idle : (((uses sl).reads ++ (uses sl).writes).any fun r => k.isPending r) = false
  landed : ((k.slot sl).schk && (uses sl).reads.any fun r => k.inFlight r (s.cyc s.cur)) = false
  sound : ((uses sl).reads.any fun r => k.regs.badRegs.contains r) = false

/-- The context of the instruction that issues: its slot, its first and last word, and the registers as it reads them (R73). -/
def ctxOf (s : State) (n : Nat) (k : Core) (sl : Fin 8) : Ctx :=
  ⟨s.cur, sl, s.cyc s.cur, (k.slot sl).pc, (k.slot sl).pc + 4 * (n - 1), k.view s.fresh⟩

/-! ## What an issue leaves apart from its effect -/

/-- A slot without its place in the program and its loop decision, which every issue may change. -/
def Slot.placeless (x : Slot) : Slot :=
  { x with pc := 0, lc := Vector.replicate 2 0, loop := Vector.replicate 2 LoopLevel.reset, nextIssue := 0 }

/-- A core without the records of issue: its counters, the latest issue, holds, writes in flight, and the place of slot `sl`. -/
def Core.placeless (sl : Fin 8) (k : Core) : Core :=
  { (k.modSlot sl Slot.placeless) with
    regs := { (k.modSlot sl Slot.placeless).regs with pmc := Vector.replicate 4 0 }
    lastIssue := none, held := none, inflight := [], fpFree := 0 }

/-- A state without the records of issue of the current core and the model's own counters. -/
def State.placeless (s : State) (sl : Fin 8) : State :=
  { s.modCore s.cur (Core.placeless sl) with nextId := 0, fresh := 0 }

/-- `t` is `u` but for the records of issue, and slot `sl` of the current core stands where `x` stands. -/
def Reaches (t u : State) (sl : Fin 8) (x : Slot) : Prop :=
  t.placeless sl = u.placeless sl ∧
    ∃ k, t.core? t.cur = some k ∧ (k.slot sl).pc = x.pc ∧ (k.slot sl).lc = x.lc ∧ (k.slot sl).loop = x.loop

/-- The instruction `i` completes at `s` with the effect `e`, and its slot goes on with the next instruction after a back-edge
decision (R116). -/
def Completes (i : Instr) (s : State) (n : Nat) (k : Core) (sl : Fin 8) (e : State → State) : Prop :=
  ∃ t f, exec i s = .next t ∧ Reaches t (e (s.seen sl n f)) sl ((k.slot sl).backEdge ((k.slot sl).pc + 4 * (n - 1)))

/-- Core `q` has issued an instruction of slot `sl` that core `k` fetched in cycle `cyc`: the slot issues again one cycle and `gap` more
later, or that much after what already holds it (R71), and the instruction is counted (R363). -/
structure IssuedAt (k q : Core) (sl : Fin 8) (cyc gap : Nat) : Prop where
  last : q.lastIssue = some cyc
  held : q.held = none
  next : (q.slot sl).nextIssue = max (k.slot sl).nextIssue (cyc + 1) + gap
  counted : q.regs.pmc = (k.count 2 1).regs.pmc

/-- The instruction `i` completes at `s` with the effect `e`, and its slot goes on at `target` with the loop levels of `x`, one cycle later
where a branch is taken (R71). -/
def Jumps (i : Instr) (s : State) (n : Nat) (k : Core) (sl : Fin 8) (e : State → State) (x : Slot) (target : Nat) (taken : Bool) : Prop :=
  ∃ t f, exec i s = .next t ∧ Reaches t (e (s.seen sl n f)) sl { x with pc := target } ∧
    ∃ q, t.core? s.cur = some q ∧ q.inflight = k.inflight ∧ q.fpFree = k.fpFree ∧
      IssuedAt k q sl (s.cyc s.cur) (i.head.stall.toNat + if taken then 1 else 0)

/-! ## Forms of result -/

/-- A register takes a value; a hard-wired one discards it (R62, R89). -/
def Core.takes (k : Core) (r : RegId) (v : RegVal) : Core := if r.hardwired then k else k.setReg r v

/-- Flags are ORed into the slot's FFLAGS (R100). -/
def Core.orFlags (k : Core) (sl : Fin 8) (f : BitVec 6) : Core := k.modSlot sl fun x => { x with fflags := x.fflags ||| f }

/-- The core's generator goes on to a state (R43). -/
def Core.setRng (k : Core) (g : Rng) : Core := { k with regs := { k.regs with rng := g } }

/-- The current core changes by `f`, and nothing else does. -/
def onCore (f : Core → Core) (u : State) : State := u.modCore u.cur f

/-- A ready `i` writes `f` to one register, and changes no flag and no other register, memory or part of the machine. -/
def Computes (i : Instr) (h : Head) (n : Nat) (uses : Fin 8 → Uses) (d : Fin 8 → RegId) (f : Ctx → RegVal) : Prop :=
  ∀ s k sl, Ready s h n uses k sl → Completes i s n k sl (onCore fun q => q.takes (d sl) (f (ctxOf s n k sl)))

/-- The registers, the old destination and the generator from which a result with flags is formed. -/
abbrev Former := Ctx → Core → Fx → RegVal × Fx

/-- What an instruction with flags forms at `s`. -/
def formed (f : Former) (s : State) (n : Nat) (k : Core) (sl : Fin 8) : RegVal × Fx := f (ctxOf s n k sl) k ⟨k.regs.rng, 0⟩

/-- A ready `i` writes one register, moves the generator on and ORs its flags, none of which FTRAP enables; `pipe`: it needs the
floating-point pipe to be free (R134). -/
def Forms (i : Instr) (h : Head) (n : Nat) (uses : Fin 8 → Uses) (d : Fin 8 → RegId) (pipe : Bool) (f : Former) : Prop :=
  ∀ s k sl, Ready s h n uses k sl → (pipe = true → k.fpFree ≤ s.cyc s.cur) →
    trapCause ((formed f s n k sl).2.flags &&& (k.slot sl).ftrap) = none →
    Completes i s n k sl (onCore fun q =>
      ((q.setRng (formed f s n k sl).2.rng).takes (d sl) (formed f s n k sl).1).orFlags sl (formed f s n k sl).2.flags)

/-- A ready `i` leaves a result that the register takes `lat` cycles after issue, with its flags then (R75, R114). -/
def FormsLater (i : Instr) (h : Head) (n : Nat) (uses : Fin 8 → Uses) (d : Fin 8 → RegId) (f : Former) (lat : Ctx → Nat) : Prop :=
  ∀ s k sl, Ready s h n uses k sl →
    Completes i s n k sl fun u => onCore (fun q =>
      let r := formed f s n k sl
      { q.setRng r.2.rng with results := q.results ++ [⟨u.nextId, sl, d sl, r.1, s.cyc s.cur + lat (ctxOf s n k sl),
          s.cyc s.cur, r.2.flags, (k.slot sl).ftrap, (k.slot sl).pc, false⟩] }) u

/-- d := f a b. -/
def Alu (i : Instr) (h : Head) (d a b : SReg) (f : Word → Word → Word) : Prop :=
  Computes i h 1 (usesRRR d a b) (fun sl => sid sl d) fun x => .word (f (x.rs a) (x.rs b))

/-- d := f a, for an instruction of `n` words. -/
def Unary (i : Instr) (h : Head) (n : Nat) (d a : SReg) (f : Word → Word) : Prop :=
  Computes i h n (usesRR d a) (fun sl => sid sl d) fun x => .word (f (x.rs a))

/-- A scalar division: d := f a b, scoreboarded for the time of R103, with no flag. -/
def Divides (i : Instr) (h : Head) (d a b : SReg) (signed : Bool) (f : Word → Word → Word) : Prop :=
  FormsLater i h 1 (usesRRR d a b) (fun sl => sid sl d) (fun x _ y => (.word (f (x.rs a) (x.rs b)), y))
    fun x => divTime signed (x.rs a) (x.rs b)

/-- pd := f of two scalars. -/
def Compares (i : Instr) (h : Head) (d : PReg) (a b : SReg) (f : Word → Word → Bool) : Prop :=
  Computes i h 1 (fun sl => ⟨[sid sl a, sid sl b], [.p sl d]⟩) (fun sl => .p sl d) fun x => .pred (f (x.rs a) (x.rs b))

/-- pd := f of a scalar, for an instruction of `n` words. -/
def ComparesOne (i : Instr) (h : Head) (n : Nat) (d : PReg) (a : SReg) (f : Word → Bool) : Prop :=
  Computes i h n (fun sl => ⟨[sid sl a], [.p sl d]⟩) (fun sl => .p sl d) fun x => .pred (f (x.rs a))

/-- pd := f of predicates. -/
def Predicate (i : Instr) (h : Head) (d : PReg) (ps : List PReg) (f : (PReg → Bool) → Bool) : Prop :=
  Computes i h 1 (fun sl => ⟨ps.map (RegId.p sl), [.p sl d]⟩) (fun sl => .p sl d) fun x => .pred (f fun p => x.rd.getP x.sl p)

/-- md := f of mask registers. -/
def Masks (i : Instr) (h : Head) (d : MReg) (ms : List MReg) (f : (MReg → Word) → Word) : Prop :=
  Computes i h 1 (fun _ => ⟨ms.map RegId.m, [.m d]⟩) (fun _ => .m d) fun x => .word (f fun m => x.rd.getM m)

/-- d := f of a mask register. -/
def MaskTo (i : Instr) (h : Head) (d : SReg) (a : MReg) (f : Word → Word) : Prop :=
  Computes i h 1 (fun sl => ⟨[.m a], [sid sl d]⟩) (fun sl => sid sl d) fun x => .word (f (x.rd.getM a))

/-- d[31:0] := f of FP32 operands with the mode in force. -/
def Floats (i : Instr) (h : Head) (x : VecX) (d : SReg) (uses : Fin 8 → Uses) (f : (SReg → Nat) → RMode → Fx → Nat × Fx) : Prop :=
  Forms i h (vxWords x) uses (fun sl => sid sl d) false fun c _ y =>
    (.word (BitVec.ofNat 64 (f c.f32 (c.mode (vxRm x)) y).1), (f c.f32 (c.mode (vxRm x)) y).2)

/-- The same, scoreboarded for 14 cc. -/
def FloatsLater (i : Instr) (h : Head) (x : VecX) (d : SReg) (uses : Fin 8 → Uses)
    (f : (SReg → Nat) → RMode → Fx → Nat × Fx) : Prop :=
  FormsLater i h (vxWords x) uses (fun sl => sid sl d)
    (fun c _ y => (.word (BitVec.ofNat 64 (f c.f32 (c.mode (vxRm x)) y).1), (f c.f32 (c.mode (vxRm x)) y).2)) fun _ => 14

/-- A vector register whose elements of width `w` in the enabled lanes are formed in increasing order; the other lanes and the
header are kept (R132). -/
def lanesBy (w : Nat) (mask : Word) (old : VReg) (f : Nat → Fx → Nat × Fx) (y : Fx) : RegVal × Fx :=
  (.vec { old with lanes := (mapElems w mask old.lanes f y).1 }, (mapElems w mask old.lanes f y).2)

/-- An integer element form: `f` gives the element and whether it clamped, which raises SAT (R137). -/
def IntLanes (i : Instr) (h : Head) (x : VecX) (d a b : VNum) (mk : MaskX) (w : Nat) (f : Int → Int → Int × Bool) : Prop :=
  Forms i h (vxWords x) (usesV x d a b mk false) (fun _ => .v d) false fun c k y =>
    lanesBy w (c.mask mk) (k.getV d) (fun e y =>
      let r := f (BitVec.ofNat w (vecElem w (c.rd.getV a).lanes e)).toInt (BitVec.ofNat w (vecElem w (c.vb x b).lanes e)).toInt
      ((BitVec.ofInt w r.1).toNat, y.raise (satFlag r.2))) y

/-- A form on 32-bit lanes as bit vectors (R137). -/
def BitLanes (i : Instr) (h : Head) (x : VecX) (d a b : VNum) (mk : MaskX) (f : Lane → Lane → Lane) : Prop :=
  Forms i h (vxWords x) (usesV x d a b mk false) (fun _ => .v d) false fun c k y =>
    lanesBy 32 (c.mask mk) (k.getV d) (fun e y => ((f (vat (c.rd.getV a).lanes e 0) (vat (c.vb x b).lanes e 0)).toNat, y)) y

/-- A floating-point element form on encodings; `rd`: the destination is an operand (R138). -/
def FpLanes (i : Instr) (h : Head) (x : VecX) (d a b : VNum) (mk : MaskX) (w : Nat) (rd : Bool)
    (f : Nat → Nat → Nat → RMode → Fx → Nat × Fx) : Prop :=
  Forms i h (vxWords x) (usesV x d a b mk rd) (fun _ => .v d) true fun c k y =>
    lanesBy w (c.mask mk) (k.getV d) (fun e y =>
      f (vecElem w (c.rd.getV a).lanes e) (vecElem w (c.vb x b).lanes e) (vecElem w (c.rd.getV d).lanes e) (c.mode (vxRm x)) y) y

/-- A conversion from elements of width `sw` to width `dw`, 6 cc (R144). -/
def Converts (i : Instr) (h : Head) (x : VecX) (d a : VNum) (mk : MaskX) (sw dw : Nat) (f : RMode → Nat → Fx → Nat × Fx) : Prop :=
  FormsLater i h (vxWords x) (usesV2 d a mk) (fun _ => .v d) (fun c k y =>
    let src (e : Nat) : Nat := if sw = 4 then vecNibble (c.rd.getV a).lanes e else vecElem sw (c.rd.getV a).lanes e
    let part := vxImm8 x
    let g (e : Nat) : Option (Fx → Nat × Fx) :=
      if dw < sw then
        if 2048 / sw * part ≤ e ∧ e < 2048 / sw * part + 2048 / sw then
          some (f (c.mode (vxRm x)) (src (e - 2048 / sw * part))) else none
      else if sw < dw then some (f (c.mode (vxRm x)) (src (2048 / dw * part + e)))
      else some (f (c.mode (vxRm x)) (src e))
    let r := mapSome dw (c.mask mk) (k.getV d).lanes g y
    (.vec { k.getV d with lanes := r.1 }, r.2)) fun _ => 6

/-- A reduction of the enabled lanes, which every lane of the destination takes, 12 cc (R143). -/
def Reduces (i : Instr) (h : Head) (x : VecX) (d a : VNum) (mk : MaskX) (empty : Nat) (fix : Nat → Nat)
    (f : RMode → Nat → Nat → Fx → Nat × Fx) : Prop :=
  FormsLater i h (vxWords x) (usesV2 d a mk) (fun _ => .v d) (fun c k y =>
    let l := (List.range 64).map fun e => if (c.mask mk).getLsbD e then some (vat (c.rd.getV a).lanes e 0).toNat else none
    let r := treeReduce (f (c.mode (vxRm x))) l y
    (.vec { k.getV d with lanes := Vector.replicate 64 (BitVec.ofNat 32 (fix (r.1.getD empty))) }, r.2)) fun _ => 12

/-- A whole register formed from one register, 6 cc (R147). -/
def Blocks (i : Instr) (h : Head) (x : VecX) (d a : VNum) (f : RMode → VReg → Fx → VReg × Fx) : Prop :=
  FormsLater i h (vxWords x) (fun _ => ⟨[.v a], [.v d]⟩) (fun _ => .v d) (fun c _ y =>
    (.vec (f (c.mode (vxRm x)) (c.rd.getV a) y).1, (f (c.mode (vxRm x)) (c.rd.getV a) y).2)) fun _ => 6

/-- A move of whole lanes: the enabled lanes take `f`, the others and the header are kept (R141). -/
def Moves (i : Instr) (h : Head) (n : Nat) (uses : Fin 8 → Uses) (d : VNum) (mask : Ctx → Word) (f : Ctx → Nat → Lane) : Prop :=
  Forms i h n uses (fun _ => .v d) false fun c k y =>
    (.vec { k.getV d with
      lanes := vgen fun e => if (mask c).getLsbD e.val then f c e.val else (k.getV d).lanes[e] }, y)

/-- A rounding mode as a request of the special-function unit or a drain keeps it: the mode in force at issue (R129). -/
def fixedRm : RMode → Rm
  | .rne => .rne
  | .rtz => .rtz
  | .rdn => .rdn
  | .rup => .rup
  | .sr => .sr

/-- With fewer than 8 requests queued, a ready `i` queues its request with its operands (R152). -/
def Queues (i : Instr) (h : Head) (n : Nat) (uses : Fin 8 → Uses) (fn : SfuFn) (d : VNum) (ops : Ctx → Core → VReg × VReg × VReg)
    (mask : Ctx → Word) (rm : Rm) : Prop :=
  ∀ s k sl, Ready s h n uses k sl → k.sfu.length < 8 →
    let c := ctxOf s n k sl
    Completes i s n k sl (onCore fun q => { q with sfu := q.sfu ++
      [⟨sl, fn, d, (ops c k).1, (ops c k).2.1, (ops c k).2.2, mask c, fixedRm (c.mode rm), (k.slot sl).ftrap, s.cyc s.cur,
        (k.slot sl).pc, none, 0, (ops c k).1, 0⟩] })

/-- With room in the queue and no fault of its checks, a ready matrix command is queued with its operands (R159, R160); `snap`:
the local store as the command may read it, with the slot's own stores (R163). -/
def QueuesMatrix (i : Instr) (h : Head) (n : Nat) (uses : Fin 8 → Uses) (check : Ctx → Core → Option (Cause × Word))
    (snap : Bool) (cmd : Ctx → MCmd) : Prop :=
  ∀ s k sl, Ready s h n uses k sl → k.matrix.countP (fun m => !m.dispatched) < 16 →
    check (ctxOf s n k sl) k = none →
    ((cmd (ctxOf s n k sl)).ranges.any fun e => k.localHold s.cur sl e.1 e.2 false) = false →
    Completes i s n k sl fun u => onCore (fun q => { q with matrix := q.matrix ++
      [⟨u.nextId, sl, cmd (ctxOf s n k sl), (k.slot sl).ftrap, s.cyc s.cur, (k.slot sl).pc, false, 0,
        if snap then [k.memView sl] else [], none, 0⟩] }) u

/-! ## Faults and holds -/

/-- The instruction `i` of `n` words takes the fault `cause` with FADDR `faddr`: it has no effect, and its slot faults at its
address (R369, R370). -/
def Faults (i : Instr) (s : State) (n : Nat) (k : Core) (sl : Fin 8) (cause : Cause) (faddr : Word) : Prop :=
  ∃ f, exec i s = .next (((s.seen sl n f).modCore s.cur fun q => q.issued sl (s.cyc s.cur) 0).faultSlot s.cur sl cause
    (FaultInfo.here faddr (k.slot sl).pc))

/-- The instruction `i` does not issue: the core looks again in the next cc, and nothing else changes (R61, R75). -/
def HoldsBack (i : Instr) (s : State) (pending : Bool) : Prop :=
  exec i s = .next (s.modCore s.cur fun q => { q with held := some (s.now + 1, pending) })

/-- The same after its effect `e`: the slot goes on behind the instruction, with no back-edge decision (R369, R372). -/
def FaultsAfter (i : Instr) (h : Head) (s : State) (n : Nat) (k : Core) (sl : Fin 8) (e : State → State) (cause : Cause) (faddr : Word) :
    Prop :=
  ∃ f, exec i s = .next (((e (s.seen sl n f)).modCore s.cur fun q => q.issued sl (s.cyc s.cur) h.stall.toNat).faultSlot s.cur sl cause
    (FaultInfo.here faddr ((k.slot sl).pc + 4 * n)))

/-- A form of `Forms` whose flags FTRAP enables: it completes, and then the enabled flag with the lowest code traps (R114, R369). -/
def FormsTrap (i : Instr) (h : Head) (n : Nat) (uses : Fin 8 → Uses) (d : Fin 8 → RegId) (pipe : Bool) (f : Former) : Prop :=
  ∀ s k sl cause, Ready s h n uses k sl → (pipe = true → k.fpFree ≤ s.cyc s.cur) →
    trapCause ((formed f s n k sl).2.flags &&& (k.slot sl).ftrap) = some cause →
    ∃ (t : State) (g : Nat), exec i s = .next (t.faultSlot s.cur sl cause (FaultInfo.here (BitVec.ofNat 64 (k.slot sl).pc) ((k.slot sl).pc + 4 * n))) ∧
      t.placeless sl = (onCore (fun q => ((q.setRng (formed f s n k sl).2.rng).takes (d sl) (formed f s n k sl).1).orFlags sl
        (formed f s n k sl).2.flags) (s.seen sl n g)).placeless sl

/-- A ready `i` that raises no trap (`flags`: it may raise flags) leaves each register that it writes in flight with its old value until `lat` cycles after issue, none when
`lat` is at most 1 or the register is hard-wired, issues its slot's next instruction S + 1 cycles later or after what holds it, and where
it needs the floating-point pipe takes it for 2 cc (R71, R72, R73, R134). -/
def Times (i : Instr) (lat : Nat) (pipe flags : Bool) : Prop :=
  ∀ s k sl, Ready s i.head i.words (usesOf i) k sl → (flags = true → (k.slot sl).ftrap = 0) → (pipe = true → k.fpFree ≤ s.cyc s.cur) →
    ∃ t q, exec i s = .next t ∧ t.core? s.cur = some q ∧ IssuedAt k q sl (s.cyc s.cur) i.head.stall.toNat ∧
      q.fpFree = (if pipe then s.cyc s.cur + 2 else k.fpFree) ∧
      q.inflight = k.inflight ++ if lat ≤ 1 then [] else
        ((usesOf i sl).writes.filter fun r => !r.hardwired).map fun r => ⟨r, s.cyc s.cur + lat, k.getReg r⟩

/-! ## Local memory -/

/-- A local load of `n` bytes that passes its checks, finds nothing to wait for and meets no uncorrectable word: its result is of
the bytes as the slot reads them, its own earlier stores included, and is written `lat` cycles after issue (R191, R195 to R198). -/
def LoadsLocal (i : Instr) (h : Head) (w : Nat) (uses : Fin 8 → Uses) (d : Fin 8 → RegId) (addr : Ctx → Word) (align n lat : Nat)
    (v : Core → List Byte → RegVal) : Prop :=
  ∀ s k sl, Ready s h w uses k sl →
    let a := addr (ctxOf s w k sl)
    k.localCheck false a align n = none → k.localHold s.cur sl a.toNat n false = false → k.readHold sl (s.cyc s.cur) = false →
    (k.injectRead a.toNat n).badView sl a.toNat n = none →
    Completes i s w k sl fun u => onCore (fun q =>
      let q := q.injectRead a.toNat n
      { q with results := q.results ++ [⟨u.nextId, sl, d sl, v q ((q.memView sl).readN a.toNat n), s.cyc s.cur + lat, s.cyc s.cur,
          0, (k.slot sl).ftrap, (k.slot sl).pc, true⟩] }) u

/-- A local store that passes its checks and finds nothing to wait for is buffered: RESULT_WRITE performs it `lat` cycles after
issue, or with the last of the slot's earlier stores, and no byte of memory changes before (R196 to R198). -/
def StoresLocal (i : Instr) (h : Head) (w : Nat) (uses : Fin 8 → Uses) (addr : Ctx → Word) (align n lat : Nat)
    (data : Ctx → List Byte) : Prop :=
  ∀ s k sl, Ready s h w uses k sl →
    let a := addr (ctxOf s w k sl)
    k.localCheck true a align n = none → k.localHold s.cur sl a.toNat n true = false →
    Completes i s w k sl fun u => onCore (fun q => { q with stores := q.stores ++
      [⟨u.nextId, sl, a.toNat, data (ctxOf s w k sl), q.storeDue sl (s.cyc s.cur + lat), s.cyc s.cur⟩] }) u

/-! ## Messages -/

/-- A request leaves the current core: after its walk when it has one, and as much later as a translation that the TLB has missed
adds (R203, R266, R267). -/
def sends (t : Access) (r : Req) (u : State) : State :=
  (u.translated u.cur t).sendReq (.core u.cur) r (u.ahead (.core u.cur) t.lat)

/-- A remote access of `n` bytes that is aligned, whose address resolves to `t` and whose requester holds the rights, with nothing
to wait for (R201, R203, R217, R218, R235). -/
structure Reachable (s : State) (k : Core) (sl : Fin 8) (w a n align : Nat) (q : Ask) (t : Nat → Access) : Prop where
  scope : k.scopeOk q.ord.2 = true
  aligned : remAlign a align = none
  resolves : ∀ f, (s.seen sl w f).remAddr s.cur k a n q.wr = .ok (t f)
  rights : ∀ f, (s.seen sl w f).remRights k sl (t f) a n q.wr = none
  free : ∀ f, k.remHold (ctxOf s w k sl) (t f) q = false

/-- A ready `i` sends its request. -/
def Requests (i : Instr) (h : Head) (w : Nat) (uses : Fin 8 → Uses) (addr : Ctx → Word) (n align : Nat) (noHost : Bool)
    (q : Ctx → Ask) (op : Ctx → Nat → ROp) : Prop :=
  ∀ s k sl t, Ready s h w uses k sl →
    let c := ctxOf s w k sl
    Reachable s k sl w (addr c).toNat n align (q c) t → (noHost = true → windowOf (addr c).toNat ≠ .host) →
    Completes i s w k sl fun u =>
      sends (t u.fresh) (mkReq c (addr c) (t u.fresh) (q c) (op c (t u.fresh).addr)) u

/-! ## Safe states -/

/-- Every memory of the machine is in its canonical form, so that equal memories are equal lists. -/
def State.memOk (s : State) : Prop :=
  (∀ e ∈ s.cores, e.2.mem.wf = true) ∧ (∀ e ∈ s.idle, e.2.mem.wf = true) ∧ ∀ p : Fin 64, (s.ports[p]).mem.wf = true

/-- A safe run of `n` steps: every step answers a next state. -/
def SafeFor : Nat → State → Prop
  | 0, _ => True
  | n + 1, s => ∃ t, step s = .next t ∧ SafeFor n t

end Sys2Proof.Machine
end

