-- ==== Sys2Proof/Laws/PerInstr.lean ====
section
/-! SUPPORT. The encoding family: the words of a well-formed instruction are words, and what the decoder reads in them after the
checks of prefixes is that instruction. One lemma per constructor; an event has no words and is not well formed. -/

namespace Sys2Proof.Laws.Encoding

/- One thread keeps the check of the package within its memory. -/
set_option Elab.async false

open Sys2Proof

/-! ## The family -/

/-- The prefix that a first word holds (R65). -/
def pxOf (p : Nat) : Px :=
  match fld p 22 2 with
  | 0 => .imm (fld p 0 22)
  | 1 => .ord (fld p 0 22)
  | _ => .vec (fld p 0 22)

/-- One word that is no prefix, or a prefix and one word, in which the decoder of second words reads `i`. -/
def Coded (ws : List Nat) (i : Instr) : Prop :=
  match ws with
  | [w] => w < 2 ^ 32 ∧ isPrefix w = false ∧ decodeBody .none w = .ok i
  | [p, w] => p < 2 ^ 32 ∧ isPrefix p = true ∧ fld p 30 2 = 0 ∧ fld p 22 2 ≠ 3 ∧ w < 2 ^ 32 ∧ isPrefix w = false ∧
      decodeBody (pxOf p) w = .ok i
  | _ => False

/-- The words of `i` are coded as `i`. -/
def Statement (i : Instr) : Prop := i.wf = true → Coded (encode i) i

/-! ## Words -/

/-- A word: head, OP and body. -/
abbrev word (h : Head) (op body : Nat) : Nat := h.code + op * 2 ^ 24 + body

theorem code_eq (h : Head) : h.code = (h.stall.toNat * 1024 + boolCode h.neg * 8 + h.gp.val) * 2 ^ 20 := by
  simp only [Head.code]; omega

theorem boolCode_lt (b : Bool) : boolCode b < 2 := by cases b <;> decide

theorem word_lt {h : Head} {op body : Nat} (hb : body < 2 ^ 20) (ho : op < 64) : word h op body < 2 ^ 32 := by
  have := h.stall.isLt; have := boolCode_lt h.neg; have := h.gp.isLt
  simp only [word, Head.code]
  omega

theorem word_op {h : Head} {op body : Nat} (hb : body < 2 ^ 20) (ho : op < 64) : fld (word h op body) 24 6 = op := by
  have := h.stall.isLt; have := boolCode_lt h.neg; have := h.gp.isLt
  simp only [word, Head.code, fld]
  omega

theorem word_head {h : Head} {op body : Nat} (hb : body < 2 ^ 20) (ho : op < 64) : headOf (word h op body) = h := by
  obtain ⟨st, ng, gp⟩ := h
  have h1 := st.isLt
  have h2 := boolCode_lt ng
  have h3 := gp.isLt
  have e1 : fld (word ⟨st, ng, gp⟩ op body) 30 2 = st.toNat := by simp only [word, Head.code, fld]; omega
  have e2 : fld (word ⟨st, ng, gp⟩ op body) 23 1 = boolCode ng := by simp only [word, Head.code, fld]; omega
  have e3 : fld (word ⟨st, ng, gp⟩ op body) 20 3 = gp.val := by simp only [word, Head.code, fld]; omega
  simp only [headOf, e1, e2, e3]
  congr 1
  · exact BitVec.eq_of_toNat_eq (by simp)
  · cases ng <;> decide
  · exact Fin.ext (Nat.mod_eq_of_lt h3)

theorem word_fld {h : Head} {op body lo len : Nat} (hl : lo + len ≤ 20) : fld (word h op body) lo len = fld body lo len := by
  obtain ⟨r, hr⟩ : ∃ r, 20 = lo + len + r := ⟨20 - (lo + len), by omega⟩
  have e : word h op body = body + 2 ^ lo * (2 ^ len * (2 ^ r * (h.stall.toNat * 1024 + boolCode h.neg * 8 + h.gp.val + op * 16))) := by
    rw [← Nat.mul_assoc, ← Nat.mul_assoc, ← Nat.pow_add, ← Nat.pow_add, ← hr, word, code_eq]; omega
  rw [fld, e, Nat.add_mul_div_left _ _ (Nat.two_pow_pos _), Nat.add_mul_mod_self_left, fld]

/-- What every word that is no prefix is. -/
structure Good (w : Nat) (h : Head) (op : Nat) : Prop where
  lt : w < 2 ^ 32
  noPrefix : isPrefix w = false
  head : headOf w = h
  op : fld w 24 6 = op
  legal : (decide (w = 0) || decide (w = 0xFFFFFFFF)) = false

theorem word_good (h : Head) (op body : Nat) (hb : body < 2 ^ 20) (h0 : 0 < op) (ho : op < 63) : Good (word h op body) h op := by
  have e := word_op (h := h) hb (show op < 64 by omega)
  refine ⟨word_lt hb (by omega), ?_, word_head hb (by omega), e, ?_⟩
  · rw [isPrefix, e]; simp; omega
  · simp only [Bool.or_eq_false_iff, decide_eq_false_iff_not]
    constructor
    · intro z; rw [z] at e; simp [fld] at e; omega
    · intro z; rw [z] at e; simp [fld] at e; omega

/-! ## Fields -/

theorem sregCode_lt (r : SReg) : sregCode r < 32 := by
  cases r with
  | g n => have := n.isLt; simp only [sregCode]; omega
  | t n => have := n.isLt; simp only [sregCode]; omega

theorem sregOf_code (r : SReg) : sregOf (sregCode r) = r := by
  cases r with
  | g n =>
    have := n.isLt
    simp only [sregOf, sregCode, this, if_true]
    exact congrArg SReg.g (Fin.ext (Nat.mod_eq_of_lt this))
  | t n =>
    have := n.isLt
    simp only [sregOf, sregCode, show ¬ 16 + n.val < 16 by omega, if_false]
    exact congrArg SReg.t (Fin.ext (by simp [Fin.ofNat]))

theorem fin_ofNat {n : Nat} [NeZero n] (x : Fin n) : Fin.ofNat n x.val = x := Fin.ext (Nat.mod_eq_of_lt x.isLt)

theorem ofNat_toNat {n : Nat} (x : BitVec n) : BitVec.ofNat n x.toNat = x := by simp

/-- Format N. -/
theorem goodN (h : Head) (op : Nat) {d a b fn : Nat} (hd : d < 32) (ha : a < 32) (hb : b < 32) (hf : fn < 32) (h0 : 0 < op)
    (ho : op < 63) : Good (wordN h op d a b fn) h op ∧ fld (wordN h op d a b fn) 0 5 = fn ∧ fld (wordN h op d a b fn) 5 5 = b ∧
    fld (wordN h op d a b fn) 10 5 = a ∧ fld (wordN h op d a b fn) 15 5 = d := by
  have e : wordN h op d a b fn = word h op (d * 2 ^ 15 + a * 2 ^ 10 + b * 2 ^ 5 + fn) := by simp only [wordN, word]; omega
  rw [e]
  refine ⟨word_good h op _ (by omega) h0 ho, ?_, ?_, ?_, ?_⟩ <;> (rw [word_fld (by decide)]; simp only [fld]; omega)

/-- The fields of format A in the function code. -/
theorem fnA (h : Head) (op : Nat) {d a b fn : Nat} (hf : fn < 32) :
    fld (wordN h op d a b fn) 0 4 = fn % 16 ∧ fld (wordN h op d a b fn) 4 1 = fn / 16 := by
  have e : wordN h op d a b fn = word h op (d * 2 ^ 15 + a * 2 ^ 10 + b * 2 ^ 5 + fn) := by simp only [wordN, word]; omega
  rw [e]
  refine ⟨?_, ?_⟩ <;> (rw [word_fld (by decide)]; simp only [fld]; omega)

/-- Formats I and C. -/
theorem goodI (h : Head) (op : Nat) {d a m : Nat} (hd : d < 32) (ha : a < 32) (hm : m < 1024) (h0 : 0 < op)
    (ho : op < 63) : Good (wordI h op d a m) h op ∧ fld (wordI h op d a m) 0 10 = m ∧ fld (wordI h op d a m) 10 5 = a ∧
    fld (wordI h op d a m) 15 5 = d ∧ fld (wordI h op d a m) 0 6 = m % 64 ∧ fld (wordI h op d a m) 6 2 = m / 64 % 4 ∧
    fld (wordI h op d a m) 8 2 = m / 256 := by
  have e : wordI h op d a m = word h op (d * 2 ^ 15 + a * 2 ^ 10 + m) := by simp only [wordI, word]; omega
  rw [e]
  refine ⟨word_good h op _ (by omega) h0 ho, ?_, ?_, ?_, ?_, ?_, ?_⟩ <;> (rw [word_fld (by decide)]; simp only [fld]; omega)

/-- Format M. -/
theorem goodM (h : Head) (op : Nat) {d a sz m : Nat} (hd : d < 32) (ha : a < 32) (hs : sz < 8) (hm : m < 128) (h0 : 0 < op)
    (ho : op < 63) : Good (wordM h op d a sz m) h op ∧ fld (wordM h op d a sz m) 0 7 = m ∧ fld (wordM h op d a sz m) 7 3 = sz ∧
    fld (wordM h op d a sz m) 10 5 = a ∧ fld (wordM h op d a sz m) 15 5 = d := by
  have e : wordM h op d a sz m = word h op (d * 2 ^ 15 + a * 2 ^ 10 + sz * 2 ^ 7 + m) := by simp only [wordM, word]; omega
  rw [e]
  refine ⟨word_good h op _ (by omega) h0 ho, ?_, ?_, ?_, ?_⟩ <;> (rw [word_fld (by decide)]; simp only [fld]; omega)

/-- The mask fields as numbers. -/
def meOf (m : MaskX) : Nat :=
  match m with
  | .all => 0
  | .by _ => 1
def mkOf (m : MaskX) : Nat :=
  match m with
  | .all => 0
  | .by n => n.val

theorem maskOf_code (m : MaskX) : maskOf (meOf m) (mkOf m) = m := by
  cases m with
  | all => rfl
  | _ n => simp only [maskOf, meOf, mkOf, if_true, fin_ofNat]

theorem mask_ok (m : MaskX) : (meOf m == 1 || mkOf m == 0) = true := by cases m <;> rfl

theorem mask_bits (m : MaskX) (me mk : Nat) : maskBits m me mk = meOf m * (2 ^ me) + mkOf m * 2 ^ mk := by
  cases m <;> simp [maskBits, meOf, mkOf]

theorem me_lt (m : MaskX) : meOf m < 2 := by cases m <;> simp [meOf]
theorem mk_lt (m : MaskX) : mkOf m < 8 := by cases m <;> simp [mkOf]

/-- Format V. -/
theorem goodV (h : Head) (op : Nat) {d a b fn : Nat} (mask : Nat) (me mk : Nat) (hm : mask = me * 2 ^ 7 + mk * 2 ^ 4) (hd : d < 16) (ha : a < 16)
    (hb : b < 16) (hme : me < 2) (hmk : mk < 8) (hf : fn < 16) (h0 : 0 < op) (ho : op < 63) :
    Good (wordV h op d a b mask fn) h op ∧ fld (wordV h op d a b mask fn) 0 4 = fn ∧ fld (wordV h op d a b mask fn) 4 3 = mk ∧
    fld (wordV h op d a b mask fn) 7 1 = me ∧ fld (wordV h op d a b mask fn) 8 4 = b ∧ fld (wordV h op d a b mask fn) 12 4 = a ∧
    fld (wordV h op d a b mask fn) 16 4 = d := by
  have e : wordV h op d a b mask fn = word h op (d * 2 ^ 16 + a * 2 ^ 12 + b * 2 ^ 8 + me * 2 ^ 7 + mk * 2 ^ 4 + fn) := by
    simp only [wordV, word, hm]; omega
  rw [e]
  refine ⟨word_good h op _ (by omega) h0 ho, ?_, ?_, ?_, ?_, ?_, ?_⟩ <;> (rw [word_fld (by decide)]; simp only [fld]; omega)

/-! ## Prefixes -/

/-- The prefix of an operand that may have one, as the decoder holds it. -/
def pxI : ImmX → Px
  | .none => .none
  | .imm v => .imm v.toNat
def pxO : OrdX → Px
  | .none => .none
  | .ord p => .ord (ordWord p - 0x3F400000)
def pxR : RemX → Px
  | .none => .none
  | .imm v => .imm v.toNat
  | .ord p => .ord (ordWord p - 0x3F400000)
def pxP (p : VecPfx) : Px := .vec (vecWord p - 0x3F800000)
def pxV : VecX → Px
  | .none => .none
  | .vec p => pxP p

theorem fmtCode_lt (f : Fmt) : fmtCode f < 13 := by cases f <;> decide
theorem fmtOf_code (f : Fmt) : fmtOf (fmtCode f) = f := by cases f <;> rfl
theorem rmCode_lt (r : Rm) : rmCode r < 8 := by cases r <;> decide
theorem rmOf_code (r : Rm) : rmOf (rmCode r) = r := by cases r <;> rfl
theorem rmCode_ok (r : Rm) : (rmCode r == 5 || rmCode r == 6) = false := by cases r <;> rfl
theorem orderCode_lt (o : Order) : orderCode o < 4 := by cases o <;> decide
theorem orderOf_code (o : Order) : orderOf (orderCode o) = o := by cases o <;> rfl
theorem scopeCode_lt (s : Scope) : scopeCode s < 4 := by cases s <;> simp [scopeCode]
theorem scopeGid_lt (s : Scope) : scopeGid s < 256 := by
  cases s with
  | grp g => have := g.isLt; simp only [scopeGid]; omega
  | _ => decide
theorem scopeOf_code (s : Scope) : scopeOf (scopeCode s) (scopeGid s) = s := by
  cases s with
  | grp g => simp [scopeOf, scopeCode, scopeGid]
  | _ => rfl
theorem scope_ok (s : Scope) : (scopeCode s == 1 || scopeGid s == 0) = true := by cases s <;> rfl

theorem ldSizeCode_lt (x : LdSize) : ldSizeCode x < 8 := by cases x <;> decide
theorem stSizeCode_lt (x : StSize) : stSizeCode x < 8 := by cases x <;> decide

theorem decide_boolCode (b : Bool) : decide (boolCode b = 1) = b := by cases b <;> rfl

/-- A prefix word of kind `k` with payload `x`. -/
theorem prefix_good {k x : Nat} (hk : k < 3) (hx : x < 2 ^ 22) :
    0x3F000000 + k * 2 ^ 22 + x < 2 ^ 32 ∧ isPrefix (0x3F000000 + k * 2 ^ 22 + x) = true ∧ fld (0x3F000000 + k * 2 ^ 22 + x) 30 2 = 0 ∧
    fld (0x3F000000 + k * 2 ^ 22 + x) 22 2 = k ∧ fld (0x3F000000 + k * 2 ^ 22 + x) 0 22 = x := by
  refine ⟨by omega, ?_, ?_, ?_, ?_⟩
  · simp only [isPrefix, fld, Bool.and_eq_true, bne_iff_ne, beq_iff_eq]; omega
  all_goals simp only [fld]; omega

theorem ordWord_eq (p : OrdPfx) : ordWord p = 0x3F000000 + 1 * 2 ^ 22 + (ordWord p - 0x3F400000) ∧ ordWord p - 0x3F400000 < 2 ^ 22 := by
  have := orderCode_lt p.ord; have := scopeCode_lt p.scope; have := scopeGid_lt p.scope; have := p.ofx.isLt
  simp only [ordWord]; omega

theorem ord_fields (p : OrdPfx) : fld (ordWord p - 0x3F400000) 20 2 = orderCode p.ord ∧
    fld (ordWord p - 0x3F400000) 18 2 = scopeCode p.scope ∧ fld (ordWord p - 0x3F400000) 10 8 = scopeGid p.scope ∧
    fld (ordWord p - 0x3F400000) 0 10 = p.ofx.toNat := by
  have := orderCode_lt p.ord; have := scopeCode_lt p.scope; have := scopeGid_lt p.scope; have := p.ofx.isLt
  simp only [ordWord, fld]; omega

theorem ordFields_word (p : OrdPfx) : ordFields (ordWord p - 0x3F400000) = p := by
  obtain ⟨e1, e2, e3, e4⟩ := ord_fields p
  simp only [ordFields, e1, e2, e3, e4, orderOf_code, scopeOf_code, ofNat_toNat]

theorem gidOk_ord (p : OrdPfx) : (Px.ord (ordWord p - 0x3F400000)).gidOk = true := by
  obtain ⟨_, e2, e3, _⟩ := ord_fields p
  simp only [Px.gidOk, e2, e3, scope_ok]

theorem vecWord_eq (p : VecPfx) : vecWord p = 0x3F000000 + 2 * 2 ^ 22 + (vecWord p - 0x3F800000) ∧ vecWord p - 0x3F800000 < 2 ^ 22 := by
  have := fmtCode_lt p.fmt2; have := rmCode_lt p.rm; have := boolCode_lt p.sat; have := boolCode_lt p.sb
  have := sregCode_lt p.xb; have := p.imm8.isLt
  simp only [vecWord]; omega

theorem vec_fields (p : VecPfx) : fld (vecWord p - 0x3F800000) 18 4 = fmtCode p.fmt2 ∧ fld (vecWord p - 0x3F800000) 15 3 = rmCode p.rm ∧
    fld (vecWord p - 0x3F800000) 14 1 = boolCode p.sat ∧ fld (vecWord p - 0x3F800000) 13 1 = boolCode p.sb ∧
    fld (vecWord p - 0x3F800000) 8 5 = sregCode p.xb ∧ fld (vecWord p - 0x3F800000) 0 8 = p.imm8.toNat := by
  have := fmtCode_lt p.fmt2; have := rmCode_lt p.rm; have := boolCode_lt p.sat; have := boolCode_lt p.sb
  have := sregCode_lt p.xb; have := p.imm8.isLt
  simp only [vecWord, fld]; omega

theorem vecFields_word (p : VecPfx) : vecFields (vecWord p - 0x3F800000) = p := by
  obtain ⟨e1, e2, e3, e4, e5, e6⟩ := vec_fields p
  simp only [vecFields, e1, e2, e3, e4, e5, e6, fmtOf_code, rmOf_code, decide_boolCode, sregOf_code, ofNat_toNat]

theorem pxP_vecP (p : VecPfx) : (pxP p).vecP = p := vecFields_word p
theorem pxP_takes (p : VecPfx) : (pxP p).takesVec = true := rfl
theorem pxP_codes (p : VecPfx) : (pxP p).codesOk = true := by
  obtain ⟨e1, e2, _⟩ := vec_fields p
  simp only [pxP, Px.codesOk, e1, e2, rmCode_ok, fmtCode_lt, decide_true, Bool.not_false, Bool.and_true]

theorem pxV_takes (x : VecX) : (pxV x).takesVec = true := by cases x <;> rfl
theorem pxV_codes (x : VecX) : (pxV x).codesOk = true := by
  cases x with
  | none => rfl
  | vec p => exact pxP_codes p
theorem pxV_vecX (x : VecX) : (pxV x).vecX = x := by
  cases x with
  | none => rfl
  | vec p => exact congrArg VecX.vec (vecFields_word p)
theorem pxI_takes (x : ImmX) : (pxI x).takesImm = true := by cases x <;> rfl
theorem pxI_immX (x : ImmX) : (pxI x).immX = x := by
  cases x with
  | none => rfl
  | imm v => simp only [pxI, Px.immX, ofNat_toNat]
theorem pxO_takes (x : OrdX) : (pxO x).takesOrd = true := by cases x <;> rfl
theorem pxO_ordX (x : OrdX) : (pxO x).ordX = x := by
  cases x with
  | none => rfl
  | ord p => exact congrArg OrdX.ord (ordFields_word p)
theorem pxO_gid (x : OrdX) : (pxO x).gidOk = true := by
  cases x with
  | none => rfl
  | ord p => exact gidOk_ord p
theorem pxR_takes (x : RemX) : (pxR x).takesRem = true := by cases x <;> rfl
theorem pxR_remX (x : RemX) : (pxR x).remX = x := by
  cases x with
  | none => rfl
  | imm v => simp only [pxR, Px.remX, ofNat_toNat]
  | ord p => exact congrArg RemX.ord (ordFields_word p)
theorem pxR_gid (x : RemX) : (pxR x).gidOk = true := by
  cases x with
  | ord p => exact gidOk_ord p
  | _ => rfl

/-! ## Coded words -/

theorem coded_one {w : Nat} {i : Instr} {h : Head} {op : Nat} (g : Good w h op) (e : decodeBody .none w = .ok i) : Coded [w] i :=
  ⟨g.lt, g.noPrefix, e⟩

theorem coded_two {p w k x : Nat} {i : Instr} {h : Head} {op : Nat} (hp : p = 0x3F000000 + k * 2 ^ 22 + x) (hk : k < 3) (hx : x < 2 ^ 22)
    (g : Good w h op) (e : decodeBody (match k with | 0 => .imm x | 1 => .ord x | _ => .vec x) w = .ok i) : Coded [p, w] i := by
  obtain ⟨h1, h2, h3, h4, h5⟩ := prefix_good hk hx
  rw [← hp] at h1 h2 h3 h4 h5
  refine ⟨h1, h2, h3, by omega, g.lt, g.noPrefix, ?_⟩
  simp only [pxOf, h4, h5]
  exact e

theorem coded_vec {p : VecPfx} {w : Nat} {i : Instr} {h : Head} {op : Nat} (g : Good w h op) (e : decodeBody (pxP p) w = .ok i) :
    Coded [vecWord p, w] i := coded_two (vecWord_eq p).1 (by decide) (vecWord_eq p).2 g e

theorem codedV {x : VecX} {w : Nat} {i : Instr} {h : Head} {op : Nat} (g : Good w h op) (e : decodeBody (pxV x) w = .ok i) :
    Coded (vecWords x w) i := by
  cases x with
  | none => exact coded_one g e
  | vec p => exact coded_vec g e

theorem codedI {x : ImmX} {w : Nat} {i : Instr} {h : Head} {op : Nat} (g : Good w h op) (e : decodeBody (pxI x) w = .ok i) :
    Coded (immWords x w) i := by
  cases x with
  | none => exact coded_one g e
  | imm v => exact coded_two (k := 0) (by simp) (by decide) v.isLt g e

theorem codedO {x : OrdX} {w : Nat} {i : Instr} {h : Head} {op : Nat} (g : Good w h op) (e : decodeBody (pxO x) w = .ok i) :
    Coded (ordWords x w) i := by
  cases x with
  | none => exact coded_one g e
  | ord p => exact coded_two (ordWord_eq p).1 (by decide) (ordWord_eq p).2 g e

theorem codedR {x : RemX} {w : Nat} {i : Instr} {h : Head} {op : Nat} (g : Good w h op) (e : decodeBody (pxR x) w = .ok i) :
    Coded (remWords x w) i := by
  cases x with
  | none => exact coded_one g e
  | imm v => exact coded_two (k := 0) (by simp) (by decide) v.isLt g e
  | ord p => exact coded_two (ordWord_eq p).1 (by decide) (ordWord_eq p).2 g e

/-! ## Operands that have fewer values than their fields -/

theorem dec4 (d : Fin 4) : decide (d.val < 4) = true := decide_eq_true d.isLt
theorem dec8 (d : Fin 8) : decide (d.val < 8) = true := decide_eq_true d.isLt
theorem dec16 (d : Fin 16) : decide (d.val < 16) = true := decide_eq_true d.isLt

theorem ldSizeOf_code (x : LdSize) : ldSizeOf (ldSizeCode x) = x := by cases x <;> rfl
theorem ldSize_ok (x : LdSize) : (ldSizeCode x != 7) = true := by cases x <;> rfl
theorem stSizeOf_code (x : StSize) : stSizeOf (stSizeCode x) = x := by cases x <;> rfl
theorem stSize_ok (x : StSize) : (stSizeCode x % 2 == 0) = true := by cases x <;> rfl

theorem pair_ok (d : Bool) : (boolCode d * 2 == 0 || boolCode d * 2 == 2) = true := by cases d <;> rfl
theorem pair_code (d : Bool) : decide (boolCode d * 2 = 2) = d := by cases d <;> rfl

/-- W and AOP of format A. -/
theorem fnW (h : Head) (op : Nat) {d a b n : Nat} (w : Bool) (hn : n < 16) :
    fld (wordN h op d a b (boolCode w * 16 + n)) 0 4 = n ∧ fld (wordN h op d a b (boolCode w * 16 + n)) 4 1 = boolCode w := by
  have := boolCode_lt w
  obtain ⟨h0, h1⟩ := fnA h op (d := d) (a := a) (b := b) (fn := boolCode w * 16 + n) (by omega)
  exact ⟨by rw [h0]; omega, by rw [h1]; omega⟩

/-- The shift kinds of OP 0x06. -/
theorem shiftFields (sh : BitVec 6) (k : Nat) (hk : k < 4) :
    (k * 64 + sh.toNat) % 64 = sh.toNat ∧ (k * 64 + sh.toNat) / 64 % 4 = k ∧ ((k * 64 + sh.toNat) / 256 == 0) = true := by
  have := sh.isLt
  refine ⟨by omega, by omega, by rw [beq_iff_eq]; omega⟩

/-- The group and z fields of MDRAIN. -/
theorem drainFields (g : BitVec 2) (z : Bool) : BitVec.ofNat 2 (g.toNat + boolCode z * 4) = g ∧
    ((g.toNat + boolCode z * 4) / 8 == 0) = true ∧ decide ((g.toNat + boolCode z * 4) / 4 % 2 = 1) = z := by
  have := g.isLt
  refine ⟨BitVec.eq_of_toNat_eq ?_, ?_, ?_⟩
  · simp only [BitVec.toNat_ofNat]; cases z <;> simp only [boolCode, Bool.false_eq_true, if_false, if_true] <;> omega
  · rw [beq_iff_eq]; cases z <;> simp only [boolCode, Bool.false_eq_true, if_false, if_true] <;> omega
  · cases z <;> simp only [boolCode, Bool.false_eq_true, if_false, if_true] <;> simp <;> omega

/-- The group and direction fields of MMOVA. -/
theorem movaFields (g : BitVec 2) : g.toNat / 4 % 2 = 0 ∧ (g.toNat / 8 == 0) = true ∧ (g.toNat + 4) / 4 % 2 = 1 ∧
    ((g.toNat + 4) / 8 == 0) = true ∧ BitVec.ofNat 2 (g.toNat + 4) = g := by
  have := g.isLt
  refine ⟨by omega, by rw [beq_iff_eq]; omega, by omega, by rw [beq_iff_eq]; omega, BitVec.eq_of_toNat_eq ?_⟩
  simp only [BitVec.toNat_ofNat]; omega

/-- The payload register of SEND. -/
theorem sendField (d : BitVec 3) : (d.toNat * 4 % 4 == 0) = true ∧ d.toNat * 4 / 4 = d.toNat :=
  ⟨by rw [beq_iff_eq]; omega, by omega⟩

/-! ## The remaining formats -/

/-- Format L. -/
theorem goodL (h : Head) {lv i ca len : Nat} (hl : lv < 2) (hi : i < 2) (hc : ca < 32) (hn : len < 2 ^ 13) :
    Good (h.code + 0x13 * 2 ^ 24 + lv * 2 ^ 19 + i * 2 ^ 18 + ca * 2 ^ 13 + len) h 0x13 ∧
    fld (h.code + 0x13 * 2 ^ 24 + lv * 2 ^ 19 + i * 2 ^ 18 + ca * 2 ^ 13 + len) 18 1 = i ∧
    fld (h.code + 0x13 * 2 ^ 24 + lv * 2 ^ 19 + i * 2 ^ 18 + ca * 2 ^ 13 + len) 19 1 = lv ∧
    fld (h.code + 0x13 * 2 ^ 24 + lv * 2 ^ 19 + i * 2 ^ 18 + ca * 2 ^ 13 + len) 13 5 = ca ∧
    fld (h.code + 0x13 * 2 ^ 24 + lv * 2 ^ 19 + i * 2 ^ 18 + ca * 2 ^ 13 + len) 0 13 = len := by
  have e : h.code + 0x13 * 2 ^ 24 + lv * 2 ^ 19 + i * 2 ^ 18 + ca * 2 ^ 13 + len =
    word h 0x13 (lv * 2 ^ 19 + i * 2 ^ 18 + ca * 2 ^ 13 + len) := by simp only [word]; omega
  rw [e]
  refine ⟨word_good h _ _ (by omega) (by decide) (by decide), ?_, ?_, ?_, ?_⟩ <;> (rw [word_fld (by decide)]; simp only [fld]; omega)

/-- Format G. -/
theorem goodG (h : Head) (k : Nat) (mk : MaskX) {d a b : Nat} (hd : d < 16) (ha : a < 32) (hb : b < 16) (hk : k < 4) :
    Good (h.code + 0x1C * 2 ^ 24 + d * 2 ^ 16 + a * 2 ^ 10 + b * 2 ^ 6 + maskBits mk 5 2 + k) h 0x1C ∧
    fld (h.code + 0x1C * 2 ^ 24 + d * 2 ^ 16 + a * 2 ^ 10 + b * 2 ^ 6 + maskBits mk 5 2 + k) 0 2 = k ∧
    fld (h.code + 0x1C * 2 ^ 24 + d * 2 ^ 16 + a * 2 ^ 10 + b * 2 ^ 6 + maskBits mk 5 2 + k) 2 3 = mkOf mk ∧
    fld (h.code + 0x1C * 2 ^ 24 + d * 2 ^ 16 + a * 2 ^ 10 + b * 2 ^ 6 + maskBits mk 5 2 + k) 5 1 = meOf mk ∧
    fld (h.code + 0x1C * 2 ^ 24 + d * 2 ^ 16 + a * 2 ^ 10 + b * 2 ^ 6 + maskBits mk 5 2 + k) 6 4 = b ∧
    fld (h.code + 0x1C * 2 ^ 24 + d * 2 ^ 16 + a * 2 ^ 10 + b * 2 ^ 6 + maskBits mk 5 2 + k) 10 5 = a ∧
    fld (h.code + 0x1C * 2 ^ 24 + d * 2 ^ 16 + a * 2 ^ 10 + b * 2 ^ 6 + maskBits mk 5 2 + k) 15 1 = 0 ∧
    fld (h.code + 0x1C * 2 ^ 24 + d * 2 ^ 16 + a * 2 ^ 10 + b * 2 ^ 6 + maskBits mk 5 2 + k) 16 4 = d := by
  have h1 := me_lt mk
  have h2 := mk_lt mk
  have e : h.code + 0x1C * 2 ^ 24 + d * 2 ^ 16 + a * 2 ^ 10 + b * 2 ^ 6 + maskBits mk 5 2 + k =
      word h 0x1C (d * 2 ^ 16 + a * 2 ^ 10 + b * 2 ^ 6 + meOf mk * 2 ^ 5 + mkOf mk * 2 ^ 2 + k) := by
    rw [mask_bits]; simp only [word]; omega
  rw [e]
  refine ⟨word_good h _ _ (by omega) (by decide) (by decide), ?_, ?_, ?_, ?_, ?_, ?_, ?_⟩ <;>
    (rw [word_fld (by decide)]; simp only [fld]; omega)

/-- Format F. -/
theorem goodF (h : Head) (k : Nat) (sc : Scope) (hk : k < 4) :
    Good (h.code + 0x23 * 2 ^ 24 + k * 2 ^ 18 + scopeCode sc * 2 ^ 16 + scopeGid sc * 2 ^ 8) h 0x23 ∧
    fld (h.code + 0x23 * 2 ^ 24 + k * 2 ^ 18 + scopeCode sc * 2 ^ 16 + scopeGid sc * 2 ^ 8) 18 2 = k ∧
    fld (h.code + 0x23 * 2 ^ 24 + k * 2 ^ 18 + scopeCode sc * 2 ^ 16 + scopeGid sc * 2 ^ 8) 16 2 = scopeCode sc ∧
    fld (h.code + 0x23 * 2 ^ 24 + k * 2 ^ 18 + scopeCode sc * 2 ^ 16 + scopeGid sc * 2 ^ 8) 8 8 = scopeGid sc ∧
    fld (h.code + 0x23 * 2 ^ 24 + k * 2 ^ 18 + scopeCode sc * 2 ^ 16 + scopeGid sc * 2 ^ 8) 0 8 = 0 := by
  have h1 := scopeCode_lt sc
  have h2 := scopeGid_lt sc
  have e : h.code + 0x23 * 2 ^ 24 + k * 2 ^ 18 + scopeCode sc * 2 ^ 16 + scopeGid sc * 2 ^ 8 =
      word h 0x23 (k * 2 ^ 18 + scopeCode sc * 2 ^ 16 + scopeGid sc * 2 ^ 8) := by simp only [word]; omega
  rw [e]
  refine ⟨word_good h _ _ (by omega) (by decide) (by decide), ?_, ?_, ?_, ?_⟩ <;> (rw [word_fld (by decide)]; simp only [fld]; omega)

/-- Format L with a register count. -/
theorem goodL0 (h : Head) {lv ca len : Nat} (hl : lv < 2) (hc : ca < 32) (hn : len < 2 ^ 13) :
    Good (h.code + 0x13 * 2 ^ 24 + lv * 2 ^ 19 + ca * 2 ^ 13 + len) h 0x13 ∧
    fld (h.code + 0x13 * 2 ^ 24 + lv * 2 ^ 19 + ca * 2 ^ 13 + len) 18 1 = 0 ∧
    fld (h.code + 0x13 * 2 ^ 24 + lv * 2 ^ 19 + ca * 2 ^ 13 + len) 19 1 = lv ∧
    fld (h.code + 0x13 * 2 ^ 24 + lv * 2 ^ 19 + ca * 2 ^ 13 + len) 13 5 = ca ∧
    fld (h.code + 0x13 * 2 ^ 24 + lv * 2 ^ 19 + ca * 2 ^ 13 + len) 0 13 = len := by
  have e : h.code + 0x13 * 2 ^ 24 + lv * 2 ^ 19 + ca * 2 ^ 13 + len = h.code + 0x13 * 2 ^ 24 + lv * 2 ^ 19 + 0 * 2 ^ 18 + ca * 2 ^ 13 + len := by
    omega
  rw [e]
  exact goodL h hl (by decide) hc hn


/-! ## One lemma per instruction -/

set_option linter.unusedSimpArgs false
set_option linter.unusedVariables false

theorem slotSelection (c : Nat) : Statement (.slotSelection c) :=
  fun wf => absurd wf Bool.false_ne_true

theorem priorityRaise (c : Nat) (sl : Fin 8) : Statement (.priorityRaise c sl) :=
  fun wf => absurd wf Bool.false_ne_true

theorem waitLimitExpiry (c : Nat) (sl : Fin 8) : Statement (.waitLimitExpiry c sl) :=
  fun wf => absurd wf Bool.false_ne_true

theorem resultWrite (c : Nat) (id : Nat) : Statement (.resultWrite c id) :=
  fun wf => absurd wf Bool.false_ne_true

theorem sfuServiceStart (c : Nat) : Statement (.sfuServiceStart c) :=
  fun wf => absurd wf Bool.false_ne_true

theorem sfuResultWrite (c : Nat) : Statement (.sfuResultWrite c) :=
  fun wf => absurd wf Bool.false_ne_true

theorem matrixDispatch (c : Nat) : Statement (.matrixDispatch c) :=
  fun wf => absurd wf Bool.false_ne_true

theorem matrixCompletion (c : Nat) (id : Nat) : Statement (.matrixCompletion c id) :=
  fun wf => absurd wf Bool.false_ne_true

theorem drainingEnd (c : Nat) (sl : Fin 8) : Statement (.drainingEnd c sl) :=
  fun wf => absurd wf Bool.false_ne_true

theorem messageArrival (c : Nat) (msg : BitVec 320) : Statement (.messageArrival c msg) :=
  fun wf => absurd wf Bool.false_ne_true

theorem writeRequestService (id : Nat) : Statement (.writeRequestService id) :=
  fun wf => absurd wf Bool.false_ne_true

theorem readRequestService (id : Nat) : Statement (.readRequestService id) :=
  fun wf => absurd wf Bool.false_ne_true

theorem cxlMemCompletion (id : Nat) : Statement (.cxlMemCompletion id) :=
  fun wf => absurd wf Bool.false_ne_true

theorem hostPortCompletion (id : Nat) : Statement (.hostPortCompletion id) :=
  fun wf => absurd wf Bool.false_ne_true

theorem hostReadTimeout (id : Nat) : Statement (.hostReadTimeout id) :=
  fun wf => absurd wf Bool.false_ne_true

theorem replyArrival (id : Nat) : Statement (.replyArrival id) :=
  fun wf => absurd wf Bool.false_ne_true

theorem retryTimerExpiry (n : Node) (id : Nat) : Statement (.retryTimerExpiry n id) :=
  fun wf => absurd wf Bool.false_ne_true

theorem requestAgeDiscard (id : Nat) : Statement (.requestAgeDiscard id) :=
  fun wf => absurd wf Bool.false_ne_true

theorem replyEntryAgeing (n : Node) (i : Nat) : Statement (.replyEntryAgeing n i) :=
  fun wf => absurd wf Bool.false_ne_true

theorem requesterEntryAgeing (n : Node) (i : Nat) : Statement (.requesterEntryAgeing n i) :=
  fun wf => absurd wf Bool.false_ne_true

theorem translationWalkComplete (c : Nat) (id : Nat) : Statement (.translationWalkComplete c id) :=
  fun wf => absurd wf Bool.false_ne_true

theorem partialArrival (id : Nat) : Statement (.partialArrival id) :=
  fun wf => absurd wf Bool.false_ne_true

theorem routeDelivery (c : Nat) (id : Nat) : Statement (.routeDelivery c id) :=
  fun wf => absurd wf Bool.false_ne_true

theorem renormaliseNoticeArrival (id : Nat) : Statement (.renormaliseNoticeArrival id) :=
  fun wf => absurd wf Bool.false_ne_true

theorem grantArrival (id : Nat) : Statement (.grantArrival id) :=
  fun wf => absurd wf Bool.false_ne_true

theorem grantOutcome (id : Nat) : Statement (.grantOutcome id) :=
  fun wf => absurd wf Bool.false_ne_true

theorem revokeNoticeArrival (id : Nat) : Statement (.revokeNoticeArrival id) :=
  fun wf => absurd wf Bool.false_ne_true

theorem deathDeclaration (n : Node) : Statement (.deathDeclaration n) :=
  fun wf => absurd wf Bool.false_ne_true

theorem deathNoticeArrival (id : Nat) : Statement (.deathNoticeArrival id) :=
  fun wf => absurd wf Bool.false_ne_true

theorem copyActivation (c : Nat) : Statement (.copyActivation c) :=
  fun wf => absurd wf Bool.false_ne_true

theorem copyUnitSend (c : Nat) : Statement (.copyUnitSend c) :=
  fun wf => absurd wf Bool.false_ne_true

theorem copyCompletionWrite (c : Nat) (id : Nat) : Statement (.copyCompletionWrite c id) :=
  fun wf => absurd wf Bool.false_ne_true

theorem copyDeadline (c : Nat) (id : Nat) : Statement (.copyDeadline c id) :=
  fun wf => absurd wf Bool.false_ne_true

theorem copyClassRaise (c : Nat) (id : Nat) : Statement (.copyClassRaise c id) :=
  fun wf => absurd wf Bool.false_ne_true

theorem launchStore (port : Nat) (r : Vector (BitVec 64) 8) : Statement (.launchStore port r) :=
  fun wf => absurd wf Bool.false_ne_true

theorem submitService (id : Nat) : Statement (.submitService id) :=
  fun wf => absurd wf Bool.false_ne_true

theorem placement : Statement .placement :=
  fun wf => absurd wf Bool.false_ne_true

theorem openWave (e : Nat) : Statement (.openWave e) :=
  fun wf => absurd wf Bool.false_ne_true

theorem loadComplete (e : Nat) : Statement (.loadComplete e) :=
  fun wf => absurd wf Bool.false_ne_true

theorem seedInjection (e : Nat) : Statement (.seedInjection e) :=
  fun wf => absurd wf Bool.false_ne_true

theorem closeWave (e : Nat) : Statement (.closeWave e) :=
  fun wf => absurd wf Bool.false_ne_true

theorem hangMonitorSample : Statement .hangMonitorSample :=
  fun wf => absurd wf Bool.false_ne_true

theorem preempt (q : MailCmd) : Statement (.preempt q) :=
  fun wf => absurd wf Bool.false_ne_true

theorem coreHalt (c : Nat) : Statement (.coreHalt c) :=
  fun wf => absurd wf Bool.false_ne_true

theorem haltComplete (e : Nat) : Statement (.haltComplete e) :=
  fun wf => absurd wf Bool.false_ne_true

theorem haltfail (e : Nat) : Statement (.haltfail e) :=
  fun wf => absurd wf Bool.false_ne_true

theorem resume (q : MailCmd) : Statement (.resume q) :=
  fun wf => absurd wf Bool.false_ne_true

theorem kill (q : MailCmd) : Statement (.kill q) :=
  fun wf => absurd wf Bool.false_ne_true

theorem shootdown (q : MailCmd) : Statement (.shootdown q) :=
  fun wf => absurd wf Bool.false_ne_true

theorem clearret (q : MailCmd) : Statement (.clearret q) :=
  fun wf => absurd wf Bool.false_ne_true

theorem readbind (q : MailCmd) : Statement (.readbind q) :=
  fun wf => absurd wf Bool.false_ne_true

theorem free (q : MailCmd) : Statement (.free q) :=
  fun wf => absurd wf Bool.false_ne_true

theorem hostWindowWrite (port : Nat) (off : Nat) (data : List (BitVec 8)) : Statement (.hostWindowWrite port off data) :=
  fun wf => absurd wf Bool.false_ne_true

theorem retirementStart (c : Nat) : Statement (.retirementStart c) :=
  fun wf => absurd wf Bool.false_ne_true

theorem retirementCopy (c : Nat) : Statement (.retirementCopy c) :=
  fun wf => absurd wf Bool.false_ne_true

theorem retirementTimeout (c : Nat) : Statement (.retirementTimeout c) :=
  fun wf => absurd wf Bool.false_ne_true

theorem edgeHomeRestart (p : Nat) : Statement (.edgeHomeRestart p) :=
  fun wf => absurd wf Bool.false_ne_true

theorem portLinkLoss (p : Nat) : Statement (.portLinkLoss p) :=
  fun wf => absurd wf Bool.false_ne_true

theorem portRetrainAttempt (p : Nat) (r : Training) : Statement (.portRetrainAttempt p r) :=
  fun wf => absurd wf Bool.false_ne_true

theorem powerGood : Statement .powerGood :=
  fun wf => absurd wf Bool.false_ne_true

theorem bringUpStage (o : BringUpObs) : Statement (.bringUpStage o) :=
  fun wf => absurd wf Bool.false_ne_true

theorem islandMonitorRead (rs : List IslandReading) : Statement (.islandMonitorRead rs) :=
  fun wf => absurd wf Bool.false_ne_true

theorem islandClockChange (i : Nat) : Statement (.islandClockChange i) :=
  fun wf => absurd wf Bool.false_ne_true

theorem powerLimitStep (amps : BitVec 32) (watts : BitVec 32) : Statement (.powerLimitStep amps watts) :=
  fun wf => absurd wf Bool.false_ne_true

theorem thermalThrottleStep (i : Nat) (temp : BitVec 16) : Statement (.thermalThrottleStep i temp) :=
  fun wf => absurd wf Bool.false_ne_true

theorem overtempShutdown (i : Nat) (temp : BitVec 16) : Statement (.overtempShutdown i temp) :=
  fun wf => absurd wf Bool.false_ne_true

theorem patrolScrub (c : Nat) (word : Nat) : Statement (.patrolScrub c word) :=
  fun wf => absurd wf Bool.false_ne_true

theorem flitCrcDrop (id : Nat) : Statement (.flitCrcDrop id) :=
  fun wf => absurd wf Bool.false_ne_true

theorem flitAgePriority (id : Nat) : Statement (.flitAgePriority id) :=
  fun wf => absurd wf Bool.false_ne_true

theorem notAnInstruction (f : DecodeFault) : Statement (.notAnInstruction f) :=
  fun wf => absurd wf Bool.false_ne_true

theorem fetchPastLocalStore : Statement .fetchPastLocalStore :=
  fun wf => absurd wf Bool.false_ne_true

theorem softError (e : SoftErr) : Statement (.softError e) :=
  fun wf => absurd wf Bool.false_ne_true

theorem powerGoodLoss : Statement .powerGoodLoss :=
  fun wf => absurd wf Bool.false_ne_true

theorem hdmDecoderBaseWrite (port : Nat) (base : BitVec 64) : Statement (.hdmDecoderBaseWrite port base) :=
  fun wf => absurd wf Bool.false_ne_true

theorem fenceClearCommand (fld : Nat) (pass : Bool) : Statement (.fenceClearCommand fld pass) :=
  fun wf => absurd wf Bool.false_ne_true

theorem externalSegmentDeclaration (port : Nat) (base : BitVec 64) (limit : BitVec 64) (make : Bool) : Statement (.externalSegmentDeclaration port base limit make) :=
  fun wf => absurd wf Bool.false_ne_true

theorem add (h : Head) (d : SReg) (a : SReg) (b : SReg) : Statement (.add h d a b) := by
  intro _
  obtain ⟨g, e0, e5, e10, e15⟩ := goodN h 0x01 (d := sregCode d) (a := sregCode a) (b := sregCode b) (fn := 0) (sregCode_lt d) (sregCode_lt a) (sregCode_lt b) (by decide) (by decide) (by decide)
  refine coded_one g ?_
  simp only [decodeBody, decodeAlu, e0, e5, e10, e15, Px.isNone, dec4, dec8, dec16, pair_ok, pair_code, ldSizeOf_code, ldSize_ok, stSizeOf_code, stSize_ok, g.legal, g.op, g.head, fin_ofNat, sregOf_code, ofNat_toNat, chk, Bool.and_self, Bool.and_true, Bool.true_and, Bool.not_true]
  rfl

theorem sub (h : Head) (d : SReg) (a : SReg) (b : SReg) : Statement (.sub h d a b) := by
  intro _
  obtain ⟨g, e0, e5, e10, e15⟩ := goodN h 0x01 (d := sregCode d) (a := sregCode a) (b := sregCode b) (fn := 1) (sregCode_lt d) (sregCode_lt a) (sregCode_lt b) (by decide) (by decide) (by decide)
  refine coded_one g ?_
  simp only [decodeBody, decodeAlu, e0, e5, e10, e15, Px.isNone, dec4, dec8, dec16, pair_ok, pair_code, ldSizeOf_code, ldSize_ok, stSizeOf_code, stSize_ok, g.legal, g.op, g.head, fin_ofNat, sregOf_code, ofNat_toNat, chk, Bool.and_self, Bool.and_true, Bool.true_and, Bool.not_true]
  rfl

theorem and (h : Head) (d : SReg) (a : SReg) (b : SReg) : Statement (.and h d a b) := by
  intro _
  obtain ⟨g, e0, e5, e10, e15⟩ := goodN h 0x01 (d := sregCode d) (a := sregCode a) (b := sregCode b) (fn := 2) (sregCode_lt d) (sregCode_lt a) (sregCode_lt b) (by decide) (by decide) (by decide)
  refine coded_one g ?_
  simp only [decodeBody, decodeAlu, e0, e5, e10, e15, Px.isNone, dec4, dec8, dec16, pair_ok, pair_code, ldSizeOf_code, ldSize_ok, stSizeOf_code, stSize_ok, g.legal, g.op, g.head, fin_ofNat, sregOf_code, ofNat_toNat, chk, Bool.and_self, Bool.and_true, Bool.true_and, Bool.not_true]
  rfl

theorem or (h : Head) (d : SReg) (a : SReg) (b : SReg) : Statement (.or h d a b) := by
  intro _
  obtain ⟨g, e0, e5, e10, e15⟩ := goodN h 0x01 (d := sregCode d) (a := sregCode a) (b := sregCode b) (fn := 3) (sregCode_lt d) (sregCode_lt a) (sregCode_lt b) (by decide) (by decide) (by decide)
  refine coded_one g ?_
  simp only [decodeBody, decodeAlu, e0, e5, e10, e15, Px.isNone, dec4, dec8, dec16, pair_ok, pair_code, ldSizeOf_code, ldSize_ok, stSizeOf_code, stSize_ok, g.legal, g.op, g.head, fin_ofNat, sregOf_code, ofNat_toNat, chk, Bool.and_self, Bool.and_true, Bool.true_and, Bool.not_true]
  rfl

theorem xor (h : Head) (d : SReg) (a : SReg) (b : SReg) : Statement (.xor h d a b) := by
  intro _
  obtain ⟨g, e0, e5, e10, e15⟩ := goodN h 0x01 (d := sregCode d) (a := sregCode a) (b := sregCode b) (fn := 4) (sregCode_lt d) (sregCode_lt a) (sregCode_lt b) (by decide) (by decide) (by decide)
  refine coded_one g ?_
  simp only [decodeBody, decodeAlu, e0, e5, e10, e15, Px.isNone, dec4, dec8, dec16, pair_ok, pair_code, ldSizeOf_code, ldSize_ok, stSizeOf_code, stSize_ok, g.legal, g.op, g.head, fin_ofNat, sregOf_code, ofNat_toNat, chk, Bool.and_self, Bool.and_true, Bool.true_and, Bool.not_true]
  rfl

theorem sll (h : Head) (d : SReg) (a : SReg) (b : SReg) : Statement (.sll h d a b) := by
  intro _
  obtain ⟨g, e0, e5, e10, e15⟩ := goodN h 0x01 (d := sregCode d) (a := sregCode a) (b := sregCode b) (fn := 5) (sregCode_lt d) (sregCode_lt a) (sregCode_lt b) (by decide) (by decide) (by decide)
  refine coded_one g ?_
  simp only [decodeBody, decodeAlu, e0, e5, e10, e15, Px.isNone, dec4, dec8, dec16, pair_ok, pair_code, ldSizeOf_code, ldSize_ok, stSizeOf_code, stSize_ok, g.legal, g.op, g.head, fin_ofNat, sregOf_code, ofNat_toNat, chk, Bool.and_self, Bool.and_true, Bool.true_and, Bool.not_true]
  rfl

theorem srl (h : Head) (d : SReg) (a : SReg) (b : SReg) : Statement (.srl h d a b) := by
  intro _
  obtain ⟨g, e0, e5, e10, e15⟩ := goodN h 0x01 (d := sregCode d) (a := sregCode a) (b := sregCode b) (fn := 6) (sregCode_lt d) (sregCode_lt a) (sregCode_lt b) (by decide) (by decide) (by decide)
  refine coded_one g ?_
  simp only [decodeBody, decodeAlu, e0, e5, e10, e15, Px.isNone, dec4, dec8, dec16, pair_ok, pair_code, ldSizeOf_code, ldSize_ok, stSizeOf_code, stSize_ok, g.legal, g.op, g.head, fin_ofNat, sregOf_code, ofNat_toNat, chk, Bool.and_self, Bool.and_true, Bool.true_and, Bool.not_true]
  rfl

theorem sra (h : Head) (d : SReg) (a : SReg) (b : SReg) : Statement (.sra h d a b) := by
  intro _
  obtain ⟨g, e0, e5, e10, e15⟩ := goodN h 0x01 (d := sregCode d) (a := sregCode a) (b := sregCode b) (fn := 7) (sregCode_lt d) (sregCode_lt a) (sregCode_lt b) (by decide) (by decide) (by decide)
  refine coded_one g ?_
  simp only [decodeBody, decodeAlu, e0, e5, e10, e15, Px.isNone, dec4, dec8, dec16, pair_ok, pair_code, ldSizeOf_code, ldSize_ok, stSizeOf_code, stSize_ok, g.legal, g.op, g.head, fin_ofNat, sregOf_code, ofNat_toNat, chk, Bool.and_self, Bool.and_true, Bool.true_and, Bool.not_true]
  rfl

theorem min (h : Head) (d : SReg) (a : SReg) (b : SReg) : Statement (.min h d a b) := by
  intro _
  obtain ⟨g, e0, e5, e10, e15⟩ := goodN h 0x01 (d := sregCode d) (a := sregCode a) (b := sregCode b) (fn := 8) (sregCode_lt d) (sregCode_lt a) (sregCode_lt b) (by decide) (by decide) (by decide)
  refine coded_one g ?_
  simp only [decodeBody, decodeAlu, e0, e5, e10, e15, Px.isNone, dec4, dec8, dec16, pair_ok, pair_code, ldSizeOf_code, ldSize_ok, stSizeOf_code, stSize_ok, g.legal, g.op, g.head, fin_ofNat, sregOf_code, ofNat_toNat, chk, Bool.and_self, Bool.and_true, Bool.true_and, Bool.not_true]
  rfl

theorem max (h : Head) (d : SReg) (a : SReg) (b : SReg) : Statement (.max h d a b) := by
  intro _
  obtain ⟨g, e0, e5, e10, e15⟩ := goodN h 0x01 (d := sregCode d) (a := sregCode a) (b := sregCode b) (fn := 9) (sregCode_lt d) (sregCode_lt a) (sregCode_lt b) (by decide) (by decide) (by decide)
  refine coded_one g ?_
  simp only [decodeBody, decodeAlu, e0, e5, e10, e15, Px.isNone, dec4, dec8, dec16, pair_ok, pair_code, ldSizeOf_code, ldSize_ok, stSizeOf_code, stSize_ok, g.legal, g.op, g.head, fin_ofNat, sregOf_code, ofNat_toNat, chk, Bool.and_self, Bool.and_true, Bool.true_and, Bool.not_true]
  rfl

theorem minu (h : Head) (d : SReg) (a : SReg) (b : SReg) : Statement (.minu h d a b) := by
  intro _
  obtain ⟨g, e0, e5, e10, e15⟩ := goodN h 0x01 (d := sregCode d) (a := sregCode a) (b := sregCode b) (fn := 10) (sregCode_lt d) (sregCode_lt a) (sregCode_lt b) (by decide) (by decide) (by decide)
  refine coded_one g ?_
  simp only [decodeBody, decodeAlu, e0, e5, e10, e15, Px.isNone, dec4, dec8, dec16, pair_ok, pair_code, ldSizeOf_code, ldSize_ok, stSizeOf_code, stSize_ok, g.legal, g.op, g.head, fin_ofNat, sregOf_code, ofNat_toNat, chk, Bool.and_self, Bool.and_true, Bool.true_and, Bool.not_true]
  rfl

theorem maxu (h : Head) (d : SReg) (a : SReg) (b : SReg) : Statement (.maxu h d a b) := by
  intro _
  obtain ⟨g, e0, e5, e10, e15⟩ := goodN h 0x01 (d := sregCode d) (a := sregCode a) (b := sregCode b) (fn := 11) (sregCode_lt d) (sregCode_lt a) (sregCode_lt b) (by decide) (by decide) (by decide)
  refine coded_one g ?_
  simp only [decodeBody, decodeAlu, e0, e5, e10, e15, Px.isNone, dec4, dec8, dec16, pair_ok, pair_code, ldSizeOf_code, ldSize_ok, stSizeOf_code, stSize_ok, g.legal, g.op, g.head, fin_ofNat, sregOf_code, ofNat_toNat, chk, Bool.and_self, Bool.and_true, Bool.true_and, Bool.not_true]
  rfl

theorem mul (h : Head) (d : SReg) (a : SReg) (b : SReg) : Statement (.mul h d a b) := by
  intro _
  obtain ⟨g, e0, e5, e10, e15⟩ := goodN h 0x01 (d := sregCode d) (a := sregCode a) (b := sregCode b) (fn := 12) (sregCode_lt d) (sregCode_lt a) (sregCode_lt b) (by decide) (by decide) (by decide)
  refine coded_one g ?_
  simp only [decodeBody, decodeAlu, e0, e5, e10, e15, Px.isNone, dec4, dec8, dec16, pair_ok, pair_code, ldSizeOf_code, ldSize_ok, stSizeOf_code, stSize_ok, g.legal, g.op, g.head, fin_ofNat, sregOf_code, ofNat_toNat, chk, Bool.and_self, Bool.and_true, Bool.true_and, Bool.not_true]
  rfl

theorem mulh (h : Head) (d : SReg) (a : SReg) (b : SReg) : Statement (.mulh h d a b) := by
  intro _
  obtain ⟨g, e0, e5, e10, e15⟩ := goodN h 0x01 (d := sregCode d) (a := sregCode a) (b := sregCode b) (fn := 13) (sregCode_lt d) (sregCode_lt a) (sregCode_lt b) (by decide) (by decide) (by decide)
  refine coded_one g ?_
  simp only [decodeBody, decodeAlu, e0, e5, e10, e15, Px.isNone, dec4, dec8, dec16, pair_ok, pair_code, ldSizeOf_code, ldSize_ok, stSizeOf_code, stSize_ok, g.legal, g.op, g.head, fin_ofNat, sregOf_code, ofNat_toNat, chk, Bool.and_self, Bool.and_true, Bool.true_and, Bool.not_true]
  rfl

theorem mulhu (h : Head) (d : SReg) (a : SReg) (b : SReg) : Statement (.mulhu h d a b) := by
  intro _
  obtain ⟨g, e0, e5, e10, e15⟩ := goodN h 0x01 (d := sregCode d) (a := sregCode a) (b := sregCode b) (fn := 14) (sregCode_lt d) (sregCode_lt a) (sregCode_lt b) (by decide) (by decide) (by decide)
  refine coded_one g ?_
  simp only [decodeBody, decodeAlu, e0, e5, e10, e15, Px.isNone, dec4, dec8, dec16, pair_ok, pair_code, ldSizeOf_code, ldSize_ok, stSizeOf_code, stSize_ok, g.legal, g.op, g.head, fin_ofNat, sregOf_code, ofNat_toNat, chk, Bool.and_self, Bool.and_true, Bool.true_and, Bool.not_true]
  rfl

theorem div (h : Head) (d : SReg) (a : SReg) (b : SReg) : Statement (.div h d a b) := by
  intro _
  obtain ⟨g, e0, e5, e10, e15⟩ := goodN h 0x01 (d := sregCode d) (a := sregCode a) (b := sregCode b) (fn := 15) (sregCode_lt d) (sregCode_lt a) (sregCode_lt b) (by decide) (by decide) (by decide)
  refine coded_one g ?_
  simp only [decodeBody, decodeAlu, e0, e5, e10, e15, Px.isNone, dec4, dec8, dec16, pair_ok, pair_code, ldSizeOf_code, ldSize_ok, stSizeOf_code, stSize_ok, g.legal, g.op, g.head, fin_ofNat, sregOf_code, ofNat_toNat, chk, Bool.and_self, Bool.and_true, Bool.true_and, Bool.not_true]
  rfl

theorem divu (h : Head) (d : SReg) (a : SReg) (b : SReg) : Statement (.divu h d a b) := by
  intro _
  obtain ⟨g, e0, e5, e10, e15⟩ := goodN h 0x01 (d := sregCode d) (a := sregCode a) (b := sregCode b) (fn := 16) (sregCode_lt d) (sregCode_lt a) (sregCode_lt b) (by decide) (by decide) (by decide)
  refine coded_one g ?_
  simp only [decodeBody, decodeAlu, e0, e5, e10, e15, Px.isNone, dec4, dec8, dec16, pair_ok, pair_code, ldSizeOf_code, ldSize_ok, stSizeOf_code, stSize_ok, g.legal, g.op, g.head, fin_ofNat, sregOf_code, ofNat_toNat, chk, Bool.and_self, Bool.and_true, Bool.true_and, Bool.not_true]
  rfl

theorem rem (h : Head) (d : SReg) (a : SReg) (b : SReg) : Statement (.rem h d a b) := by
  intro _
  obtain ⟨g, e0, e5, e10, e15⟩ := goodN h 0x01 (d := sregCode d) (a := sregCode a) (b := sregCode b) (fn := 17) (sregCode_lt d) (sregCode_lt a) (sregCode_lt b) (by decide) (by decide) (by decide)
  refine coded_one g ?_
  simp only [decodeBody, decodeAlu, e0, e5, e10, e15, Px.isNone, dec4, dec8, dec16, pair_ok, pair_code, ldSizeOf_code, ldSize_ok, stSizeOf_code, stSize_ok, g.legal, g.op, g.head, fin_ofNat, sregOf_code, ofNat_toNat, chk, Bool.and_self, Bool.and_true, Bool.true_and, Bool.not_true]
  rfl

theorem remu (h : Head) (d : SReg) (a : SReg) (b : SReg) : Statement (.remu h d a b) := by
  intro _
  obtain ⟨g, e0, e5, e10, e15⟩ := goodN h 0x01 (d := sregCode d) (a := sregCode a) (b := sregCode b) (fn := 18) (sregCode_lt d) (sregCode_lt a) (sregCode_lt b) (by decide) (by decide) (by decide)
  refine coded_one g ?_
  simp only [decodeBody, decodeAlu, e0, e5, e10, e15, Px.isNone, dec4, dec8, dec16, pair_ok, pair_code, ldSizeOf_code, ldSize_ok, stSizeOf_code, stSize_ok, g.legal, g.op, g.head, fin_ofNat, sregOf_code, ofNat_toNat, chk, Bool.and_self, Bool.and_true, Bool.true_and, Bool.not_true]
  rfl

theorem adds (h : Head) (d : SReg) (a : SReg) (b : SReg) : Statement (.adds h d a b) := by
  intro _
  obtain ⟨g, e0, e5, e10, e15⟩ := goodN h 0x01 (d := sregCode d) (a := sregCode a) (b := sregCode b) (fn := 19) (sregCode_lt d) (sregCode_lt a) (sregCode_lt b) (by decide) (by decide) (by decide)
  refine coded_one g ?_
  simp only [decodeBody, decodeAlu, e0, e5, e10, e15, Px.isNone, dec4, dec8, dec16, pair_ok, pair_code, ldSizeOf_code, ldSize_ok, stSizeOf_code, stSize_ok, g.legal, g.op, g.head, fin_ofNat, sregOf_code, ofNat_toNat, chk, Bool.and_self, Bool.and_true, Bool.true_and, Bool.not_true]
  rfl

theorem subs (h : Head) (d : SReg) (a : SReg) (b : SReg) : Statement (.subs h d a b) := by
  intro _
  obtain ⟨g, e0, e5, e10, e15⟩ := goodN h 0x01 (d := sregCode d) (a := sregCode a) (b := sregCode b) (fn := 20) (sregCode_lt d) (sregCode_lt a) (sregCode_lt b) (by decide) (by decide) (by decide)
  refine coded_one g ?_
  simp only [decodeBody, decodeAlu, e0, e5, e10, e15, Px.isNone, dec4, dec8, dec16, pair_ok, pair_code, ldSizeOf_code, ldSize_ok, stSizeOf_code, stSize_ok, g.legal, g.op, g.head, fin_ofNat, sregOf_code, ofNat_toNat, chk, Bool.and_self, Bool.and_true, Bool.true_and, Bool.not_true]
  rfl

theorem clz (h : Head) (d : SReg) (a : SReg) : Statement (.clz h d a) := by
  intro _
  obtain ⟨g, e0, e5, e10, e15⟩ := goodN h 0x01 (d := sregCode d) (a := sregCode a) (b := 0) (fn := 21) (sregCode_lt d) (sregCode_lt a) (by decide) (by decide) (by decide) (by decide)
  refine coded_one g ?_
  simp only [decodeBody, decodeAlu, e0, e5, e10, e15, Px.isNone, dec4, dec8, dec16, pair_ok, pair_code, ldSizeOf_code, ldSize_ok, stSizeOf_code, stSize_ok, g.legal, g.op, g.head, fin_ofNat, sregOf_code, ofNat_toNat, chk, Bool.and_self, Bool.and_true, Bool.true_and, Bool.not_true]
  rfl

theorem popc (h : Head) (d : SReg) (a : SReg) : Statement (.popc h d a) := by
  intro _
  obtain ⟨g, e0, e5, e10, e15⟩ := goodN h 0x01 (d := sregCode d) (a := sregCode a) (b := 0) (fn := 22) (sregCode_lt d) (sregCode_lt a) (by decide) (by decide) (by decide) (by decide)
  refine coded_one g ?_
  simp only [decodeBody, decodeAlu, e0, e5, e10, e15, Px.isNone, dec4, dec8, dec16, pair_ok, pair_code, ldSizeOf_code, ldSize_ok, stSizeOf_code, stSize_ok, g.legal, g.op, g.head, fin_ofNat, sregOf_code, ofNat_toNat, chk, Bool.and_self, Bool.and_true, Bool.true_and, Bool.not_true]
  rfl

theorem andn (h : Head) (d : SReg) (a : SReg) (b : SReg) : Statement (.andn h d a b) := by
  intro _
  obtain ⟨g, e0, e5, e10, e15⟩ := goodN h 0x01 (d := sregCode d) (a := sregCode a) (b := sregCode b) (fn := 23) (sregCode_lt d) (sregCode_lt a) (sregCode_lt b) (by decide) (by decide) (by decide)
  refine coded_one g ?_
  simp only [decodeBody, decodeAlu, e0, e5, e10, e15, Px.isNone, dec4, dec8, dec16, pair_ok, pair_code, ldSizeOf_code, ldSize_ok, stSizeOf_code, stSize_ok, g.legal, g.op, g.head, fin_ofNat, sregOf_code, ofNat_toNat, chk, Bool.and_self, Bool.and_true, Bool.true_and, Bool.not_true]
  rfl

theorem orn (h : Head) (d : SReg) (a : SReg) (b : SReg) : Statement (.orn h d a b) := by
  intro _
  obtain ⟨g, e0, e5, e10, e15⟩ := goodN h 0x01 (d := sregCode d) (a := sregCode a) (b := sregCode b) (fn := 24) (sregCode_lt d) (sregCode_lt a) (sregCode_lt b) (by decide) (by decide) (by decide)
  refine coded_one g ?_
  simp only [decodeBody, decodeAlu, e0, e5, e10, e15, Px.isNone, dec4, dec8, dec16, pair_ok, pair_code, ldSizeOf_code, ldSize_ok, stSizeOf_code, stSize_ok, g.legal, g.op, g.head, fin_ofNat, sregOf_code, ofNat_toNat, chk, Bool.and_self, Bool.and_true, Bool.true_and, Bool.not_true]
  rfl

theorem addi (h : Head) (x : ImmX) (d : SReg) (a : SReg) (imm : BitVec 10) : Statement (.addi h x d a imm) := by
  intro _
  obtain ⟨g, e0, e10, e15, e06, e62, e82⟩ := goodI h 0x02 (d := sregCode d) (a := sregCode a) (m := imm.toNat) (sregCode_lt d) (sregCode_lt a) (by have := imm.isLt; omega) (by decide) (by decide)
  refine codedI g ?_
  simp only [decodeBody, e0, e10, e15, e06, e62, e82, pxI_takes, pxI_immX, dec4, dec8, dec16, pair_ok, pair_code, ldSizeOf_code, ldSize_ok, stSizeOf_code, stSize_ok, g.legal, g.op, g.head, fin_ofNat, sregOf_code, ofNat_toNat, chk, Bool.and_self, Bool.and_true, Bool.true_and, Bool.not_true]
  rfl

theorem andi (h : Head) (x : ImmX) (d : SReg) (a : SReg) (imm : BitVec 10) : Statement (.andi h x d a imm) := by
  intro _
  obtain ⟨g, e0, e10, e15, e06, e62, e82⟩ := goodI h 0x03 (d := sregCode d) (a := sregCode a) (m := imm.toNat) (sregCode_lt d) (sregCode_lt a) (by have := imm.isLt; omega) (by decide) (by decide)
  refine codedI g ?_
  simp only [decodeBody, e0, e10, e15, e06, e62, e82, pxI_takes, pxI_immX, dec4, dec8, dec16, pair_ok, pair_code, ldSizeOf_code, ldSize_ok, stSizeOf_code, stSize_ok, g.legal, g.op, g.head, fin_ofNat, sregOf_code, ofNat_toNat, chk, Bool.and_self, Bool.and_true, Bool.true_and, Bool.not_true]
  rfl

theorem ori (h : Head) (x : ImmX) (d : SReg) (a : SReg) (imm : BitVec 10) : Statement (.ori h x d a imm) := by
  intro _
  obtain ⟨g, e0, e10, e15, e06, e62, e82⟩ := goodI h 0x04 (d := sregCode d) (a := sregCode a) (m := imm.toNat) (sregCode_lt d) (sregCode_lt a) (by have := imm.isLt; omega) (by decide) (by decide)
  refine codedI g ?_
  simp only [decodeBody, e0, e10, e15, e06, e62, e82, pxI_takes, pxI_immX, dec4, dec8, dec16, pair_ok, pair_code, ldSizeOf_code, ldSize_ok, stSizeOf_code, stSize_ok, g.legal, g.op, g.head, fin_ofNat, sregOf_code, ofNat_toNat, chk, Bool.and_self, Bool.and_true, Bool.true_and, Bool.not_true]
  rfl

theorem xori (h : Head) (x : ImmX) (d : SReg) (a : SReg) (imm : BitVec 10) : Statement (.xori h x d a imm) := by
  intro _
  obtain ⟨g, e0, e10, e15, e06, e62, e82⟩ := goodI h 0x05 (d := sregCode d) (a := sregCode a) (m := imm.toNat) (sregCode_lt d) (sregCode_lt a) (by have := imm.isLt; omega) (by decide) (by decide)
  refine codedI g ?_
  simp only [decodeBody, e0, e10, e15, e06, e62, e82, pxI_takes, pxI_immX, dec4, dec8, dec16, pair_ok, pair_code, ldSizeOf_code, ldSize_ok, stSizeOf_code, stSize_ok, g.legal, g.op, g.head, fin_ofNat, sregOf_code, ofNat_toNat, chk, Bool.and_self, Bool.and_true, Bool.true_and, Bool.not_true]
  rfl

theorem slli (h : Head) (d : SReg) (a : SReg) (sh : BitVec 6) : Statement (.slli h d a sh) := by
  intro _
  obtain ⟨g, e0, e10, e15, e06, e62, e82⟩ := goodI h 0x06 (d := sregCode d) (a := sregCode a) (m := 0 + sh.toNat) (sregCode_lt d) (sregCode_lt a) (by have := sh.isLt; omega) (by decide) (by decide)
  obtain ⟨s1, s2, s3⟩ := shiftFields sh 0 (by decide)
  simp only [Nat.reduceMul] at s1 s2 s3
  refine coded_one g ?_
  simp only [decodeBody, decodeShift, e0, e10, e15, e06, e62, e82, s1, s2, s3, Px.isNone, dec4, dec8, dec16, pair_ok, pair_code, ldSizeOf_code, ldSize_ok, stSizeOf_code, stSize_ok, g.legal, g.op, g.head, fin_ofNat, sregOf_code, ofNat_toNat, chk, Bool.and_self, Bool.and_true, Bool.true_and, Bool.not_true]
  rfl

theorem srli (h : Head) (d : SReg) (a : SReg) (sh : BitVec 6) : Statement (.srli h d a sh) := by
  intro _
  obtain ⟨g, e0, e10, e15, e06, e62, e82⟩ := goodI h 0x06 (d := sregCode d) (a := sregCode a) (m := 64 + sh.toNat) (sregCode_lt d) (sregCode_lt a) (by have := sh.isLt; omega) (by decide) (by decide)
  obtain ⟨s1, s2, s3⟩ := shiftFields sh 1 (by decide)
  simp only [Nat.reduceMul] at s1 s2 s3
  refine coded_one g ?_
  simp only [decodeBody, decodeShift, e0, e10, e15, e06, e62, e82, s1, s2, s3, Px.isNone, dec4, dec8, dec16, pair_ok, pair_code, ldSizeOf_code, ldSize_ok, stSizeOf_code, stSize_ok, g.legal, g.op, g.head, fin_ofNat, sregOf_code, ofNat_toNat, chk, Bool.and_self, Bool.and_true, Bool.true_and, Bool.not_true]
  rfl

theorem srai (h : Head) (d : SReg) (a : SReg) (sh : BitVec 6) : Statement (.srai h d a sh) := by
  intro _
  obtain ⟨g, e0, e10, e15, e06, e62, e82⟩ := goodI h 0x06 (d := sregCode d) (a := sregCode a) (m := 128 + sh.toNat) (sregCode_lt d) (sregCode_lt a) (by have := sh.isLt; omega) (by decide) (by decide)
  obtain ⟨s1, s2, s3⟩ := shiftFields sh 2 (by decide)
  simp only [Nat.reduceMul] at s1 s2 s3
  refine coded_one g ?_
  simp only [decodeBody, decodeShift, e0, e10, e15, e06, e62, e82, s1, s2, s3, Px.isNone, dec4, dec8, dec16, pair_ok, pair_code, ldSizeOf_code, ldSize_ok, stSizeOf_code, stSize_ok, g.legal, g.op, g.head, fin_ofNat, sregOf_code, ofNat_toNat, chk, Bool.and_self, Bool.and_true, Bool.true_and, Bool.not_true]
  rfl

theorem rori (h : Head) (d : SReg) (a : SReg) (sh : BitVec 6) : Statement (.rori h d a sh) := by
  intro _
  obtain ⟨g, e0, e10, e15, e06, e62, e82⟩ := goodI h 0x06 (d := sregCode d) (a := sregCode a) (m := 192 + sh.toNat) (sregCode_lt d) (sregCode_lt a) (by have := sh.isLt; omega) (by decide) (by decide)
  obtain ⟨s1, s2, s3⟩ := shiftFields sh 3 (by decide)
  simp only [Nat.reduceMul] at s1 s2 s3
  refine coded_one g ?_
  simp only [decodeBody, decodeShift, e0, e10, e15, e06, e62, e82, s1, s2, s3, Px.isNone, dec4, dec8, dec16, pair_ok, pair_code, ldSizeOf_code, ldSize_ok, stSizeOf_code, stSize_ok, g.legal, g.op, g.head, fin_ofNat, sregOf_code, ofNat_toNat, chk, Bool.and_self, Bool.and_true, Bool.true_and, Bool.not_true]
  rfl

theorem li (h : Head) (x : ImmX) (d : SReg) (imm : BitVec 10) : Statement (.li h x d imm) := by
  intro _
  obtain ⟨g, e0, e10, e15, e06, e62, e82⟩ := goodI h 0x07 (d := sregCode d) (a := 0) (m := imm.toNat) (sregCode_lt d) (by decide) (by have := imm.isLt; omega) (by decide) (by decide)
  refine codedI g ?_
  simp only [decodeBody, e0, e10, e15, e06, e62, e82, pxI_takes, pxI_immX, dec4, dec8, dec16, pair_ok, pair_code, ldSizeOf_code, ldSize_ok, stSizeOf_code, stSize_ok, g.legal, g.op, g.head, fin_ofNat, sregOf_code, ofNat_toNat, chk, Bool.and_self, Bool.and_true, Bool.true_and, Bool.not_true]
  rfl

theorem lih (h : Head) (x : ImmX) (d : SReg) (a : SReg) (imm : BitVec 10) : Statement (.lih h x d a imm) := by
  intro _
  obtain ⟨g, e0, e10, e15, e06, e62, e82⟩ := goodI h 0x08 (d := sregCode d) (a := sregCode a) (m := imm.toNat) (sregCode_lt d) (sregCode_lt a) (by have := imm.isLt; omega) (by decide) (by decide)
  refine codedI g ?_
  simp only [decodeBody, e0, e10, e15, e06, e62, e82, pxI_takes, pxI_immX, dec4, dec8, dec16, pair_ok, pair_code, ldSizeOf_code, ldSize_ok, stSizeOf_code, stSize_ok, g.legal, g.op, g.head, fin_ofNat, sregOf_code, ofNat_toNat, chk, Bool.and_self, Bool.and_true, Bool.true_and, Bool.not_true]
  rfl

theorem cmpEq (h : Head) (d : PReg) (a : SReg) (b : SReg) : Statement (.cmpEq h d a b) := by
  intro _
  obtain ⟨g, e0, e5, e10, e15⟩ := goodN h 0x09 (d := d.val) (a := sregCode a) (b := sregCode b) (fn := 0) (by have := d.isLt; omega) (sregCode_lt a) (sregCode_lt b) (by decide) (by decide) (by decide)
  refine coded_one g ?_
  simp only [decodeBody, decodeCmp, e0, e5, e10, e15, Px.isNone, dec4, dec8, dec16, pair_ok, pair_code, ldSizeOf_code, ldSize_ok, stSizeOf_code, stSize_ok, g.legal, g.op, g.head, fin_ofNat, sregOf_code, ofNat_toNat, chk, Bool.and_self, Bool.and_true, Bool.true_and, Bool.not_true]
  rfl

theorem cmpNe (h : Head) (d : PReg) (a : SReg) (b : SReg) : Statement (.cmpNe h d a b) := by
  intro _
  obtain ⟨g, e0, e5, e10, e15⟩ := goodN h 0x09 (d := d.val) (a := sregCode a) (b := sregCode b) (fn := 1) (by have := d.isLt; omega) (sregCode_lt a) (sregCode_lt b) (by decide) (by decide) (by decide)
  refine coded_one g ?_
  simp only [decodeBody, decodeCmp, e0, e5, e10, e15, Px.isNone, dec4, dec8, dec16, pair_ok, pair_code, ldSizeOf_code, ldSize_ok, stSizeOf_code, stSize_ok, g.legal, g.op, g.head, fin_ofNat, sregOf_code, ofNat_toNat, chk, Bool.and_self, Bool.and_true, Bool.true_and, Bool.not_true]
  rfl

theorem cmpLt (h : Head) (d : PReg) (a : SReg) (b : SReg) : Statement (.cmpLt h d a b) := by
  intro _
  obtain ⟨g, e0, e5, e10, e15⟩ := goodN h 0x09 (d := d.val) (a := sregCode a) (b := sregCode b) (fn := 2) (by have := d.isLt; omega) (sregCode_lt a) (sregCode_lt b) (by decide) (by decide) (by decide)
  refine coded_one g ?_
  simp only [decodeBody, decodeCmp, e0, e5, e10, e15, Px.isNone, dec4, dec8, dec16, pair_ok, pair_code, ldSizeOf_code, ldSize_ok, stSizeOf_code, stSize_ok, g.legal, g.op, g.head, fin_ofNat, sregOf_code, ofNat_toNat, chk, Bool.and_self, Bool.and_true, Bool.true_and, Bool.not_true]
  rfl

theorem cmpGe (h : Head) (d : PReg) (a : SReg) (b : SReg) : Statement (.cmpGe h d a b) := by
  intro _
  obtain ⟨g, e0, e5, e10, e15⟩ := goodN h 0x09 (d := d.val) (a := sregCode a) (b := sregCode b) (fn := 3) (by have := d.isLt; omega) (sregCode_lt a) (sregCode_lt b) (by decide) (by decide) (by decide)
  refine coded_one g ?_
  simp only [decodeBody, decodeCmp, e0, e5, e10, e15, Px.isNone, dec4, dec8, dec16, pair_ok, pair_code, ldSizeOf_code, ldSize_ok, stSizeOf_code, stSize_ok, g.legal, g.op, g.head, fin_ofNat, sregOf_code, ofNat_toNat, chk, Bool.and_self, Bool.and_true, Bool.true_and, Bool.not_true]
  rfl

theorem cmpLtu (h : Head) (d : PReg) (a : SReg) (b : SReg) : Statement (.cmpLtu h d a b) := by
  intro _
  obtain ⟨g, e0, e5, e10, e15⟩ := goodN h 0x09 (d := d.val) (a := sregCode a) (b := sregCode b) (fn := 4) (by have := d.isLt; omega) (sregCode_lt a) (sregCode_lt b) (by decide) (by decide) (by decide)
  refine coded_one g ?_
  simp only [decodeBody, decodeCmp, e0, e5, e10, e15, Px.isNone, dec4, dec8, dec16, pair_ok, pair_code, ldSizeOf_code, ldSize_ok, stSizeOf_code, stSize_ok, g.legal, g.op, g.head, fin_ofNat, sregOf_code, ofNat_toNat, chk, Bool.and_self, Bool.and_true, Bool.true_and, Bool.not_true]
  rfl

theorem cmpGeu (h : Head) (d : PReg) (a : SReg) (b : SReg) : Statement (.cmpGeu h d a b) := by
  intro _
  obtain ⟨g, e0, e5, e10, e15⟩ := goodN h 0x09 (d := d.val) (a := sregCode a) (b := sregCode b) (fn := 5) (by have := d.isLt; omega) (sregCode_lt a) (sregCode_lt b) (by decide) (by decide) (by decide)
  refine coded_one g ?_
  simp only [decodeBody, decodeCmp, e0, e5, e10, e15, Px.isNone, dec4, dec8, dec16, pair_ok, pair_code, ldSizeOf_code, ldSize_ok, stSizeOf_code, stSize_ok, g.legal, g.op, g.head, fin_ofNat, sregOf_code, ofNat_toNat, chk, Bool.and_self, Bool.and_true, Bool.true_and, Bool.not_true]
  rfl

theorem cmpBits (h : Head) (d : PReg) (a : SReg) (b : SReg) : Statement (.cmpBits h d a b) := by
  intro _
  obtain ⟨g, e0, e5, e10, e15⟩ := goodN h 0x09 (d := d.val) (a := sregCode a) (b := sregCode b) (fn := 6) (by have := d.isLt; omega) (sregCode_lt a) (sregCode_lt b) (by decide) (by decide) (by decide)
  refine coded_one g ?_
  simp only [decodeBody, decodeCmp, e0, e5, e10, e15, Px.isNone, dec4, dec8, dec16, pair_ok, pair_code, ldSizeOf_code, ldSize_ok, stSizeOf_code, stSize_ok, g.legal, g.op, g.head, fin_ofNat, sregOf_code, ofNat_toNat, chk, Bool.and_self, Bool.and_true, Bool.true_and, Bool.not_true]
  rfl

theorem cmpNbits (h : Head) (d : PReg) (a : SReg) (b : SReg) : Statement (.cmpNbits h d a b) := by
  intro _
  obtain ⟨g, e0, e5, e10, e15⟩ := goodN h 0x09 (d := d.val) (a := sregCode a) (b := sregCode b) (fn := 7) (by have := d.isLt; omega) (sregCode_lt a) (sregCode_lt b) (by decide) (by decide) (by decide)
  refine coded_one g ?_
  simp only [decodeBody, decodeCmp, e0, e5, e10, e15, Px.isNone, dec4, dec8, dec16, pair_ok, pair_code, ldSizeOf_code, ldSize_ok, stSizeOf_code, stSize_ok, g.legal, g.op, g.head, fin_ofNat, sregOf_code, ofNat_toNat, chk, Bool.and_self, Bool.and_true, Bool.true_and, Bool.not_true]
  rfl

theorem cmpiEq (h : Head) (x : ImmX) (d : PReg) (a : SReg) (imm : BitVec 7) : Statement (.cmpiEq h x d a imm) := by
  intro _
  obtain ⟨g, e0, e7, e10, e15⟩ := goodM h 0x0A (d := d.val) (a := sregCode a) (sz := 0) (m := imm.toNat) (by have := d.isLt; omega) (sregCode_lt a) (by decide) (by have := imm.isLt; omega) (by decide) (by decide)
  refine codedI g ?_
  simp only [decodeBody, decodeCmpi, e0, e7, e10, e15, pxI_takes, pxI_immX, dec4, dec8, dec16, pair_ok, pair_code, ldSizeOf_code, ldSize_ok, stSizeOf_code, stSize_ok, g.legal, g.op, g.head, fin_ofNat, sregOf_code, ofNat_toNat, chk, Bool.and_self, Bool.and_true, Bool.true_and, Bool.not_true]
  rfl

theorem cmpiNe (h : Head) (x : ImmX) (d : PReg) (a : SReg) (imm : BitVec 7) : Statement (.cmpiNe h x d a imm) := by
  intro _
  obtain ⟨g, e0, e7, e10, e15⟩ := goodM h 0x0A (d := d.val) (a := sregCode a) (sz := 1) (m := imm.toNat) (by have := d.isLt; omega) (sregCode_lt a) (by decide) (by have := imm.isLt; omega) (by decide) (by decide)
  refine codedI g ?_
  simp only [decodeBody, decodeCmpi, e0, e7, e10, e15, pxI_takes, pxI_immX, dec4, dec8, dec16, pair_ok, pair_code, ldSizeOf_code, ldSize_ok, stSizeOf_code, stSize_ok, g.legal, g.op, g.head, fin_ofNat, sregOf_code, ofNat_toNat, chk, Bool.and_self, Bool.and_true, Bool.true_and, Bool.not_true]
  rfl

theorem cmpiLt (h : Head) (x : ImmX) (d : PReg) (a : SReg) (imm : BitVec 7) : Statement (.cmpiLt h x d a imm) := by
  intro _
  obtain ⟨g, e0, e7, e10, e15⟩ := goodM h 0x0A (d := d.val) (a := sregCode a) (sz := 2) (m := imm.toNat) (by have := d.isLt; omega) (sregCode_lt a) (by decide) (by have := imm.isLt; omega) (by decide) (by decide)
  refine codedI g ?_
  simp only [decodeBody, decodeCmpi, e0, e7, e10, e15, pxI_takes, pxI_immX, dec4, dec8, dec16, pair_ok, pair_code, ldSizeOf_code, ldSize_ok, stSizeOf_code, stSize_ok, g.legal, g.op, g.head, fin_ofNat, sregOf_code, ofNat_toNat, chk, Bool.and_self, Bool.and_true, Bool.true_and, Bool.not_true]
  rfl

theorem cmpiGe (h : Head) (x : ImmX) (d : PReg) (a : SReg) (imm : BitVec 7) : Statement (.cmpiGe h x d a imm) := by
  intro _
  obtain ⟨g, e0, e7, e10, e15⟩ := goodM h 0x0A (d := d.val) (a := sregCode a) (sz := 3) (m := imm.toNat) (by have := d.isLt; omega) (sregCode_lt a) (by decide) (by have := imm.isLt; omega) (by decide) (by decide)
  refine codedI g ?_
  simp only [decodeBody, decodeCmpi, e0, e7, e10, e15, pxI_takes, pxI_immX, dec4, dec8, dec16, pair_ok, pair_code, ldSizeOf_code, ldSize_ok, stSizeOf_code, stSize_ok, g.legal, g.op, g.head, fin_ofNat, sregOf_code, ofNat_toNat, chk, Bool.and_self, Bool.and_true, Bool.true_and, Bool.not_true]
  rfl

theorem cmpiLtu (h : Head) (x : ImmX) (d : PReg) (a : SReg) (imm : BitVec 7) : Statement (.cmpiLtu h x d a imm) := by
  intro _
  obtain ⟨g, e0, e7, e10, e15⟩ := goodM h 0x0A (d := d.val) (a := sregCode a) (sz := 4) (m := imm.toNat) (by have := d.isLt; omega) (sregCode_lt a) (by decide) (by have := imm.isLt; omega) (by decide) (by decide)
  refine codedI g ?_
  simp only [decodeBody, decodeCmpi, e0, e7, e10, e15, pxI_takes, pxI_immX, dec4, dec8, dec16, pair_ok, pair_code, ldSizeOf_code, ldSize_ok, stSizeOf_code, stSize_ok, g.legal, g.op, g.head, fin_ofNat, sregOf_code, ofNat_toNat, chk, Bool.and_self, Bool.and_true, Bool.true_and, Bool.not_true]
  rfl

theorem cmpiGeu (h : Head) (x : ImmX) (d : PReg) (a : SReg) (imm : BitVec 7) : Statement (.cmpiGeu h x d a imm) := by
  intro _
  obtain ⟨g, e0, e7, e10, e15⟩ := goodM h 0x0A (d := d.val) (a := sregCode a) (sz := 5) (m := imm.toNat) (by have := d.isLt; omega) (sregCode_lt a) (by decide) (by have := imm.isLt; omega) (by decide) (by decide)
  refine codedI g ?_
  simp only [decodeBody, decodeCmpi, e0, e7, e10, e15, pxI_takes, pxI_immX, dec4, dec8, dec16, pair_ok, pair_code, ldSizeOf_code, ldSize_ok, stSizeOf_code, stSize_ok, g.legal, g.op, g.head, fin_ofNat, sregOf_code, ofNat_toNat, chk, Bool.and_self, Bool.and_true, Bool.true_and, Bool.not_true]
  rfl

theorem cmpiBits (h : Head) (x : ImmX) (d : PReg) (a : SReg) (imm : BitVec 7) : Statement (.cmpiBits h x d a imm) := by
  intro _
  obtain ⟨g, e0, e7, e10, e15⟩ := goodM h 0x0A (d := d.val) (a := sregCode a) (sz := 6) (m := imm.toNat) (by have := d.isLt; omega) (sregCode_lt a) (by decide) (by have := imm.isLt; omega) (by decide) (by decide)
  refine codedI g ?_
  simp only [decodeBody, decodeCmpi, e0, e7, e10, e15, pxI_takes, pxI_immX, dec4, dec8, dec16, pair_ok, pair_code, ldSizeOf_code, ldSize_ok, stSizeOf_code, stSize_ok, g.legal, g.op, g.head, fin_ofNat, sregOf_code, ofNat_toNat, chk, Bool.and_self, Bool.and_true, Bool.true_and, Bool.not_true]
  rfl

theorem cmpiNbits (h : Head) (x : ImmX) (d : PReg) (a : SReg) (imm : BitVec 7) : Statement (.cmpiNbits h x d a imm) := by
  intro _
  obtain ⟨g, e0, e7, e10, e15⟩ := goodM h 0x0A (d := d.val) (a := sregCode a) (sz := 7) (m := imm.toNat) (by have := d.isLt; omega) (sregCode_lt a) (by decide) (by have := imm.isLt; omega) (by decide) (by decide)
  refine codedI g ?_
  simp only [decodeBody, decodeCmpi, e0, e7, e10, e15, pxI_takes, pxI_immX, dec4, dec8, dec16, pair_ok, pair_code, ldSizeOf_code, ldSize_ok, stSizeOf_code, stSize_ok, g.legal, g.op, g.head, fin_ofNat, sregOf_code, ofNat_toNat, chk, Bool.and_self, Bool.and_true, Bool.true_and, Bool.not_true]
  rfl

theorem pand (h : Head) (d : PReg) (a : PReg) (b : PReg) : Statement (.pand h d a b) := by
  intro _
  obtain ⟨g, e0, e5, e10, e15⟩ := goodN h 0x0B (d := d.val) (a := a.val) (b := b.val) (fn := 0) (by have := d.isLt; omega) (by have := a.isLt; omega) (by have := b.isLt; omega) (by decide) (by decide) (by decide)
  refine coded_one g ?_
  simp only [decodeBody, decodePred, e0, e5, e10, e15, Px.isNone, dec4, dec8, dec16, pair_ok, pair_code, ldSizeOf_code, ldSize_ok, stSizeOf_code, stSize_ok, g.legal, g.op, g.head, fin_ofNat, sregOf_code, ofNat_toNat, chk, Bool.and_self, Bool.and_true, Bool.true_and, Bool.not_true]
  rfl

theorem por (h : Head) (d : PReg) (a : PReg) (b : PReg) : Statement (.por h d a b) := by
  intro _
  obtain ⟨g, e0, e5, e10, e15⟩ := goodN h 0x0B (d := d.val) (a := a.val) (b := b.val) (fn := 1) (by have := d.isLt; omega) (by have := a.isLt; omega) (by have := b.isLt; omega) (by decide) (by decide) (by decide)
  refine coded_one g ?_
  simp only [decodeBody, decodePred, e0, e5, e10, e15, Px.isNone, dec4, dec8, dec16, pair_ok, pair_code, ldSizeOf_code, ldSize_ok, stSizeOf_code, stSize_ok, g.legal, g.op, g.head, fin_ofNat, sregOf_code, ofNat_toNat, chk, Bool.and_self, Bool.and_true, Bool.true_and, Bool.not_true]
  rfl

theorem pxor (h : Head) (d : PReg) (a : PReg) (b : PReg) : Statement (.pxor h d a b) := by
  intro _
  obtain ⟨g, e0, e5, e10, e15⟩ := goodN h 0x0B (d := d.val) (a := a.val) (b := b.val) (fn := 2) (by have := d.isLt; omega) (by have := a.isLt; omega) (by have := b.isLt; omega) (by decide) (by decide) (by decide)
  refine coded_one g ?_
  simp only [decodeBody, decodePred, e0, e5, e10, e15, Px.isNone, dec4, dec8, dec16, pair_ok, pair_code, ldSizeOf_code, ldSize_ok, stSizeOf_code, stSize_ok, g.legal, g.op, g.head, fin_ofNat, sregOf_code, ofNat_toNat, chk, Bool.and_self, Bool.and_true, Bool.true_and, Bool.not_true]
  rfl

theorem pandn (h : Head) (d : PReg) (a : PReg) (b : PReg) : Statement (.pandn h d a b) := by
  intro _
  obtain ⟨g, e0, e5, e10, e15⟩ := goodN h 0x0B (d := d.val) (a := a.val) (b := b.val) (fn := 3) (by have := d.isLt; omega) (by have := a.isLt; omega) (by have := b.isLt; omega) (by decide) (by decide) (by decide)
  refine coded_one g ?_
  simp only [decodeBody, decodePred, e0, e5, e10, e15, Px.isNone, dec4, dec8, dec16, pair_ok, pair_code, ldSizeOf_code, ldSize_ok, stSizeOf_code, stSize_ok, g.legal, g.op, g.head, fin_ofNat, sregOf_code, ofNat_toNat, chk, Bool.and_self, Bool.and_true, Bool.true_and, Bool.not_true]
  rfl

theorem pnot (h : Head) (d : PReg) (a : PReg) : Statement (.pnot h d a) := by
  intro _
  obtain ⟨g, e0, e5, e10, e15⟩ := goodN h 0x0B (d := d.val) (a := a.val) (b := 0) (fn := 4) (by have := d.isLt; omega) (by have := a.isLt; omega) (by decide) (by decide) (by decide) (by decide)
  refine coded_one g ?_
  simp only [decodeBody, decodePred, e0, e5, e10, e15, Px.isNone, dec4, dec8, dec16, pair_ok, pair_code, ldSizeOf_code, ldSize_ok, stSizeOf_code, stSize_ok, g.legal, g.op, g.head, fin_ofNat, sregOf_code, ofNat_toNat, chk, Bool.and_self, Bool.and_true, Bool.true_and, Bool.not_true]
  rfl

theorem pmov (h : Head) (d : PReg) (a : PReg) : Statement (.pmov h d a) := by
  intro _
  obtain ⟨g, e0, e5, e10, e15⟩ := goodN h 0x0B (d := d.val) (a := a.val) (b := 0) (fn := 5) (by have := d.isLt; omega) (by have := a.isLt; omega) (by decide) (by decide) (by decide) (by decide)
  refine coded_one g ?_
  simp only [decodeBody, decodePred, e0, e5, e10, e15, Px.isNone, dec4, dec8, dec16, pair_ok, pair_code, ldSizeOf_code, ldSize_ok, stSizeOf_code, stSize_ok, g.legal, g.op, g.head, fin_ofNat, sregOf_code, ofNat_toNat, chk, Bool.and_self, Bool.and_true, Bool.true_and, Bool.not_true]
  rfl

theorem pset (h : Head) (d : PReg) : Statement (.pset h d) := by
  intro _
  obtain ⟨g, e0, e5, e10, e15⟩ := goodN h 0x0B (d := d.val) (a := 0) (b := 0) (fn := 6) (by have := d.isLt; omega) (by decide) (by decide) (by decide) (by decide) (by decide)
  refine coded_one g ?_
  simp only [decodeBody, decodePred, e0, e5, e10, e15, Px.isNone, dec4, dec8, dec16, pair_ok, pair_code, ldSizeOf_code, ldSize_ok, stSizeOf_code, stSize_ok, g.legal, g.op, g.head, fin_ofNat, sregOf_code, ofNat_toNat, chk, Bool.and_self, Bool.and_true, Bool.true_and, Bool.not_true]
  rfl

theorem pclr (h : Head) (d : PReg) : Statement (.pclr h d) := by
  intro _
  obtain ⟨g, e0, e5, e10, e15⟩ := goodN h 0x0B (d := d.val) (a := 0) (b := 0) (fn := 7) (by have := d.isLt; omega) (by decide) (by decide) (by decide) (by decide) (by decide)
  refine coded_one g ?_
  simp only [decodeBody, decodePred, e0, e5, e10, e15, Px.isNone, dec4, dec8, dec16, pair_ok, pair_code, ldSizeOf_code, ldSize_ok, stSizeOf_code, stSize_ok, g.legal, g.op, g.head, fin_ofNat, sregOf_code, ofNat_toNat, chk, Bool.and_self, Bool.and_true, Bool.true_and, Bool.not_true]
  rfl

theorem sext8 (h : Head) (d : SReg) (a : SReg) : Statement (.sext8 h d a) := by
  intro _
  obtain ⟨g, e0, e5, e10, e15⟩ := goodN h 0x0C (d := sregCode d) (a := sregCode a) (b := 0) (fn := 0) (sregCode_lt d) (sregCode_lt a) (by decide) (by decide) (by decide) (by decide)
  refine coded_one g ?_
  simp only [decodeBody, decodeExt, e0, e5, e10, e15, Px.isNone, dec4, dec8, dec16, pair_ok, pair_code, ldSizeOf_code, ldSize_ok, stSizeOf_code, stSize_ok, g.legal, g.op, g.head, fin_ofNat, sregOf_code, ofNat_toNat, chk, Bool.and_self, Bool.and_true, Bool.true_and, Bool.not_true]
  rfl

theorem sext16 (h : Head) (d : SReg) (a : SReg) : Statement (.sext16 h d a) := by
  intro _
  obtain ⟨g, e0, e5, e10, e15⟩ := goodN h 0x0C (d := sregCode d) (a := sregCode a) (b := 0) (fn := 1) (sregCode_lt d) (sregCode_lt a) (by decide) (by decide) (by decide) (by decide)
  refine coded_one g ?_
  simp only [decodeBody, decodeExt, e0, e5, e10, e15, Px.isNone, dec4, dec8, dec16, pair_ok, pair_code, ldSizeOf_code, ldSize_ok, stSizeOf_code, stSize_ok, g.legal, g.op, g.head, fin_ofNat, sregOf_code, ofNat_toNat, chk, Bool.and_self, Bool.and_true, Bool.true_and, Bool.not_true]
  rfl

theorem sext32 (h : Head) (d : SReg) (a : SReg) : Statement (.sext32 h d a) := by
  intro _
  obtain ⟨g, e0, e5, e10, e15⟩ := goodN h 0x0C (d := sregCode d) (a := sregCode a) (b := 0) (fn := 2) (sregCode_lt d) (sregCode_lt a) (by decide) (by decide) (by decide) (by decide)
  refine coded_one g ?_
  simp only [decodeBody, decodeExt, e0, e5, e10, e15, Px.isNone, dec4, dec8, dec16, pair_ok, pair_code, ldSizeOf_code, ldSize_ok, stSizeOf_code, stSize_ok, g.legal, g.op, g.head, fin_ofNat, sregOf_code, ofNat_toNat, chk, Bool.and_self, Bool.and_true, Bool.true_and, Bool.not_true]
  rfl

theorem zext8 (h : Head) (d : SReg) (a : SReg) : Statement (.zext8 h d a) := by
  intro _
  obtain ⟨g, e0, e5, e10, e15⟩ := goodN h 0x0C (d := sregCode d) (a := sregCode a) (b := 0) (fn := 3) (sregCode_lt d) (sregCode_lt a) (by decide) (by decide) (by decide) (by decide)
  refine coded_one g ?_
  simp only [decodeBody, decodeExt, e0, e5, e10, e15, Px.isNone, dec4, dec8, dec16, pair_ok, pair_code, ldSizeOf_code, ldSize_ok, stSizeOf_code, stSize_ok, g.legal, g.op, g.head, fin_ofNat, sregOf_code, ofNat_toNat, chk, Bool.and_self, Bool.and_true, Bool.true_and, Bool.not_true]
  rfl

theorem zext16 (h : Head) (d : SReg) (a : SReg) : Statement (.zext16 h d a) := by
  intro _
  obtain ⟨g, e0, e5, e10, e15⟩ := goodN h 0x0C (d := sregCode d) (a := sregCode a) (b := 0) (fn := 4) (sregCode_lt d) (sregCode_lt a) (by decide) (by decide) (by decide) (by decide)
  refine coded_one g ?_
  simp only [decodeBody, decodeExt, e0, e5, e10, e15, Px.isNone, dec4, dec8, dec16, pair_ok, pair_code, ldSizeOf_code, ldSize_ok, stSizeOf_code, stSize_ok, g.legal, g.op, g.head, fin_ofNat, sregOf_code, ofNat_toNat, chk, Bool.and_self, Bool.and_true, Bool.true_and, Bool.not_true]
  rfl

theorem zext32 (h : Head) (d : SReg) (a : SReg) : Statement (.zext32 h d a) := by
  intro _
  obtain ⟨g, e0, e5, e10, e15⟩ := goodN h 0x0C (d := sregCode d) (a := sregCode a) (b := 0) (fn := 5) (sregCode_lt d) (sregCode_lt a) (by decide) (by decide) (by decide) (by decide)
  refine coded_one g ?_
  simp only [decodeBody, decodeExt, e0, e5, e10, e15, Px.isNone, dec4, dec8, dec16, pair_ok, pair_code, ldSizeOf_code, ldSize_ok, stSizeOf_code, stSize_ok, g.legal, g.op, g.head, fin_ofNat, sregOf_code, ofNat_toNat, chk, Bool.and_self, Bool.and_true, Bool.true_and, Bool.not_true]
  rfl

theorem bswap (h : Head) (d : SReg) (a : SReg) : Statement (.bswap h d a) := by
  intro _
  obtain ⟨g, e0, e5, e10, e15⟩ := goodN h 0x0C (d := sregCode d) (a := sregCode a) (b := 0) (fn := 6) (sregCode_lt d) (sregCode_lt a) (by decide) (by decide) (by decide) (by decide)
  refine coded_one g ?_
  simp only [decodeBody, decodeExt, e0, e5, e10, e15, Px.isNone, dec4, dec8, dec16, pair_ok, pair_code, ldSizeOf_code, ldSize_ok, stSizeOf_code, stSize_ok, g.legal, g.op, g.head, fin_ofNat, sregOf_code, ofNat_toNat, chk, Bool.and_self, Bool.and_true, Bool.true_and, Bool.not_true]
  rfl

theorem ctz (h : Head) (d : SReg) (a : SReg) : Statement (.ctz h d a) := by
  intro _
  obtain ⟨g, e0, e5, e10, e15⟩ := goodN h 0x0C (d := sregCode d) (a := sregCode a) (b := 0) (fn := 7) (sregCode_lt d) (sregCode_lt a) (by decide) (by decide) (by decide) (by decide)
  refine coded_one g ?_
  simp only [decodeBody, decodeExt, e0, e5, e10, e15, Px.isNone, dec4, dec8, dec16, pair_ok, pair_code, ldSizeOf_code, ldSize_ok, stSizeOf_code, stSize_ok, g.legal, g.op, g.head, fin_ofNat, sregOf_code, ofNat_toNat, chk, Bool.and_self, Bool.and_true, Bool.true_and, Bool.not_true]
  rfl

theorem peer (h : Head) (d : SReg) (a : SReg) (b : SReg) : Statement (.peer h d a b) := by
  intro _
  obtain ⟨g, e0, e5, e10, e15⟩ := goodN h 0x0D (d := sregCode d) (a := sregCode a) (b := sregCode b) (fn := 0) (sregCode_lt d) (sregCode_lt a) (sregCode_lt b) (by decide) (by decide) (by decide)
  refine coded_one g ?_
  simp only [decodeBody, decodePeer, e0, e5, e10, e15, Px.isNone, dec4, dec8, dec16, pair_ok, pair_code, ldSizeOf_code, ldSize_ok, stSizeOf_code, stSize_ok, g.legal, g.op, g.head, fin_ofNat, sregOf_code, ofNat_toNat, chk, Bool.and_self, Bool.and_true, Bool.true_and, Bool.not_true]
  rfl

theorem peero (h : Head) (d : SReg) (a : SReg) (b : SReg) : Statement (.peero h d a b) := by
  intro _
  obtain ⟨g, e0, e5, e10, e15⟩ := goodN h 0x0D (d := sregCode d) (a := sregCode a) (b := sregCode b) (fn := 1) (sregCode_lt d) (sregCode_lt a) (sregCode_lt b) (by decide) (by decide) (by decide)
  refine coded_one g ?_
  simp only [decodeBody, decodePeer, e0, e5, e10, e15, Px.isNone, dec4, dec8, dec16, pair_ok, pair_code, ldSizeOf_code, ldSize_ok, stSizeOf_code, stSize_ok, g.legal, g.op, g.head, fin_ofNat, sregOf_code, ofNat_toNat, chk, Bool.and_self, Bool.and_true, Bool.true_and, Bool.not_true]
  rfl

theorem pidx (h : Head) (d : SReg) (a : SReg) : Statement (.pidx h d a) := by
  intro _
  obtain ⟨g, e0, e5, e10, e15⟩ := goodN h 0x0D (d := sregCode d) (a := sregCode a) (b := 0) (fn := 2) (sregCode_lt d) (sregCode_lt a) (by decide) (by decide) (by decide) (by decide)
  refine coded_one g ?_
  simp only [decodeBody, decodePeer, e0, e5, e10, e15, Px.isNone, dec4, dec8, dec16, pair_ok, pair_code, ldSizeOf_code, ldSize_ok, stSizeOf_code, stSize_ok, g.legal, g.op, g.head, fin_ofNat, sregOf_code, ofNat_toNat, chk, Bool.and_self, Bool.and_true, Bool.true_and, Bool.not_true]
  rfl

theorem mand (h : Head) (d : MReg) (a : MReg) (b : MReg) : Statement (.mand h d a b) := by
  intro _
  obtain ⟨g, e0, e5, e10, e15⟩ := goodN h 0x0E (d := d.val) (a := a.val) (b := b.val) (fn := 0) (by have := d.isLt; omega) (by have := a.isLt; omega) (by have := b.isLt; omega) (by decide) (by decide) (by decide)
  refine coded_one g ?_
  simp only [decodeBody, decodeMask, e0, e5, e10, e15, Px.isNone, dec4, dec8, dec16, pair_ok, pair_code, ldSizeOf_code, ldSize_ok, stSizeOf_code, stSize_ok, g.legal, g.op, g.head, fin_ofNat, sregOf_code, ofNat_toNat, chk, Bool.and_self, Bool.and_true, Bool.true_and, Bool.not_true]
  rfl

theorem mor (h : Head) (d : MReg) (a : MReg) (b : MReg) : Statement (.mor h d a b) := by
  intro _
  obtain ⟨g, e0, e5, e10, e15⟩ := goodN h 0x0E (d := d.val) (a := a.val) (b := b.val) (fn := 1) (by have := d.isLt; omega) (by have := a.isLt; omega) (by have := b.isLt; omega) (by decide) (by decide) (by decide)
  refine coded_one g ?_
  simp only [decodeBody, decodeMask, e0, e5, e10, e15, Px.isNone, dec4, dec8, dec16, pair_ok, pair_code, ldSizeOf_code, ldSize_ok, stSizeOf_code, stSize_ok, g.legal, g.op, g.head, fin_ofNat, sregOf_code, ofNat_toNat, chk, Bool.and_self, Bool.and_true, Bool.true_and, Bool.not_true]
  rfl

theorem mxor (h : Head) (d : MReg) (a : MReg) (b : MReg) : Statement (.mxor h d a b) := by
  intro _
  obtain ⟨g, e0, e5, e10, e15⟩ := goodN h 0x0E (d := d.val) (a := a.val) (b := b.val) (fn := 2) (by have := d.isLt; omega) (by have := a.isLt; omega) (by have := b.isLt; omega) (by decide) (by decide) (by decide)
  refine coded_one g ?_
  simp only [decodeBody, decodeMask, e0, e5, e10, e15, Px.isNone, dec4, dec8, dec16, pair_ok, pair_code, ldSizeOf_code, ldSize_ok, stSizeOf_code, stSize_ok, g.legal, g.op, g.head, fin_ofNat, sregOf_code, ofNat_toNat, chk, Bool.and_self, Bool.and_true, Bool.true_and, Bool.not_true]
  rfl

theorem mandn (h : Head) (d : MReg) (a : MReg) (b : MReg) : Statement (.mandn h d a b) := by
  intro _
  obtain ⟨g, e0, e5, e10, e15⟩ := goodN h 0x0E (d := d.val) (a := a.val) (b := b.val) (fn := 3) (by have := d.isLt; omega) (by have := a.isLt; omega) (by have := b.isLt; omega) (by decide) (by decide) (by decide)
  refine coded_one g ?_
  simp only [decodeBody, decodeMask, e0, e5, e10, e15, Px.isNone, dec4, dec8, dec16, pair_ok, pair_code, ldSizeOf_code, ldSize_ok, stSizeOf_code, stSize_ok, g.legal, g.op, g.head, fin_ofNat, sregOf_code, ofNat_toNat, chk, Bool.and_self, Bool.and_true, Bool.true_and, Bool.not_true]
  rfl

theorem mnot (h : Head) (d : MReg) (a : MReg) : Statement (.mnot h d a) := by
  intro _
  obtain ⟨g, e0, e5, e10, e15⟩ := goodN h 0x0E (d := d.val) (a := a.val) (b := 0) (fn := 4) (by have := d.isLt; omega) (by have := a.isLt; omega) (by decide) (by decide) (by decide) (by decide)
  refine coded_one g ?_
  simp only [decodeBody, decodeMask, e0, e5, e10, e15, Px.isNone, dec4, dec8, dec16, pair_ok, pair_code, ldSizeOf_code, ldSize_ok, stSizeOf_code, stSize_ok, g.legal, g.op, g.head, fin_ofNat, sregOf_code, ofNat_toNat, chk, Bool.and_self, Bool.and_true, Bool.true_and, Bool.not_true]
  rfl

theorem mset (h : Head) (d : MReg) (a : SReg) : Statement (.mset h d a) := by
  intro _
  obtain ⟨g, e0, e5, e10, e15⟩ := goodN h 0x0E (d := d.val) (a := sregCode a) (b := 0) (fn := 5) (by have := d.isLt; omega) (sregCode_lt a) (by decide) (by decide) (by decide) (by decide)
  refine coded_one g ?_
  simp only [decodeBody, decodeMask, e0, e5, e10, e15, Px.isNone, dec4, dec8, dec16, pair_ok, pair_code, ldSizeOf_code, ldSize_ok, stSizeOf_code, stSize_ok, g.legal, g.op, g.head, fin_ofNat, sregOf_code, ofNat_toNat, chk, Bool.and_self, Bool.and_true, Bool.true_and, Bool.not_true]
  rfl

theorem mget (h : Head) (d : SReg) (a : MReg) : Statement (.mget h d a) := by
  intro _
  obtain ⟨g, e0, e5, e10, e15⟩ := goodN h 0x0E (d := sregCode d) (a := a.val) (b := 0) (fn := 6) (sregCode_lt d) (by have := a.isLt; omega) (by decide) (by decide) (by decide) (by decide)
  refine coded_one g ?_
  simp only [decodeBody, decodeMask, e0, e5, e10, e15, Px.isNone, dec4, dec8, dec16, pair_ok, pair_code, ldSizeOf_code, ldSize_ok, stSizeOf_code, stSize_ok, g.legal, g.op, g.head, fin_ofNat, sregOf_code, ofNat_toNat, chk, Bool.and_self, Bool.and_true, Bool.true_and, Bool.not_true]
  rfl

theorem mpop (h : Head) (d : SReg) (a : MReg) : Statement (.mpop h d a) := by
  intro _
  obtain ⟨g, e0, e5, e10, e15⟩ := goodN h 0x0E (d := sregCode d) (a := a.val) (b := 0) (fn := 7) (sregCode_lt d) (by have := a.isLt; omega) (by decide) (by decide) (by decide) (by decide)
  refine coded_one g ?_
  simp only [decodeBody, decodeMask, e0, e5, e10, e15, Px.isNone, dec4, dec8, dec16, pair_ok, pair_code, ldSizeOf_code, ldSize_ok, stSizeOf_code, stSize_ok, g.legal, g.op, g.head, fin_ofNat, sregOf_code, ofNat_toNat, chk, Bool.and_self, Bool.and_true, Bool.true_and, Bool.not_true]
  rfl

theorem mfirst (h : Head) (d : SReg) (a : MReg) : Statement (.mfirst h d a) := by
  intro _
  obtain ⟨g, e0, e5, e10, e15⟩ := goodN h 0x0E (d := sregCode d) (a := a.val) (b := 0) (fn := 8) (sregCode_lt d) (by have := a.isLt; omega) (by decide) (by decide) (by decide) (by decide)
  refine coded_one g ?_
  simp only [decodeBody, decodeMask, e0, e5, e10, e15, Px.isNone, dec4, dec8, dec16, pair_ok, pair_code, ldSizeOf_code, ldSize_ok, stSizeOf_code, stSize_ok, g.legal, g.op, g.head, fin_ofNat, sregOf_code, ofNat_toNat, chk, Bool.and_self, Bool.and_true, Bool.true_and, Bool.not_true]
  rfl

theorem b (h : Head) (off : BitVec 20) : Statement (.b h off) := by
  intro wf
  have g := word_good h 0x10 off.toNat off.isLt (by decide) (by decide)
  have e : fld (word h 0x10 off.toNat) 0 20 = off.toNat := by
    rw [word_fld (by decide)]
    have := off.isLt
    simp only [fld]; omega
  refine coded_one g ?_
  simp only [decodeBody, e, Px.isNone, g.legal, g.op, g.head, fin_ofNat, sregOf_code, ofNat_toNat, chk, Bool.and_self, Bool.and_true, Bool.true_and, Bool.not_true, decide_boolCode]
  rfl

theorem call (h : Head) (off : BitVec 20) : Statement (.call h off) := by
  intro wf
  have g := word_good h 0x11 off.toNat off.isLt (by decide) (by decide)
  have e : fld (word h 0x11 off.toNat) 0 20 = off.toNat := by
    rw [word_fld (by decide)]
    have := off.isLt
    simp only [fld]; omega
  refine coded_one g ?_
  simp only [decodeBody, e, Px.isNone, g.legal, g.op, g.head, fin_ofNat, sregOf_code, ofNat_toNat, chk, Bool.and_self, Bool.and_true, Bool.true_and, Bool.not_true, decide_boolCode]
  rfl

theorem jr (h : Head) (a : SReg) : Statement (.jr h a) := by
  intro _
  obtain ⟨g, e0, e5, e10, e15⟩ := goodN h 0x12 (d := 0) (a := sregCode a) (b := 0) (fn := 0) (by decide) (sregCode_lt a) (by decide) (by decide) (by decide) (by decide)
  refine coded_one g ?_
  simp only [decodeBody, decodeJump, e0, e5, e10, e15, Px.isNone, dec4, dec8, dec16, pair_ok, pair_code, ldSizeOf_code, ldSize_ok, stSizeOf_code, stSize_ok, g.legal, g.op, g.head, fin_ofNat, sregOf_code, ofNat_toNat, chk, Bool.and_self, Bool.and_true, Bool.true_and, Bool.not_true]
  rfl

theorem jalr (h : Head) (d : SReg) (a : SReg) : Statement (.jalr h d a) := by
  intro _
  obtain ⟨g, e0, e5, e10, e15⟩ := goodN h 0x12 (d := sregCode d) (a := sregCode a) (b := 0) (fn := 1) (sregCode_lt d) (sregCode_lt a) (by decide) (by decide) (by decide) (by decide)
  refine coded_one g ?_
  simp only [decodeBody, decodeJump, e0, e5, e10, e15, Px.isNone, dec4, dec8, dec16, pair_ok, pair_code, ldSizeOf_code, ldSize_ok, stSizeOf_code, stSize_ok, g.legal, g.op, g.head, fin_ofNat, sregOf_code, ofNat_toNat, chk, Bool.and_self, Bool.and_true, Bool.true_and, Bool.not_true]
  rfl

theorem ret (h : Head) : Statement (.ret h) := by
  intro _
  obtain ⟨g, e0, e5, e10, e15⟩ := goodN h 0x12 (d := 0) (a := 0) (b := 0) (fn := 2) (by decide) (by decide) (by decide) (by decide) (by decide) (by decide)
  refine coded_one g ?_
  simp only [decodeBody, decodeJump, e0, e5, e10, e15, Px.isNone, dec4, dec8, dec16, pair_ok, pair_code, ldSizeOf_code, ldSize_ok, stSizeOf_code, stSize_ok, g.legal, g.op, g.head, fin_ofNat, sregOf_code, ofNat_toNat, chk, Bool.and_self, Bool.and_true, Bool.true_and, Bool.not_true]
  rfl

theorem loopReg (h : Head) (lv : Bool) (ca : SReg) (len : BitVec 13) : Statement (.loopReg h lv ca len) := by
  intro wf
  have f : decide (len ≠ 0) = true := wf
  obtain ⟨g, e1, e2, e3, e4⟩ := goodL0 h (boolCode_lt lv) (sregCode_lt ca) len.isLt
  refine coded_one g ?_
  simp only [decodeBody, e1, e2, e3, e4, f, show ¬ ((0 : Nat) = 1) by decide, if_false, Px.isNone, g.legal, g.op, g.head, fin_ofNat, sregOf_code, ofNat_toNat, chk, Bool.and_self, Bool.and_true, Bool.true_and, Bool.not_true, decide_boolCode]
  rfl

theorem loopImm (h : Head) (x : ImmX) (lv : Bool) (ca : BitVec 5) (len : BitVec 13) : Statement (.loopImm h x lv ca len) := by
  intro wf
  have f : decide (len ≠ 0) = true := wf
  obtain ⟨g, e1, e2, e3, e4⟩ := goodL h (lv := boolCode lv) (i := 1) (ca := ca.toNat) (len := len.toNat) (boolCode_lt lv) (by decide) ca.isLt len.isLt
  simp only [Nat.one_mul] at g e1 e2 e3 e4
  refine codedI g ?_
  simp only [decodeBody, e1, e2, e3, e4, f, if_true, pxI_takes, pxI_immX, g.legal, g.op, g.head, fin_ofNat, sregOf_code, ofNat_toNat, chk, Bool.and_self, Bool.and_true, Bool.true_and, Bool.not_true, decide_boolCode]
  rfl

theorem wait (h : Head) (d : SReg) (a : SReg) : Statement (.wait h d a) := by
  intro _
  obtain ⟨g, e0, e5, e10, e15⟩ := goodN h 0x14 (d := sregCode d) (a := sregCode a) (b := 0) (fn := 0) (sregCode_lt d) (sregCode_lt a) (by decide) (by decide) (by decide) (by decide)
  refine coded_one g ?_
  simp only [decodeBody, decodeControl, e0, e5, e10, e15, Px.isNone, dec4, dec8, dec16, pair_ok, pair_code, ldSizeOf_code, ldSize_ok, stSizeOf_code, stSize_ok, g.legal, g.op, g.head, fin_ofNat, sregOf_code, ofNat_toNat, chk, Bool.and_self, Bool.and_true, Bool.true_and, Bool.not_true]
  rfl

theorem waita (h : Head) (o : OrdX) (d : SReg) (a : SReg) (b : SReg) : Statement (.waita h o d a b) := by
  intro wf
  have f : (ordIn [.rlx, .acq] o && ordNoOfx o) = true := wf
  simp only [Bool.and_eq_true] at f
  obtain ⟨g, e0, e5, e10, e15⟩ := goodN h 0x14 (d := sregCode d) (a := sregCode a) (b := sregCode b) (fn := 1) (sregCode_lt d) (sregCode_lt a) (sregCode_lt b) (by decide) (by decide) (by decide)
  refine codedO g ?_
  simp only [decodeBody, decodeControl, e0, e5, e10, e15, pxO_takes, pxO_ordX, pxO_gid, dec4, dec8, dec16, pair_ok, pair_code, ldSizeOf_code, ldSize_ok, stSizeOf_code, stSize_ok, g.legal, g.op, g.head, fin_ofNat, sregOf_code, ofNat_toNat, chk, f, Bool.and_self, Bool.and_true, Bool.true_and, Bool.not_true]
  rfl

theorem yield (h : Head) : Statement (.yield h) := by
  intro _
  obtain ⟨g, e0, e5, e10, e15⟩ := goodN h 0x14 (d := 0) (a := 0) (b := 0) (fn := 2) (by decide) (by decide) (by decide) (by decide) (by decide) (by decide)
  refine coded_one g ?_
  simp only [decodeBody, decodeControl, e0, e5, e10, e15, Px.isNone, dec4, dec8, dec16, pair_ok, pair_code, ldSizeOf_code, ldSize_ok, stSizeOf_code, stSize_ok, g.legal, g.op, g.head, fin_ofNat, sregOf_code, ofNat_toNat, chk, Bool.and_self, Bool.and_true, Bool.true_and, Bool.not_true]
  rfl

theorem endTask (h : Head) : Statement (.endTask h) := by
  intro _
  obtain ⟨g, e0, e5, e10, e15⟩ := goodN h 0x14 (d := 0) (a := 0) (b := 0) (fn := 3) (by decide) (by decide) (by decide) (by decide) (by decide) (by decide)
  refine coded_one g ?_
  simp only [decodeBody, decodeControl, e0, e5, e10, e15, Px.isNone, dec4, dec8, dec16, pair_ok, pair_code, ldSizeOf_code, ldSize_ok, stSizeOf_code, stSize_ok, g.legal, g.op, g.head, fin_ofNat, sregOf_code, ofNat_toNat, chk, Bool.and_self, Bool.and_true, Bool.true_and, Bool.not_true]
  rfl

theorem trap (h : Head) (a : SReg) : Statement (.trap h a) := by
  intro _
  obtain ⟨g, e0, e5, e10, e15⟩ := goodN h 0x14 (d := 0) (a := sregCode a) (b := 0) (fn := 4) (by decide) (sregCode_lt a) (by decide) (by decide) (by decide) (by decide)
  refine coded_one g ?_
  simp only [decodeBody, decodeControl, e0, e5, e10, e15, Px.isNone, dec4, dec8, dec16, pair_ok, pair_code, ldSizeOf_code, ldSize_ok, stSizeOf_code, stSize_ok, g.legal, g.op, g.head, fin_ofNat, sregOf_code, ofNat_toNat, chk, Bool.and_self, Bool.and_true, Bool.true_and, Bool.not_true]
  rfl

theorem isync (h : Head) : Statement (.isync h) := by
  intro _
  obtain ⟨g, e0, e5, e10, e15⟩ := goodN h 0x14 (d := 0) (a := 0) (b := 0) (fn := 5) (by decide) (by decide) (by decide) (by decide) (by decide) (by decide)
  refine coded_one g ?_
  simp only [decodeBody, decodeControl, e0, e5, e10, e15, Px.isNone, dec4, dec8, dec16, pair_ok, pair_code, ldSizeOf_code, ldSize_ok, stSizeOf_code, stSize_ok, g.legal, g.op, g.head, fin_ofNat, sregOf_code, ofNat_toNat, chk, Bool.and_self, Bool.and_true, Bool.true_and, Bool.not_true]
  rfl

theorem nop (h : Head) : Statement (.nop h) := by
  intro _
  obtain ⟨g, e0, e5, e10, e15⟩ := goodN h 0x14 (d := 0) (a := 0) (b := 0) (fn := 6) (by decide) (by decide) (by decide) (by decide) (by decide) (by decide)
  refine coded_one g ?_
  simp only [decodeBody, decodeControl, e0, e5, e10, e15, Px.isNone, dec4, dec8, dec16, pair_ok, pair_code, ldSizeOf_code, ldSize_ok, stSizeOf_code, stSize_ok, g.legal, g.op, g.head, fin_ofNat, sregOf_code, ofNat_toNat, chk, Bool.and_self, Bool.and_true, Bool.true_and, Bool.not_true]
  rfl

theorem csrw (h : Head) (d : SReg) (a : SReg) (csr : BitVec 10) : Statement (.csrw h d a csr) := by
  intro wf
  have f : (csrAssigned csr) = true := wf
  obtain ⟨g, e0, e10, e15, e06, e62, e82⟩ := goodI h 0x15 (d := sregCode d) (a := sregCode a) (m := csr.toNat) (sregCode_lt d) (sregCode_lt a) (by have := csr.isLt; omega) (by decide) (by decide)
  refine coded_one g ?_
  simp only [decodeBody, e0, e10, e15, e06, e62, e82, Px.isNone, dec4, dec8, dec16, pair_ok, pair_code, ldSizeOf_code, ldSize_ok, stSizeOf_code, stSize_ok, g.legal, g.op, g.head, fin_ofNat, sregOf_code, ofNat_toNat, chk, f, Bool.and_self, Bool.and_true, Bool.true_and, Bool.not_true]
  rfl

theorem csrs (h : Head) (d : SReg) (a : SReg) (csr : BitVec 10) : Statement (.csrs h d a csr) := by
  intro wf
  have f : (csrAssigned csr) = true := wf
  obtain ⟨g, e0, e10, e15, e06, e62, e82⟩ := goodI h 0x16 (d := sregCode d) (a := sregCode a) (m := csr.toNat) (sregCode_lt d) (sregCode_lt a) (by have := csr.isLt; omega) (by decide) (by decide)
  refine coded_one g ?_
  simp only [decodeBody, e0, e10, e15, e06, e62, e82, Px.isNone, dec4, dec8, dec16, pair_ok, pair_code, ldSizeOf_code, ldSize_ok, stSizeOf_code, stSize_ok, g.legal, g.op, g.head, fin_ofNat, sregOf_code, ofNat_toNat, chk, f, Bool.and_self, Bool.and_true, Bool.true_and, Bool.not_true]
  rfl

theorem csrc (h : Head) (d : SReg) (a : SReg) (csr : BitVec 10) : Statement (.csrc h d a csr) := by
  intro wf
  have f : (csrAssigned csr) = true := wf
  obtain ⟨g, e0, e10, e15, e06, e62, e82⟩ := goodI h 0x17 (d := sregCode d) (a := sregCode a) (m := csr.toNat) (sregCode_lt d) (sregCode_lt a) (by have := csr.isLt; omega) (by decide) (by decide)
  refine coded_one g ?_
  simp only [decodeBody, e0, e10, e15, e06, e62, e82, Px.isNone, dec4, dec8, dec16, pair_ok, pair_code, ldSizeOf_code, ldSize_ok, stSizeOf_code, stSize_ok, g.legal, g.op, g.head, fin_ofNat, sregOf_code, ofNat_toNat, chk, f, Bool.and_self, Bool.and_true, Bool.true_and, Bool.not_true]
  rfl

theorem ld (h : Head) (x : ImmX) (d : SReg) (a : SReg) (sz : LdSize) (off : BitVec 7) : Statement (.ld h x d a sz off) := by
  intro _
  obtain ⟨g, e0, e7, e10, e15⟩ := goodM h 0x18 (d := sregCode d) (a := sregCode a) (sz := ldSizeCode sz) (m := off.toNat) (sregCode_lt d) (sregCode_lt a) (ldSizeCode_lt sz) (by have := off.isLt; omega) (by decide) (by decide)
  refine codedI g ?_
  simp only [decodeBody, e0, e7, e10, e15, pxI_takes, pxI_immX, dec4, dec8, dec16, pair_ok, pair_code, ldSizeOf_code, ldSize_ok, stSizeOf_code, stSize_ok, g.legal, g.op, g.head, fin_ofNat, sregOf_code, ofNat_toNat, chk, Bool.and_self, Bool.and_true, Bool.true_and, Bool.not_true]
  rfl

theorem st (h : Head) (x : ImmX) (d : SReg) (a : SReg) (sz : StSize) (off : BitVec 7) : Statement (.st h x d a sz off) := by
  intro _
  obtain ⟨g, e0, e7, e10, e15⟩ := goodM h 0x19 (d := sregCode d) (a := sregCode a) (sz := stSizeCode sz) (m := off.toNat) (sregCode_lt d) (sregCode_lt a) (stSizeCode_lt sz) (by have := off.isLt; omega) (by decide) (by decide)
  refine codedI g ?_
  simp only [decodeBody, e0, e7, e10, e15, pxI_takes, pxI_immX, dec4, dec8, dec16, pair_ok, pair_code, ldSizeOf_code, ldSize_ok, stSizeOf_code, stSize_ok, g.legal, g.op, g.head, fin_ofNat, sregOf_code, ofNat_toNat, chk, Bool.and_self, Bool.and_true, Bool.true_and, Bool.not_true]
  rfl

theorem vld (h : Head) (x : ImmX) (d : VNum) (a : SReg) (off : BitVec 7) : Statement (.vld h x d a off) := by
  intro _
  obtain ⟨g, e0, e7, e10, e15⟩ := goodM h 0x1A (d := d.val) (a := sregCode a) (sz := 4) (m := off.toNat) (by have := d.isLt; omega) (sregCode_lt a) (by decide) (by have := off.isLt; omega) (by decide) (by decide)
  refine codedI g ?_
  simp only [decodeBody, e0, e7, e10, e15, pxI_takes, pxI_immX, dec4, dec8, dec16, pair_ok, pair_code, ldSizeOf_code, ldSize_ok, stSizeOf_code, stSize_ok, g.legal, g.op, g.head, fin_ofNat, sregOf_code, ofNat_toNat, chk, Bool.and_self, Bool.and_true, Bool.true_and, Bool.not_true]
  rfl

theorem vst (h : Head) (x : ImmX) (d : VNum) (a : SReg) (off : BitVec 7) : Statement (.vst h x d a off) := by
  intro _
  obtain ⟨g, e0, e7, e10, e15⟩ := goodM h 0x1B (d := d.val) (a := sregCode a) (sz := 4) (m := off.toNat) (by have := d.isLt; omega) (sregCode_lt a) (by decide) (by have := off.isLt; omega) (by decide) (by decide)
  refine codedI g ?_
  simp only [decodeBody, e0, e7, e10, e15, pxI_takes, pxI_immX, dec4, dec8, dec16, pair_ok, pair_code, ldSizeOf_code, ldSize_ok, stSizeOf_code, stSize_ok, g.legal, g.op, g.head, fin_ofNat, sregOf_code, ofNat_toNat, chk, Bool.and_self, Bool.and_true, Bool.true_and, Bool.not_true]
  rfl

theorem vgathI32 (h : Head) (d : VNum) (a : SReg) (b : VNum) (mk : MaskX) : Statement (.vgathI32 h d a b mk) := by
  intro wf
  obtain ⟨g, e0, e1, e2, e3, e4, e5, e6⟩ := goodG h 0 mk d.isLt (sregCode_lt a) b.isLt (by decide)
  refine coded_one g ?_
  simp only [decodeBody, decodeGather, e0, e1, e2, e3, e4, e5, e6, maskOf_code, mask_ok, Px.isNone, g.legal, g.op, g.head, fin_ofNat, sregOf_code, ofNat_toNat, chk, Bool.and_self, Bool.and_true, Bool.true_and, Bool.not_true, decide_boolCode]
  rfl

theorem vscatI32 (h : Head) (d : VNum) (a : SReg) (b : VNum) (mk : MaskX) : Statement (.vscatI32 h d a b mk) := by
  intro wf
  obtain ⟨g, e0, e1, e2, e3, e4, e5, e6⟩ := goodG h 1 mk d.isLt (sregCode_lt a) b.isLt (by decide)
  refine coded_one g ?_
  simp only [decodeBody, decodeGather, e0, e1, e2, e3, e4, e5, e6, maskOf_code, mask_ok, Px.isNone, g.legal, g.op, g.head, fin_ofNat, sregOf_code, ofNat_toNat, chk, Bool.and_self, Bool.and_true, Bool.true_and, Bool.not_true, decide_boolCode]
  rfl

theorem vgathI16 (h : Head) (d : VNum) (a : SReg) (b : VNum) (mk : MaskX) : Statement (.vgathI16 h d a b mk) := by
  intro wf
  obtain ⟨g, e0, e1, e2, e3, e4, e5, e6⟩ := goodG h 2 mk d.isLt (sregCode_lt a) b.isLt (by decide)
  refine coded_one g ?_
  simp only [decodeBody, decodeGather, e0, e1, e2, e3, e4, e5, e6, maskOf_code, mask_ok, Px.isNone, g.legal, g.op, g.head, fin_ofNat, sregOf_code, ofNat_toNat, chk, Bool.and_self, Bool.and_true, Bool.true_and, Bool.not_true, decide_boolCode]
  rfl

theorem vscatI16 (h : Head) (d : VNum) (a : SReg) (b : VNum) (mk : MaskX) : Statement (.vscatI16 h d a b mk) := by
  intro wf
  obtain ⟨g, e0, e1, e2, e3, e4, e5, e6⟩ := goodG h 3 mk d.isLt (sregCode_lt a) b.isLt (by decide)
  refine coded_one g ?_
  simp only [decodeBody, decodeGather, e0, e1, e2, e3, e4, e5, e6, maskOf_code, mask_ok, Px.isNone, g.legal, g.op, g.head, fin_ofNat, sregOf_code, ofNat_toNat, chk, Bool.and_self, Bool.and_true, Bool.true_and, Bool.not_true, decide_boolCode]
  rfl

theorem qldQb8 (h : Head) (d : VNum) (a : SReg) (b : SReg) : Statement (.qldQb8 h d a b) := by
  intro _
  obtain ⟨g, e0, e5, e10, e15⟩ := goodN h 0x1D (d := d.val) (a := sregCode a) (b := sregCode b) (fn := 0) (by have := d.isLt; omega) (sregCode_lt a) (sregCode_lt b) (by decide) (by decide) (by decide)
  refine coded_one g ?_
  simp only [decodeBody, decodeQld, e0, e5, e10, e15, Px.isNone, dec4, dec8, dec16, pair_ok, pair_code, ldSizeOf_code, ldSize_ok, stSizeOf_code, stSize_ok, g.legal, g.op, g.head, fin_ofNat, sregOf_code, ofNat_toNat, chk, Bool.and_self, Bool.and_true, Bool.true_and, Bool.not_true]
  rfl

theorem qldQb4 (h : Head) (d : VNum) (a : SReg) (b : SReg) : Statement (.qldQb4 h d a b) := by
  intro _
  obtain ⟨g, e0, e5, e10, e15⟩ := goodN h 0x1D (d := d.val) (a := sregCode a) (b := sregCode b) (fn := 1) (by have := d.isLt; omega) (sregCode_lt a) (sregCode_lt b) (by decide) (by decide) (by decide)
  refine coded_one g ?_
  simp only [decodeBody, decodeQld, e0, e5, e10, e15, Px.isNone, dec4, dec8, dec16, pair_ok, pair_code, ldSizeOf_code, ldSize_ok, stSizeOf_code, stSize_ok, g.legal, g.op, g.head, fin_ofNat, sregOf_code, ofNat_toNat, chk, Bool.and_self, Bool.and_true, Bool.true_and, Bool.not_true]
  rfl

theorem qstQb8 (h : Head) (d : VNum) (a : SReg) (b : SReg) : Statement (.qstQb8 h d a b) := by
  intro _
  obtain ⟨g, e0, e5, e10, e15⟩ := goodN h 0x1D (d := d.val) (a := sregCode a) (b := sregCode b) (fn := 2) (by have := d.isLt; omega) (sregCode_lt a) (sregCode_lt b) (by decide) (by decide) (by decide)
  refine coded_one g ?_
  simp only [decodeBody, decodeQld, e0, e5, e10, e15, Px.isNone, dec4, dec8, dec16, pair_ok, pair_code, ldSizeOf_code, ldSize_ok, stSizeOf_code, stSize_ok, g.legal, g.op, g.head, fin_ofNat, sregOf_code, ofNat_toNat, chk, Bool.and_self, Bool.and_true, Bool.true_and, Bool.not_true]
  rfl

theorem qstQb4 (h : Head) (d : VNum) (a : SReg) (b : SReg) : Statement (.qstQb4 h d a b) := by
  intro _
  obtain ⟨g, e0, e5, e10, e15⟩ := goodN h 0x1D (d := d.val) (a := sregCode a) (b := sregCode b) (fn := 3) (by have := d.isLt; omega) (sregCode_lt a) (sregCode_lt b) (by decide) (by decide) (by decide)
  refine coded_one g ?_
  simp only [decodeBody, decodeQld, e0, e5, e10, e15, Px.isNone, dec4, dec8, dec16, pair_ok, pair_code, ldSizeOf_code, ldSize_ok, stSizeOf_code, stSize_ok, g.legal, g.op, g.head, fin_ofNat, sregOf_code, ofNat_toNat, chk, Bool.and_self, Bool.and_true, Bool.true_and, Bool.not_true]
  rfl

theorem rld (h : Head) (x : RemX) (d : SReg) (a : SReg) (sz : LdSize) (off : BitVec 7) : Statement (.rld h x d a sz off) := by
  intro wf
  have f : (remIn [.rlx, .acq] x) = true := wf
  obtain ⟨g, e0, e7, e10, e15⟩ := goodM h 0x20 (d := sregCode d) (a := sregCode a) (sz := ldSizeCode sz) (m := off.toNat) (sregCode_lt d) (sregCode_lt a) (ldSizeCode_lt sz) (by have := off.isLt; omega) (by decide) (by decide)
  refine codedR g ?_
  simp only [decodeBody, e0, e7, e10, e15, pxR_takes, pxR_remX, pxR_gid, dec4, dec8, dec16, pair_ok, pair_code, ldSizeOf_code, ldSize_ok, stSizeOf_code, stSize_ok, g.legal, g.op, g.head, fin_ofNat, sregOf_code, ofNat_toNat, chk, f, Bool.and_self, Bool.and_true, Bool.true_and, Bool.not_true]
  rfl

theorem rst (h : Head) (x : RemX) (d : SReg) (a : SReg) (sz : StSize) (off : BitVec 7) : Statement (.rst h x d a sz off) := by
  intro wf
  have f : (remIn [.rlx, .rel] x) = true := wf
  obtain ⟨g, e0, e7, e10, e15⟩ := goodM h 0x21 (d := sregCode d) (a := sregCode a) (sz := stSizeCode sz) (m := off.toNat) (sregCode_lt d) (sregCode_lt a) (stSizeCode_lt sz) (by have := off.isLt; omega) (by decide) (by decide)
  refine codedR g ?_
  simp only [decodeBody, e0, e7, e10, e15, pxR_takes, pxR_remX, pxR_gid, dec4, dec8, dec16, pair_ok, pair_code, ldSizeOf_code, ldSize_ok, stSizeOf_code, stSize_ok, g.legal, g.op, g.head, fin_ofNat, sregOf_code, ofNat_toNat, chk, f, Bool.and_self, Bool.and_true, Bool.true_and, Bool.not_true]
  rfl

theorem atomAdd (h : Head) (o : OrdX) (d : SReg) (a : SReg) (b : SReg) (w : Bool) : Statement (.atomAdd h o d a b w) := by
  intro wf
  have f : (ordIn [.rlx, .acq, .rel, .ar] o && ordNoOfx o) = true := wf
  simp only [Bool.and_eq_true] at f
  obtain ⟨g, e0, e5, e10, e15⟩ := goodN h 0x22 (d := sregCode d) (a := sregCode a) (b := sregCode b) (fn := boolCode w * 16 + 0) (sregCode_lt d) (sregCode_lt a) (sregCode_lt b) (by have := boolCode_lt w; omega) (by decide) (by decide)
  obtain ⟨a0, a4⟩ := fnW h 0x22 (d := sregCode d) (a := sregCode a) (b := sregCode b) (n := 0) w (by decide)
  refine codedO g ?_
  simp only [decodeBody, decodeAtom, e0, e5, e10, e15, decide_boolCode, a0, a4, pxO_takes, pxO_ordX, pxO_gid, dec4, dec8, dec16, pair_ok, pair_code, ldSizeOf_code, ldSize_ok, stSizeOf_code, stSize_ok, g.legal, g.op, g.head, fin_ofNat, sregOf_code, ofNat_toNat, chk, f, Bool.and_self, Bool.and_true, Bool.true_and, Bool.not_true]
  rfl

theorem atomSub (h : Head) (o : OrdX) (d : SReg) (a : SReg) (b : SReg) (w : Bool) : Statement (.atomSub h o d a b w) := by
  intro wf
  have f : (ordIn [.rlx, .acq, .rel, .ar] o && ordNoOfx o) = true := wf
  simp only [Bool.and_eq_true] at f
  obtain ⟨g, e0, e5, e10, e15⟩ := goodN h 0x22 (d := sregCode d) (a := sregCode a) (b := sregCode b) (fn := boolCode w * 16 + 1) (sregCode_lt d) (sregCode_lt a) (sregCode_lt b) (by have := boolCode_lt w; omega) (by decide) (by decide)
  obtain ⟨a0, a4⟩ := fnW h 0x22 (d := sregCode d) (a := sregCode a) (b := sregCode b) (n := 1) w (by decide)
  refine codedO g ?_
  simp only [decodeBody, decodeAtom, e0, e5, e10, e15, decide_boolCode, a0, a4, pxO_takes, pxO_ordX, pxO_gid, dec4, dec8, dec16, pair_ok, pair_code, ldSizeOf_code, ldSize_ok, stSizeOf_code, stSize_ok, g.legal, g.op, g.head, fin_ofNat, sregOf_code, ofNat_toNat, chk, f, Bool.and_self, Bool.and_true, Bool.true_and, Bool.not_true]
  rfl

theorem atomAnd (h : Head) (o : OrdX) (d : SReg) (a : SReg) (b : SReg) (w : Bool) : Statement (.atomAnd h o d a b w) := by
  intro wf
  have f : (ordIn [.rlx, .acq, .rel, .ar] o && ordNoOfx o) = true := wf
  simp only [Bool.and_eq_true] at f
  obtain ⟨g, e0, e5, e10, e15⟩ := goodN h 0x22 (d := sregCode d) (a := sregCode a) (b := sregCode b) (fn := boolCode w * 16 + 2) (sregCode_lt d) (sregCode_lt a) (sregCode_lt b) (by have := boolCode_lt w; omega) (by decide) (by decide)
  obtain ⟨a0, a4⟩ := fnW h 0x22 (d := sregCode d) (a := sregCode a) (b := sregCode b) (n := 2) w (by decide)
  refine codedO g ?_
  simp only [decodeBody, decodeAtom, e0, e5, e10, e15, decide_boolCode, a0, a4, pxO_takes, pxO_ordX, pxO_gid, dec4, dec8, dec16, pair_ok, pair_code, ldSizeOf_code, ldSize_ok, stSizeOf_code, stSize_ok, g.legal, g.op, g.head, fin_ofNat, sregOf_code, ofNat_toNat, chk, f, Bool.and_self, Bool.and_true, Bool.true_and, Bool.not_true]
  rfl

theorem atomOr (h : Head) (o : OrdX) (d : SReg) (a : SReg) (b : SReg) (w : Bool) : Statement (.atomOr h o d a b w) := by
  intro wf
  have f : (ordIn [.rlx, .acq, .rel, .ar] o && ordNoOfx o) = true := wf
  simp only [Bool.and_eq_true] at f
  obtain ⟨g, e0, e5, e10, e15⟩ := goodN h 0x22 (d := sregCode d) (a := sregCode a) (b := sregCode b) (fn := boolCode w * 16 + 3) (sregCode_lt d) (sregCode_lt a) (sregCode_lt b) (by have := boolCode_lt w; omega) (by decide) (by decide)
  obtain ⟨a0, a4⟩ := fnW h 0x22 (d := sregCode d) (a := sregCode a) (b := sregCode b) (n := 3) w (by decide)
  refine codedO g ?_
  simp only [decodeBody, decodeAtom, e0, e5, e10, e15, decide_boolCode, a0, a4, pxO_takes, pxO_ordX, pxO_gid, dec4, dec8, dec16, pair_ok, pair_code, ldSizeOf_code, ldSize_ok, stSizeOf_code, stSize_ok, g.legal, g.op, g.head, fin_ofNat, sregOf_code, ofNat_toNat, chk, f, Bool.and_self, Bool.and_true, Bool.true_and, Bool.not_true]
  rfl

theorem atomXor (h : Head) (o : OrdX) (d : SReg) (a : SReg) (b : SReg) (w : Bool) : Statement (.atomXor h o d a b w) := by
  intro wf
  have f : (ordIn [.rlx, .acq, .rel, .ar] o && ordNoOfx o) = true := wf
  simp only [Bool.and_eq_true] at f
  obtain ⟨g, e0, e5, e10, e15⟩ := goodN h 0x22 (d := sregCode d) (a := sregCode a) (b := sregCode b) (fn := boolCode w * 16 + 4) (sregCode_lt d) (sregCode_lt a) (sregCode_lt b) (by have := boolCode_lt w; omega) (by decide) (by decide)
  obtain ⟨a0, a4⟩ := fnW h 0x22 (d := sregCode d) (a := sregCode a) (b := sregCode b) (n := 4) w (by decide)
  refine codedO g ?_
  simp only [decodeBody, decodeAtom, e0, e5, e10, e15, decide_boolCode, a0, a4, pxO_takes, pxO_ordX, pxO_gid, dec4, dec8, dec16, pair_ok, pair_code, ldSizeOf_code, ldSize_ok, stSizeOf_code, stSize_ok, g.legal, g.op, g.head, fin_ofNat, sregOf_code, ofNat_toNat, chk, f, Bool.and_self, Bool.and_true, Bool.true_and, Bool.not_true]
  rfl

theorem atomMin (h : Head) (o : OrdX) (d : SReg) (a : SReg) (b : SReg) (w : Bool) : Statement (.atomMin h o d a b w) := by
  intro wf
  have f : (ordIn [.rlx, .acq, .rel, .ar] o && ordNoOfx o) = true := wf
  simp only [Bool.and_eq_true] at f
  obtain ⟨g, e0, e5, e10, e15⟩ := goodN h 0x22 (d := sregCode d) (a := sregCode a) (b := sregCode b) (fn := boolCode w * 16 + 5) (sregCode_lt d) (sregCode_lt a) (sregCode_lt b) (by have := boolCode_lt w; omega) (by decide) (by decide)
  obtain ⟨a0, a4⟩ := fnW h 0x22 (d := sregCode d) (a := sregCode a) (b := sregCode b) (n := 5) w (by decide)
  refine codedO g ?_
  simp only [decodeBody, decodeAtom, e0, e5, e10, e15, decide_boolCode, a0, a4, pxO_takes, pxO_ordX, pxO_gid, dec4, dec8, dec16, pair_ok, pair_code, ldSizeOf_code, ldSize_ok, stSizeOf_code, stSize_ok, g.legal, g.op, g.head, fin_ofNat, sregOf_code, ofNat_toNat, chk, f, Bool.and_self, Bool.and_true, Bool.true_and, Bool.not_true]
  rfl

theorem atomMax (h : Head) (o : OrdX) (d : SReg) (a : SReg) (b : SReg) (w : Bool) : Statement (.atomMax h o d a b w) := by
  intro wf
  have f : (ordIn [.rlx, .acq, .rel, .ar] o && ordNoOfx o) = true := wf
  simp only [Bool.and_eq_true] at f
  obtain ⟨g, e0, e5, e10, e15⟩ := goodN h 0x22 (d := sregCode d) (a := sregCode a) (b := sregCode b) (fn := boolCode w * 16 + 6) (sregCode_lt d) (sregCode_lt a) (sregCode_lt b) (by have := boolCode_lt w; omega) (by decide) (by decide)
  obtain ⟨a0, a4⟩ := fnW h 0x22 (d := sregCode d) (a := sregCode a) (b := sregCode b) (n := 6) w (by decide)
  refine codedO g ?_
  simp only [decodeBody, decodeAtom, e0, e5, e10, e15, decide_boolCode, a0, a4, pxO_takes, pxO_ordX, pxO_gid, dec4, dec8, dec16, pair_ok, pair_code, ldSizeOf_code, ldSize_ok, stSizeOf_code, stSize_ok, g.legal, g.op, g.head, fin_ofNat, sregOf_code, ofNat_toNat, chk, f, Bool.and_self, Bool.and_true, Bool.true_and, Bool.not_true]
  rfl

theorem atomMinu (h : Head) (o : OrdX) (d : SReg) (a : SReg) (b : SReg) (w : Bool) : Statement (.atomMinu h o d a b w) := by
  intro wf
  have f : (ordIn [.rlx, .acq, .rel, .ar] o && ordNoOfx o) = true := wf
  simp only [Bool.and_eq_true] at f
  obtain ⟨g, e0, e5, e10, e15⟩ := goodN h 0x22 (d := sregCode d) (a := sregCode a) (b := sregCode b) (fn := boolCode w * 16 + 7) (sregCode_lt d) (sregCode_lt a) (sregCode_lt b) (by have := boolCode_lt w; omega) (by decide) (by decide)
  obtain ⟨a0, a4⟩ := fnW h 0x22 (d := sregCode d) (a := sregCode a) (b := sregCode b) (n := 7) w (by decide)
  refine codedO g ?_
  simp only [decodeBody, decodeAtom, e0, e5, e10, e15, decide_boolCode, a0, a4, pxO_takes, pxO_ordX, pxO_gid, dec4, dec8, dec16, pair_ok, pair_code, ldSizeOf_code, ldSize_ok, stSizeOf_code, stSize_ok, g.legal, g.op, g.head, fin_ofNat, sregOf_code, ofNat_toNat, chk, f, Bool.and_self, Bool.and_true, Bool.true_and, Bool.not_true]
  rfl

theorem atomMaxu (h : Head) (o : OrdX) (d : SReg) (a : SReg) (b : SReg) (w : Bool) : Statement (.atomMaxu h o d a b w) := by
  intro wf
  have f : (ordIn [.rlx, .acq, .rel, .ar] o && ordNoOfx o) = true := wf
  simp only [Bool.and_eq_true] at f
  obtain ⟨g, e0, e5, e10, e15⟩ := goodN h 0x22 (d := sregCode d) (a := sregCode a) (b := sregCode b) (fn := boolCode w * 16 + 8) (sregCode_lt d) (sregCode_lt a) (sregCode_lt b) (by have := boolCode_lt w; omega) (by decide) (by decide)
  obtain ⟨a0, a4⟩ := fnW h 0x22 (d := sregCode d) (a := sregCode a) (b := sregCode b) (n := 8) w (by decide)
  refine codedO g ?_
  simp only [decodeBody, decodeAtom, e0, e5, e10, e15, decide_boolCode, a0, a4, pxO_takes, pxO_ordX, pxO_gid, dec4, dec8, dec16, pair_ok, pair_code, ldSizeOf_code, ldSize_ok, stSizeOf_code, stSize_ok, g.legal, g.op, g.head, fin_ofNat, sregOf_code, ofNat_toNat, chk, f, Bool.and_self, Bool.and_true, Bool.true_and, Bool.not_true]
  rfl

theorem atomSwap (h : Head) (o : OrdX) (d : SReg) (a : SReg) (b : SReg) (w : Bool) : Statement (.atomSwap h o d a b w) := by
  intro wf
  have f : (ordIn [.rlx, .acq, .rel, .ar] o && ordNoOfx o) = true := wf
  simp only [Bool.and_eq_true] at f
  obtain ⟨g, e0, e5, e10, e15⟩ := goodN h 0x22 (d := sregCode d) (a := sregCode a) (b := sregCode b) (fn := boolCode w * 16 + 9) (sregCode_lt d) (sregCode_lt a) (sregCode_lt b) (by have := boolCode_lt w; omega) (by decide) (by decide)
  obtain ⟨a0, a4⟩ := fnW h 0x22 (d := sregCode d) (a := sregCode a) (b := sregCode b) (n := 9) w (by decide)
  refine codedO g ?_
  simp only [decodeBody, decodeAtom, e0, e5, e10, e15, decide_boolCode, a0, a4, pxO_takes, pxO_ordX, pxO_gid, dec4, dec8, dec16, pair_ok, pair_code, ldSizeOf_code, ldSize_ok, stSizeOf_code, stSize_ok, g.legal, g.op, g.head, fin_ofNat, sregOf_code, ofNat_toNat, chk, f, Bool.and_self, Bool.and_true, Bool.true_and, Bool.not_true]
  rfl

theorem atomCas (h : Head) (o : OrdX) (d : SReg) (a : SReg) (b : SReg) (w : Bool) : Statement (.atomCas h o d a b w) := by
  intro wf
  have f : (ordIn [.rlx, .acq, .rel, .ar] o && ordNoOfx o) = true := wf
  simp only [Bool.and_eq_true] at f
  obtain ⟨g, e0, e5, e10, e15⟩ := goodN h 0x22 (d := sregCode d) (a := sregCode a) (b := sregCode b) (fn := boolCode w * 16 + 10) (sregCode_lt d) (sregCode_lt a) (sregCode_lt b) (by have := boolCode_lt w; omega) (by decide) (by decide)
  obtain ⟨a0, a4⟩ := fnW h 0x22 (d := sregCode d) (a := sregCode a) (b := sregCode b) (n := 10) w (by decide)
  refine codedO g ?_
  simp only [decodeBody, decodeAtom, e0, e5, e10, e15, decide_boolCode, a0, a4, pxO_takes, pxO_ordX, pxO_gid, dec4, dec8, dec16, pair_ok, pair_code, ldSizeOf_code, ldSize_ok, stSizeOf_code, stSize_ok, g.legal, g.op, g.head, fin_ofNat, sregOf_code, ofNat_toNat, chk, f, Bool.and_self, Bool.and_true, Bool.true_and, Bool.not_true]
  rfl

theorem atomFaddF32 (h : Head) (o : OrdX) (d : SReg) (a : SReg) (b : SReg) : Statement (.atomFaddF32 h o d a b) := by
  intro wf
  have f : (ordIn [.rlx, .acq, .rel, .ar] o && ordNoOfx o) = true := wf
  simp only [Bool.and_eq_true] at f
  obtain ⟨g, e0, e5, e10, e15⟩ := goodN h 0x22 (d := sregCode d) (a := sregCode a) (b := sregCode b) (fn := 27) (sregCode_lt d) (sregCode_lt a) (sregCode_lt b) (by decide) (by decide) (by decide)
  obtain ⟨a0, a4⟩ := fnA h 0x22 (d := sregCode d) (a := sregCode a) (b := sregCode b) (fn := 27) (by decide)
  refine codedO g ?_
  simp only [decodeBody, decodeAtom, e0, e5, e10, e15, a0, a4, pxO_takes, pxO_ordX, pxO_gid, dec4, dec8, dec16, pair_ok, pair_code, ldSizeOf_code, ldSize_ok, stSizeOf_code, stSize_ok, g.legal, g.op, g.head, fin_ofNat, sregOf_code, ofNat_toNat, chk, f, Bool.and_self, Bool.and_true, Bool.true_and, Bool.not_true]
  rfl

theorem atomBadd (h : Head) (o : OrdX) (d : SReg) (a : SReg) (b : SReg) : Statement (.atomBadd h o d a b) := by
  intro wf
  have f : (ordIn [.rlx, .acq, .rel, .ar] o && ordNoOfx o) = true := wf
  simp only [Bool.and_eq_true] at f
  obtain ⟨g, e0, e5, e10, e15⟩ := goodN h 0x22 (d := sregCode d) (a := sregCode a) (b := sregCode b) (fn := 12) (sregCode_lt d) (sregCode_lt a) (sregCode_lt b) (by decide) (by decide) (by decide)
  obtain ⟨a0, a4⟩ := fnA h 0x22 (d := sregCode d) (a := sregCode a) (b := sregCode b) (fn := 12) (by decide)
  refine codedO g ?_
  simp only [decodeBody, decodeAtom, e0, e5, e10, e15, a0, a4, pxO_takes, pxO_ordX, pxO_gid, dec4, dec8, dec16, pair_ok, pair_code, ldSizeOf_code, ldSize_ok, stSizeOf_code, stSize_ok, g.legal, g.op, g.head, fin_ofNat, sregOf_code, ofNat_toNat, chk, f, Bool.and_self, Bool.and_true, Bool.true_and, Bool.not_true]
  rfl

theorem fenceAcq (h : Head) (sc : Scope) : Statement (.fenceAcq h sc) := by
  intro wf
  obtain ⟨g, e0, e1, e2, e3⟩ := goodF h 1 sc (by decide)
  refine coded_one g ?_
  simp only [decodeBody, decodeFence, e0, e1, e2, e3, scopeOf_code, scope_ok, Px.isNone, g.legal, g.op, g.head, fin_ofNat, sregOf_code, ofNat_toNat, chk, Bool.and_self, Bool.and_true, Bool.true_and, Bool.not_true, decide_boolCode]
  rfl

theorem fenceRel (h : Head) (sc : Scope) : Statement (.fenceRel h sc) := by
  intro wf
  obtain ⟨g, e0, e1, e2, e3⟩ := goodF h 2 sc (by decide)
  refine coded_one g ?_
  simp only [decodeBody, decodeFence, e0, e1, e2, e3, scopeOf_code, scope_ok, Px.isNone, g.legal, g.op, g.head, fin_ofNat, sregOf_code, ofNat_toNat, chk, Bool.and_self, Bool.and_true, Bool.true_and, Bool.not_true, decide_boolCode]
  rfl

theorem fenceAr (h : Head) (sc : Scope) : Statement (.fenceAr h sc) := by
  intro wf
  obtain ⟨g, e0, e1, e2, e3⟩ := goodF h 3 sc (by decide)
  refine coded_one g ?_
  simp only [decodeBody, decodeFence, e0, e1, e2, e3, scopeOf_code, scope_ok, Px.isNone, g.legal, g.op, g.head, fin_ofNat, sregOf_code, ofNat_toNat, chk, Bool.and_self, Bool.and_true, Bool.true_and, Bool.not_true, decide_boolCode]
  rfl

theorem rvld (h : Head) (o : OrdX) (d : VNum) (a : SReg) (b : SReg) : Statement (.rvld h o d a b) := by
  intro wf
  have f : (ordIn [.rlx, .acq] o && ordNoOfx o) = true := wf
  simp only [Bool.and_eq_true] at f
  obtain ⟨g, e0, e5, e10, e15⟩ := goodN h 0x24 (d := d.val) (a := sregCode a) (b := sregCode b) (fn := 0) (by have := d.isLt; omega) (sregCode_lt a) (sregCode_lt b) (by decide) (by decide) (by decide)
  refine codedO g ?_
  simp only [decodeBody, decodeRvld, e0, e5, e10, e15, pxO_takes, pxO_ordX, pxO_gid, dec4, dec8, dec16, pair_ok, pair_code, ldSizeOf_code, ldSize_ok, stSizeOf_code, stSize_ok, g.legal, g.op, g.head, fin_ofNat, sregOf_code, ofNat_toNat, chk, f, Bool.and_self, Bool.and_true, Bool.true_and, Bool.not_true]
  rfl

theorem rvst (h : Head) (o : OrdX) (d : VNum) (a : SReg) (b : SReg) : Statement (.rvst h o d a b) := by
  intro wf
  have f : (ordIn [.rlx, .rel] o && ordNoOfx o) = true := wf
  simp only [Bool.and_eq_true] at f
  obtain ⟨g, e0, e5, e10, e15⟩ := goodN h 0x25 (d := d.val) (a := sregCode a) (b := sregCode b) (fn := 0) (by have := d.isLt; omega) (sregCode_lt a) (sregCode_lt b) (by decide) (by decide) (by decide)
  refine codedO g ?_
  simp only [decodeBody, decodeRvst, e0, e5, e10, e15, pxO_takes, pxO_ordX, pxO_gid, dec4, dec8, dec16, pair_ok, pair_code, ldSizeOf_code, ldSize_ok, stSizeOf_code, stSize_ok, g.legal, g.op, g.head, fin_ofNat, sregOf_code, ofNat_toNat, chk, f, Bool.and_self, Bool.and_true, Bool.true_and, Bool.not_true]
  rfl

theorem tdecl (h : Head) (a : SReg) (b : SReg) : Statement (.tdecl h a b) := by
  intro _
  obtain ⟨g, e0, e5, e10, e15⟩ := goodN h 0x28 (d := 0) (a := sregCode a) (b := sregCode b) (fn := 0) (by decide) (sregCode_lt a) (sregCode_lt b) (by decide) (by decide) (by decide)
  refine coded_one g ?_
  simp only [decodeBody, decodeToken, e0, e5, e10, e15, Px.isNone, dec4, dec8, dec16, pair_ok, pair_code, ldSizeOf_code, ldSize_ok, stSizeOf_code, stSize_ok, g.legal, g.op, g.head, fin_ofNat, sregOf_code, ofNat_toNat, chk, Bool.and_self, Bool.and_true, Bool.true_and, Bool.not_true]
  rfl

theorem tlend (h : Head) (a : SReg) (b : SReg) : Statement (.tlend h a b) := by
  intro _
  obtain ⟨g, e0, e5, e10, e15⟩ := goodN h 0x28 (d := 0) (a := sregCode a) (b := sregCode b) (fn := 1) (by decide) (sregCode_lt a) (sregCode_lt b) (by decide) (by decide) (by decide)
  refine coded_one g ?_
  simp only [decodeBody, decodeToken, e0, e5, e10, e15, Px.isNone, dec4, dec8, dec16, pair_ok, pair_code, ldSizeOf_code, ldSize_ok, stSizeOf_code, stSize_ok, g.legal, g.op, g.head, fin_ofNat, sregOf_code, ofNat_toNat, chk, Bool.and_self, Bool.and_true, Bool.true_and, Bool.not_true]
  rfl

theorem tret (h : Head) (a : SReg) : Statement (.tret h a) := by
  intro _
  obtain ⟨g, e0, e5, e10, e15⟩ := goodN h 0x28 (d := 0) (a := sregCode a) (b := 0) (fn := 2) (by decide) (sregCode_lt a) (by decide) (by decide) (by decide) (by decide)
  refine coded_one g ?_
  simp only [decodeBody, decodeToken, e0, e5, e10, e15, Px.isNone, dec4, dec8, dec16, pair_ok, pair_code, ldSizeOf_code, ldSize_ok, stSizeOf_code, stSize_ok, g.legal, g.op, g.head, fin_ofNat, sregOf_code, ofNat_toNat, chk, Bool.and_self, Bool.and_true, Bool.true_and, Bool.not_true]
  rfl

theorem tsplit (h : Head) (a : SReg) (b : SReg) : Statement (.tsplit h a b) := by
  intro _
  obtain ⟨g, e0, e5, e10, e15⟩ := goodN h 0x28 (d := 0) (a := sregCode a) (b := sregCode b) (fn := 3) (by decide) (sregCode_lt a) (sregCode_lt b) (by decide) (by decide) (by decide)
  refine coded_one g ?_
  simp only [decodeBody, decodeToken, e0, e5, e10, e15, Px.isNone, dec4, dec8, dec16, pair_ok, pair_code, ldSizeOf_code, ldSize_ok, stSizeOf_code, stSize_ok, g.legal, g.op, g.head, fin_ofNat, sregOf_code, ofNat_toNat, chk, Bool.and_self, Bool.and_true, Bool.true_and, Bool.not_true]
  rfl

theorem tjoin (h : Head) (a : SReg) : Statement (.tjoin h a) := by
  intro _
  obtain ⟨g, e0, e5, e10, e15⟩ := goodN h 0x28 (d := 0) (a := sregCode a) (b := 0) (fn := 4) (by decide) (sregCode_lt a) (by decide) (by decide) (by decide) (by decide)
  refine coded_one g ?_
  simp only [decodeBody, decodeToken, e0, e5, e10, e15, Px.isNone, dec4, dec8, dec16, pair_ok, pair_code, ldSizeOf_code, ldSize_ok, stSizeOf_code, stSize_ok, g.legal, g.op, g.head, fin_ofNat, sregOf_code, ofNat_toNat, chk, Bool.and_self, Bool.and_true, Bool.true_and, Bool.not_true]
  rfl

theorem tshare (h : Head) (a : SReg) (b : SReg) : Statement (.tshare h a b) := by
  intro _
  obtain ⟨g, e0, e5, e10, e15⟩ := goodN h 0x28 (d := 0) (a := sregCode a) (b := sregCode b) (fn := 5) (by decide) (sregCode_lt a) (sregCode_lt b) (by decide) (by decide) (by decide)
  refine coded_one g ?_
  simp only [decodeBody, decodeToken, e0, e5, e10, e15, Px.isNone, dec4, dec8, dec16, pair_ok, pair_code, ldSizeOf_code, ldSize_ok, stSizeOf_code, stSize_ok, g.legal, g.op, g.head, fin_ofNat, sregOf_code, ofNat_toNat, chk, Bool.and_self, Bool.and_true, Bool.true_and, Bool.not_true]
  rfl

theorem tunsh (h : Head) (a : SReg) : Statement (.tunsh h a) := by
  intro _
  obtain ⟨g, e0, e5, e10, e15⟩ := goodN h 0x28 (d := 0) (a := sregCode a) (b := 0) (fn := 6) (by decide) (sregCode_lt a) (by decide) (by decide) (by decide) (by decide)
  refine coded_one g ?_
  simp only [decodeBody, decodeToken, e0, e5, e10, e15, Px.isNone, dec4, dec8, dec16, pair_ok, pair_code, ldSizeOf_code, ldSize_ok, stSizeOf_code, stSize_ok, g.legal, g.op, g.head, fin_ofNat, sregOf_code, ofNat_toNat, chk, Bool.and_self, Bool.and_true, Bool.true_and, Bool.not_true]
  rfl

theorem tqry (h : Head) (d : SReg) (a : SReg) (b : SReg) : Statement (.tqry h d a b) := by
  intro _
  obtain ⟨g, e0, e5, e10, e15⟩ := goodN h 0x28 (d := sregCode d) (a := sregCode a) (b := sregCode b) (fn := 7) (sregCode_lt d) (sregCode_lt a) (sregCode_lt b) (by decide) (by decide) (by decide)
  refine coded_one g ?_
  simp only [decodeBody, decodeToken, e0, e5, e10, e15, Px.isNone, dec4, dec8, dec16, pair_ok, pair_code, ldSizeOf_code, ldSize_ok, stSizeOf_code, stSize_ok, g.legal, g.op, g.head, fin_ofNat, sregOf_code, ofNat_toNat, chk, Bool.and_self, Bool.and_true, Bool.true_and, Bool.not_true]
  rfl

theorem trecl (h : Head) (a : SReg) : Statement (.trecl h a) := by
  intro _
  obtain ⟨g, e0, e5, e10, e15⟩ := goodN h 0x28 (d := 0) (a := sregCode a) (b := 0) (fn := 8) (by decide) (sregCode_lt a) (by decide) (by decide) (by decide) (by decide)
  refine coded_one g ?_
  simp only [decodeBody, decodeToken, e0, e5, e10, e15, Px.isNone, dec4, dec8, dec16, pair_ok, pair_code, ldSizeOf_code, ldSize_ok, stSizeOf_code, stSize_ok, g.legal, g.op, g.head, fin_ofNat, sregOf_code, ofNat_toNat, chk, Bool.and_self, Bool.and_true, Bool.true_and, Bool.not_true]
  rfl

theorem tclean (h : Head) (a : SReg) (b : SReg) : Statement (.tclean h a b) := by
  intro _
  obtain ⟨g, e0, e5, e10, e15⟩ := goodN h 0x28 (d := 0) (a := sregCode a) (b := sregCode b) (fn := 9) (by decide) (sregCode_lt a) (sregCode_lt b) (by decide) (by decide) (by decide)
  refine coded_one g ?_
  simp only [decodeBody, decodeToken, e0, e5, e10, e15, Px.isNone, dec4, dec8, dec16, pair_ok, pair_code, ldSizeOf_code, ldSize_ok, stSizeOf_code, stSize_ok, g.legal, g.op, g.head, fin_ofNat, sregOf_code, ofNat_toNat, chk, Bool.and_self, Bool.and_true, Bool.true_and, Bool.not_true]
  rfl

theorem send (h : Head) (o : OrdX) (d : BitVec 3) (a : SReg) (b : SReg) : Statement (.send h o d a b) := by
  intro wf
  have f : (ordIn [.rlx, .rel] o && ordNoOfx o) = true := wf
  simp only [Bool.and_eq_true] at f
  obtain ⟨g, e0, e5, e10, e15⟩ := goodN h 0x2C (d := d.toNat * 4) (a := sregCode a) (b := sregCode b) (fn := 0) (by have := d.isLt; omega) (sregCode_lt a) (sregCode_lt b) (by decide) (by decide) (by decide)
  obtain ⟨s1, s2⟩ := sendField d
  refine codedO g ?_
  simp only [decodeBody, decodeMessage, e0, e5, e10, e15, s1, s2, pxO_takes, pxO_ordX, pxO_gid, dec4, dec8, dec16, pair_ok, pair_code, ldSizeOf_code, ldSize_ok, stSizeOf_code, stSize_ok, g.legal, g.op, g.head, fin_ofNat, sregOf_code, ofNat_toNat, chk, f, Bool.and_self, Bool.and_true, Bool.true_and, Bool.not_true]
  rfl

theorem sendr (h : Head) (o : OrdX) (a : SReg) (b : SReg) : Statement (.sendr h o a b) := by
  intro wf
  have f : (ordIn [.rlx, .rel] o && ordNoOfx o) = true := wf
  simp only [Bool.and_eq_true] at f
  obtain ⟨g, e0, e5, e10, e15⟩ := goodN h 0x2C (d := 0) (a := sregCode a) (b := sregCode b) (fn := 1) (by decide) (sregCode_lt a) (sregCode_lt b) (by decide) (by decide) (by decide)
  refine codedO g ?_
  simp only [decodeBody, decodeMessage, e0, e5, e10, e15, pxO_takes, pxO_ordX, pxO_gid, dec4, dec8, dec16, pair_ok, pair_code, ldSizeOf_code, ldSize_ok, stSizeOf_code, stSize_ok, g.legal, g.op, g.head, fin_ofNat, sregOf_code, ofNat_toNat, chk, f, Bool.and_self, Bool.and_true, Bool.true_and, Bool.not_true]
  rfl

theorem door (h : Head) (o : OrdX) (d : SReg) (a : SReg) (b : SReg) : Statement (.door h o d a b) := by
  intro wf
  have f : (ordIn [.rlx] o && ordNoOfx o) = true := wf
  simp only [Bool.and_eq_true] at f
  obtain ⟨g, e0, e5, e10, e15⟩ := goodN h 0x2C (d := sregCode d) (a := sregCode a) (b := sregCode b) (fn := 2) (sregCode_lt d) (sregCode_lt a) (sregCode_lt b) (by decide) (by decide) (by decide)
  refine codedO g ?_
  simp only [decodeBody, decodeMessage, e0, e5, e10, e15, pxO_takes, pxO_ordX, pxO_gid, dec4, dec8, dec16, pair_ok, pair_code, ldSizeOf_code, ldSize_ok, stSizeOf_code, stSize_ok, g.legal, g.op, g.head, fin_ofNat, sregOf_code, ofNat_toNat, chk, f, Bool.and_self, Bool.and_true, Bool.true_and, Bool.not_true]
  rfl

theorem doorq (h : Head) (o : OrdX) (d : SReg) (a : SReg) : Statement (.doorq h o d a) := by
  intro wf
  have f : (ordIn [.rlx] o && ordNoOfx o) = true := wf
  simp only [Bool.and_eq_true] at f
  obtain ⟨g, e0, e5, e10, e15⟩ := goodN h 0x2C (d := sregCode d) (a := sregCode a) (b := 0) (fn := 3) (sregCode_lt d) (sregCode_lt a) (by decide) (by decide) (by decide) (by decide)
  refine codedO g ?_
  simp only [decodeBody, decodeMessage, e0, e5, e10, e15, pxO_takes, pxO_ordX, pxO_gid, dec4, dec8, dec16, pair_ok, pair_code, ldSizeOf_code, ldSize_ok, stSizeOf_code, stSize_ok, g.legal, g.op, g.head, fin_ofNat, sregOf_code, ofNat_toNat, chk, f, Bool.and_self, Bool.and_true, Bool.true_and, Bool.not_true]
  rfl

theorem submit (h : Head) (o : OrdX) (a : SReg) (b : SReg) : Statement (.submit h o a b) := by
  intro wf
  have f : (ordIn [.rlx, .rel] o && ordNoOfx o) = true := wf
  simp only [Bool.and_eq_true] at f
  obtain ⟨g, e0, e5, e10, e15⟩ := goodN h 0x2C (d := 0) (a := sregCode a) (b := sregCode b) (fn := 4) (by decide) (sregCode_lt a) (sregCode_lt b) (by decide) (by decide) (by decide)
  refine codedO g ?_
  simp only [decodeBody, decodeMessage, e0, e5, e10, e15, pxO_takes, pxO_ordX, pxO_gid, dec4, dec8, dec16, pair_ok, pair_code, ldSizeOf_code, ldSize_ok, stSizeOf_code, stSize_ok, g.legal, g.op, g.head, fin_ofNat, sregOf_code, ofNat_toNat, chk, f, Bool.and_self, Bool.and_true, Bool.true_and, Bool.not_true]
  rfl

theorem ckpt (h : Head) (o : OrdX) (a : SReg) (b : SReg) : Statement (.ckpt h o a b) := by
  intro wf
  have f : (ordIn [.rlx, .rel] o && ordNoOfx o) = true := wf
  simp only [Bool.and_eq_true] at f
  obtain ⟨g, e0, e5, e10, e15⟩ := goodN h 0x2C (d := 0) (a := sregCode a) (b := sregCode b) (fn := 5) (by decide) (sregCode_lt a) (sregCode_lt b) (by decide) (by decide) (by decide)
  refine codedO g ?_
  simp only [decodeBody, decodeMessage, e0, e5, e10, e15, pxO_takes, pxO_ordX, pxO_gid, dec4, dec8, dec16, pair_ok, pair_code, ldSizeOf_code, ldSize_ok, stSizeOf_code, stSize_ok, g.legal, g.op, g.head, fin_ofNat, sregOf_code, ofNat_toNat, chk, f, Bool.and_self, Bool.and_true, Bool.true_and, Bool.not_true]
  rfl

theorem cpy (h : Head) (o : OrdX) (a : SReg) (b : SReg) : Statement (.cpy h o a b) := by
  intro wf
  have f : (ordIn [.rlx, .rel] o && ordNoOfx o) = true := wf
  simp only [Bool.and_eq_true] at f
  obtain ⟨g, e0, e5, e10, e15⟩ := goodN h 0x2D (d := 0) (a := sregCode a) (b := sregCode b) (fn := 0) (by decide) (sregCode_lt a) (sregCode_lt b) (by decide) (by decide) (by decide)
  refine codedO g ?_
  simp only [decodeBody, decodeCopy, e0, e5, e10, e15, pxO_takes, pxO_ordX, pxO_gid, dec4, dec8, dec16, pair_ok, pair_code, ldSizeOf_code, ldSize_ok, stSizeOf_code, stSize_ok, g.legal, g.op, g.head, fin_ofNat, sregOf_code, ofNat_toNat, chk, f, Bool.and_self, Bool.and_true, Bool.true_and, Bool.not_true]
  rfl

theorem cpyq (h : Head) (d : SReg) : Statement (.cpyq h d) := by
  intro _
  obtain ⟨g, e0, e5, e10, e15⟩ := goodN h 0x2D (d := sregCode d) (a := 0) (b := 0) (fn := 1) (sregCode_lt d) (by decide) (by decide) (by decide) (by decide) (by decide)
  refine coded_one g ?_
  simp only [decodeBody, decodeCopy, e0, e5, e10, e15, Px.isNone, dec4, dec8, dec16, pair_ok, pair_code, ldSizeOf_code, ldSize_ok, stSizeOf_code, stSize_ok, g.legal, g.op, g.head, fin_ofNat, sregOf_code, ofNat_toNat, chk, Bool.and_self, Bool.and_true, Bool.true_and, Bool.not_true]
  rfl

theorem cpyx (h : Head) (o : OrdX) (a : SReg) (b : SReg) : Statement (.cpyx h o a b) := by
  intro wf
  have f : (ordIn [.rlx, .rel] o && ordNoOfx o) = true := wf
  simp only [Bool.and_eq_true] at f
  obtain ⟨g, e0, e5, e10, e15⟩ := goodN h 0x2D (d := 0) (a := sregCode a) (b := sregCode b) (fn := 2) (by decide) (sregCode_lt a) (sregCode_lt b) (by decide) (by decide) (by decide)
  refine codedO g ?_
  simp only [decodeBody, decodeCopy, e0, e5, e10, e15, pxO_takes, pxO_ordX, pxO_gid, dec4, dec8, dec16, pair_ok, pair_code, ldSizeOf_code, ldSize_ok, stSizeOf_code, stSize_ok, g.legal, g.op, g.head, fin_ofNat, sregOf_code, ofNat_toNat, chk, f, Bool.and_self, Bool.and_true, Bool.true_and, Bool.not_true]
  rfl

theorem vaddI32 (h : Head) (x : VecX) (d : VNum) (a : VNum) (b : VNum) (mk : MaskX) : Statement (.vaddI32 h x d a b mk) := by
  intro wf
  have f : (vecFmt ⟨false, false, 1, 0, []⟩ x && vecRsv ⟨false, false, 1, 0, []⟩ x b) = true := wf
  simp only [Bool.and_eq_true] at f
  obtain ⟨g, e0, e4, e7, e8, e12, e16⟩ := goodV h 0x30 (d := d.val) (a := a.val) (b := b.val) (fn := 0) _ _ _ (mask_bits mk 7 4) (by have := d.isLt; omega) (by have := a.isLt; omega) (by have := b.isLt; omega) (me_lt mk) (mk_lt mk) (by decide) (by decide) (by decide)
  refine codedV g ?_
  simp only [decodeBody, decodeVecInt, e0, e4, e7, e8, e12, e16, maskOf_code, mask_ok, pxV_takes, pxV_codes, pxV_vecX, dec4, dec8, dec16, pair_ok, pair_code, ldSizeOf_code, ldSize_ok, stSizeOf_code, stSize_ok, g.legal, g.op, g.head, fin_ofNat, sregOf_code, ofNat_toNat, chk, f, Bool.and_self, Bool.and_true, Bool.true_and, Bool.not_true]
  rfl

theorem vsubI32 (h : Head) (x : VecX) (d : VNum) (a : VNum) (b : VNum) (mk : MaskX) : Statement (.vsubI32 h x d a b mk) := by
  intro wf
  have f : (vecFmt ⟨false, false, 1, 0, []⟩ x && vecRsv ⟨false, false, 1, 0, []⟩ x b) = true := wf
  simp only [Bool.and_eq_true] at f
  obtain ⟨g, e0, e4, e7, e8, e12, e16⟩ := goodV h 0x30 (d := d.val) (a := a.val) (b := b.val) (fn := 1) _ _ _ (mask_bits mk 7 4) (by have := d.isLt; omega) (by have := a.isLt; omega) (by have := b.isLt; omega) (me_lt mk) (mk_lt mk) (by decide) (by decide) (by decide)
  refine codedV g ?_
  simp only [decodeBody, decodeVecInt, e0, e4, e7, e8, e12, e16, maskOf_code, mask_ok, pxV_takes, pxV_codes, pxV_vecX, dec4, dec8, dec16, pair_ok, pair_code, ldSizeOf_code, ldSize_ok, stSizeOf_code, stSize_ok, g.legal, g.op, g.head, fin_ofNat, sregOf_code, ofNat_toNat, chk, f, Bool.and_self, Bool.and_true, Bool.true_and, Bool.not_true]
  rfl

theorem vmulI32 (h : Head) (x : VecX) (d : VNum) (a : VNum) (b : VNum) (mk : MaskX) : Statement (.vmulI32 h x d a b mk) := by
  intro wf
  have f : (vecFmt ⟨false, false, 1, 0, []⟩ x && vecRsv ⟨false, false, 1, 0, []⟩ x b) = true := wf
  simp only [Bool.and_eq_true] at f
  obtain ⟨g, e0, e4, e7, e8, e12, e16⟩ := goodV h 0x30 (d := d.val) (a := a.val) (b := b.val) (fn := 2) _ _ _ (mask_bits mk 7 4) (by have := d.isLt; omega) (by have := a.isLt; omega) (by have := b.isLt; omega) (me_lt mk) (mk_lt mk) (by decide) (by decide) (by decide)
  refine codedV g ?_
  simp only [decodeBody, decodeVecInt, e0, e4, e7, e8, e12, e16, maskOf_code, mask_ok, pxV_takes, pxV_codes, pxV_vecX, dec4, dec8, dec16, pair_ok, pair_code, ldSizeOf_code, ldSize_ok, stSizeOf_code, stSize_ok, g.legal, g.op, g.head, fin_ofNat, sregOf_code, ofNat_toNat, chk, f, Bool.and_self, Bool.and_true, Bool.true_and, Bool.not_true]
  rfl

theorem vmulhI32 (h : Head) (x : VecX) (d : VNum) (a : VNum) (b : VNum) (mk : MaskX) : Statement (.vmulhI32 h x d a b mk) := by
  intro wf
  have f : (vecFmt ⟨false, false, 1, 0, []⟩ x && vecRsv ⟨false, false, 1, 0, []⟩ x b) = true := wf
  simp only [Bool.and_eq_true] at f
  obtain ⟨g, e0, e4, e7, e8, e12, e16⟩ := goodV h 0x30 (d := d.val) (a := a.val) (b := b.val) (fn := 3) _ _ _ (mask_bits mk 7 4) (by have := d.isLt; omega) (by have := a.isLt; omega) (by have := b.isLt; omega) (me_lt mk) (mk_lt mk) (by decide) (by decide) (by decide)
  refine codedV g ?_
  simp only [decodeBody, decodeVecInt, e0, e4, e7, e8, e12, e16, maskOf_code, mask_ok, pxV_takes, pxV_codes, pxV_vecX, dec4, dec8, dec16, pair_ok, pair_code, ldSizeOf_code, ldSize_ok, stSizeOf_code, stSize_ok, g.legal, g.op, g.head, fin_ofNat, sregOf_code, ofNat_toNat, chk, f, Bool.and_self, Bool.and_true, Bool.true_and, Bool.not_true]
  rfl

theorem vminI32 (h : Head) (x : VecX) (d : VNum) (a : VNum) (b : VNum) (mk : MaskX) : Statement (.vminI32 h x d a b mk) := by
  intro wf
  have f : (vecFmt ⟨false, false, 1, 0, []⟩ x && vecRsv ⟨false, false, 1, 0, []⟩ x b) = true := wf
  simp only [Bool.and_eq_true] at f
  obtain ⟨g, e0, e4, e7, e8, e12, e16⟩ := goodV h 0x30 (d := d.val) (a := a.val) (b := b.val) (fn := 4) _ _ _ (mask_bits mk 7 4) (by have := d.isLt; omega) (by have := a.isLt; omega) (by have := b.isLt; omega) (me_lt mk) (mk_lt mk) (by decide) (by decide) (by decide)
  refine codedV g ?_
  simp only [decodeBody, decodeVecInt, e0, e4, e7, e8, e12, e16, maskOf_code, mask_ok, pxV_takes, pxV_codes, pxV_vecX, dec4, dec8, dec16, pair_ok, pair_code, ldSizeOf_code, ldSize_ok, stSizeOf_code, stSize_ok, g.legal, g.op, g.head, fin_ofNat, sregOf_code, ofNat_toNat, chk, f, Bool.and_self, Bool.and_true, Bool.true_and, Bool.not_true]
  rfl

theorem vmaxI32 (h : Head) (x : VecX) (d : VNum) (a : VNum) (b : VNum) (mk : MaskX) : Statement (.vmaxI32 h x d a b mk) := by
  intro wf
  have f : (vecFmt ⟨false, false, 1, 0, []⟩ x && vecRsv ⟨false, false, 1, 0, []⟩ x b) = true := wf
  simp only [Bool.and_eq_true] at f
  obtain ⟨g, e0, e4, e7, e8, e12, e16⟩ := goodV h 0x30 (d := d.val) (a := a.val) (b := b.val) (fn := 5) _ _ _ (mask_bits mk 7 4) (by have := d.isLt; omega) (by have := a.isLt; omega) (by have := b.isLt; omega) (me_lt mk) (mk_lt mk) (by decide) (by decide) (by decide)
  refine codedV g ?_
  simp only [decodeBody, decodeVecInt, e0, e4, e7, e8, e12, e16, maskOf_code, mask_ok, pxV_takes, pxV_codes, pxV_vecX, dec4, dec8, dec16, pair_ok, pair_code, ldSizeOf_code, ldSize_ok, stSizeOf_code, stSize_ok, g.legal, g.op, g.head, fin_ofNat, sregOf_code, ofNat_toNat, chk, f, Bool.and_self, Bool.and_true, Bool.true_and, Bool.not_true]
  rfl

theorem vand (h : Head) (x : VecX) (d : VNum) (a : VNum) (b : VNum) (mk : MaskX) : Statement (.vand h x d a b mk) := by
  intro wf
  have f : (vecFmt ⟨false, false, 1, 0, []⟩ x && vecRsv ⟨false, false, 1, 0, []⟩ x b) = true := wf
  simp only [Bool.and_eq_true] at f
  obtain ⟨g, e0, e4, e7, e8, e12, e16⟩ := goodV h 0x30 (d := d.val) (a := a.val) (b := b.val) (fn := 6) _ _ _ (mask_bits mk 7 4) (by have := d.isLt; omega) (by have := a.isLt; omega) (by have := b.isLt; omega) (me_lt mk) (mk_lt mk) (by decide) (by decide) (by decide)
  refine codedV g ?_
  simp only [decodeBody, decodeVecInt, e0, e4, e7, e8, e12, e16, maskOf_code, mask_ok, pxV_takes, pxV_codes, pxV_vecX, dec4, dec8, dec16, pair_ok, pair_code, ldSizeOf_code, ldSize_ok, stSizeOf_code, stSize_ok, g.legal, g.op, g.head, fin_ofNat, sregOf_code, ofNat_toNat, chk, f, Bool.and_self, Bool.and_true, Bool.true_and, Bool.not_true]
  rfl

theorem vor (h : Head) (x : VecX) (d : VNum) (a : VNum) (b : VNum) (mk : MaskX) : Statement (.vor h x d a b mk) := by
  intro wf
  have f : (vecFmt ⟨false, false, 1, 0, []⟩ x && vecRsv ⟨false, false, 1, 0, []⟩ x b) = true := wf
  simp only [Bool.and_eq_true] at f
  obtain ⟨g, e0, e4, e7, e8, e12, e16⟩ := goodV h 0x30 (d := d.val) (a := a.val) (b := b.val) (fn := 7) _ _ _ (mask_bits mk 7 4) (by have := d.isLt; omega) (by have := a.isLt; omega) (by have := b.isLt; omega) (me_lt mk) (mk_lt mk) (by decide) (by decide) (by decide)
  refine codedV g ?_
  simp only [decodeBody, decodeVecInt, e0, e4, e7, e8, e12, e16, maskOf_code, mask_ok, pxV_takes, pxV_codes, pxV_vecX, dec4, dec8, dec16, pair_ok, pair_code, ldSizeOf_code, ldSize_ok, stSizeOf_code, stSize_ok, g.legal, g.op, g.head, fin_ofNat, sregOf_code, ofNat_toNat, chk, f, Bool.and_self, Bool.and_true, Bool.true_and, Bool.not_true]
  rfl

theorem vxor (h : Head) (x : VecX) (d : VNum) (a : VNum) (b : VNum) (mk : MaskX) : Statement (.vxor h x d a b mk) := by
  intro wf
  have f : (vecFmt ⟨false, false, 1, 0, []⟩ x && vecRsv ⟨false, false, 1, 0, []⟩ x b) = true := wf
  simp only [Bool.and_eq_true] at f
  obtain ⟨g, e0, e4, e7, e8, e12, e16⟩ := goodV h 0x30 (d := d.val) (a := a.val) (b := b.val) (fn := 8) _ _ _ (mask_bits mk 7 4) (by have := d.isLt; omega) (by have := a.isLt; omega) (by have := b.isLt; omega) (me_lt mk) (mk_lt mk) (by decide) (by decide) (by decide)
  refine codedV g ?_
  simp only [decodeBody, decodeVecInt, e0, e4, e7, e8, e12, e16, maskOf_code, mask_ok, pxV_takes, pxV_codes, pxV_vecX, dec4, dec8, dec16, pair_ok, pair_code, ldSizeOf_code, ldSize_ok, stSizeOf_code, stSize_ok, g.legal, g.op, g.head, fin_ofNat, sregOf_code, ofNat_toNat, chk, f, Bool.and_self, Bool.and_true, Bool.true_and, Bool.not_true]
  rfl

theorem vsll (h : Head) (x : VecX) (d : VNum) (a : VNum) (b : VNum) (mk : MaskX) : Statement (.vsll h x d a b mk) := by
  intro wf
  have f : (vecFmt ⟨false, false, 1, 0, []⟩ x && vecRsv ⟨false, false, 1, 0, []⟩ x b) = true := wf
  simp only [Bool.and_eq_true] at f
  obtain ⟨g, e0, e4, e7, e8, e12, e16⟩ := goodV h 0x30 (d := d.val) (a := a.val) (b := b.val) (fn := 9) _ _ _ (mask_bits mk 7 4) (by have := d.isLt; omega) (by have := a.isLt; omega) (by have := b.isLt; omega) (me_lt mk) (mk_lt mk) (by decide) (by decide) (by decide)
  refine codedV g ?_
  simp only [decodeBody, decodeVecInt, e0, e4, e7, e8, e12, e16, maskOf_code, mask_ok, pxV_takes, pxV_codes, pxV_vecX, dec4, dec8, dec16, pair_ok, pair_code, ldSizeOf_code, ldSize_ok, stSizeOf_code, stSize_ok, g.legal, g.op, g.head, fin_ofNat, sregOf_code, ofNat_toNat, chk, f, Bool.and_self, Bool.and_true, Bool.true_and, Bool.not_true]
  rfl

theorem vsrl (h : Head) (x : VecX) (d : VNum) (a : VNum) (b : VNum) (mk : MaskX) : Statement (.vsrl h x d a b mk) := by
  intro wf
  have f : (vecFmt ⟨false, false, 1, 0, []⟩ x && vecRsv ⟨false, false, 1, 0, []⟩ x b) = true := wf
  simp only [Bool.and_eq_true] at f
  obtain ⟨g, e0, e4, e7, e8, e12, e16⟩ := goodV h 0x30 (d := d.val) (a := a.val) (b := b.val) (fn := 10) _ _ _ (mask_bits mk 7 4) (by have := d.isLt; omega) (by have := a.isLt; omega) (by have := b.isLt; omega) (me_lt mk) (mk_lt mk) (by decide) (by decide) (by decide)
  refine codedV g ?_
  simp only [decodeBody, decodeVecInt, e0, e4, e7, e8, e12, e16, maskOf_code, mask_ok, pxV_takes, pxV_codes, pxV_vecX, dec4, dec8, dec16, pair_ok, pair_code, ldSizeOf_code, ldSize_ok, stSizeOf_code, stSize_ok, g.legal, g.op, g.head, fin_ofNat, sregOf_code, ofNat_toNat, chk, f, Bool.and_self, Bool.and_true, Bool.true_and, Bool.not_true]
  rfl

theorem vsra (h : Head) (x : VecX) (d : VNum) (a : VNum) (b : VNum) (mk : MaskX) : Statement (.vsra h x d a b mk) := by
  intro wf
  have f : (vecFmt ⟨false, false, 1, 0, []⟩ x && vecRsv ⟨false, false, 1, 0, []⟩ x b) = true := wf
  simp only [Bool.and_eq_true] at f
  obtain ⟨g, e0, e4, e7, e8, e12, e16⟩ := goodV h 0x30 (d := d.val) (a := a.val) (b := b.val) (fn := 11) _ _ _ (mask_bits mk 7 4) (by have := d.isLt; omega) (by have := a.isLt; omega) (by have := b.isLt; omega) (me_lt mk) (mk_lt mk) (by decide) (by decide) (by decide)
  refine codedV g ?_
  simp only [decodeBody, decodeVecInt, e0, e4, e7, e8, e12, e16, maskOf_code, mask_ok, pxV_takes, pxV_codes, pxV_vecX, dec4, dec8, dec16, pair_ok, pair_code, ldSizeOf_code, ldSize_ok, stSizeOf_code, stSize_ok, g.legal, g.op, g.head, fin_ofNat, sregOf_code, ofNat_toNat, chk, f, Bool.and_self, Bool.and_true, Bool.true_and, Bool.not_true]
  rfl

theorem vaddsI32 (h : Head) (x : VecX) (d : VNum) (a : VNum) (b : VNum) (mk : MaskX) : Statement (.vaddsI32 h x d a b mk) := by
  intro wf
  have f : (vecFmt ⟨false, false, 1, 0, []⟩ x && vecRsv ⟨false, false, 1, 0, []⟩ x b) = true := wf
  simp only [Bool.and_eq_true] at f
  obtain ⟨g, e0, e4, e7, e8, e12, e16⟩ := goodV h 0x30 (d := d.val) (a := a.val) (b := b.val) (fn := 12) _ _ _ (mask_bits mk 7 4) (by have := d.isLt; omega) (by have := a.isLt; omega) (by have := b.isLt; omega) (me_lt mk) (mk_lt mk) (by decide) (by decide) (by decide)
  refine codedV g ?_
  simp only [decodeBody, decodeVecInt, e0, e4, e7, e8, e12, e16, maskOf_code, mask_ok, pxV_takes, pxV_codes, pxV_vecX, dec4, dec8, dec16, pair_ok, pair_code, ldSizeOf_code, ldSize_ok, stSizeOf_code, stSize_ok, g.legal, g.op, g.head, fin_ofNat, sregOf_code, ofNat_toNat, chk, f, Bool.and_self, Bool.and_true, Bool.true_and, Bool.not_true]
  rfl

theorem vsubsI32 (h : Head) (x : VecX) (d : VNum) (a : VNum) (b : VNum) (mk : MaskX) : Statement (.vsubsI32 h x d a b mk) := by
  intro wf
  have f : (vecFmt ⟨false, false, 1, 0, []⟩ x && vecRsv ⟨false, false, 1, 0, []⟩ x b) = true := wf
  simp only [Bool.and_eq_true] at f
  obtain ⟨g, e0, e4, e7, e8, e12, e16⟩ := goodV h 0x30 (d := d.val) (a := a.val) (b := b.val) (fn := 13) _ _ _ (mask_bits mk 7 4) (by have := d.isLt; omega) (by have := a.isLt; omega) (by have := b.isLt; omega) (me_lt mk) (mk_lt mk) (by decide) (by decide) (by decide)
  refine codedV g ?_
  simp only [decodeBody, decodeVecInt, e0, e4, e7, e8, e12, e16, maskOf_code, mask_ok, pxV_takes, pxV_codes, pxV_vecX, dec4, dec8, dec16, pair_ok, pair_code, ldSizeOf_code, ldSize_ok, stSizeOf_code, stSize_ok, g.legal, g.op, g.head, fin_ofNat, sregOf_code, ofNat_toNat, chk, f, Bool.and_self, Bool.and_true, Bool.true_and, Bool.not_true]
  rfl

theorem vabsI32 (h : Head) (x : VecX) (d : VNum) (a : VNum) (mk : MaskX) : Statement (.vabsI32 h x d a mk) := by
  intro wf
  have f : (vecFmt ⟨false, false, 0, 0, []⟩ x && vecRsv ⟨false, false, 0, 0, []⟩ x 0) = true := wf
  simp only [Bool.and_eq_true] at f
  obtain ⟨g, e0, e4, e7, e8, e12, e16⟩ := goodV h 0x30 (d := d.val) (a := a.val) (b := 0) (fn := 14) _ _ _ (mask_bits mk 7 4) (by have := d.isLt; omega) (by have := a.isLt; omega) (by decide) (me_lt mk) (mk_lt mk) (by decide) (by decide) (by decide)
  refine codedV g ?_
  simp only [decodeBody, decodeVecInt, e0, e4, e7, e8, e12, e16, maskOf_code, mask_ok, pxV_takes, pxV_codes, pxV_vecX, dec4, dec8, dec16, pair_ok, pair_code, ldSizeOf_code, ldSize_ok, stSizeOf_code, stSize_ok, g.legal, g.op, g.head, fin_ofNat, sregOf_code, ofNat_toNat, chk, f, Bool.and_self, Bool.and_true, Bool.true_and, Bool.not_true]
  rfl

theorem vminuI32 (h : Head) (x : VecX) (d : VNum) (a : VNum) (b : VNum) (mk : MaskX) : Statement (.vminuI32 h x d a b mk) := by
  intro wf
  have f : (vecFmt ⟨false, false, 1, 0, []⟩ x && vecRsv ⟨false, false, 1, 0, []⟩ x b) = true := wf
  simp only [Bool.and_eq_true] at f
  obtain ⟨g, e0, e4, e7, e8, e12, e16⟩ := goodV h 0x30 (d := d.val) (a := a.val) (b := b.val) (fn := 15) _ _ _ (mask_bits mk 7 4) (by have := d.isLt; omega) (by have := a.isLt; omega) (by have := b.isLt; omega) (me_lt mk) (mk_lt mk) (by decide) (by decide) (by decide)
  refine codedV g ?_
  simp only [decodeBody, decodeVecInt, e0, e4, e7, e8, e12, e16, maskOf_code, mask_ok, pxV_takes, pxV_codes, pxV_vecX, dec4, dec8, dec16, pair_ok, pair_code, ldSizeOf_code, ldSize_ok, stSizeOf_code, stSize_ok, g.legal, g.op, g.head, fin_ofNat, sregOf_code, ofNat_toNat, chk, f, Bool.and_self, Bool.and_true, Bool.true_and, Bool.not_true]
  rfl

theorem vaddF32 (h : Head) (x : VecX) (d : VNum) (a : VNum) (b : VNum) (mk : MaskX) : Statement (.vaddF32 h x d a b mk) := by
  intro wf
  have f : (vecFmt ⟨true, false, 1, 0, []⟩ x && vecRsv ⟨true, false, 1, 0, []⟩ x b) = true := wf
  simp only [Bool.and_eq_true] at f
  obtain ⟨g, e0, e4, e7, e8, e12, e16⟩ := goodV h 0x31 (d := d.val) (a := a.val) (b := b.val) (fn := 0) _ _ _ (mask_bits mk 7 4) (by have := d.isLt; omega) (by have := a.isLt; omega) (by have := b.isLt; omega) (me_lt mk) (mk_lt mk) (by decide) (by decide) (by decide)
  refine codedV g ?_
  simp only [decodeBody, decodeVecF32, e0, e4, e7, e8, e12, e16, maskOf_code, mask_ok, pxV_takes, pxV_codes, pxV_vecX, dec4, dec8, dec16, pair_ok, pair_code, ldSizeOf_code, ldSize_ok, stSizeOf_code, stSize_ok, g.legal, g.op, g.head, fin_ofNat, sregOf_code, ofNat_toNat, chk, f, Bool.and_self, Bool.and_true, Bool.true_and, Bool.not_true]
  rfl

theorem vsubF32 (h : Head) (x : VecX) (d : VNum) (a : VNum) (b : VNum) (mk : MaskX) : Statement (.vsubF32 h x d a b mk) := by
  intro wf
  have f : (vecFmt ⟨true, false, 1, 0, []⟩ x && vecRsv ⟨true, false, 1, 0, []⟩ x b) = true := wf
  simp only [Bool.and_eq_true] at f
  obtain ⟨g, e0, e4, e7, e8, e12, e16⟩ := goodV h 0x31 (d := d.val) (a := a.val) (b := b.val) (fn := 1) _ _ _ (mask_bits mk 7 4) (by have := d.isLt; omega) (by have := a.isLt; omega) (by have := b.isLt; omega) (me_lt mk) (mk_lt mk) (by decide) (by decide) (by decide)
  refine codedV g ?_
  simp only [decodeBody, decodeVecF32, e0, e4, e7, e8, e12, e16, maskOf_code, mask_ok, pxV_takes, pxV_codes, pxV_vecX, dec4, dec8, dec16, pair_ok, pair_code, ldSizeOf_code, ldSize_ok, stSizeOf_code, stSize_ok, g.legal, g.op, g.head, fin_ofNat, sregOf_code, ofNat_toNat, chk, f, Bool.and_self, Bool.and_true, Bool.true_and, Bool.not_true]
  rfl

theorem vmulF32 (h : Head) (x : VecX) (d : VNum) (a : VNum) (b : VNum) (mk : MaskX) : Statement (.vmulF32 h x d a b mk) := by
  intro wf
  have f : (vecFmt ⟨true, false, 1, 0, []⟩ x && vecRsv ⟨true, false, 1, 0, []⟩ x b) = true := wf
  simp only [Bool.and_eq_true] at f
  obtain ⟨g, e0, e4, e7, e8, e12, e16⟩ := goodV h 0x31 (d := d.val) (a := a.val) (b := b.val) (fn := 2) _ _ _ (mask_bits mk 7 4) (by have := d.isLt; omega) (by have := a.isLt; omega) (by have := b.isLt; omega) (me_lt mk) (mk_lt mk) (by decide) (by decide) (by decide)
  refine codedV g ?_
  simp only [decodeBody, decodeVecF32, e0, e4, e7, e8, e12, e16, maskOf_code, mask_ok, pxV_takes, pxV_codes, pxV_vecX, dec4, dec8, dec16, pair_ok, pair_code, ldSizeOf_code, ldSize_ok, stSizeOf_code, stSize_ok, g.legal, g.op, g.head, fin_ofNat, sregOf_code, ofNat_toNat, chk, f, Bool.and_self, Bool.and_true, Bool.true_and, Bool.not_true]
  rfl

theorem vfmaF32 (h : Head) (x : VecX) (d : VNum) (a : VNum) (b : VNum) (mk : MaskX) : Statement (.vfmaF32 h x d a b mk) := by
  intro wf
  have f : (vecFmt ⟨true, false, 1, 0, []⟩ x && vecRsv ⟨true, false, 1, 0, []⟩ x b) = true := wf
  simp only [Bool.and_eq_true] at f
  obtain ⟨g, e0, e4, e7, e8, e12, e16⟩ := goodV h 0x31 (d := d.val) (a := a.val) (b := b.val) (fn := 3) _ _ _ (mask_bits mk 7 4) (by have := d.isLt; omega) (by have := a.isLt; omega) (by have := b.isLt; omega) (me_lt mk) (mk_lt mk) (by decide) (by decide) (by decide)
  refine codedV g ?_
  simp only [decodeBody, decodeVecF32, e0, e4, e7, e8, e12, e16, maskOf_code, mask_ok, pxV_takes, pxV_codes, pxV_vecX, dec4, dec8, dec16, pair_ok, pair_code, ldSizeOf_code, ldSize_ok, stSizeOf_code, stSize_ok, g.legal, g.op, g.head, fin_ofNat, sregOf_code, ofNat_toNat, chk, f, Bool.and_self, Bool.and_true, Bool.true_and, Bool.not_true]
  rfl

theorem vfmsF32 (h : Head) (x : VecX) (d : VNum) (a : VNum) (b : VNum) (mk : MaskX) : Statement (.vfmsF32 h x d a b mk) := by
  intro wf
  have f : (vecFmt ⟨true, false, 1, 0, []⟩ x && vecRsv ⟨true, false, 1, 0, []⟩ x b) = true := wf
  simp only [Bool.and_eq_true] at f
  obtain ⟨g, e0, e4, e7, e8, e12, e16⟩ := goodV h 0x31 (d := d.val) (a := a.val) (b := b.val) (fn := 4) _ _ _ (mask_bits mk 7 4) (by have := d.isLt; omega) (by have := a.isLt; omega) (by have := b.isLt; omega) (me_lt mk) (mk_lt mk) (by decide) (by decide) (by decide)
  refine codedV g ?_
  simp only [decodeBody, decodeVecF32, e0, e4, e7, e8, e12, e16, maskOf_code, mask_ok, pxV_takes, pxV_codes, pxV_vecX, dec4, dec8, dec16, pair_ok, pair_code, ldSizeOf_code, ldSize_ok, stSizeOf_code, stSize_ok, g.legal, g.op, g.head, fin_ofNat, sregOf_code, ofNat_toNat, chk, f, Bool.and_self, Bool.and_true, Bool.true_and, Bool.not_true]
  rfl

theorem vminF32 (h : Head) (x : VecX) (d : VNum) (a : VNum) (b : VNum) (mk : MaskX) : Statement (.vminF32 h x d a b mk) := by
  intro wf
  have f : (vecFmt ⟨true, false, 1, 0, []⟩ x && vecRsv ⟨true, false, 1, 0, []⟩ x b) = true := wf
  simp only [Bool.and_eq_true] at f
  obtain ⟨g, e0, e4, e7, e8, e12, e16⟩ := goodV h 0x31 (d := d.val) (a := a.val) (b := b.val) (fn := 5) _ _ _ (mask_bits mk 7 4) (by have := d.isLt; omega) (by have := a.isLt; omega) (by have := b.isLt; omega) (me_lt mk) (mk_lt mk) (by decide) (by decide) (by decide)
  refine codedV g ?_
  simp only [decodeBody, decodeVecF32, e0, e4, e7, e8, e12, e16, maskOf_code, mask_ok, pxV_takes, pxV_codes, pxV_vecX, dec4, dec8, dec16, pair_ok, pair_code, ldSizeOf_code, ldSize_ok, stSizeOf_code, stSize_ok, g.legal, g.op, g.head, fin_ofNat, sregOf_code, ofNat_toNat, chk, f, Bool.and_self, Bool.and_true, Bool.true_and, Bool.not_true]
  rfl

theorem vmaxF32 (h : Head) (x : VecX) (d : VNum) (a : VNum) (b : VNum) (mk : MaskX) : Statement (.vmaxF32 h x d a b mk) := by
  intro wf
  have f : (vecFmt ⟨true, false, 1, 0, []⟩ x && vecRsv ⟨true, false, 1, 0, []⟩ x b) = true := wf
  simp only [Bool.and_eq_true] at f
  obtain ⟨g, e0, e4, e7, e8, e12, e16⟩ := goodV h 0x31 (d := d.val) (a := a.val) (b := b.val) (fn := 6) _ _ _ (mask_bits mk 7 4) (by have := d.isLt; omega) (by have := a.isLt; omega) (by have := b.isLt; omega) (me_lt mk) (mk_lt mk) (by decide) (by decide) (by decide)
  refine codedV g ?_
  simp only [decodeBody, decodeVecF32, e0, e4, e7, e8, e12, e16, maskOf_code, mask_ok, pxV_takes, pxV_codes, pxV_vecX, dec4, dec8, dec16, pair_ok, pair_code, ldSizeOf_code, ldSize_ok, stSizeOf_code, stSize_ok, g.legal, g.op, g.head, fin_ofNat, sregOf_code, ofNat_toNat, chk, f, Bool.and_self, Bool.and_true, Bool.true_and, Bool.not_true]
  rfl

theorem vabsF32 (h : Head) (x : VecX) (d : VNum) (a : VNum) (mk : MaskX) : Statement (.vabsF32 h x d a mk) := by
  intro wf
  have f : (vecFmt ⟨true, false, 0, 0, []⟩ x && vecRsv ⟨true, false, 0, 0, []⟩ x 0) = true := wf
  simp only [Bool.and_eq_true] at f
  obtain ⟨g, e0, e4, e7, e8, e12, e16⟩ := goodV h 0x31 (d := d.val) (a := a.val) (b := 0) (fn := 7) _ _ _ (mask_bits mk 7 4) (by have := d.isLt; omega) (by have := a.isLt; omega) (by decide) (me_lt mk) (mk_lt mk) (by decide) (by decide) (by decide)
  refine codedV g ?_
  simp only [decodeBody, decodeVecF32, e0, e4, e7, e8, e12, e16, maskOf_code, mask_ok, pxV_takes, pxV_codes, pxV_vecX, dec4, dec8, dec16, pair_ok, pair_code, ldSizeOf_code, ldSize_ok, stSizeOf_code, stSize_ok, g.legal, g.op, g.head, fin_ofNat, sregOf_code, ofNat_toNat, chk, f, Bool.and_self, Bool.and_true, Bool.true_and, Bool.not_true]
  rfl

theorem vnegF32 (h : Head) (x : VecX) (d : VNum) (a : VNum) (mk : MaskX) : Statement (.vnegF32 h x d a mk) := by
  intro wf
  have f : (vecFmt ⟨true, false, 0, 0, []⟩ x && vecRsv ⟨true, false, 0, 0, []⟩ x 0) = true := wf
  simp only [Bool.and_eq_true] at f
  obtain ⟨g, e0, e4, e7, e8, e12, e16⟩ := goodV h 0x31 (d := d.val) (a := a.val) (b := 0) (fn := 8) _ _ _ (mask_bits mk 7 4) (by have := d.isLt; omega) (by have := a.isLt; omega) (by decide) (me_lt mk) (mk_lt mk) (by decide) (by decide) (by decide)
  refine codedV g ?_
  simp only [decodeBody, decodeVecF32, e0, e4, e7, e8, e12, e16, maskOf_code, mask_ok, pxV_takes, pxV_codes, pxV_vecX, dec4, dec8, dec16, pair_ok, pair_code, ldSizeOf_code, ldSize_ok, stSizeOf_code, stSize_ok, g.legal, g.op, g.head, fin_ofNat, sregOf_code, ofNat_toNat, chk, f, Bool.and_self, Bool.and_true, Bool.true_and, Bool.not_true]
  rfl

theorem vfnmaF32 (h : Head) (x : VecX) (d : VNum) (a : VNum) (b : VNum) (mk : MaskX) : Statement (.vfnmaF32 h x d a b mk) := by
  intro wf
  have f : (vecFmt ⟨true, false, 1, 0, []⟩ x && vecRsv ⟨true, false, 1, 0, []⟩ x b) = true := wf
  simp only [Bool.and_eq_true] at f
  obtain ⟨g, e0, e4, e7, e8, e12, e16⟩ := goodV h 0x31 (d := d.val) (a := a.val) (b := b.val) (fn := 9) _ _ _ (mask_bits mk 7 4) (by have := d.isLt; omega) (by have := a.isLt; omega) (by have := b.isLt; omega) (me_lt mk) (mk_lt mk) (by decide) (by decide) (by decide)
  refine codedV g ?_
  simp only [decodeBody, decodeVecF32, e0, e4, e7, e8, e12, e16, maskOf_code, mask_ok, pxV_takes, pxV_codes, pxV_vecX, dec4, dec8, dec16, pair_ok, pair_code, ldSizeOf_code, ldSize_ok, stSizeOf_code, stSize_ok, g.legal, g.op, g.head, fin_ofNat, sregOf_code, ofNat_toNat, chk, f, Bool.and_self, Bool.and_true, Bool.true_and, Bool.not_true]
  rfl

theorem vaddI16 (h : Head) (x : VecX) (d : VNum) (a : VNum) (b : VNum) (mk : MaskX) : Statement (.vaddI16 h x d a b mk) := by
  intro wf
  have f : (vecFmt ⟨false, false, 1, 0, []⟩ x && vecRsv ⟨false, false, 1, 0, []⟩ x b) = true := wf
  simp only [Bool.and_eq_true] at f
  obtain ⟨g, e0, e4, e7, e8, e12, e16⟩ := goodV h 0x32 (d := d.val) (a := a.val) (b := b.val) (fn := 0) _ _ _ (mask_bits mk 7 4) (by have := d.isLt; omega) (by have := a.isLt; omega) (by have := b.isLt; omega) (me_lt mk) (mk_lt mk) (by decide) (by decide) (by decide)
  refine codedV g ?_
  simp only [decodeBody, decodeVec16, e0, e4, e7, e8, e12, e16, maskOf_code, mask_ok, pxV_takes, pxV_codes, pxV_vecX, dec4, dec8, dec16, pair_ok, pair_code, ldSizeOf_code, ldSize_ok, stSizeOf_code, stSize_ok, g.legal, g.op, g.head, fin_ofNat, sregOf_code, ofNat_toNat, chk, f, Bool.and_self, Bool.and_true, Bool.true_and, Bool.not_true]
  rfl

theorem vsubI16 (h : Head) (x : VecX) (d : VNum) (a : VNum) (b : VNum) (mk : MaskX) : Statement (.vsubI16 h x d a b mk) := by
  intro wf
  have f : (vecFmt ⟨false, false, 1, 0, []⟩ x && vecRsv ⟨false, false, 1, 0, []⟩ x b) = true := wf
  simp only [Bool.and_eq_true] at f
  obtain ⟨g, e0, e4, e7, e8, e12, e16⟩ := goodV h 0x32 (d := d.val) (a := a.val) (b := b.val) (fn := 1) _ _ _ (mask_bits mk 7 4) (by have := d.isLt; omega) (by have := a.isLt; omega) (by have := b.isLt; omega) (me_lt mk) (mk_lt mk) (by decide) (by decide) (by decide)
  refine codedV g ?_
  simp only [decodeBody, decodeVec16, e0, e4, e7, e8, e12, e16, maskOf_code, mask_ok, pxV_takes, pxV_codes, pxV_vecX, dec4, dec8, dec16, pair_ok, pair_code, ldSizeOf_code, ldSize_ok, stSizeOf_code, stSize_ok, g.legal, g.op, g.head, fin_ofNat, sregOf_code, ofNat_toNat, chk, f, Bool.and_self, Bool.and_true, Bool.true_and, Bool.not_true]
  rfl

theorem vmulI16 (h : Head) (x : VecX) (d : VNum) (a : VNum) (b : VNum) (mk : MaskX) : Statement (.vmulI16 h x d a b mk) := by
  intro wf
  have f : (vecFmt ⟨false, false, 1, 0, []⟩ x && vecRsv ⟨false, false, 1, 0, []⟩ x b) = true := wf
  simp only [Bool.and_eq_true] at f
  obtain ⟨g, e0, e4, e7, e8, e12, e16⟩ := goodV h 0x32 (d := d.val) (a := a.val) (b := b.val) (fn := 2) _ _ _ (mask_bits mk 7 4) (by have := d.isLt; omega) (by have := a.isLt; omega) (by have := b.isLt; omega) (me_lt mk) (mk_lt mk) (by decide) (by decide) (by decide)
  refine codedV g ?_
  simp only [decodeBody, decodeVec16, e0, e4, e7, e8, e12, e16, maskOf_code, mask_ok, pxV_takes, pxV_codes, pxV_vecX, dec4, dec8, dec16, pair_ok, pair_code, ldSizeOf_code, ldSize_ok, stSizeOf_code, stSize_ok, g.legal, g.op, g.head, fin_ofNat, sregOf_code, ofNat_toNat, chk, f, Bool.and_self, Bool.and_true, Bool.true_and, Bool.not_true]
  rfl

theorem vaddsI16 (h : Head) (x : VecX) (d : VNum) (a : VNum) (b : VNum) (mk : MaskX) : Statement (.vaddsI16 h x d a b mk) := by
  intro wf
  have f : (vecFmt ⟨false, false, 1, 0, []⟩ x && vecRsv ⟨false, false, 1, 0, []⟩ x b) = true := wf
  simp only [Bool.and_eq_true] at f
  obtain ⟨g, e0, e4, e7, e8, e12, e16⟩ := goodV h 0x32 (d := d.val) (a := a.val) (b := b.val) (fn := 3) _ _ _ (mask_bits mk 7 4) (by have := d.isLt; omega) (by have := a.isLt; omega) (by have := b.isLt; omega) (me_lt mk) (mk_lt mk) (by decide) (by decide) (by decide)
  refine codedV g ?_
  simp only [decodeBody, decodeVec16, e0, e4, e7, e8, e12, e16, maskOf_code, mask_ok, pxV_takes, pxV_codes, pxV_vecX, dec4, dec8, dec16, pair_ok, pair_code, ldSizeOf_code, ldSize_ok, stSizeOf_code, stSize_ok, g.legal, g.op, g.head, fin_ofNat, sregOf_code, ofNat_toNat, chk, f, Bool.and_self, Bool.and_true, Bool.true_and, Bool.not_true]
  rfl

theorem vsubsI16 (h : Head) (x : VecX) (d : VNum) (a : VNum) (b : VNum) (mk : MaskX) : Statement (.vsubsI16 h x d a b mk) := by
  intro wf
  have f : (vecFmt ⟨false, false, 1, 0, []⟩ x && vecRsv ⟨false, false, 1, 0, []⟩ x b) = true := wf
  simp only [Bool.and_eq_true] at f
  obtain ⟨g, e0, e4, e7, e8, e12, e16⟩ := goodV h 0x32 (d := d.val) (a := a.val) (b := b.val) (fn := 4) _ _ _ (mask_bits mk 7 4) (by have := d.isLt; omega) (by have := a.isLt; omega) (by have := b.isLt; omega) (me_lt mk) (mk_lt mk) (by decide) (by decide) (by decide)
  refine codedV g ?_
  simp only [decodeBody, decodeVec16, e0, e4, e7, e8, e12, e16, maskOf_code, mask_ok, pxV_takes, pxV_codes, pxV_vecX, dec4, dec8, dec16, pair_ok, pair_code, ldSizeOf_code, ldSize_ok, stSizeOf_code, stSize_ok, g.legal, g.op, g.head, fin_ofNat, sregOf_code, ofNat_toNat, chk, f, Bool.and_self, Bool.and_true, Bool.true_and, Bool.not_true]
  rfl

theorem vminI16 (h : Head) (x : VecX) (d : VNum) (a : VNum) (b : VNum) (mk : MaskX) : Statement (.vminI16 h x d a b mk) := by
  intro wf
  have f : (vecFmt ⟨false, false, 1, 0, []⟩ x && vecRsv ⟨false, false, 1, 0, []⟩ x b) = true := wf
  simp only [Bool.and_eq_true] at f
  obtain ⟨g, e0, e4, e7, e8, e12, e16⟩ := goodV h 0x32 (d := d.val) (a := a.val) (b := b.val) (fn := 5) _ _ _ (mask_bits mk 7 4) (by have := d.isLt; omega) (by have := a.isLt; omega) (by have := b.isLt; omega) (me_lt mk) (mk_lt mk) (by decide) (by decide) (by decide)
  refine codedV g ?_
  simp only [decodeBody, decodeVec16, e0, e4, e7, e8, e12, e16, maskOf_code, mask_ok, pxV_takes, pxV_codes, pxV_vecX, dec4, dec8, dec16, pair_ok, pair_code, ldSizeOf_code, ldSize_ok, stSizeOf_code, stSize_ok, g.legal, g.op, g.head, fin_ofNat, sregOf_code, ofNat_toNat, chk, f, Bool.and_self, Bool.and_true, Bool.true_and, Bool.not_true]
  rfl

theorem vmaxI16 (h : Head) (x : VecX) (d : VNum) (a : VNum) (b : VNum) (mk : MaskX) : Statement (.vmaxI16 h x d a b mk) := by
  intro wf
  have f : (vecFmt ⟨false, false, 1, 0, []⟩ x && vecRsv ⟨false, false, 1, 0, []⟩ x b) = true := wf
  simp only [Bool.and_eq_true] at f
  obtain ⟨g, e0, e4, e7, e8, e12, e16⟩ := goodV h 0x32 (d := d.val) (a := a.val) (b := b.val) (fn := 6) _ _ _ (mask_bits mk 7 4) (by have := d.isLt; omega) (by have := a.isLt; omega) (by have := b.isLt; omega) (me_lt mk) (mk_lt mk) (by decide) (by decide) (by decide)
  refine codedV g ?_
  simp only [decodeBody, decodeVec16, e0, e4, e7, e8, e12, e16, maskOf_code, mask_ok, pxV_takes, pxV_codes, pxV_vecX, dec4, dec8, dec16, pair_ok, pair_code, ldSizeOf_code, ldSize_ok, stSizeOf_code, stSize_ok, g.legal, g.op, g.head, fin_ofNat, sregOf_code, ofNat_toNat, chk, f, Bool.and_self, Bool.and_true, Bool.true_and, Bool.not_true]
  rfl

theorem vaddBf16 (h : Head) (x : VecX) (d : VNum) (a : VNum) (b : VNum) (mk : MaskX) : Statement (.vaddBf16 h x d a b mk) := by
  intro wf
  have f : (vecFmt ⟨true, false, 1, 0, []⟩ x && vecRsv ⟨true, false, 1, 0, []⟩ x b) = true := wf
  simp only [Bool.and_eq_true] at f
  obtain ⟨g, e0, e4, e7, e8, e12, e16⟩ := goodV h 0x32 (d := d.val) (a := a.val) (b := b.val) (fn := 8) _ _ _ (mask_bits mk 7 4) (by have := d.isLt; omega) (by have := a.isLt; omega) (by have := b.isLt; omega) (me_lt mk) (mk_lt mk) (by decide) (by decide) (by decide)
  refine codedV g ?_
  simp only [decodeBody, decodeVec16, e0, e4, e7, e8, e12, e16, maskOf_code, mask_ok, pxV_takes, pxV_codes, pxV_vecX, dec4, dec8, dec16, pair_ok, pair_code, ldSizeOf_code, ldSize_ok, stSizeOf_code, stSize_ok, g.legal, g.op, g.head, fin_ofNat, sregOf_code, ofNat_toNat, chk, f, Bool.and_self, Bool.and_true, Bool.true_and, Bool.not_true]
  rfl

theorem vsubBf16 (h : Head) (x : VecX) (d : VNum) (a : VNum) (b : VNum) (mk : MaskX) : Statement (.vsubBf16 h x d a b mk) := by
  intro wf
  have f : (vecFmt ⟨true, false, 1, 0, []⟩ x && vecRsv ⟨true, false, 1, 0, []⟩ x b) = true := wf
  simp only [Bool.and_eq_true] at f
  obtain ⟨g, e0, e4, e7, e8, e12, e16⟩ := goodV h 0x32 (d := d.val) (a := a.val) (b := b.val) (fn := 9) _ _ _ (mask_bits mk 7 4) (by have := d.isLt; omega) (by have := a.isLt; omega) (by have := b.isLt; omega) (me_lt mk) (mk_lt mk) (by decide) (by decide) (by decide)
  refine codedV g ?_
  simp only [decodeBody, decodeVec16, e0, e4, e7, e8, e12, e16, maskOf_code, mask_ok, pxV_takes, pxV_codes, pxV_vecX, dec4, dec8, dec16, pair_ok, pair_code, ldSizeOf_code, ldSize_ok, stSizeOf_code, stSize_ok, g.legal, g.op, g.head, fin_ofNat, sregOf_code, ofNat_toNat, chk, f, Bool.and_self, Bool.and_true, Bool.true_and, Bool.not_true]
  rfl

theorem vmulBf16 (h : Head) (x : VecX) (d : VNum) (a : VNum) (b : VNum) (mk : MaskX) : Statement (.vmulBf16 h x d a b mk) := by
  intro wf
  have f : (vecFmt ⟨true, false, 1, 0, []⟩ x && vecRsv ⟨true, false, 1, 0, []⟩ x b) = true := wf
  simp only [Bool.and_eq_true] at f
  obtain ⟨g, e0, e4, e7, e8, e12, e16⟩ := goodV h 0x32 (d := d.val) (a := a.val) (b := b.val) (fn := 10) _ _ _ (mask_bits mk 7 4) (by have := d.isLt; omega) (by have := a.isLt; omega) (by have := b.isLt; omega) (me_lt mk) (mk_lt mk) (by decide) (by decide) (by decide)
  refine codedV g ?_
  simp only [decodeBody, decodeVec16, e0, e4, e7, e8, e12, e16, maskOf_code, mask_ok, pxV_takes, pxV_codes, pxV_vecX, dec4, dec8, dec16, pair_ok, pair_code, ldSizeOf_code, ldSize_ok, stSizeOf_code, stSize_ok, g.legal, g.op, g.head, fin_ofNat, sregOf_code, ofNat_toNat, chk, f, Bool.and_self, Bool.and_true, Bool.true_and, Bool.not_true]
  rfl

theorem vfmaBf16 (h : Head) (x : VecX) (d : VNum) (a : VNum) (b : VNum) (mk : MaskX) : Statement (.vfmaBf16 h x d a b mk) := by
  intro wf
  have f : (vecFmt ⟨true, false, 1, 0, []⟩ x && vecRsv ⟨true, false, 1, 0, []⟩ x b) = true := wf
  simp only [Bool.and_eq_true] at f
  obtain ⟨g, e0, e4, e7, e8, e12, e16⟩ := goodV h 0x32 (d := d.val) (a := a.val) (b := b.val) (fn := 11) _ _ _ (mask_bits mk 7 4) (by have := d.isLt; omega) (by have := a.isLt; omega) (by have := b.isLt; omega) (me_lt mk) (mk_lt mk) (by decide) (by decide) (by decide)
  refine codedV g ?_
  simp only [decodeBody, decodeVec16, e0, e4, e7, e8, e12, e16, maskOf_code, mask_ok, pxV_takes, pxV_codes, pxV_vecX, dec4, dec8, dec16, pair_ok, pair_code, ldSizeOf_code, ldSize_ok, stSizeOf_code, stSize_ok, g.legal, g.op, g.head, fin_ofNat, sregOf_code, ofNat_toNat, chk, f, Bool.and_self, Bool.and_true, Bool.true_and, Bool.not_true]
  rfl

theorem vminBf16 (h : Head) (x : VecX) (d : VNum) (a : VNum) (b : VNum) (mk : MaskX) : Statement (.vminBf16 h x d a b mk) := by
  intro wf
  have f : (vecFmt ⟨true, false, 1, 0, []⟩ x && vecRsv ⟨true, false, 1, 0, []⟩ x b) = true := wf
  simp only [Bool.and_eq_true] at f
  obtain ⟨g, e0, e4, e7, e8, e12, e16⟩ := goodV h 0x32 (d := d.val) (a := a.val) (b := b.val) (fn := 12) _ _ _ (mask_bits mk 7 4) (by have := d.isLt; omega) (by have := a.isLt; omega) (by have := b.isLt; omega) (me_lt mk) (mk_lt mk) (by decide) (by decide) (by decide)
  refine codedV g ?_
  simp only [decodeBody, decodeVec16, e0, e4, e7, e8, e12, e16, maskOf_code, mask_ok, pxV_takes, pxV_codes, pxV_vecX, dec4, dec8, dec16, pair_ok, pair_code, ldSizeOf_code, ldSize_ok, stSizeOf_code, stSize_ok, g.legal, g.op, g.head, fin_ofNat, sregOf_code, ofNat_toNat, chk, f, Bool.and_self, Bool.and_true, Bool.true_and, Bool.not_true]
  rfl

theorem vmaxBf16 (h : Head) (x : VecX) (d : VNum) (a : VNum) (b : VNum) (mk : MaskX) : Statement (.vmaxBf16 h x d a b mk) := by
  intro wf
  have f : (vecFmt ⟨true, false, 1, 0, []⟩ x && vecRsv ⟨true, false, 1, 0, []⟩ x b) = true := wf
  simp only [Bool.and_eq_true] at f
  obtain ⟨g, e0, e4, e7, e8, e12, e16⟩ := goodV h 0x32 (d := d.val) (a := a.val) (b := b.val) (fn := 13) _ _ _ (mask_bits mk 7 4) (by have := d.isLt; omega) (by have := a.isLt; omega) (by have := b.isLt; omega) (me_lt mk) (mk_lt mk) (by decide) (by decide) (by decide)
  refine codedV g ?_
  simp only [decodeBody, decodeVec16, e0, e4, e7, e8, e12, e16, maskOf_code, mask_ok, pxV_takes, pxV_codes, pxV_vecX, dec4, dec8, dec16, pair_ok, pair_code, ldSizeOf_code, ldSize_ok, stSizeOf_code, stSize_ok, g.legal, g.op, g.head, fin_ofNat, sregOf_code, ofNat_toNat, chk, f, Bool.and_self, Bool.and_true, Bool.true_and, Bool.not_true]
  rfl

theorem vaddI8 (h : Head) (x : VecX) (d : VNum) (a : VNum) (b : VNum) (mk : MaskX) : Statement (.vaddI8 h x d a b mk) := by
  intro wf
  have f : (vecFmt ⟨false, false, 1, 0, []⟩ x && vecRsv ⟨false, false, 1, 0, []⟩ x b) = true := wf
  simp only [Bool.and_eq_true] at f
  obtain ⟨g, e0, e4, e7, e8, e12, e16⟩ := goodV h 0x33 (d := d.val) (a := a.val) (b := b.val) (fn := 0) _ _ _ (mask_bits mk 7 4) (by have := d.isLt; omega) (by have := a.isLt; omega) (by have := b.isLt; omega) (me_lt mk) (mk_lt mk) (by decide) (by decide) (by decide)
  refine codedV g ?_
  simp only [decodeBody, decodeVec8, e0, e4, e7, e8, e12, e16, maskOf_code, mask_ok, pxV_takes, pxV_codes, pxV_vecX, dec4, dec8, dec16, pair_ok, pair_code, ldSizeOf_code, ldSize_ok, stSizeOf_code, stSize_ok, g.legal, g.op, g.head, fin_ofNat, sregOf_code, ofNat_toNat, chk, f, Bool.and_self, Bool.and_true, Bool.true_and, Bool.not_true]
  rfl

theorem vsubI8 (h : Head) (x : VecX) (d : VNum) (a : VNum) (b : VNum) (mk : MaskX) : Statement (.vsubI8 h x d a b mk) := by
  intro wf
  have f : (vecFmt ⟨false, false, 1, 0, []⟩ x && vecRsv ⟨false, false, 1, 0, []⟩ x b) = true := wf
  simp only [Bool.and_eq_true] at f
  obtain ⟨g, e0, e4, e7, e8, e12, e16⟩ := goodV h 0x33 (d := d.val) (a := a.val) (b := b.val) (fn := 1) _ _ _ (mask_bits mk 7 4) (by have := d.isLt; omega) (by have := a.isLt; omega) (by have := b.isLt; omega) (me_lt mk) (mk_lt mk) (by decide) (by decide) (by decide)
  refine codedV g ?_
  simp only [decodeBody, decodeVec8, e0, e4, e7, e8, e12, e16, maskOf_code, mask_ok, pxV_takes, pxV_codes, pxV_vecX, dec4, dec8, dec16, pair_ok, pair_code, ldSizeOf_code, ldSize_ok, stSizeOf_code, stSize_ok, g.legal, g.op, g.head, fin_ofNat, sregOf_code, ofNat_toNat, chk, f, Bool.and_self, Bool.and_true, Bool.true_and, Bool.not_true]
  rfl

theorem vaddsI8 (h : Head) (x : VecX) (d : VNum) (a : VNum) (b : VNum) (mk : MaskX) : Statement (.vaddsI8 h x d a b mk) := by
  intro wf
  have f : (vecFmt ⟨false, false, 1, 0, []⟩ x && vecRsv ⟨false, false, 1, 0, []⟩ x b) = true := wf
  simp only [Bool.and_eq_true] at f
  obtain ⟨g, e0, e4, e7, e8, e12, e16⟩ := goodV h 0x33 (d := d.val) (a := a.val) (b := b.val) (fn := 2) _ _ _ (mask_bits mk 7 4) (by have := d.isLt; omega) (by have := a.isLt; omega) (by have := b.isLt; omega) (me_lt mk) (mk_lt mk) (by decide) (by decide) (by decide)
  refine codedV g ?_
  simp only [decodeBody, decodeVec8, e0, e4, e7, e8, e12, e16, maskOf_code, mask_ok, pxV_takes, pxV_codes, pxV_vecX, dec4, dec8, dec16, pair_ok, pair_code, ldSizeOf_code, ldSize_ok, stSizeOf_code, stSize_ok, g.legal, g.op, g.head, fin_ofNat, sregOf_code, ofNat_toNat, chk, f, Bool.and_self, Bool.and_true, Bool.true_and, Bool.not_true]
  rfl

theorem vsubsI8 (h : Head) (x : VecX) (d : VNum) (a : VNum) (b : VNum) (mk : MaskX) : Statement (.vsubsI8 h x d a b mk) := by
  intro wf
  have f : (vecFmt ⟨false, false, 1, 0, []⟩ x && vecRsv ⟨false, false, 1, 0, []⟩ x b) = true := wf
  simp only [Bool.and_eq_true] at f
  obtain ⟨g, e0, e4, e7, e8, e12, e16⟩ := goodV h 0x33 (d := d.val) (a := a.val) (b := b.val) (fn := 3) _ _ _ (mask_bits mk 7 4) (by have := d.isLt; omega) (by have := a.isLt; omega) (by have := b.isLt; omega) (me_lt mk) (mk_lt mk) (by decide) (by decide) (by decide)
  refine codedV g ?_
  simp only [decodeBody, decodeVec8, e0, e4, e7, e8, e12, e16, maskOf_code, mask_ok, pxV_takes, pxV_codes, pxV_vecX, dec4, dec8, dec16, pair_ok, pair_code, ldSizeOf_code, ldSize_ok, stSizeOf_code, stSize_ok, g.legal, g.op, g.head, fin_ofNat, sregOf_code, ofNat_toNat, chk, f, Bool.and_self, Bool.and_true, Bool.true_and, Bool.not_true]
  rfl

theorem vminI8 (h : Head) (x : VecX) (d : VNum) (a : VNum) (b : VNum) (mk : MaskX) : Statement (.vminI8 h x d a b mk) := by
  intro wf
  have f : (vecFmt ⟨false, false, 1, 0, []⟩ x && vecRsv ⟨false, false, 1, 0, []⟩ x b) = true := wf
  simp only [Bool.and_eq_true] at f
  obtain ⟨g, e0, e4, e7, e8, e12, e16⟩ := goodV h 0x33 (d := d.val) (a := a.val) (b := b.val) (fn := 4) _ _ _ (mask_bits mk 7 4) (by have := d.isLt; omega) (by have := a.isLt; omega) (by have := b.isLt; omega) (me_lt mk) (mk_lt mk) (by decide) (by decide) (by decide)
  refine codedV g ?_
  simp only [decodeBody, decodeVec8, e0, e4, e7, e8, e12, e16, maskOf_code, mask_ok, pxV_takes, pxV_codes, pxV_vecX, dec4, dec8, dec16, pair_ok, pair_code, ldSizeOf_code, ldSize_ok, stSizeOf_code, stSize_ok, g.legal, g.op, g.head, fin_ofNat, sregOf_code, ofNat_toNat, chk, f, Bool.and_self, Bool.and_true, Bool.true_and, Bool.not_true]
  rfl

theorem vmaxI8 (h : Head) (x : VecX) (d : VNum) (a : VNum) (b : VNum) (mk : MaskX) : Statement (.vmaxI8 h x d a b mk) := by
  intro wf
  have f : (vecFmt ⟨false, false, 1, 0, []⟩ x && vecRsv ⟨false, false, 1, 0, []⟩ x b) = true := wf
  simp only [Bool.and_eq_true] at f
  obtain ⟨g, e0, e4, e7, e8, e12, e16⟩ := goodV h 0x33 (d := d.val) (a := a.val) (b := b.val) (fn := 5) _ _ _ (mask_bits mk 7 4) (by have := d.isLt; omega) (by have := a.isLt; omega) (by have := b.isLt; omega) (me_lt mk) (mk_lt mk) (by decide) (by decide) (by decide)
  refine codedV g ?_
  simp only [decodeBody, decodeVec8, e0, e4, e7, e8, e12, e16, maskOf_code, mask_ok, pxV_takes, pxV_codes, pxV_vecX, dec4, dec8, dec16, pair_ok, pair_code, ldSizeOf_code, ldSize_ok, stSizeOf_code, stSize_ok, g.legal, g.op, g.head, fin_ofNat, sregOf_code, ofNat_toNat, chk, f, Bool.and_self, Bool.and_true, Bool.true_and, Bool.not_true]
  rfl

theorem vaddE4m3 (h : Head) (x : VecX) (d : VNum) (a : VNum) (b : VNum) (mk : MaskX) : Statement (.vaddE4m3 h x d a b mk) := by
  intro wf
  have f : (vecFmt ⟨true, true, 1, 0, []⟩ x && vecRsv ⟨true, true, 1, 0, []⟩ x b) = true := wf
  simp only [Bool.and_eq_true] at f
  obtain ⟨g, e0, e4, e7, e8, e12, e16⟩ := goodV h 0x33 (d := d.val) (a := a.val) (b := b.val) (fn := 6) _ _ _ (mask_bits mk 7 4) (by have := d.isLt; omega) (by have := a.isLt; omega) (by have := b.isLt; omega) (me_lt mk) (mk_lt mk) (by decide) (by decide) (by decide)
  refine codedV g ?_
  simp only [decodeBody, decodeVec8, e0, e4, e7, e8, e12, e16, maskOf_code, mask_ok, pxV_takes, pxV_codes, pxV_vecX, dec4, dec8, dec16, pair_ok, pair_code, ldSizeOf_code, ldSize_ok, stSizeOf_code, stSize_ok, g.legal, g.op, g.head, fin_ofNat, sregOf_code, ofNat_toNat, chk, f, Bool.and_self, Bool.and_true, Bool.true_and, Bool.not_true]
  rfl

theorem vsubE4m3 (h : Head) (x : VecX) (d : VNum) (a : VNum) (b : VNum) (mk : MaskX) : Statement (.vsubE4m3 h x d a b mk) := by
  intro wf
  have f : (vecFmt ⟨true, true, 1, 0, []⟩ x && vecRsv ⟨true, true, 1, 0, []⟩ x b) = true := wf
  simp only [Bool.and_eq_true] at f
  obtain ⟨g, e0, e4, e7, e8, e12, e16⟩ := goodV h 0x33 (d := d.val) (a := a.val) (b := b.val) (fn := 7) _ _ _ (mask_bits mk 7 4) (by have := d.isLt; omega) (by have := a.isLt; omega) (by have := b.isLt; omega) (me_lt mk) (mk_lt mk) (by decide) (by decide) (by decide)
  refine codedV g ?_
  simp only [decodeBody, decodeVec8, e0, e4, e7, e8, e12, e16, maskOf_code, mask_ok, pxV_takes, pxV_codes, pxV_vecX, dec4, dec8, dec16, pair_ok, pair_code, ldSizeOf_code, ldSize_ok, stSizeOf_code, stSize_ok, g.legal, g.op, g.head, fin_ofNat, sregOf_code, ofNat_toNat, chk, f, Bool.and_self, Bool.and_true, Bool.true_and, Bool.not_true]
  rfl

theorem vmulE4m3 (h : Head) (x : VecX) (d : VNum) (a : VNum) (b : VNum) (mk : MaskX) : Statement (.vmulE4m3 h x d a b mk) := by
  intro wf
  have f : (vecFmt ⟨true, true, 1, 0, []⟩ x && vecRsv ⟨true, true, 1, 0, []⟩ x b) = true := wf
  simp only [Bool.and_eq_true] at f
  obtain ⟨g, e0, e4, e7, e8, e12, e16⟩ := goodV h 0x33 (d := d.val) (a := a.val) (b := b.val) (fn := 8) _ _ _ (mask_bits mk 7 4) (by have := d.isLt; omega) (by have := a.isLt; omega) (by have := b.isLt; omega) (me_lt mk) (mk_lt mk) (by decide) (by decide) (by decide)
  refine codedV g ?_
  simp only [decodeBody, decodeVec8, e0, e4, e7, e8, e12, e16, maskOf_code, mask_ok, pxV_takes, pxV_codes, pxV_vecX, dec4, dec8, dec16, pair_ok, pair_code, ldSizeOf_code, ldSize_ok, stSizeOf_code, stSize_ok, g.legal, g.op, g.head, fin_ofNat, sregOf_code, ofNat_toNat, chk, f, Bool.and_self, Bool.and_true, Bool.true_and, Bool.not_true]
  rfl

theorem vminE4m3 (h : Head) (x : VecX) (d : VNum) (a : VNum) (b : VNum) (mk : MaskX) : Statement (.vminE4m3 h x d a b mk) := by
  intro wf
  have f : (vecFmt ⟨true, true, 1, 0, []⟩ x && vecRsv ⟨true, true, 1, 0, []⟩ x b) = true := wf
  simp only [Bool.and_eq_true] at f
  obtain ⟨g, e0, e4, e7, e8, e12, e16⟩ := goodV h 0x33 (d := d.val) (a := a.val) (b := b.val) (fn := 9) _ _ _ (mask_bits mk 7 4) (by have := d.isLt; omega) (by have := a.isLt; omega) (by have := b.isLt; omega) (me_lt mk) (mk_lt mk) (by decide) (by decide) (by decide)
  refine codedV g ?_
  simp only [decodeBody, decodeVec8, e0, e4, e7, e8, e12, e16, maskOf_code, mask_ok, pxV_takes, pxV_codes, pxV_vecX, dec4, dec8, dec16, pair_ok, pair_code, ldSizeOf_code, ldSize_ok, stSizeOf_code, stSize_ok, g.legal, g.op, g.head, fin_ofNat, sregOf_code, ofNat_toNat, chk, f, Bool.and_self, Bool.and_true, Bool.true_and, Bool.not_true]
  rfl

theorem vmaxE4m3 (h : Head) (x : VecX) (d : VNum) (a : VNum) (b : VNum) (mk : MaskX) : Statement (.vmaxE4m3 h x d a b mk) := by
  intro wf
  have f : (vecFmt ⟨true, true, 1, 0, []⟩ x && vecRsv ⟨true, true, 1, 0, []⟩ x b) = true := wf
  simp only [Bool.and_eq_true] at f
  obtain ⟨g, e0, e4, e7, e8, e12, e16⟩ := goodV h 0x33 (d := d.val) (a := a.val) (b := b.val) (fn := 10) _ _ _ (mask_bits mk 7 4) (by have := d.isLt; omega) (by have := a.isLt; omega) (by have := b.isLt; omega) (me_lt mk) (mk_lt mk) (by decide) (by decide) (by decide)
  refine codedV g ?_
  simp only [decodeBody, decodeVec8, e0, e4, e7, e8, e12, e16, maskOf_code, mask_ok, pxV_takes, pxV_codes, pxV_vecX, dec4, dec8, dec16, pair_ok, pair_code, ldSizeOf_code, ldSize_ok, stSizeOf_code, stSize_ok, g.legal, g.op, g.head, fin_ofNat, sregOf_code, ofNat_toNat, chk, f, Bool.and_self, Bool.and_true, Bool.true_and, Bool.not_true]
  rfl

theorem vaddE5m2 (h : Head) (x : VecX) (d : VNum) (a : VNum) (b : VNum) (mk : MaskX) : Statement (.vaddE5m2 h x d a b mk) := by
  intro wf
  have f : (vecFmt ⟨true, true, 1, 0, []⟩ x && vecRsv ⟨true, true, 1, 0, []⟩ x b) = true := wf
  simp only [Bool.and_eq_true] at f
  obtain ⟨g, e0, e4, e7, e8, e12, e16⟩ := goodV h 0x33 (d := d.val) (a := a.val) (b := b.val) (fn := 11) _ _ _ (mask_bits mk 7 4) (by have := d.isLt; omega) (by have := a.isLt; omega) (by have := b.isLt; omega) (me_lt mk) (mk_lt mk) (by decide) (by decide) (by decide)
  refine codedV g ?_
  simp only [decodeBody, decodeVec8, e0, e4, e7, e8, e12, e16, maskOf_code, mask_ok, pxV_takes, pxV_codes, pxV_vecX, dec4, dec8, dec16, pair_ok, pair_code, ldSizeOf_code, ldSize_ok, stSizeOf_code, stSize_ok, g.legal, g.op, g.head, fin_ofNat, sregOf_code, ofNat_toNat, chk, f, Bool.and_self, Bool.and_true, Bool.true_and, Bool.not_true]
  rfl

theorem vsubE5m2 (h : Head) (x : VecX) (d : VNum) (a : VNum) (b : VNum) (mk : MaskX) : Statement (.vsubE5m2 h x d a b mk) := by
  intro wf
  have f : (vecFmt ⟨true, true, 1, 0, []⟩ x && vecRsv ⟨true, true, 1, 0, []⟩ x b) = true := wf
  simp only [Bool.and_eq_true] at f
  obtain ⟨g, e0, e4, e7, e8, e12, e16⟩ := goodV h 0x33 (d := d.val) (a := a.val) (b := b.val) (fn := 12) _ _ _ (mask_bits mk 7 4) (by have := d.isLt; omega) (by have := a.isLt; omega) (by have := b.isLt; omega) (me_lt mk) (mk_lt mk) (by decide) (by decide) (by decide)
  refine codedV g ?_
  simp only [decodeBody, decodeVec8, e0, e4, e7, e8, e12, e16, maskOf_code, mask_ok, pxV_takes, pxV_codes, pxV_vecX, dec4, dec8, dec16, pair_ok, pair_code, ldSizeOf_code, ldSize_ok, stSizeOf_code, stSize_ok, g.legal, g.op, g.head, fin_ofNat, sregOf_code, ofNat_toNat, chk, f, Bool.and_self, Bool.and_true, Bool.true_and, Bool.not_true]
  rfl

theorem vmulE5m2 (h : Head) (x : VecX) (d : VNum) (a : VNum) (b : VNum) (mk : MaskX) : Statement (.vmulE5m2 h x d a b mk) := by
  intro wf
  have f : (vecFmt ⟨true, true, 1, 0, []⟩ x && vecRsv ⟨true, true, 1, 0, []⟩ x b) = true := wf
  simp only [Bool.and_eq_true] at f
  obtain ⟨g, e0, e4, e7, e8, e12, e16⟩ := goodV h 0x33 (d := d.val) (a := a.val) (b := b.val) (fn := 13) _ _ _ (mask_bits mk 7 4) (by have := d.isLt; omega) (by have := a.isLt; omega) (by have := b.isLt; omega) (me_lt mk) (mk_lt mk) (by decide) (by decide) (by decide)
  refine codedV g ?_
  simp only [decodeBody, decodeVec8, e0, e4, e7, e8, e12, e16, maskOf_code, mask_ok, pxV_takes, pxV_codes, pxV_vecX, dec4, dec8, dec16, pair_ok, pair_code, ldSizeOf_code, ldSize_ok, stSizeOf_code, stSize_ok, g.legal, g.op, g.head, fin_ofNat, sregOf_code, ofNat_toNat, chk, f, Bool.and_self, Bool.and_true, Bool.true_and, Bool.not_true]
  rfl

theorem vminE5m2 (h : Head) (x : VecX) (d : VNum) (a : VNum) (b : VNum) (mk : MaskX) : Statement (.vminE5m2 h x d a b mk) := by
  intro wf
  have f : (vecFmt ⟨true, true, 1, 0, []⟩ x && vecRsv ⟨true, true, 1, 0, []⟩ x b) = true := wf
  simp only [Bool.and_eq_true] at f
  obtain ⟨g, e0, e4, e7, e8, e12, e16⟩ := goodV h 0x33 (d := d.val) (a := a.val) (b := b.val) (fn := 14) _ _ _ (mask_bits mk 7 4) (by have := d.isLt; omega) (by have := a.isLt; omega) (by have := b.isLt; omega) (me_lt mk) (mk_lt mk) (by decide) (by decide) (by decide)
  refine codedV g ?_
  simp only [decodeBody, decodeVec8, e0, e4, e7, e8, e12, e16, maskOf_code, mask_ok, pxV_takes, pxV_codes, pxV_vecX, dec4, dec8, dec16, pair_ok, pair_code, ldSizeOf_code, ldSize_ok, stSizeOf_code, stSize_ok, g.legal, g.op, g.head, fin_ofNat, sregOf_code, ofNat_toNat, chk, f, Bool.and_self, Bool.and_true, Bool.true_and, Bool.not_true]
  rfl

theorem vmaxE5m2 (h : Head) (x : VecX) (d : VNum) (a : VNum) (b : VNum) (mk : MaskX) : Statement (.vmaxE5m2 h x d a b mk) := by
  intro wf
  have f : (vecFmt ⟨true, true, 1, 0, []⟩ x && vecRsv ⟨true, true, 1, 0, []⟩ x b) = true := wf
  simp only [Bool.and_eq_true] at f
  obtain ⟨g, e0, e4, e7, e8, e12, e16⟩ := goodV h 0x33 (d := d.val) (a := a.val) (b := b.val) (fn := 15) _ _ _ (mask_bits mk 7 4) (by have := d.isLt; omega) (by have := a.isLt; omega) (by have := b.isLt; omega) (me_lt mk) (mk_lt mk) (by decide) (by decide) (by decide)
  refine codedV g ?_
  simp only [decodeBody, decodeVec8, e0, e4, e7, e8, e12, e16, maskOf_code, mask_ok, pxV_takes, pxV_codes, pxV_vecX, dec4, dec8, dec16, pair_ok, pair_code, ldSizeOf_code, ldSize_ok, stSizeOf_code, stSize_ok, g.legal, g.op, g.head, fin_ofNat, sregOf_code, ofNat_toNat, chk, f, Bool.and_self, Bool.and_true, Bool.true_and, Bool.not_true]
  rfl

theorem quantQb8 (h : Head) (x : VecX) (d : VNum) (a : VNum) : Statement (.quantQb8 h x d a) := by
  intro wf
  have f : (vecFmt ⟨true, false, 0, 0, []⟩ x && vecRsv ⟨true, false, 0, 0, []⟩ x 0) = true := wf
  simp only [Bool.and_eq_true] at f
  obtain ⟨g, e0, e4, e7, e8, e12, e16⟩ := goodV h 0x34 (d := d.val) (a := a.val) (b := 0) (fn := 0) 0 0 0 rfl (by have := d.isLt; omega) (by have := a.isLt; omega) (by decide) (by decide) (by decide) (by decide) (by decide) (by decide)
  refine codedV g ?_
  simp only [decodeBody, decodeBlock, e0, e4, e7, e8, e12, e16, maskOf_code, mask_ok, pxV_takes, pxV_codes, pxV_vecX, dec4, dec8, dec16, pair_ok, pair_code, ldSizeOf_code, ldSize_ok, stSizeOf_code, stSize_ok, g.legal, g.op, g.head, fin_ofNat, sregOf_code, ofNat_toNat, chk, f, Bool.and_self, Bool.and_true, Bool.true_and, Bool.not_true]
  rfl

theorem quantQb4 (h : Head) (x : VecX) (d : VNum) (a : VNum) : Statement (.quantQb4 h x d a) := by
  intro wf
  have f : (vecFmt ⟨true, false, 0, 0, []⟩ x && vecRsv ⟨true, false, 0, 0, []⟩ x 0) = true := wf
  simp only [Bool.and_eq_true] at f
  obtain ⟨g, e0, e4, e7, e8, e12, e16⟩ := goodV h 0x34 (d := d.val) (a := a.val) (b := 0) (fn := 1) 0 0 0 rfl (by have := d.isLt; omega) (by have := a.isLt; omega) (by decide) (by decide) (by decide) (by decide) (by decide) (by decide)
  refine codedV g ?_
  simp only [decodeBody, decodeBlock, e0, e4, e7, e8, e12, e16, maskOf_code, mask_ok, pxV_takes, pxV_codes, pxV_vecX, dec4, dec8, dec16, pair_ok, pair_code, ldSizeOf_code, ldSize_ok, stSizeOf_code, stSize_ok, g.legal, g.op, g.head, fin_ofNat, sregOf_code, ofNat_toNat, chk, f, Bool.and_self, Bool.and_true, Bool.true_and, Bool.not_true]
  rfl

theorem dequantQb8 (h : Head) (x : VecX) (d : VNum) (a : VNum) (mk : MaskX) : Statement (.dequantQb8 h x d a mk) := by
  intro wf
  have f : (vecFmt ⟨false, false, 0, 0, []⟩ x && vecRsv ⟨false, false, 0, 0, []⟩ x 0) = true := wf
  simp only [Bool.and_eq_true] at f
  obtain ⟨g, e0, e4, e7, e8, e12, e16⟩ := goodV h 0x34 (d := d.val) (a := a.val) (b := 0) (fn := 2) _ _ _ (mask_bits mk 7 4) (by have := d.isLt; omega) (by have := a.isLt; omega) (by decide) (me_lt mk) (mk_lt mk) (by decide) (by decide) (by decide)
  refine codedV g ?_
  simp only [decodeBody, decodeBlock, e0, e4, e7, e8, e12, e16, maskOf_code, mask_ok, pxV_takes, pxV_codes, pxV_vecX, dec4, dec8, dec16, pair_ok, pair_code, ldSizeOf_code, ldSize_ok, stSizeOf_code, stSize_ok, g.legal, g.op, g.head, fin_ofNat, sregOf_code, ofNat_toNat, chk, f, Bool.and_self, Bool.and_true, Bool.true_and, Bool.not_true]
  rfl

theorem dequantQb4 (h : Head) (x : VecX) (d : VNum) (a : VNum) (mk : MaskX) : Statement (.dequantQb4 h x d a mk) := by
  intro wf
  have f : (vecFmt ⟨false, false, 0, 0, []⟩ x && vecRsv ⟨false, false, 0, 0, []⟩ x 0) = true := wf
  simp only [Bool.and_eq_true] at f
  obtain ⟨g, e0, e4, e7, e8, e12, e16⟩ := goodV h 0x34 (d := d.val) (a := a.val) (b := 0) (fn := 3) _ _ _ (mask_bits mk 7 4) (by have := d.isLt; omega) (by have := a.isLt; omega) (by decide) (me_lt mk) (mk_lt mk) (by decide) (by decide) (by decide)
  refine codedV g ?_
  simp only [decodeBody, decodeBlock, e0, e4, e7, e8, e12, e16, maskOf_code, mask_ok, pxV_takes, pxV_codes, pxV_vecX, dec4, dec8, dec16, pair_ok, pair_code, ldSizeOf_code, ldSize_ok, stSizeOf_code, stSize_ok, g.legal, g.op, g.head, fin_ofNat, sregOf_code, ofNat_toNat, chk, f, Bool.and_self, Bool.and_true, Bool.true_and, Bool.not_true]
  rfl

theorem qtobaQb8 (h : Head) (x : VecX) (d : VNum) (a : VNum) : Statement (.qtobaQb8 h x d a) := by
  intro wf
  have f : (vecFmt ⟨false, false, 0, 0, []⟩ x && vecRsv ⟨false, false, 0, 0, []⟩ x 0) = true := wf
  simp only [Bool.and_eq_true] at f
  obtain ⟨g, e0, e4, e7, e8, e12, e16⟩ := goodV h 0x34 (d := d.val) (a := a.val) (b := 0) (fn := 4) 0 0 0 rfl (by have := d.isLt; omega) (by have := a.isLt; omega) (by decide) (by decide) (by decide) (by decide) (by decide) (by decide)
  refine codedV g ?_
  simp only [decodeBody, decodeBlock, e0, e4, e7, e8, e12, e16, maskOf_code, mask_ok, pxV_takes, pxV_codes, pxV_vecX, dec4, dec8, dec16, pair_ok, pair_code, ldSizeOf_code, ldSize_ok, stSizeOf_code, stSize_ok, g.legal, g.op, g.head, fin_ofNat, sregOf_code, ofNat_toNat, chk, f, Bool.and_self, Bool.and_true, Bool.true_and, Bool.not_true]
  rfl

theorem qtobaQb4 (h : Head) (x : VecX) (d : VNum) (a : VNum) : Statement (.qtobaQb4 h x d a) := by
  intro wf
  have f : (vecFmt ⟨false, false, 0, 0, []⟩ x && vecRsv ⟨false, false, 0, 0, []⟩ x 0) = true := wf
  simp only [Bool.and_eq_true] at f
  obtain ⟨g, e0, e4, e7, e8, e12, e16⟩ := goodV h 0x34 (d := d.val) (a := a.val) (b := 0) (fn := 5) 0 0 0 rfl (by have := d.isLt; omega) (by have := a.isLt; omega) (by decide) (by decide) (by decide) (by decide) (by decide) (by decide)
  refine codedV g ?_
  simp only [decodeBody, decodeBlock, e0, e4, e7, e8, e12, e16, maskOf_code, mask_ok, pxV_takes, pxV_codes, pxV_vecX, dec4, dec8, dec16, pair_ok, pair_code, ldSizeOf_code, ldSize_ok, stSizeOf_code, stSize_ok, g.legal, g.op, g.head, fin_ofNat, sregOf_code, ofNat_toNat, chk, f, Bool.and_self, Bool.and_true, Bool.true_and, Bool.not_true]
  rfl

theorem badd (h : Head) (x : VecX) (d : VNum) (a : VNum) (b : VNum) : Statement (.badd h x d a b) := by
  intro wf
  have f : (vecFmt ⟨false, false, 0, 0, []⟩ x && vecRsv ⟨false, false, 0, 0, []⟩ x b) = true := wf
  simp only [Bool.and_eq_true] at f
  obtain ⟨g, e0, e4, e7, e8, e12, e16⟩ := goodV h 0x34 (d := d.val) (a := a.val) (b := b.val) (fn := 6) 0 0 0 rfl (by have := d.isLt; omega) (by have := a.isLt; omega) (by have := b.isLt; omega) (by decide) (by decide) (by decide) (by decide) (by decide)
  refine codedV g ?_
  simp only [decodeBody, decodeBlock, e0, e4, e7, e8, e12, e16, maskOf_code, mask_ok, pxV_takes, pxV_codes, pxV_vecX, dec4, dec8, dec16, pair_ok, pair_code, ldSizeOf_code, ldSize_ok, stSizeOf_code, stSize_ok, g.legal, g.op, g.head, fin_ofNat, sregOf_code, ofNat_toNat, chk, f, Bool.and_self, Bool.and_true, Bool.true_and, Bool.not_true]
  rfl

theorem balign (h : Head) (x : VecX) (d : VNum) (a : VNum) (b : VNum) : Statement (.balign h x d a b) := by
  intro wf
  have f : (vecFmt ⟨false, false, 1, 0, []⟩ x && vecRsv ⟨false, false, 1, 0, []⟩ x b) = true := wf
  simp only [Bool.and_eq_true] at f
  obtain ⟨g, e0, e4, e7, e8, e12, e16⟩ := goodV h 0x34 (d := d.val) (a := a.val) (b := b.val) (fn := 7) 0 0 0 rfl (by have := d.isLt; omega) (by have := a.isLt; omega) (by have := b.isLt; omega) (by decide) (by decide) (by decide) (by decide) (by decide)
  refine codedV g ?_
  simp only [decodeBody, decodeBlock, e0, e4, e7, e8, e12, e16, maskOf_code, mask_ok, pxV_takes, pxV_codes, pxV_vecX, dec4, dec8, dec16, pair_ok, pair_code, ldSizeOf_code, ldSize_ok, stSizeOf_code, stSize_ok, g.legal, g.op, g.head, fin_ofNat, sregOf_code, ofNat_toNat, chk, f, Bool.and_self, Bool.and_true, Bool.true_and, Bool.not_true]
  rfl

theorem vlut (h : Head) (x : VecX) (d : VNum) (a : VNum) (kn : ANum) (mk : MaskX) : Statement (.vlut h x d a kn mk) := by
  intro wf
  have f : (vecFmt ⟨false, false, 0, 3, []⟩ x && vecRsv ⟨false, false, 0, 3, []⟩ x 0) = true := wf
  simp only [Bool.and_eq_true] at f
  obtain ⟨g, e0, e4, e7, e8, e12, e16⟩ := goodV h 0x34 (d := d.val) (a := a.val) (b := kn.val) (fn := 8) _ _ _ (mask_bits mk 7 4) (by have := d.isLt; omega) (by have := a.isLt; omega) (by have := kn.isLt; omega) (me_lt mk) (mk_lt mk) (by decide) (by decide) (by decide)
  refine codedV g ?_
  simp only [decodeBody, decodeBlock, e0, e4, e7, e8, e12, e16, maskOf_code, mask_ok, pxV_takes, pxV_codes, pxV_vecX, dec4, dec8, dec16, pair_ok, pair_code, ldSizeOf_code, ldSize_ok, stSizeOf_code, stSize_ok, g.legal, g.op, g.head, fin_ofNat, sregOf_code, ofNat_toNat, chk, f, Bool.and_self, Bool.and_true, Bool.true_and, Bool.not_true]
  rfl

theorem vdqw (h : Head) (x : VecX) (d : VNum) (a : VNum) (b : VNum) (mk : MaskX) : Statement (.vdqw h x d a b mk) := by
  intro wf
  have f : (vecFmt ⟨true, false, 1, 7, []⟩ x && vecRsv ⟨true, false, 1, 7, []⟩ x b) = true := wf
  simp only [Bool.and_eq_true] at f
  obtain ⟨g, e0, e4, e7, e8, e12, e16⟩ := goodV h 0x34 (d := d.val) (a := a.val) (b := b.val) (fn := 9) _ _ _ (mask_bits mk 7 4) (by have := d.isLt; omega) (by have := a.isLt; omega) (by have := b.isLt; omega) (me_lt mk) (mk_lt mk) (by decide) (by decide) (by decide)
  refine codedV g ?_
  simp only [decodeBody, decodeBlock, e0, e4, e7, e8, e12, e16, maskOf_code, mask_ok, pxV_takes, pxV_codes, pxV_vecX, dec4, dec8, dec16, pair_ok, pair_code, ldSizeOf_code, ldSize_ok, stSizeOf_code, stSize_ok, g.legal, g.op, g.head, fin_ofNat, sregOf_code, ofNat_toNat, chk, f, Bool.and_self, Bool.and_true, Bool.true_and, Bool.not_true]
  rfl

theorem vcvtBf16F32 (h : Head) (x : VecX) (d : VNum) (a : VNum) (mk : MaskX) : Statement (.vcvtBf16F32 h x d a mk) := by
  intro wf
  have f : (vecFmt ⟨true, false, 0, 1, []⟩ x && vecRsv ⟨true, false, 0, 1, []⟩ x 0) = true := wf
  simp only [Bool.and_eq_true] at f
  obtain ⟨g, e0, e4, e7, e8, e12, e16⟩ := goodV h 0x35 (d := d.val) (a := a.val) (b := 0) (fn := 0) _ _ _ (mask_bits mk 7 4) (by have := d.isLt; omega) (by have := a.isLt; omega) (by decide) (me_lt mk) (mk_lt mk) (by decide) (by decide) (by decide)
  refine codedV g ?_
  simp only [decodeBody, decodeConvert, e0, e4, e7, e8, e12, e16, maskOf_code, mask_ok, pxV_takes, pxV_codes, pxV_vecX, dec4, dec8, dec16, pair_ok, pair_code, ldSizeOf_code, ldSize_ok, stSizeOf_code, stSize_ok, g.legal, g.op, g.head, fin_ofNat, sregOf_code, ofNat_toNat, chk, f, Bool.and_self, Bool.and_true, Bool.true_and, Bool.not_true]
  rfl

theorem vcvtF32Bf16 (h : Head) (x : VecX) (d : VNum) (a : VNum) (mk : MaskX) : Statement (.vcvtF32Bf16 h x d a mk) := by
  intro wf
  have f : (vecFmt ⟨false, false, 0, 1, []⟩ x && vecRsv ⟨false, false, 0, 1, []⟩ x 0) = true := wf
  simp only [Bool.and_eq_true] at f
  obtain ⟨g, e0, e4, e7, e8, e12, e16⟩ := goodV h 0x35 (d := d.val) (a := a.val) (b := 0) (fn := 1) _ _ _ (mask_bits mk 7 4) (by have := d.isLt; omega) (by have := a.isLt; omega) (by decide) (me_lt mk) (mk_lt mk) (by decide) (by decide) (by decide)
  refine codedV g ?_
  simp only [decodeBody, decodeConvert, e0, e4, e7, e8, e12, e16, maskOf_code, mask_ok, pxV_takes, pxV_codes, pxV_vecX, dec4, dec8, dec16, pair_ok, pair_code, ldSizeOf_code, ldSize_ok, stSizeOf_code, stSize_ok, g.legal, g.op, g.head, fin_ofNat, sregOf_code, ofNat_toNat, chk, f, Bool.and_self, Bool.and_true, Bool.true_and, Bool.not_true]
  rfl

theorem vcvtE4m3F32 (h : Head) (x : VecX) (d : VNum) (a : VNum) (mk : MaskX) : Statement (.vcvtE4m3F32 h x d a mk) := by
  intro wf
  have f : (vecFmt ⟨true, true, 0, 3, []⟩ x && vecRsv ⟨true, true, 0, 3, []⟩ x 0) = true := wf
  simp only [Bool.and_eq_true] at f
  obtain ⟨g, e0, e4, e7, e8, e12, e16⟩ := goodV h 0x35 (d := d.val) (a := a.val) (b := 0) (fn := 2) _ _ _ (mask_bits mk 7 4) (by have := d.isLt; omega) (by have := a.isLt; omega) (by decide) (me_lt mk) (mk_lt mk) (by decide) (by decide) (by decide)
  refine codedV g ?_
  simp only [decodeBody, decodeConvert, e0, e4, e7, e8, e12, e16, maskOf_code, mask_ok, pxV_takes, pxV_codes, pxV_vecX, dec4, dec8, dec16, pair_ok, pair_code, ldSizeOf_code, ldSize_ok, stSizeOf_code, stSize_ok, g.legal, g.op, g.head, fin_ofNat, sregOf_code, ofNat_toNat, chk, f, Bool.and_self, Bool.and_true, Bool.true_and, Bool.not_true]
  rfl

theorem vcvtE5m2F32 (h : Head) (x : VecX) (d : VNum) (a : VNum) (mk : MaskX) : Statement (.vcvtE5m2F32 h x d a mk) := by
  intro wf
  have f : (vecFmt ⟨true, true, 0, 3, []⟩ x && vecRsv ⟨true, true, 0, 3, []⟩ x 0) = true := wf
  simp only [Bool.and_eq_true] at f
  obtain ⟨g, e0, e4, e7, e8, e12, e16⟩ := goodV h 0x35 (d := d.val) (a := a.val) (b := 0) (fn := 3) _ _ _ (mask_bits mk 7 4) (by have := d.isLt; omega) (by have := a.isLt; omega) (by decide) (me_lt mk) (mk_lt mk) (by decide) (by decide) (by decide)
  refine codedV g ?_
  simp only [decodeBody, decodeConvert, e0, e4, e7, e8, e12, e16, maskOf_code, mask_ok, pxV_takes, pxV_codes, pxV_vecX, dec4, dec8, dec16, pair_ok, pair_code, ldSizeOf_code, ldSize_ok, stSizeOf_code, stSize_ok, g.legal, g.op, g.head, fin_ofNat, sregOf_code, ofNat_toNat, chk, f, Bool.and_self, Bool.and_true, Bool.true_and, Bool.not_true]
  rfl

theorem vcvtF32E4m3 (h : Head) (x : VecX) (d : VNum) (a : VNum) (mk : MaskX) : Statement (.vcvtF32E4m3 h x d a mk) := by
  intro wf
  have f : (vecFmt ⟨false, false, 0, 3, []⟩ x && vecRsv ⟨false, false, 0, 3, []⟩ x 0) = true := wf
  simp only [Bool.and_eq_true] at f
  obtain ⟨g, e0, e4, e7, e8, e12, e16⟩ := goodV h 0x35 (d := d.val) (a := a.val) (b := 0) (fn := 4) _ _ _ (mask_bits mk 7 4) (by have := d.isLt; omega) (by have := a.isLt; omega) (by decide) (me_lt mk) (mk_lt mk) (by decide) (by decide) (by decide)
  refine codedV g ?_
  simp only [decodeBody, decodeConvert, e0, e4, e7, e8, e12, e16, maskOf_code, mask_ok, pxV_takes, pxV_codes, pxV_vecX, dec4, dec8, dec16, pair_ok, pair_code, ldSizeOf_code, ldSize_ok, stSizeOf_code, stSize_ok, g.legal, g.op, g.head, fin_ofNat, sregOf_code, ofNat_toNat, chk, f, Bool.and_self, Bool.and_true, Bool.true_and, Bool.not_true]
  rfl

theorem vcvtF32E5m2 (h : Head) (x : VecX) (d : VNum) (a : VNum) (mk : MaskX) : Statement (.vcvtF32E5m2 h x d a mk) := by
  intro wf
  have f : (vecFmt ⟨false, false, 0, 3, []⟩ x && vecRsv ⟨false, false, 0, 3, []⟩ x 0) = true := wf
  simp only [Bool.and_eq_true] at f
  obtain ⟨g, e0, e4, e7, e8, e12, e16⟩ := goodV h 0x35 (d := d.val) (a := a.val) (b := 0) (fn := 5) _ _ _ (mask_bits mk 7 4) (by have := d.isLt; omega) (by have := a.isLt; omega) (by decide) (me_lt mk) (mk_lt mk) (by decide) (by decide) (by decide)
  refine codedV g ?_
  simp only [decodeBody, decodeConvert, e0, e4, e7, e8, e12, e16, maskOf_code, mask_ok, pxV_takes, pxV_codes, pxV_vecX, dec4, dec8, dec16, pair_ok, pair_code, ldSizeOf_code, ldSize_ok, stSizeOf_code, stSize_ok, g.legal, g.op, g.head, fin_ofNat, sregOf_code, ofNat_toNat, chk, f, Bool.and_self, Bool.and_true, Bool.true_and, Bool.not_true]
  rfl

theorem vcvtE4m3Bf16 (h : Head) (x : VecX) (d : VNum) (a : VNum) (mk : MaskX) : Statement (.vcvtE4m3Bf16 h x d a mk) := by
  intro wf
  have f : (vecFmt ⟨true, true, 0, 1, []⟩ x && vecRsv ⟨true, true, 0, 1, []⟩ x 0) = true := wf
  simp only [Bool.and_eq_true] at f
  obtain ⟨g, e0, e4, e7, e8, e12, e16⟩ := goodV h 0x35 (d := d.val) (a := a.val) (b := 0) (fn := 6) _ _ _ (mask_bits mk 7 4) (by have := d.isLt; omega) (by have := a.isLt; omega) (by decide) (me_lt mk) (mk_lt mk) (by decide) (by decide) (by decide)
  refine codedV g ?_
  simp only [decodeBody, decodeConvert, e0, e4, e7, e8, e12, e16, maskOf_code, mask_ok, pxV_takes, pxV_codes, pxV_vecX, dec4, dec8, dec16, pair_ok, pair_code, ldSizeOf_code, ldSize_ok, stSizeOf_code, stSize_ok, g.legal, g.op, g.head, fin_ofNat, sregOf_code, ofNat_toNat, chk, f, Bool.and_self, Bool.and_true, Bool.true_and, Bool.not_true]
  rfl

theorem vcvtE5m2Bf16 (h : Head) (x : VecX) (d : VNum) (a : VNum) (mk : MaskX) : Statement (.vcvtE5m2Bf16 h x d a mk) := by
  intro wf
  have f : (vecFmt ⟨true, true, 0, 1, []⟩ x && vecRsv ⟨true, true, 0, 1, []⟩ x 0) = true := wf
  simp only [Bool.and_eq_true] at f
  obtain ⟨g, e0, e4, e7, e8, e12, e16⟩ := goodV h 0x35 (d := d.val) (a := a.val) (b := 0) (fn := 7) _ _ _ (mask_bits mk 7 4) (by have := d.isLt; omega) (by have := a.isLt; omega) (by decide) (me_lt mk) (mk_lt mk) (by decide) (by decide) (by decide)
  refine codedV g ?_
  simp only [decodeBody, decodeConvert, e0, e4, e7, e8, e12, e16, maskOf_code, mask_ok, pxV_takes, pxV_codes, pxV_vecX, dec4, dec8, dec16, pair_ok, pair_code, ldSizeOf_code, ldSize_ok, stSizeOf_code, stSize_ok, g.legal, g.op, g.head, fin_ofNat, sregOf_code, ofNat_toNat, chk, f, Bool.and_self, Bool.and_true, Bool.true_and, Bool.not_true]
  rfl

theorem vcvtBf16E4m3 (h : Head) (x : VecX) (d : VNum) (a : VNum) (mk : MaskX) : Statement (.vcvtBf16E4m3 h x d a mk) := by
  intro wf
  have f : (vecFmt ⟨false, false, 0, 1, []⟩ x && vecRsv ⟨false, false, 0, 1, []⟩ x 0) = true := wf
  simp only [Bool.and_eq_true] at f
  obtain ⟨g, e0, e4, e7, e8, e12, e16⟩ := goodV h 0x35 (d := d.val) (a := a.val) (b := 0) (fn := 8) _ _ _ (mask_bits mk 7 4) (by have := d.isLt; omega) (by have := a.isLt; omega) (by decide) (me_lt mk) (mk_lt mk) (by decide) (by decide) (by decide)
  refine codedV g ?_
  simp only [decodeBody, decodeConvert, e0, e4, e7, e8, e12, e16, maskOf_code, mask_ok, pxV_takes, pxV_codes, pxV_vecX, dec4, dec8, dec16, pair_ok, pair_code, ldSizeOf_code, ldSize_ok, stSizeOf_code, stSize_ok, g.legal, g.op, g.head, fin_ofNat, sregOf_code, ofNat_toNat, chk, f, Bool.and_self, Bool.and_true, Bool.true_and, Bool.not_true]
  rfl

theorem vcvtBf16E5m2 (h : Head) (x : VecX) (d : VNum) (a : VNum) (mk : MaskX) : Statement (.vcvtBf16E5m2 h x d a mk) := by
  intro wf
  have f : (vecFmt ⟨false, false, 0, 1, []⟩ x && vecRsv ⟨false, false, 0, 1, []⟩ x 0) = true := wf
  simp only [Bool.and_eq_true] at f
  obtain ⟨g, e0, e4, e7, e8, e12, e16⟩ := goodV h 0x35 (d := d.val) (a := a.val) (b := 0) (fn := 9) _ _ _ (mask_bits mk 7 4) (by have := d.isLt; omega) (by have := a.isLt; omega) (by decide) (me_lt mk) (mk_lt mk) (by decide) (by decide) (by decide)
  refine codedV g ?_
  simp only [decodeBody, decodeConvert, e0, e4, e7, e8, e12, e16, maskOf_code, mask_ok, pxV_takes, pxV_codes, pxV_vecX, dec4, dec8, dec16, pair_ok, pair_code, ldSizeOf_code, ldSize_ok, stSizeOf_code, stSize_ok, g.legal, g.op, g.head, fin_ofNat, sregOf_code, ofNat_toNat, chk, f, Bool.and_self, Bool.and_true, Bool.true_and, Bool.not_true]
  rfl

theorem vcvtI32F32 (h : Head) (x : VecX) (d : VNum) (a : VNum) (mk : MaskX) : Statement (.vcvtI32F32 h x d a mk) := by
  intro wf
  have f : (vecFmt ⟨true, false, 0, 0, []⟩ x && vecRsv ⟨true, false, 0, 0, []⟩ x 0) = true := wf
  simp only [Bool.and_eq_true] at f
  obtain ⟨g, e0, e4, e7, e8, e12, e16⟩ := goodV h 0x35 (d := d.val) (a := a.val) (b := 0) (fn := 10) _ _ _ (mask_bits mk 7 4) (by have := d.isLt; omega) (by have := a.isLt; omega) (by decide) (me_lt mk) (mk_lt mk) (by decide) (by decide) (by decide)
  refine codedV g ?_
  simp only [decodeBody, decodeConvert, e0, e4, e7, e8, e12, e16, maskOf_code, mask_ok, pxV_takes, pxV_codes, pxV_vecX, dec4, dec8, dec16, pair_ok, pair_code, ldSizeOf_code, ldSize_ok, stSizeOf_code, stSize_ok, g.legal, g.op, g.head, fin_ofNat, sregOf_code, ofNat_toNat, chk, f, Bool.and_self, Bool.and_true, Bool.true_and, Bool.not_true]
  rfl

theorem vcvtF32I32 (h : Head) (x : VecX) (d : VNum) (a : VNum) (mk : MaskX) : Statement (.vcvtF32I32 h x d a mk) := by
  intro wf
  have f : (vecFmt ⟨true, false, 0, 0, []⟩ x && vecRsv ⟨true, false, 0, 0, []⟩ x 0) = true := wf
  simp only [Bool.and_eq_true] at f
  obtain ⟨g, e0, e4, e7, e8, e12, e16⟩ := goodV h 0x35 (d := d.val) (a := a.val) (b := 0) (fn := 11) _ _ _ (mask_bits mk 7 4) (by have := d.isLt; omega) (by have := a.isLt; omega) (by decide) (me_lt mk) (mk_lt mk) (by decide) (by decide) (by decide)
  refine codedV g ?_
  simp only [decodeBody, decodeConvert, e0, e4, e7, e8, e12, e16, maskOf_code, mask_ok, pxV_takes, pxV_codes, pxV_vecX, dec4, dec8, dec16, pair_ok, pair_code, ldSizeOf_code, ldSize_ok, stSizeOf_code, stSize_ok, g.legal, g.op, g.head, fin_ofNat, sregOf_code, ofNat_toNat, chk, f, Bool.and_self, Bool.and_true, Bool.true_and, Bool.not_true]
  rfl

theorem vcvtBf16Q4 (h : Head) (x : VecX) (d : VNum) (a : VNum) (mk : MaskX) : Statement (.vcvtBf16Q4 h x d a mk) := by
  intro wf
  have f : (vecFmt ⟨false, false, 0, 3, []⟩ x && vecRsv ⟨false, false, 0, 3, []⟩ x 0) = true := wf
  simp only [Bool.and_eq_true] at f
  obtain ⟨g, e0, e4, e7, e8, e12, e16⟩ := goodV h 0x35 (d := d.val) (a := a.val) (b := 0) (fn := 12) _ _ _ (mask_bits mk 7 4) (by have := d.isLt; omega) (by have := a.isLt; omega) (by decide) (me_lt mk) (mk_lt mk) (by decide) (by decide) (by decide)
  refine codedV g ?_
  simp only [decodeBody, decodeConvert, e0, e4, e7, e8, e12, e16, maskOf_code, mask_ok, pxV_takes, pxV_codes, pxV_vecX, dec4, dec8, dec16, pair_ok, pair_code, ldSizeOf_code, ldSize_ok, stSizeOf_code, stSize_ok, g.legal, g.op, g.head, fin_ofNat, sregOf_code, ofNat_toNat, chk, f, Bool.and_self, Bool.and_true, Bool.true_and, Bool.not_true]
  rfl

theorem vcvtI8I32 (h : Head) (x : VecX) (d : VNum) (a : VNum) (mk : MaskX) : Statement (.vcvtI8I32 h x d a mk) := by
  intro wf
  have f : (vecFmt ⟨false, false, 0, 3, []⟩ x && vecRsv ⟨false, false, 0, 3, []⟩ x 0) = true := wf
  simp only [Bool.and_eq_true] at f
  obtain ⟨g, e0, e4, e7, e8, e12, e16⟩ := goodV h 0x35 (d := d.val) (a := a.val) (b := 0) (fn := 13) _ _ _ (mask_bits mk 7 4) (by have := d.isLt; omega) (by have := a.isLt; omega) (by decide) (me_lt mk) (mk_lt mk) (by decide) (by decide) (by decide)
  refine codedV g ?_
  simp only [decodeBody, decodeConvert, e0, e4, e7, e8, e12, e16, maskOf_code, mask_ok, pxV_takes, pxV_codes, pxV_vecX, dec4, dec8, dec16, pair_ok, pair_code, ldSizeOf_code, ldSize_ok, stSizeOf_code, stSize_ok, g.legal, g.op, g.head, fin_ofNat, sregOf_code, ofNat_toNat, chk, f, Bool.and_self, Bool.and_true, Bool.true_and, Bool.not_true]
  rfl

theorem vcvtI32I8 (h : Head) (x : VecX) (d : VNum) (a : VNum) (mk : MaskX) : Statement (.vcvtI32I8 h x d a mk) := by
  intro wf
  have f : (vecFmt ⟨false, false, 0, 3, []⟩ x && vecRsv ⟨false, false, 0, 3, []⟩ x 0) = true := wf
  simp only [Bool.and_eq_true] at f
  obtain ⟨g, e0, e4, e7, e8, e12, e16⟩ := goodV h 0x35 (d := d.val) (a := a.val) (b := 0) (fn := 14) _ _ _ (mask_bits mk 7 4) (by have := d.isLt; omega) (by have := a.isLt; omega) (by decide) (me_lt mk) (mk_lt mk) (by decide) (by decide) (by decide)
  refine codedV g ?_
  simp only [decodeBody, decodeConvert, e0, e4, e7, e8, e12, e16, maskOf_code, mask_ok, pxV_takes, pxV_codes, pxV_vecX, dec4, dec8, dec16, pair_ok, pair_code, ldSizeOf_code, ldSize_ok, stSizeOf_code, stSize_ok, g.legal, g.op, g.head, fin_ofNat, sregOf_code, ofNat_toNat, chk, f, Bool.and_self, Bool.and_true, Bool.true_and, Bool.not_true]
  rfl

theorem vexp (h : Head) (x : VecX) (d : VNum) (a : VNum) (mk : MaskX) : Statement (.vexp h x d a mk) := by
  intro wf
  have f : (vecFmt ⟨true, false, 0, 0, []⟩ x && vecRsv ⟨true, false, 0, 0, []⟩ x 0) = true := wf
  simp only [Bool.and_eq_true] at f
  obtain ⟨g, e0, e4, e7, e8, e12, e16⟩ := goodV h 0x36 (d := d.val) (a := a.val) (b := 0) (fn := 0) _ _ _ (mask_bits mk 7 4) (by have := d.isLt; omega) (by have := a.isLt; omega) (by decide) (me_lt mk) (mk_lt mk) (by decide) (by decide) (by decide)
  refine codedV g ?_
  simp only [decodeBody, decodeSfu, e0, e4, e7, e8, e12, e16, maskOf_code, mask_ok, pxV_takes, pxV_codes, pxV_vecX, dec4, dec8, dec16, pair_ok, pair_code, ldSizeOf_code, ldSize_ok, stSizeOf_code, stSize_ok, g.legal, g.op, g.head, fin_ofNat, sregOf_code, ofNat_toNat, chk, f, Bool.and_self, Bool.and_true, Bool.true_and, Bool.not_true]
  rfl

theorem vexp2 (h : Head) (x : VecX) (d : VNum) (a : VNum) (mk : MaskX) : Statement (.vexp2 h x d a mk) := by
  intro wf
  have f : (vecFmt ⟨true, false, 0, 0, []⟩ x && vecRsv ⟨true, false, 0, 0, []⟩ x 0) = true := wf
  simp only [Bool.and_eq_true] at f
  obtain ⟨g, e0, e4, e7, e8, e12, e16⟩ := goodV h 0x36 (d := d.val) (a := a.val) (b := 0) (fn := 1) _ _ _ (mask_bits mk 7 4) (by have := d.isLt; omega) (by have := a.isLt; omega) (by decide) (me_lt mk) (mk_lt mk) (by decide) (by decide) (by decide)
  refine codedV g ?_
  simp only [decodeBody, decodeSfu, e0, e4, e7, e8, e12, e16, maskOf_code, mask_ok, pxV_takes, pxV_codes, pxV_vecX, dec4, dec8, dec16, pair_ok, pair_code, ldSizeOf_code, ldSize_ok, stSizeOf_code, stSize_ok, g.legal, g.op, g.head, fin_ofNat, sregOf_code, ofNat_toNat, chk, f, Bool.and_self, Bool.and_true, Bool.true_and, Bool.not_true]
  rfl

theorem vlog (h : Head) (x : VecX) (d : VNum) (a : VNum) (mk : MaskX) : Statement (.vlog h x d a mk) := by
  intro wf
  have f : (vecFmt ⟨true, false, 0, 0, []⟩ x && vecRsv ⟨true, false, 0, 0, []⟩ x 0) = true := wf
  simp only [Bool.and_eq_true] at f
  obtain ⟨g, e0, e4, e7, e8, e12, e16⟩ := goodV h 0x36 (d := d.val) (a := a.val) (b := 0) (fn := 2) _ _ _ (mask_bits mk 7 4) (by have := d.isLt; omega) (by have := a.isLt; omega) (by decide) (me_lt mk) (mk_lt mk) (by decide) (by decide) (by decide)
  refine codedV g ?_
  simp only [decodeBody, decodeSfu, e0, e4, e7, e8, e12, e16, maskOf_code, mask_ok, pxV_takes, pxV_codes, pxV_vecX, dec4, dec8, dec16, pair_ok, pair_code, ldSizeOf_code, ldSize_ok, stSizeOf_code, stSize_ok, g.legal, g.op, g.head, fin_ofNat, sregOf_code, ofNat_toNat, chk, f, Bool.and_self, Bool.and_true, Bool.true_and, Bool.not_true]
  rfl

theorem vlog2 (h : Head) (x : VecX) (d : VNum) (a : VNum) (mk : MaskX) : Statement (.vlog2 h x d a mk) := by
  intro wf
  have f : (vecFmt ⟨true, false, 0, 0, []⟩ x && vecRsv ⟨true, false, 0, 0, []⟩ x 0) = true := wf
  simp only [Bool.and_eq_true] at f
  obtain ⟨g, e0, e4, e7, e8, e12, e16⟩ := goodV h 0x36 (d := d.val) (a := a.val) (b := 0) (fn := 3) _ _ _ (mask_bits mk 7 4) (by have := d.isLt; omega) (by have := a.isLt; omega) (by decide) (me_lt mk) (mk_lt mk) (by decide) (by decide) (by decide)
  refine codedV g ?_
  simp only [decodeBody, decodeSfu, e0, e4, e7, e8, e12, e16, maskOf_code, mask_ok, pxV_takes, pxV_codes, pxV_vecX, dec4, dec8, dec16, pair_ok, pair_code, ldSizeOf_code, ldSize_ok, stSizeOf_code, stSize_ok, g.legal, g.op, g.head, fin_ofNat, sregOf_code, ofNat_toNat, chk, f, Bool.and_self, Bool.and_true, Bool.true_and, Bool.not_true]
  rfl

theorem vrcp (h : Head) (x : VecX) (d : VNum) (a : VNum) (mk : MaskX) : Statement (.vrcp h x d a mk) := by
  intro wf
  have f : (vecFmt ⟨true, false, 0, 0, []⟩ x && vecRsv ⟨true, false, 0, 0, []⟩ x 0) = true := wf
  simp only [Bool.and_eq_true] at f
  obtain ⟨g, e0, e4, e7, e8, e12, e16⟩ := goodV h 0x36 (d := d.val) (a := a.val) (b := 0) (fn := 4) _ _ _ (mask_bits mk 7 4) (by have := d.isLt; omega) (by have := a.isLt; omega) (by decide) (me_lt mk) (mk_lt mk) (by decide) (by decide) (by decide)
  refine codedV g ?_
  simp only [decodeBody, decodeSfu, e0, e4, e7, e8, e12, e16, maskOf_code, mask_ok, pxV_takes, pxV_codes, pxV_vecX, dec4, dec8, dec16, pair_ok, pair_code, ldSizeOf_code, ldSize_ok, stSizeOf_code, stSize_ok, g.legal, g.op, g.head, fin_ofNat, sregOf_code, ofNat_toNat, chk, f, Bool.and_self, Bool.and_true, Bool.true_and, Bool.not_true]
  rfl

theorem vrsqrt (h : Head) (x : VecX) (d : VNum) (a : VNum) (mk : MaskX) : Statement (.vrsqrt h x d a mk) := by
  intro wf
  have f : (vecFmt ⟨true, false, 0, 0, []⟩ x && vecRsv ⟨true, false, 0, 0, []⟩ x 0) = true := wf
  simp only [Bool.and_eq_true] at f
  obtain ⟨g, e0, e4, e7, e8, e12, e16⟩ := goodV h 0x36 (d := d.val) (a := a.val) (b := 0) (fn := 5) _ _ _ (mask_bits mk 7 4) (by have := d.isLt; omega) (by have := a.isLt; omega) (by decide) (me_lt mk) (mk_lt mk) (by decide) (by decide) (by decide)
  refine codedV g ?_
  simp only [decodeBody, decodeSfu, e0, e4, e7, e8, e12, e16, maskOf_code, mask_ok, pxV_takes, pxV_codes, pxV_vecX, dec4, dec8, dec16, pair_ok, pair_code, ldSizeOf_code, ldSize_ok, stSizeOf_code, stSize_ok, g.legal, g.op, g.head, fin_ofNat, sregOf_code, ofNat_toNat, chk, f, Bool.and_self, Bool.and_true, Bool.true_and, Bool.not_true]
  rfl

theorem vsqrt (h : Head) (x : VecX) (d : VNum) (a : VNum) (mk : MaskX) : Statement (.vsqrt h x d a mk) := by
  intro wf
  have f : (vecFmt ⟨true, false, 0, 0, []⟩ x && vecRsv ⟨true, false, 0, 0, []⟩ x 0) = true := wf
  simp only [Bool.and_eq_true] at f
  obtain ⟨g, e0, e4, e7, e8, e12, e16⟩ := goodV h 0x36 (d := d.val) (a := a.val) (b := 0) (fn := 6) _ _ _ (mask_bits mk 7 4) (by have := d.isLt; omega) (by have := a.isLt; omega) (by decide) (me_lt mk) (mk_lt mk) (by decide) (by decide) (by decide)
  refine codedV g ?_
  simp only [decodeBody, decodeSfu, e0, e4, e7, e8, e12, e16, maskOf_code, mask_ok, pxV_takes, pxV_codes, pxV_vecX, dec4, dec8, dec16, pair_ok, pair_code, ldSizeOf_code, ldSize_ok, stSizeOf_code, stSize_ok, g.legal, g.op, g.head, fin_ofNat, sregOf_code, ofNat_toNat, chk, f, Bool.and_self, Bool.and_true, Bool.true_and, Bool.not_true]
  rfl

theorem vdiv (h : Head) (x : VecX) (d : VNum) (a : VNum) (b : VNum) (mk : MaskX) : Statement (.vdiv h x d a b mk) := by
  intro wf
  have f : (vecFmt ⟨true, false, 1, 0, []⟩ x && vecRsv ⟨true, false, 1, 0, []⟩ x b) = true := wf
  simp only [Bool.and_eq_true] at f
  obtain ⟨g, e0, e4, e7, e8, e12, e16⟩ := goodV h 0x36 (d := d.val) (a := a.val) (b := b.val) (fn := 7) _ _ _ (mask_bits mk 7 4) (by have := d.isLt; omega) (by have := a.isLt; omega) (by have := b.isLt; omega) (me_lt mk) (mk_lt mk) (by decide) (by decide) (by decide)
  refine codedV g ?_
  simp only [decodeBody, decodeSfu, e0, e4, e7, e8, e12, e16, maskOf_code, mask_ok, pxV_takes, pxV_codes, pxV_vecX, dec4, dec8, dec16, pair_ok, pair_code, ldSizeOf_code, ldSize_ok, stSizeOf_code, stSize_ok, g.legal, g.op, g.head, fin_ofNat, sregOf_code, ofNat_toNat, chk, f, Bool.and_self, Bool.and_true, Bool.true_and, Bool.not_true]
  rfl

theorem vtanh (h : Head) (x : VecX) (d : VNum) (a : VNum) (mk : MaskX) : Statement (.vtanh h x d a mk) := by
  intro wf
  have f : (vecFmt ⟨true, false, 0, 0, []⟩ x && vecRsv ⟨true, false, 0, 0, []⟩ x 0) = true := wf
  simp only [Bool.and_eq_true] at f
  obtain ⟨g, e0, e4, e7, e8, e12, e16⟩ := goodV h 0x36 (d := d.val) (a := a.val) (b := 0) (fn := 8) _ _ _ (mask_bits mk 7 4) (by have := d.isLt; omega) (by have := a.isLt; omega) (by decide) (me_lt mk) (mk_lt mk) (by decide) (by decide) (by decide)
  refine codedV g ?_
  simp only [decodeBody, decodeSfu, e0, e4, e7, e8, e12, e16, maskOf_code, mask_ok, pxV_takes, pxV_codes, pxV_vecX, dec4, dec8, dec16, pair_ok, pair_code, ldSizeOf_code, ldSize_ok, stSizeOf_code, stSize_ok, g.legal, g.op, g.head, fin_ofNat, sregOf_code, ofNat_toNat, chk, f, Bool.and_self, Bool.and_true, Bool.true_and, Bool.not_true]
  rfl

theorem vsigm (h : Head) (x : VecX) (d : VNum) (a : VNum) (mk : MaskX) : Statement (.vsigm h x d a mk) := by
  intro wf
  have f : (vecFmt ⟨true, false, 0, 0, []⟩ x && vecRsv ⟨true, false, 0, 0, []⟩ x 0) = true := wf
  simp only [Bool.and_eq_true] at f
  obtain ⟨g, e0, e4, e7, e8, e12, e16⟩ := goodV h 0x36 (d := d.val) (a := a.val) (b := 0) (fn := 9) _ _ _ (mask_bits mk 7 4) (by have := d.isLt; omega) (by have := a.isLt; omega) (by decide) (me_lt mk) (mk_lt mk) (by decide) (by decide) (by decide)
  refine codedV g ?_
  simp only [decodeBody, decodeSfu, e0, e4, e7, e8, e12, e16, maskOf_code, mask_ok, pxV_takes, pxV_codes, pxV_vecX, dec4, dec8, dec16, pair_ok, pair_code, ldSizeOf_code, ldSize_ok, stSizeOf_code, stSize_ok, g.legal, g.op, g.head, fin_ofNat, sregOf_code, ofNat_toNat, chk, f, Bool.and_self, Bool.and_true, Bool.true_and, Bool.not_true]
  rfl

theorem verf (h : Head) (x : VecX) (d : VNum) (a : VNum) (mk : MaskX) : Statement (.verf h x d a mk) := by
  intro wf
  have f : (vecFmt ⟨true, false, 0, 0, []⟩ x && vecRsv ⟨true, false, 0, 0, []⟩ x 0) = true := wf
  simp only [Bool.and_eq_true] at f
  obtain ⟨g, e0, e4, e7, e8, e12, e16⟩ := goodV h 0x36 (d := d.val) (a := a.val) (b := 0) (fn := 10) _ _ _ (mask_bits mk 7 4) (by have := d.isLt; omega) (by have := a.isLt; omega) (by decide) (me_lt mk) (mk_lt mk) (by decide) (by decide) (by decide)
  refine codedV g ?_
  simp only [decodeBody, decodeSfu, e0, e4, e7, e8, e12, e16, maskOf_code, mask_ok, pxV_takes, pxV_codes, pxV_vecX, dec4, dec8, dec16, pair_ok, pair_code, ldSizeOf_code, ldSize_ok, stSizeOf_code, stSize_ok, g.legal, g.op, g.head, fin_ofNat, sregOf_code, ofNat_toNat, chk, f, Bool.and_self, Bool.and_true, Bool.true_and, Bool.not_true]
  rfl

theorem vsin (h : Head) (x : VecX) (d : VNum) (a : VNum) (mk : MaskX) : Statement (.vsin h x d a mk) := by
  intro wf
  have f : (vecFmt ⟨true, false, 0, 0, []⟩ x && vecRsv ⟨true, false, 0, 0, []⟩ x 0) = true := wf
  simp only [Bool.and_eq_true] at f
  obtain ⟨g, e0, e4, e7, e8, e12, e16⟩ := goodV h 0x36 (d := d.val) (a := a.val) (b := 0) (fn := 11) _ _ _ (mask_bits mk 7 4) (by have := d.isLt; omega) (by have := a.isLt; omega) (by decide) (me_lt mk) (mk_lt mk) (by decide) (by decide) (by decide)
  refine codedV g ?_
  simp only [decodeBody, decodeSfu, e0, e4, e7, e8, e12, e16, maskOf_code, mask_ok, pxV_takes, pxV_codes, pxV_vecX, dec4, dec8, dec16, pair_ok, pair_code, ldSizeOf_code, ldSize_ok, stSizeOf_code, stSize_ok, g.legal, g.op, g.head, fin_ofNat, sregOf_code, ofNat_toNat, chk, f, Bool.and_self, Bool.and_true, Bool.true_and, Bool.not_true]
  rfl

theorem vcos (h : Head) (x : VecX) (d : VNum) (a : VNum) (mk : MaskX) : Statement (.vcos h x d a mk) := by
  intro wf
  have f : (vecFmt ⟨true, false, 0, 0, []⟩ x && vecRsv ⟨true, false, 0, 0, []⟩ x 0) = true := wf
  simp only [Bool.and_eq_true] at f
  obtain ⟨g, e0, e4, e7, e8, e12, e16⟩ := goodV h 0x36 (d := d.val) (a := a.val) (b := 0) (fn := 12) _ _ _ (mask_bits mk 7 4) (by have := d.isLt; omega) (by have := a.isLt; omega) (by decide) (me_lt mk) (mk_lt mk) (by decide) (by decide) (by decide)
  refine codedV g ?_
  simp only [decodeBody, decodeSfu, e0, e4, e7, e8, e12, e16, maskOf_code, mask_ok, pxV_takes, pxV_codes, pxV_vecX, dec4, dec8, dec16, pair_ok, pair_code, ldSizeOf_code, ldSize_ok, stSizeOf_code, stSize_ok, g.legal, g.op, g.head, fin_ofNat, sregOf_code, ofNat_toNat, chk, f, Bool.and_self, Bool.and_true, Bool.true_and, Bool.not_true]
  rfl

theorem vperm (h : Head) (x : VecX) (d : VNum) (a : VNum) (b : VNum) (mk : MaskX) : Statement (.vperm h x d a b mk) := by
  intro wf
  have f : (vecFmt ⟨false, false, 0, 0, []⟩ x && vecRsv ⟨false, false, 0, 0, []⟩ x b) = true := wf
  simp only [Bool.and_eq_true] at f
  obtain ⟨g, e0, e4, e7, e8, e12, e16⟩ := goodV h 0x37 (d := d.val) (a := a.val) (b := b.val) (fn := 0) _ _ _ (mask_bits mk 7 4) (by have := d.isLt; omega) (by have := a.isLt; omega) (by have := b.isLt; omega) (me_lt mk) (mk_lt mk) (by decide) (by decide) (by decide)
  refine codedV g ?_
  simp only [decodeBody, decodeMove, e0, e4, e7, e8, e12, e16, maskOf_code, mask_ok, pxV_takes, pxV_codes, pxV_vecX, dec4, dec8, dec16, pair_ok, pair_code, ldSizeOf_code, ldSize_ok, stSizeOf_code, stSize_ok, g.legal, g.op, g.head, fin_ofNat, sregOf_code, ofNat_toNat, chk, f, Bool.and_self, Bool.and_true, Bool.true_and, Bool.not_true]
  rfl

theorem vbcast (h : Head) (x : VecX) (d : VNum) (a : VNum) (mk : MaskX) : Statement (.vbcast h x d a mk) := by
  intro wf
  have f : (vecFmt ⟨false, false, 0, 63, []⟩ x && vecRsv ⟨false, false, 0, 63, []⟩ x 0) = true := wf
  simp only [Bool.and_eq_true] at f
  obtain ⟨g, e0, e4, e7, e8, e12, e16⟩ := goodV h 0x37 (d := d.val) (a := a.val) (b := 0) (fn := 1) _ _ _ (mask_bits mk 7 4) (by have := d.isLt; omega) (by have := a.isLt; omega) (by decide) (me_lt mk) (mk_lt mk) (by decide) (by decide) (by decide)
  refine codedV g ?_
  have sb : (pxV x).vecP.sb = false := by
    cases x with
    | none => rfl
    | vec p =>
      have e := f.1
      rw [show (pxV (.vec p)).vecP = p from pxP_vecP p]
      cases hs : p.sb
      · rfl
      · simp [vecFmt, vecPFmt, hs] at e
  simp only [decodeBody, decodeMove, e0, e4, e7, e8, e12, e16, maskOf_code, mask_ok, pxV_takes, pxV_codes, pxV_vecX, dec4, dec8, dec16, pair_ok, pair_code, ldSizeOf_code, ldSize_ok, stSizeOf_code, stSize_ok, g.legal, g.op, g.head, fin_ofNat, sregOf_code, ofNat_toNat, chk, f, Bool.and_self, Bool.and_true, Bool.true_and, Bool.not_true, sb, Bool.false_eq_true, if_false]
  rfl

theorem vbcastScalar (h : Head) (x : VecPfx) (d : VNum) (mk : MaskX) : Statement (.vbcastScalar h x d mk) := by
  intro wf
  have f : (vecPFmt ⟨false, false, 2, 0, []⟩ x && vecPRsv ⟨false, false, 2, 0, []⟩ x 0) = true := wf
  simp only [Bool.and_eq_true] at f
  obtain ⟨g, e0, e4, e7, e8, e12, e16⟩ := goodV h 0x37 (d := d.val) (a := 0) (b := 0) (fn := 1) _ _ _ (mask_bits mk 7 4) (by have := d.isLt; omega) (by decide) (by decide) (me_lt mk) (mk_lt mk) (by decide) (by decide) (by decide)
  refine coded_vec g ?_
  have sb : x.sb = true := by
    have e := f.1
    cases hs : x.sb
    · simp [vecPFmt, hs] at e
    · rfl
  simp only [decodeBody, decodeMove, e0, e4, e7, e8, e12, e16, maskOf_code, mask_ok, pxP_takes, pxP_codes, pxP_vecP, dec4, dec8, dec16, pair_ok, pair_code, ldSizeOf_code, ldSize_ok, stSizeOf_code, stSize_ok, g.legal, g.op, g.head, fin_ofNat, sregOf_code, ofNat_toNat, chk, f, Bool.and_self, Bool.and_true, Bool.true_and, Bool.not_true, sb, if_true]
  rfl

theorem vrot (h : Head) (x : VecX) (d : VNum) (a : VNum) (mk : MaskX) : Statement (.vrot h x d a mk) := by
  intro wf
  have f : (vecFmt ⟨false, false, 0, 63, []⟩ x && vecRsv ⟨false, false, 0, 63, []⟩ x 0) = true := wf
  simp only [Bool.and_eq_true] at f
  obtain ⟨g, e0, e4, e7, e8, e12, e16⟩ := goodV h 0x37 (d := d.val) (a := a.val) (b := 0) (fn := 2) _ _ _ (mask_bits mk 7 4) (by have := d.isLt; omega) (by have := a.isLt; omega) (by decide) (me_lt mk) (mk_lt mk) (by decide) (by decide) (by decide)
  refine codedV g ?_
  simp only [decodeBody, decodeMove, e0, e4, e7, e8, e12, e16, maskOf_code, mask_ok, pxV_takes, pxV_codes, pxV_vecX, dec4, dec8, dec16, pair_ok, pair_code, ldSizeOf_code, ldSize_ok, stSizeOf_code, stSize_ok, g.legal, g.op, g.head, fin_ofNat, sregOf_code, ofNat_toNat, chk, f, Bool.and_self, Bool.and_true, Bool.true_and, Bool.not_true]
  rfl

theorem viota (h : Head) (x : VecX) (d : VNum) (mk : MaskX) : Statement (.viota h x d mk) := by
  intro wf
  have f : (vecFmt ⟨false, false, 0, 0, []⟩ x && vecRsv ⟨false, false, 0, 0, []⟩ x 0) = true := wf
  simp only [Bool.and_eq_true] at f
  obtain ⟨g, e0, e4, e7, e8, e12, e16⟩ := goodV h 0x37 (d := d.val) (a := 0) (b := 0) (fn := 3) _ _ _ (mask_bits mk 7 4) (by have := d.isLt; omega) (by decide) (by decide) (me_lt mk) (mk_lt mk) (by decide) (by decide) (by decide)
  refine codedV g ?_
  simp only [decodeBody, decodeMove, e0, e4, e7, e8, e12, e16, maskOf_code, mask_ok, pxV_takes, pxV_codes, pxV_vecX, dec4, dec8, dec16, pair_ok, pair_code, ldSizeOf_code, ldSize_ok, stSizeOf_code, stSize_ok, g.legal, g.op, g.head, fin_ofNat, sregOf_code, ofNat_toNat, chk, f, Bool.and_self, Bool.and_true, Bool.true_and, Bool.not_true]
  rfl

theorem vsel (h : Head) (x : VecX) (d : VNum) (a : VNum) (b : VNum) (mk : MReg) : Statement (.vsel h x d a b mk) := by
  intro wf
  have f : (vecFmt ⟨false, false, 1, 0, []⟩ x && vecRsv ⟨false, false, 1, 0, []⟩ x b) = true := wf
  simp only [Bool.and_eq_true] at f
  obtain ⟨g, e0, e4, e7, e8, e12, e16⟩ := goodV h 0x37 (d := d.val) (a := a.val) (b := b.val) (fn := 4) (2 ^ 7 + mk.val * 2 ^ 4) 1 mk.val (by omega) (by have := d.isLt; omega) (by have := a.isLt; omega) (by have := b.isLt; omega) (by decide) mk.isLt (by decide) (by decide) (by decide)
  refine codedV g ?_
  simp only [decodeBody, decodeMove, e0, e4, e7, e8, e12, e16, maskOf_code, mask_ok, pxV_takes, pxV_codes, pxV_vecX, dec4, dec8, dec16, pair_ok, pair_code, ldSizeOf_code, ldSize_ok, stSizeOf_code, stSize_ok, g.legal, g.op, g.head, fin_ofNat, sregOf_code, ofNat_toNat, chk, f, Bool.and_self, Bool.and_true, Bool.true_and, Bool.not_true]
  rfl

theorem vins (h : Head) (x : VecPfx) (d : VNum) : Statement (.vins h x d) := by
  intro wf
  have f : (vecPFmt ⟨false, false, 2, 63, []⟩ x && vecPRsv ⟨false, false, 2, 63, []⟩ x 0) = true := wf
  simp only [Bool.and_eq_true] at f
  obtain ⟨g, e0, e4, e7, e8, e12, e16⟩ := goodV h 0x37 (d := d.val) (a := 0) (b := 0) (fn := 5) 0 0 0 rfl (by have := d.isLt; omega) (by decide) (by decide) (by decide) (by decide) (by decide) (by decide) (by decide)
  refine coded_vec g ?_
  simp only [decodeBody, decodeMove, e0, e4, e7, e8, e12, e16, maskOf_code, mask_ok, pxP_takes, pxP_codes, pxP_vecP, dec4, dec8, dec16, pair_ok, pair_code, ldSizeOf_code, ldSize_ok, stSizeOf_code, stSize_ok, g.legal, g.op, g.head, fin_ofNat, sregOf_code, ofNat_toNat, chk, f, Bool.and_self, Bool.and_true, Bool.true_and, Bool.not_true]
  rfl

theorem vext (h : Head) (x : VecX) (d : GNum) (a : VNum) : Statement (.vext h x d a) := by
  intro wf
  have f : (vecFmt ⟨false, false, 0, 63, []⟩ x && vecRsv ⟨false, false, 0, 63, []⟩ x 0) = true := wf
  simp only [Bool.and_eq_true] at f
  obtain ⟨g, e0, e4, e7, e8, e12, e16⟩ := goodV h 0x37 (d := d.val) (a := a.val) (b := 0) (fn := 6) 0 0 0 rfl (by have := d.isLt; omega) (by have := a.isLt; omega) (by decide) (by decide) (by decide) (by decide) (by decide) (by decide)
  refine codedV g ?_
  simp only [decodeBody, decodeMove, e0, e4, e7, e8, e12, e16, maskOf_code, mask_ok, pxV_takes, pxV_codes, pxV_vecX, dec4, dec8, dec16, pair_ok, pair_code, ldSizeOf_code, ldSize_ok, stSizeOf_code, stSize_ok, g.legal, g.op, g.head, fin_ofNat, sregOf_code, ofNat_toNat, chk, f, Bool.and_self, Bool.and_true, Bool.true_and, Bool.not_true]
  rfl

theorem vhdrWrite (h : Head) (x : VecPfx) (d : VNum) : Statement (.vhdrWrite h x d) := by
  intro wf
  have f : (vecPFmt ⟨false, false, 2, 0, []⟩ x && vecPRsv ⟨false, false, 2, 0, []⟩ x 0) = true := wf
  simp only [Bool.and_eq_true] at f
  obtain ⟨g, e0, e4, e7, e8, e12, e16⟩ := goodV h 0x37 (d := d.val) (a := 0) (b := 0) (fn := 7) 0 0 0 rfl (by have := d.isLt; omega) (by decide) (by decide) (by decide) (by decide) (by decide) (by decide) (by decide)
  refine coded_vec g ?_
  have z : x.imm8 = 0 := by
    have e := f.2
    simp [vecPRsv] at e
    exact e.1.2
  simp only [decodeBody, decodeMove, e0, e4, e7, e8, e12, e16, maskOf_code, mask_ok, pxP_takes, pxP_codes, pxP_vecP, dec4, dec8, dec16, pair_ok, pair_code, ldSizeOf_code, ldSize_ok, stSizeOf_code, stSize_ok, g.legal, g.op, g.head, fin_ofNat, sregOf_code, ofNat_toNat, chk, f, Bool.and_self, Bool.and_true, Bool.true_and, Bool.not_true, z, if_true]
  rfl

theorem vhdrRead (h : Head) (x : VecPfx) (d : GNum) (a : VNum) : Statement (.vhdrRead h x d a) := by
  intro wf
  have f : (vecPFmt ⟨false, false, 0, 1, []⟩ x && decide (x.imm8 = 1) && vecPRsv ⟨false, false, 0, 1, []⟩ x 0) = true := wf
  simp only [Bool.and_eq_true] at f
  obtain ⟨g, e0, e4, e7, e8, e12, e16⟩ := goodV h 0x37 (d := d.val) (a := a.val) (b := 0) (fn := 7) 0 0 0 rfl (by have := d.isLt; omega) (by have := a.isLt; omega) (by decide) (by decide) (by decide) (by decide) (by decide) (by decide)
  refine coded_vec g ?_
  have z : x.imm8 = 1 := of_decide_eq_true f.1.2
  have nz : ¬ x.imm8 = 0 := by rw [z]; decide
  simp only [decodeBody, decodeMove, e0, e4, e7, e8, e12, e16, maskOf_code, mask_ok, pxP_takes, pxP_codes, pxP_vecP, dec4, dec8, dec16, pair_ok, pair_code, ldSizeOf_code, ldSize_ok, stSizeOf_code, stSize_ok, g.legal, g.op, g.head, fin_ofNat, sregOf_code, ofNat_toNat, chk, f, Bool.and_self, Bool.and_true, Bool.true_and, Bool.not_true, nz, if_false]
  rfl

theorem vcmpI32 (h : Head) (x : VecX) (d : MReg) (a : VNum) (b : VNum) (mk : MaskX) : Statement (.vcmpI32 h x d a b mk) := by
  intro wf
  have f : (vecFmt ⟨false, false, 1, 5, [.i8, .i16, .i32]⟩ x && vecRsv ⟨false, false, 1, 5, [.i8, .i16, .i32]⟩ x b) = true := wf
  simp only [Bool.and_eq_true] at f
  obtain ⟨g, e0, e4, e7, e8, e12, e16⟩ := goodV h 0x37 (d := d.val) (a := a.val) (b := b.val) (fn := 8) _ _ _ (mask_bits mk 7 4) (by have := d.isLt; omega) (by have := a.isLt; omega) (by have := b.isLt; omega) (me_lt mk) (mk_lt mk) (by decide) (by decide) (by decide)
  refine codedV g ?_
  simp only [decodeBody, decodeMove, e0, e4, e7, e8, e12, e16, maskOf_code, mask_ok, pxV_takes, pxV_codes, pxV_vecX, dec4, dec8, dec16, pair_ok, pair_code, ldSizeOf_code, ldSize_ok, stSizeOf_code, stSize_ok, g.legal, g.op, g.head, fin_ofNat, sregOf_code, ofNat_toNat, chk, f, Bool.and_self, Bool.and_true, Bool.true_and, Bool.not_true]
  rfl

theorem vcmpF32 (h : Head) (x : VecX) (d : MReg) (a : VNum) (b : VNum) (mk : MaskX) : Statement (.vcmpF32 h x d a b mk) := by
  intro wf
  have f : (vecFmt ⟨false, false, 1, 6, [.f32, .bf16, .e4m3, .e5m2]⟩ x && vecRsv ⟨false, false, 1, 6, [.f32, .bf16, .e4m3, .e5m2]⟩ x b) = true := wf
  simp only [Bool.and_eq_true] at f
  obtain ⟨g, e0, e4, e7, e8, e12, e16⟩ := goodV h 0x37 (d := d.val) (a := a.val) (b := b.val) (fn := 9) _ _ _ (mask_bits mk 7 4) (by have := d.isLt; omega) (by have := a.isLt; omega) (by have := b.isLt; omega) (me_lt mk) (mk_lt mk) (by decide) (by decide) (by decide)
  refine codedV g ?_
  simp only [decodeBody, decodeMove, e0, e4, e7, e8, e12, e16, maskOf_code, mask_ok, pxV_takes, pxV_codes, pxV_vecX, dec4, dec8, dec16, pair_ok, pair_code, ldSizeOf_code, ldSize_ok, stSizeOf_code, stSize_ok, g.legal, g.op, g.head, fin_ofNat, sregOf_code, ofNat_toNat, chk, f, Bool.and_self, Bool.and_true, Bool.true_and, Bool.not_true]
  rfl

theorem vrsumF32 (h : Head) (x : VecX) (d : VNum) (a : VNum) (mk : MaskX) : Statement (.vrsumF32 h x d a mk) := by
  intro wf
  have f : (vecFmt ⟨true, false, 0, 0, []⟩ x && vecRsv ⟨true, false, 0, 0, []⟩ x 0) = true := wf
  simp only [Bool.and_eq_true] at f
  obtain ⟨g, e0, e4, e7, e8, e12, e16⟩ := goodV h 0x37 (d := d.val) (a := a.val) (b := 0) (fn := 10) _ _ _ (mask_bits mk 7 4) (by have := d.isLt; omega) (by have := a.isLt; omega) (by decide) (me_lt mk) (mk_lt mk) (by decide) (by decide) (by decide)
  refine codedV g ?_
  simp only [decodeBody, decodeMove, e0, e4, e7, e8, e12, e16, maskOf_code, mask_ok, pxV_takes, pxV_codes, pxV_vecX, dec4, dec8, dec16, pair_ok, pair_code, ldSizeOf_code, ldSize_ok, stSizeOf_code, stSize_ok, g.legal, g.op, g.head, fin_ofNat, sregOf_code, ofNat_toNat, chk, f, Bool.and_self, Bool.and_true, Bool.true_and, Bool.not_true]
  rfl

theorem vrsumI32 (h : Head) (x : VecX) (d : VNum) (a : VNum) (mk : MaskX) : Statement (.vrsumI32 h x d a mk) := by
  intro wf
  have f : (vecFmt ⟨false, false, 0, 0, []⟩ x && vecRsv ⟨false, false, 0, 0, []⟩ x 0) = true := wf
  simp only [Bool.and_eq_true] at f
  obtain ⟨g, e0, e4, e7, e8, e12, e16⟩ := goodV h 0x37 (d := d.val) (a := a.val) (b := 0) (fn := 11) _ _ _ (mask_bits mk 7 4) (by have := d.isLt; omega) (by have := a.isLt; omega) (by decide) (me_lt mk) (mk_lt mk) (by decide) (by decide) (by decide)
  refine codedV g ?_
  simp only [decodeBody, decodeMove, e0, e4, e7, e8, e12, e16, maskOf_code, mask_ok, pxV_takes, pxV_codes, pxV_vecX, dec4, dec8, dec16, pair_ok, pair_code, ldSizeOf_code, ldSize_ok, stSizeOf_code, stSize_ok, g.legal, g.op, g.head, fin_ofNat, sregOf_code, ofNat_toNat, chk, f, Bool.and_self, Bool.and_true, Bool.true_and, Bool.not_true]
  rfl

theorem vrmaxF32 (h : Head) (x : VecX) (d : VNum) (a : VNum) (mk : MaskX) : Statement (.vrmaxF32 h x d a mk) := by
  intro wf
  have f : (vecFmt ⟨false, false, 0, 0, []⟩ x && vecRsv ⟨false, false, 0, 0, []⟩ x 0) = true := wf
  simp only [Bool.and_eq_true] at f
  obtain ⟨g, e0, e4, e7, e8, e12, e16⟩ := goodV h 0x37 (d := d.val) (a := a.val) (b := 0) (fn := 12) _ _ _ (mask_bits mk 7 4) (by have := d.isLt; omega) (by have := a.isLt; omega) (by decide) (me_lt mk) (mk_lt mk) (by decide) (by decide) (by decide)
  refine codedV g ?_
  simp only [decodeBody, decodeMove, e0, e4, e7, e8, e12, e16, maskOf_code, mask_ok, pxV_takes, pxV_codes, pxV_vecX, dec4, dec8, dec16, pair_ok, pair_code, ldSizeOf_code, ldSize_ok, stSizeOf_code, stSize_ok, g.legal, g.op, g.head, fin_ofNat, sregOf_code, ofNat_toNat, chk, f, Bool.and_self, Bool.and_true, Bool.true_and, Bool.not_true]
  rfl

theorem vrmaxI32 (h : Head) (x : VecX) (d : VNum) (a : VNum) (mk : MaskX) : Statement (.vrmaxI32 h x d a mk) := by
  intro wf
  have f : (vecFmt ⟨false, false, 0, 0, []⟩ x && vecRsv ⟨false, false, 0, 0, []⟩ x 0) = true := wf
  simp only [Bool.and_eq_true] at f
  obtain ⟨g, e0, e4, e7, e8, e12, e16⟩ := goodV h 0x37 (d := d.val) (a := a.val) (b := 0) (fn := 13) _ _ _ (mask_bits mk 7 4) (by have := d.isLt; omega) (by have := a.isLt; omega) (by decide) (me_lt mk) (mk_lt mk) (by decide) (by decide) (by decide)
  refine codedV g ?_
  simp only [decodeBody, decodeMove, e0, e4, e7, e8, e12, e16, maskOf_code, mask_ok, pxV_takes, pxV_codes, pxV_vecX, dec4, dec8, dec16, pair_ok, pair_code, ldSizeOf_code, ldSize_ok, stSizeOf_code, stSize_ok, g.legal, g.op, g.head, fin_ofNat, sregOf_code, ofNat_toNat, chk, f, Bool.and_self, Bool.and_true, Bool.true_and, Bool.not_true]
  rfl

theorem vdraw (h : Head) (x : VecPfx) (d : VNum) (a : VNum) (mk : MaskX) : Statement (.vdraw h x d a mk) := by
  intro wf
  have f : (vecPFmt ⟨false, false, 2, 0, []⟩ x && vecPRsv ⟨false, false, 2, 0, []⟩ x 0) = true := wf
  simp only [Bool.and_eq_true] at f
  obtain ⟨g, e0, e4, e7, e8, e12, e16⟩ := goodV h 0x37 (d := d.val) (a := a.val) (b := 0) (fn := 14) _ _ _ (mask_bits mk 7 4) (by have := d.isLt; omega) (by have := a.isLt; omega) (by decide) (me_lt mk) (mk_lt mk) (by decide) (by decide) (by decide)
  refine coded_vec g ?_
  simp only [decodeBody, decodeMove, e0, e4, e7, e8, e12, e16, maskOf_code, mask_ok, pxP_takes, pxP_codes, pxP_vecP, dec4, dec8, dec16, pair_ok, pair_code, ldSizeOf_code, ldSize_ok, stSizeOf_code, stSize_ok, g.legal, g.op, g.head, fin_ofNat, sregOf_code, ofNat_toNat, chk, f, Bool.and_self, Bool.and_true, Bool.true_and, Bool.not_true]
  rfl

theorem dmerge (h : Head) (x : VecX) (d : VNum) (a : VNum) (b : VNum) : Statement (.dmerge h x d a b) := by
  intro wf
  have f : (vecFmt ⟨false, false, 0, 0, []⟩ x && vecRsv ⟨false, false, 0, 0, []⟩ x b) = true := wf
  simp only [Bool.and_eq_true] at f
  obtain ⟨g, e0, e4, e7, e8, e12, e16⟩ := goodV h 0x37 (d := d.val) (a := a.val) (b := b.val) (fn := 15) 0 0 0 rfl (by have := d.isLt; omega) (by have := a.isLt; omega) (by have := b.isLt; omega) (by decide) (by decide) (by decide) (by decide) (by decide)
  refine codedV g ?_
  simp only [decodeBody, decodeMove, e0, e4, e7, e8, e12, e16, maskOf_code, mask_ok, pxV_takes, pxV_codes, pxV_vecX, dec4, dec8, dec16, pair_ok, pair_code, ldSizeOf_code, ldSize_ok, stSizeOf_code, stSize_ok, g.legal, g.op, g.head, fin_ofNat, sregOf_code, ofNat_toNat, chk, f, Bool.and_self, Bool.and_true, Bool.true_and, Bool.not_true]
  rfl

theorem mmaF8f8 (h : Head) (d : ANum) (a : SReg) (b : SReg) : Statement (.mmaF8f8 h d a b) := by
  intro _
  obtain ⟨g, e0, e5, e10, e15⟩ := goodN h 0x38 (d := d.val) (a := sregCode a) (b := sregCode b) (fn := 0) (by have := d.isLt; omega) (sregCode_lt a) (sregCode_lt b) (by decide) (by decide) (by decide)
  refine coded_one g ?_
  simp only [decodeBody, decodeMma, e0, e5, e10, e15, Px.isNone, dec4, dec8, dec16, pair_ok, pair_code, ldSizeOf_code, ldSize_ok, stSizeOf_code, stSize_ok, g.legal, g.op, g.head, fin_ofNat, sregOf_code, ofNat_toNat, chk, Bool.and_self, Bool.and_true, Bool.true_and, Bool.not_true]
  rfl

theorem mmaB16b16 (h : Head) (d : ANum) (a : SReg) (b : SReg) : Statement (.mmaB16b16 h d a b) := by
  intro _
  obtain ⟨g, e0, e5, e10, e15⟩ := goodN h 0x38 (d := d.val) (a := sregCode a) (b := sregCode b) (fn := 1) (by have := d.isLt; omega) (sregCode_lt a) (sregCode_lt b) (by decide) (by decide) (by decide)
  refine coded_one g ?_
  simp only [decodeBody, decodeMma, e0, e5, e10, e15, Px.isNone, dec4, dec8, dec16, pair_ok, pair_code, ldSizeOf_code, ldSize_ok, stSizeOf_code, stSize_ok, g.legal, g.op, g.head, fin_ofNat, sregOf_code, ofNat_toNat, chk, Bool.and_self, Bool.and_true, Bool.true_and, Bool.not_true]
  rfl

theorem mmaF8i4 (h : Head) (d : Bool) (a : SReg) (b : SReg) : Statement (.mmaF8i4 h d a b) := by
  intro _
  obtain ⟨g, e0, e5, e10, e15⟩ := goodN h 0x38 (d := boolCode d * 2) (a := sregCode a) (b := sregCode b) (fn := 2) (by have := boolCode_lt d; omega) (sregCode_lt a) (sregCode_lt b) (by decide) (by decide) (by decide)
  refine coded_one g ?_
  simp only [decodeBody, decodeMma, e0, e5, e10, e15, Px.isNone, dec4, dec8, dec16, pair_ok, pair_code, ldSizeOf_code, ldSize_ok, stSizeOf_code, stSize_ok, g.legal, g.op, g.head, fin_ofNat, sregOf_code, ofNat_toNat, chk, Bool.and_self, Bool.and_true, Bool.true_and, Bool.not_true]
  rfl

theorem mmaB16i4 (h : Head) (d : Bool) (a : SReg) (b : SReg) : Statement (.mmaB16i4 h d a b) := by
  intro _
  obtain ⟨g, e0, e5, e10, e15⟩ := goodN h 0x38 (d := boolCode d * 2) (a := sregCode a) (b := sregCode b) (fn := 3) (by have := boolCode_lt d; omega) (sregCode_lt a) (sregCode_lt b) (by decide) (by decide) (by decide)
  refine coded_one g ?_
  simp only [decodeBody, decodeMma, e0, e5, e10, e15, Px.isNone, dec4, dec8, dec16, pair_ok, pair_code, ldSizeOf_code, ldSize_ok, stSizeOf_code, stSize_ok, g.legal, g.op, g.head, fin_ofNat, sregOf_code, ofNat_toNat, chk, Bool.and_self, Bool.and_true, Bool.true_and, Bool.not_true]
  rfl

theorem mmaB16l4 (h : Head) (d : Bool) (a : SReg) (b : SReg) : Statement (.mmaB16l4 h d a b) := by
  intro _
  obtain ⟨g, e0, e5, e10, e15⟩ := goodN h 0x38 (d := boolCode d * 2) (a := sregCode a) (b := sregCode b) (fn := 4) (by have := boolCode_lt d; omega) (sregCode_lt a) (sregCode_lt b) (by decide) (by decide) (by decide)
  refine coded_one g ?_
  simp only [decodeBody, decodeMma, e0, e5, e10, e15, Px.isNone, dec4, dec8, dec16, pair_ok, pair_code, ldSizeOf_code, ldSize_ok, stSizeOf_code, stSize_ok, g.legal, g.op, g.head, fin_ofNat, sregOf_code, ofNat_toNat, chk, Bool.and_self, Bool.and_true, Bool.true_and, Bool.not_true]
  rfl

theorem mmaQb8 (h : Head) (d : ANum) (a : SReg) (b : SReg) : Statement (.mmaQb8 h d a b) := by
  intro _
  obtain ⟨g, e0, e5, e10, e15⟩ := goodN h 0x38 (d := d.val) (a := sregCode a) (b := sregCode b) (fn := 5) (by have := d.isLt; omega) (sregCode_lt a) (sregCode_lt b) (by decide) (by decide) (by decide)
  refine coded_one g ?_
  simp only [decodeBody, decodeMma, e0, e5, e10, e15, Px.isNone, dec4, dec8, dec16, pair_ok, pair_code, ldSizeOf_code, ldSize_ok, stSizeOf_code, stSize_ok, g.legal, g.op, g.head, fin_ofNat, sregOf_code, ofNat_toNat, chk, Bool.and_self, Bool.and_true, Bool.true_and, Bool.not_true]
  rfl

theorem mmaQb4 (h : Head) (d : ANum) (a : SReg) (b : SReg) : Statement (.mmaQb4 h d a b) := by
  intro _
  obtain ⟨g, e0, e5, e10, e15⟩ := goodN h 0x38 (d := d.val) (a := sregCode a) (b := sregCode b) (fn := 6) (by have := d.isLt; omega) (sregCode_lt a) (sregCode_lt b) (by decide) (by decide) (by decide)
  refine coded_one g ?_
  simp only [decodeBody, decodeMma, e0, e5, e10, e15, Px.isNone, dec4, dec8, dec16, pair_ok, pair_code, ldSizeOf_code, ldSize_ok, stSizeOf_code, stSize_ok, g.legal, g.op, g.head, fin_ofNat, sregOf_code, ofNat_toNat, chk, Bool.and_self, Bool.and_true, Bool.true_and, Bool.not_true]
  rfl

theorem mldw (h : Head) (a : SReg) (b : SReg) : Statement (.mldw h a b) := by
  intro _
  obtain ⟨g, e0, e5, e10, e15⟩ := goodN h 0x39 (d := 0) (a := sregCode a) (b := sregCode b) (fn := 0) (by decide) (sregCode_lt a) (sregCode_lt b) (by decide) (by decide) (by decide)
  refine coded_one g ?_
  simp only [decodeBody, decodePlane, e0, e5, e10, e15, Px.isNone, dec4, dec8, dec16, pair_ok, pair_code, ldSizeOf_code, ldSize_ok, stSizeOf_code, stSize_ok, g.legal, g.op, g.head, fin_ofNat, sregOf_code, ofNat_toNat, chk, Bool.and_self, Bool.and_true, Bool.true_and, Bool.not_true]
  rfl

theorem mswap (h : Head) : Statement (.mswap h) := by
  intro _
  obtain ⟨g, e0, e5, e10, e15⟩ := goodN h 0x39 (d := 0) (a := 0) (b := 0) (fn := 1) (by decide) (by decide) (by decide) (by decide) (by decide) (by decide)
  refine coded_one g ?_
  simp only [decodeBody, decodePlane, e0, e5, e10, e15, Px.isNone, dec4, dec8, dec16, pair_ok, pair_code, ldSizeOf_code, ldSize_ok, stSizeOf_code, stSize_ok, g.legal, g.op, g.head, fin_ofNat, sregOf_code, ofNat_toNat, chk, Bool.and_self, Bool.and_true, Bool.true_and, Bool.not_true]
  rfl

theorem mldk (h : Head) (d : ANum) (a : VNum) : Statement (.mldk h d a) := by
  intro _
  obtain ⟨g, e0, e5, e10, e15⟩ := goodN h 0x39 (d := d.val) (a := a.val) (b := 0) (fn := 2) (by have := d.isLt; omega) (by have := a.isLt; omega) (by decide) (by decide) (by decide) (by decide)
  refine coded_one g ?_
  simp only [decodeBody, decodePlane, e0, e5, e10, e15, Px.isNone, dec4, dec8, dec16, pair_ok, pair_code, ldSizeOf_code, ldSize_ok, stSizeOf_code, stSize_ok, g.legal, g.op, g.head, fin_ofNat, sregOf_code, ofNat_toNat, chk, Bool.and_self, Bool.and_true, Bool.true_and, Bool.not_true]
  rfl

theorem mcolq (h : Head) (d : Bool) (a : VNum) (b : VNum) : Statement (.mcolq h d a b) := by
  intro _
  obtain ⟨g, e0, e5, e10, e15⟩ := goodN h 0x39 (d := boolCode d * 2) (a := a.val) (b := b.val) (fn := 3) (by have := boolCode_lt d; omega) (by have := a.isLt; omega) (by have := b.isLt; omega) (by decide) (by decide) (by decide)
  refine coded_one g ?_
  simp only [decodeBody, decodePlane, e0, e5, e10, e15, Px.isNone, dec4, dec8, dec16, pair_ok, pair_code, ldSizeOf_code, ldSize_ok, stSizeOf_code, stSize_ok, g.legal, g.op, g.head, fin_ofNat, sregOf_code, ofNat_toNat, chk, Bool.and_self, Bool.and_true, Bool.true_and, Bool.not_true]
  rfl

theorem mzero (h : Head) (d : ANum) : Statement (.mzero h d) := by
  intro _
  obtain ⟨g, e0, e5, e10, e15⟩ := goodN h 0x39 (d := d.val) (a := 0) (b := 0) (fn := 4) (by have := d.isLt; omega) (by decide) (by decide) (by decide) (by decide) (by decide)
  refine coded_one g ?_
  simp only [decodeBody, decodePlane, e0, e5, e10, e15, Px.isNone, dec4, dec8, dec16, pair_ok, pair_code, ldSizeOf_code, ldSize_ok, stSizeOf_code, stSize_ok, g.legal, g.op, g.head, fin_ofNat, sregOf_code, ofNat_toNat, chk, Bool.and_self, Bool.and_true, Bool.true_and, Bool.not_true]
  rfl

theorem mmovaToVector (h : Head) (d : VNum) (a : ANum) (gg : BitVec 2) : Statement (.mmovaToVector h d a gg) := by
  intro _
  obtain ⟨g, e0, e5, e10, e15⟩ := goodN h 0x39 (d := d.val) (a := a.val) (b := gg.toNat) (fn := 5) (by have := d.isLt; omega) (by have := a.isLt; omega) (by have := gg.isLt; omega) (by decide) (by decide) (by decide)
  obtain ⟨s1, s2, s3, s4, s5⟩ := movaFields gg
  refine coded_one g ?_
  simp only [decodeBody, decodePlane, e0, e5, e10, e15, s1, s2, s3, s4, s5, Px.isNone, dec4, dec8, dec16, pair_ok, pair_code, ldSizeOf_code, ldSize_ok, stSizeOf_code, stSize_ok, g.legal, g.op, g.head, fin_ofNat, sregOf_code, ofNat_toNat, chk, Bool.and_self, Bool.and_true, Bool.true_and, Bool.not_true]
  rfl

theorem mmovaToAcc (h : Head) (d : ANum) (a : VNum) (gg : BitVec 2) : Statement (.mmovaToAcc h d a gg) := by
  intro _
  obtain ⟨g, e0, e5, e10, e15⟩ := goodN h 0x39 (d := d.val) (a := a.val) (b := gg.toNat + 4) (fn := 5) (by have := d.isLt; omega) (by have := a.isLt; omega) (by have := gg.isLt; omega) (by decide) (by decide) (by decide)
  obtain ⟨s1, s2, s3, s4, s5⟩ := movaFields gg
  refine coded_one g ?_
  simp only [decodeBody, decodePlane, e0, e5, e10, e15, s1, s2, s3, s4, s5, Px.isNone, dec4, dec8, dec16, pair_ok, pair_code, ldSizeOf_code, ldSize_ok, stSizeOf_code, stSize_ok, g.legal, g.op, g.head, fin_ofNat, sregOf_code, ofNat_toNat, chk, Bool.and_self, Bool.and_true, Bool.true_and, Bool.not_true]
  rfl

theorem mrsum (h : Head) (d : VNum) (a : ANum) : Statement (.mrsum h d a) := by
  intro _
  obtain ⟨g, e0, e5, e10, e15⟩ := goodN h 0x39 (d := d.val) (a := a.val) (b := 0) (fn := 6) (by have := d.isLt; omega) (by have := a.isLt; omega) (by decide) (by decide) (by decide) (by decide)
  refine coded_one g ?_
  simp only [decodeBody, decodePlane, e0, e5, e10, e15, Px.isNone, dec4, dec8, dec16, pair_ok, pair_code, ldSizeOf_code, ldSize_ok, stSizeOf_code, stSize_ok, g.legal, g.op, g.head, fin_ofNat, sregOf_code, ofNat_toNat, chk, Bool.and_self, Bool.and_true, Bool.true_and, Bool.not_true]
  rfl

theorem mchk (h : Head) (d : SReg) (a : ANum) : Statement (.mchk h d a) := by
  intro _
  obtain ⟨g, e0, e5, e10, e15⟩ := goodN h 0x39 (d := sregCode d) (a := a.val) (b := 0) (fn := 7) (sregCode_lt d) (by have := a.isLt; omega) (by decide) (by decide) (by decide) (by decide)
  refine coded_one g ?_
  simp only [decodeBody, decodePlane, e0, e5, e10, e15, Px.isNone, dec4, dec8, dec16, pair_ok, pair_code, ldSizeOf_code, ldSize_ok, stSizeOf_code, stSize_ok, g.legal, g.op, g.head, fin_ofNat, sregOf_code, ofNat_toNat, chk, Bool.and_self, Bool.and_true, Bool.true_and, Bool.not_true]
  rfl

theorem msync (h : Head) (d : SReg) : Statement (.msync h d) := by
  intro _
  obtain ⟨g, e0, e5, e10, e15⟩ := goodN h 0x39 (d := sregCode d) (a := 0) (b := 0) (fn := 8) (sregCode_lt d) (by decide) (by decide) (by decide) (by decide) (by decide)
  refine coded_one g ?_
  simp only [decodeBody, decodePlane, e0, e5, e10, e15, Px.isNone, dec4, dec8, dec16, pair_ok, pair_code, ldSizeOf_code, ldSize_ok, stSizeOf_code, stSize_ok, g.legal, g.op, g.head, fin_ofNat, sregOf_code, ofNat_toNat, chk, Bool.and_self, Bool.and_true, Bool.true_and, Bool.not_true]
  rfl

theorem mdrainF32 (h : Head) (x : VecX) (d : VNum) (a : ANum) (gg : BitVec 2) (z : Bool) : Statement (.mdrainF32 h x d a gg z) := by
  intro wf
  have f : (vecFmt ⟨true, false, 3, 0, [.f32, .ba32]⟩ x && vecRsv ⟨true, false, 3, 0, [.f32, .ba32]⟩ x 0) = true := wf
  simp only [Bool.and_eq_true] at f
  obtain ⟨g, e0, e5, e10, e15⟩ := goodN h 0x3A (d := d.val) (a := a.val) (b := gg.toNat + boolCode z * 4) (fn := 4) (by have := d.isLt; omega) (by have := a.isLt; omega) (by have := gg.isLt; have := boolCode_lt z; omega) (by decide) (by decide) (by decide)
  obtain ⟨s1, s2, s3⟩ := drainFields gg z
  refine codedV g ?_
  simp only [decodeBody, decodeDrain, e0, e5, e10, e15, s1, s2, s3, pxV_takes, pxV_codes, pxV_vecX, dec4, dec8, dec16, pair_ok, pair_code, ldSizeOf_code, ldSize_ok, stSizeOf_code, stSize_ok, g.legal, g.op, g.head, fin_ofNat, sregOf_code, ofNat_toNat, chk, f, Bool.and_self, Bool.and_true, Bool.true_and, Bool.not_true]
  rfl

theorem mdrainBf16 (h : Head) (x : VecX) (d : VNum) (a : ANum) (gg : BitVec 2) (z : Bool) : Statement (.mdrainBf16 h x d a gg z) := by
  intro wf
  have f : (vecFmt ⟨true, false, 3, 0, [.f32, .ba32]⟩ x && decide (gg.toNat < 2) && vecRsv ⟨true, false, 3, 0, [.f32, .ba32]⟩ x 0) = true := wf
  simp only [Bool.and_eq_true] at f
  obtain ⟨g, e0, e5, e10, e15⟩ := goodN h 0x3A (d := d.val) (a := a.val) (b := gg.toNat + boolCode z * 4) (fn := 5) (by have := d.isLt; omega) (by have := a.isLt; omega) (by have := gg.isLt; have := boolCode_lt z; omega) (by decide) (by decide) (by decide)
  obtain ⟨s1, s2, s3⟩ := drainFields gg z
  refine codedV g ?_
  simp only [decodeBody, decodeDrain, e0, e5, e10, e15, s1, s2, s3, pxV_takes, pxV_codes, pxV_vecX, dec4, dec8, dec16, pair_ok, pair_code, ldSizeOf_code, ldSize_ok, stSizeOf_code, stSize_ok, g.legal, g.op, g.head, fin_ofNat, sregOf_code, ofNat_toNat, chk, f, Bool.and_self, Bool.and_true, Bool.true_and, Bool.not_true]
  rfl

theorem mdrainE4m3 (h : Head) (x : VecX) (d : VNum) (a : ANum) (gg : BitVec 2) (z : Bool) : Statement (.mdrainE4m3 h x d a gg z) := by
  intro wf
  have f : (vecFmt ⟨true, true, 3, 0, [.f32, .ba32]⟩ x && decide (gg = 0) && vecRsv ⟨true, true, 3, 0, [.f32, .ba32]⟩ x 0) = true := wf
  simp only [Bool.and_eq_true] at f
  obtain ⟨g, e0, e5, e10, e15⟩ := goodN h 0x3A (d := d.val) (a := a.val) (b := gg.toNat + boolCode z * 4) (fn := 6) (by have := d.isLt; omega) (by have := a.isLt; omega) (by have := gg.isLt; have := boolCode_lt z; omega) (by decide) (by decide) (by decide)
  obtain ⟨s1, s2, s3⟩ := drainFields gg z
  refine codedV g ?_
  simp only [decodeBody, decodeDrain, e0, e5, e10, e15, s1, s2, s3, pxV_takes, pxV_codes, pxV_vecX, dec4, dec8, dec16, pair_ok, pair_code, ldSizeOf_code, ldSize_ok, stSizeOf_code, stSize_ok, g.legal, g.op, g.head, fin_ofNat, sregOf_code, ofNat_toNat, chk, f, Bool.and_self, Bool.and_true, Bool.true_and, Bool.not_true]
  rfl

theorem mdrainE5m2 (h : Head) (x : VecX) (d : VNum) (a : ANum) (gg : BitVec 2) (z : Bool) : Statement (.mdrainE5m2 h x d a gg z) := by
  intro wf
  have f : (vecFmt ⟨true, true, 3, 0, [.f32, .ba32]⟩ x && decide (gg = 0) && vecRsv ⟨true, true, 3, 0, [.f32, .ba32]⟩ x 0) = true := wf
  simp only [Bool.and_eq_true] at f
  obtain ⟨g, e0, e5, e10, e15⟩ := goodN h 0x3A (d := d.val) (a := a.val) (b := gg.toNat + boolCode z * 4) (fn := 7) (by have := d.isLt; omega) (by have := a.isLt; omega) (by have := gg.isLt; have := boolCode_lt z; omega) (by decide) (by decide) (by decide)
  obtain ⟨s1, s2, s3⟩ := drainFields gg z
  refine codedV g ?_
  simp only [decodeBody, decodeDrain, e0, e5, e10, e15, s1, s2, s3, pxV_takes, pxV_codes, pxV_vecX, dec4, dec8, dec16, pair_ok, pair_code, ldSizeOf_code, ldSize_ok, stSizeOf_code, stSize_ok, g.legal, g.op, g.head, fin_ofNat, sregOf_code, ofNat_toNat, chk, f, Bool.and_self, Bool.and_true, Bool.true_and, Bool.not_true]
  rfl

theorem mdrainQb8 (h : Head) (x : VecX) (d : VNum) (a : ANum) (gg : BitVec 2) (z : Bool) : Statement (.mdrainQb8 h x d a gg z) := by
  intro wf
  have f : (vecFmt ⟨true, false, 3, 0, [.f32, .ba32]⟩ x && vecRsv ⟨true, false, 3, 0, [.f32, .ba32]⟩ x 0) = true := wf
  simp only [Bool.and_eq_true] at f
  obtain ⟨g, e0, e5, e10, e15⟩ := goodN h 0x3A (d := d.val) (a := a.val) (b := gg.toNat + boolCode z * 4) (fn := 8) (by have := d.isLt; omega) (by have := a.isLt; omega) (by have := gg.isLt; have := boolCode_lt z; omega) (by decide) (by decide) (by decide)
  obtain ⟨s1, s2, s3⟩ := drainFields gg z
  refine codedV g ?_
  simp only [decodeBody, decodeDrain, e0, e5, e10, e15, s1, s2, s3, pxV_takes, pxV_codes, pxV_vecX, dec4, dec8, dec16, pair_ok, pair_code, ldSizeOf_code, ldSize_ok, stSizeOf_code, stSize_ok, g.legal, g.op, g.head, fin_ofNat, sregOf_code, ofNat_toNat, chk, f, Bool.and_self, Bool.and_true, Bool.true_and, Bool.not_true]
  rfl

theorem mdrainQb4 (h : Head) (x : VecX) (d : VNum) (a : ANum) (gg : BitVec 2) (z : Bool) : Statement (.mdrainQb4 h x d a gg z) := by
  intro wf
  have f : (vecFmt ⟨true, false, 3, 0, [.f32, .ba32]⟩ x && vecRsv ⟨true, false, 3, 0, [.f32, .ba32]⟩ x 0) = true := wf
  simp only [Bool.and_eq_true] at f
  obtain ⟨g, e0, e5, e10, e15⟩ := goodN h 0x3A (d := d.val) (a := a.val) (b := gg.toNat + boolCode z * 4) (fn := 9) (by have := d.isLt; omega) (by have := a.isLt; omega) (by have := gg.isLt; have := boolCode_lt z; omega) (by decide) (by decide) (by decide)
  obtain ⟨s1, s2, s3⟩ := drainFields gg z
  refine codedV g ?_
  simp only [decodeBody, decodeDrain, e0, e5, e10, e15, s1, s2, s3, pxV_takes, pxV_codes, pxV_vecX, dec4, dec8, dec16, pair_ok, pair_code, ldSizeOf_code, ldSize_ok, stSizeOf_code, stSize_ok, g.legal, g.op, g.head, fin_ofNat, sregOf_code, ofNat_toNat, chk, f, Bool.and_self, Bool.and_true, Bool.true_and, Bool.not_true]
  rfl

theorem mdrainBa32 (h : Head) (x : VecX) (d : VNum) (a : ANum) (gg : BitVec 2) (z : Bool) : Statement (.mdrainBa32 h x d a gg z) := by
  intro wf
  have f : (vecFmt ⟨true, false, 3, 0, [.f32, .ba32]⟩ x && vecRsv ⟨true, false, 3, 0, [.f32, .ba32]⟩ x 0) = true := wf
  simp only [Bool.and_eq_true] at f
  obtain ⟨g, e0, e5, e10, e15⟩ := goodN h 0x3A (d := d.val) (a := a.val) (b := gg.toNat + boolCode z * 4) (fn := 12) (by have := d.isLt; omega) (by have := a.isLt; omega) (by have := gg.isLt; have := boolCode_lt z; omega) (by decide) (by decide) (by decide)
  obtain ⟨s1, s2, s3⟩ := drainFields gg z
  refine codedV g ?_
  simp only [decodeBody, decodeDrain, e0, e5, e10, e15, s1, s2, s3, pxV_takes, pxV_codes, pxV_vecX, dec4, dec8, dec16, pair_ok, pair_code, ldSizeOf_code, ldSize_ok, stSizeOf_code, stSize_ok, g.legal, g.op, g.head, fin_ofNat, sregOf_code, ofNat_toNat, chk, f, Bool.and_self, Bool.and_true, Bool.true_and, Bool.not_true]
  rfl

theorem linit (h : Head) (o : OrdX) (a : SReg) (b : SReg) : Statement (.linit h o a b) := by
  intro wf
  have f : (ordIn [.rlx, .rel] o && ordNoOfx o) = true := wf
  simp only [Bool.and_eq_true] at f
  obtain ⟨g, e0, e5, e10, e15⟩ := goodN h 0x3C (d := 0) (a := sregCode a) (b := sregCode b) (fn := 0) (by decide) (sregCode_lt a) (sregCode_lt b) (by decide) (by decide) (by decide)
  refine codedO g ?_
  simp only [decodeBody, decodeLatch, e0, e5, e10, e15, pxO_takes, pxO_ordX, pxO_gid, dec4, dec8, dec16, pair_ok, pair_code, ldSizeOf_code, ldSize_ok, stSizeOf_code, stSize_ok, g.legal, g.op, g.head, fin_ofNat, sregOf_code, ofNat_toNat, chk, f, Bool.and_self, Bool.and_true, Bool.true_and, Bool.not_true]
  rfl

theorem larv (h : Head) (o : OrdX) (d : SReg) (a : SReg) (b : SReg) : Statement (.larv h o d a b) := by
  intro wf
  have f : (ordIn [.rlx, .rel, .ar] o && ordNoOfx o) = true := wf
  simp only [Bool.and_eq_true] at f
  obtain ⟨g, e0, e5, e10, e15⟩ := goodN h 0x3C (d := sregCode d) (a := sregCode a) (b := sregCode b) (fn := 1) (sregCode_lt d) (sregCode_lt a) (sregCode_lt b) (by decide) (by decide) (by decide)
  refine codedO g ?_
  simp only [decodeBody, decodeLatch, e0, e5, e10, e15, pxO_takes, pxO_ordX, pxO_gid, dec4, dec8, dec16, pair_ok, pair_code, ldSizeOf_code, ldSize_ok, stSizeOf_code, stSize_ok, g.legal, g.op, g.head, fin_ofNat, sregOf_code, ofNat_toNat, chk, f, Bool.and_self, Bool.and_true, Bool.true_and, Bool.not_true]
  rfl

theorem lwait (h : Head) (o : OrdX) (d : SReg) (a : SReg) (b : SReg) : Statement (.lwait h o d a b) := by
  intro wf
  have f : (ordIn [.rlx, .acq] o && ordNoOfx o) = true := wf
  simp only [Bool.and_eq_true] at f
  obtain ⟨g, e0, e5, e10, e15⟩ := goodN h 0x3C (d := sregCode d) (a := sregCode a) (b := sregCode b) (fn := 2) (sregCode_lt d) (sregCode_lt a) (sregCode_lt b) (by decide) (by decide) (by decide)
  refine codedO g ?_
  simp only [decodeBody, decodeLatch, e0, e5, e10, e15, pxO_takes, pxO_ordX, pxO_gid, dec4, dec8, dec16, pair_ok, pair_code, ldSizeOf_code, ldSize_ok, stSizeOf_code, stSize_ok, g.legal, g.op, g.head, fin_ofNat, sregOf_code, ofNat_toNat, chk, f, Bool.and_self, Bool.and_true, Bool.true_and, Bool.not_true]
  rfl

theorem ltest (h : Head) (o : OrdX) (d : SReg) (a : SReg) : Statement (.ltest h o d a) := by
  intro wf
  have f : (ordIn [.rlx, .acq] o && ordNoOfx o) = true := wf
  simp only [Bool.and_eq_true] at f
  obtain ⟨g, e0, e5, e10, e15⟩ := goodN h 0x3C (d := sregCode d) (a := sregCode a) (b := 0) (fn := 3) (sregCode_lt d) (sregCode_lt a) (by decide) (by decide) (by decide) (by decide)
  refine codedO g ?_
  simp only [decodeBody, decodeLatch, e0, e5, e10, e15, pxO_takes, pxO_ordX, pxO_gid, dec4, dec8, dec16, pair_ok, pair_code, ldSizeOf_code, ldSize_ok, stSizeOf_code, stSize_ok, g.legal, g.op, g.head, fin_ofNat, sregOf_code, ofNat_toNat, chk, f, Bool.and_self, Bool.and_true, Bool.true_and, Bool.not_true]
  rfl

theorem lreg (h : Head) (o : OrdX) (a : SReg) (b : SReg) : Statement (.lreg h o a b) := by
  intro wf
  have f : (ordIn [.rlx] o && ordNoOfx o) = true := wf
  simp only [Bool.and_eq_true] at f
  obtain ⟨g, e0, e5, e10, e15⟩ := goodN h 0x3C (d := 0) (a := sregCode a) (b := sregCode b) (fn := 4) (by decide) (sregCode_lt a) (sregCode_lt b) (by decide) (by decide) (by decide)
  refine codedO g ?_
  simp only [decodeBody, decodeLatch, e0, e5, e10, e15, pxO_takes, pxO_ordX, pxO_gid, dec4, dec8, dec16, pair_ok, pair_code, ldSizeOf_code, ldSize_ok, stSizeOf_code, stSize_ok, g.legal, g.op, g.head, fin_ofNat, sregOf_code, ofNat_toNat, chk, f, Bool.and_self, Bool.and_true, Bool.true_and, Bool.not_true]
  rfl

theorem ldrop (h : Head) (o : OrdX) (a : SReg) (b : SReg) : Statement (.ldrop h o a b) := by
  intro wf
  have f : (ordIn [.rlx, .rel] o && ordNoOfx o) = true := wf
  simp only [Bool.and_eq_true] at f
  obtain ⟨g, e0, e5, e10, e15⟩ := goodN h 0x3C (d := 0) (a := sregCode a) (b := sregCode b) (fn := 5) (by decide) (sregCode_lt a) (sregCode_lt b) (by decide) (by decide) (by decide)
  refine codedO g ?_
  simp only [decodeBody, decodeLatch, e0, e5, e10, e15, pxO_takes, pxO_ordX, pxO_gid, dec4, dec8, dec16, pair_ok, pair_code, ldSizeOf_code, ldSize_ok, stSizeOf_code, stSize_ok, g.legal, g.op, g.head, fin_ofNat, sregOf_code, ofNat_toNat, chk, f, Bool.and_self, Bool.and_true, Bool.true_and, Bool.not_true]
  rfl

theorem lbytes (h : Head) (o : OrdX) (d : SReg) (a : SReg) (b : SReg) : Statement (.lbytes h o d a b) := by
  intro wf
  have f : (ordIn [.rlx, .rel] o && ordNoOfx o) = true := wf
  simp only [Bool.and_eq_true] at f
  obtain ⟨g, e0, e5, e10, e15⟩ := goodN h 0x3C (d := sregCode d) (a := sregCode a) (b := sregCode b) (fn := 6) (sregCode_lt d) (sregCode_lt a) (sregCode_lt b) (by decide) (by decide) (by decide)
  refine codedO g ?_
  simp only [decodeBody, decodeLatch, e0, e5, e10, e15, pxO_takes, pxO_ordX, pxO_gid, dec4, dec8, dec16, pair_ok, pair_code, ldSizeOf_code, ldSize_ok, stSizeOf_code, stSize_ok, g.legal, g.op, g.head, fin_ofNat, sregOf_code, ofNat_toNat, chk, f, Bool.and_self, Bool.and_true, Bool.true_and, Bool.not_true]
  rfl

theorem rngget (h : Head) (d : SReg) : Statement (.rngget h d) := by
  intro _
  obtain ⟨g, e0, e5, e10, e15⟩ := goodN h 0x3D (d := sregCode d) (a := 0) (b := 0) (fn := 0) (sregCode_lt d) (by decide) (by decide) (by decide) (by decide) (by decide)
  refine coded_one g ?_
  simp only [decodeBody, decodeRng, e0, e5, e10, e15, Px.isNone, dec4, dec8, dec16, pair_ok, pair_code, ldSizeOf_code, ldSize_ok, stSizeOf_code, stSize_ok, g.legal, g.op, g.head, fin_ofNat, sregOf_code, ofNat_toNat, chk, Bool.and_self, Bool.and_true, Bool.true_and, Bool.not_true]
  rfl

theorem fadd (h : Head) (x : VecX) (d : SReg) (a : SReg) (b : SReg) : Statement (.fadd h x d a b) := by
  intro wf
  have f : (vecFmt ⟨true, false, 3, 0, []⟩ x && vecRsv ⟨true, false, 3, 0, []⟩ x 0) = true := wf
  simp only [Bool.and_eq_true] at f
  obtain ⟨g, e0, e5, e10, e15⟩ := goodN h 0x3E (d := sregCode d) (a := sregCode a) (b := sregCode b) (fn := 0) (sregCode_lt d) (sregCode_lt a) (sregCode_lt b) (by decide) (by decide) (by decide)
  refine codedV g ?_
  simp only [decodeBody, decodeFp, e0, e5, e10, e15, pxV_takes, pxV_codes, pxV_vecX, dec4, dec8, dec16, pair_ok, pair_code, ldSizeOf_code, ldSize_ok, stSizeOf_code, stSize_ok, g.legal, g.op, g.head, fin_ofNat, sregOf_code, ofNat_toNat, chk, f, Bool.and_self, Bool.and_true, Bool.true_and, Bool.not_true]
  rfl

theorem fsub (h : Head) (x : VecX) (d : SReg) (a : SReg) (b : SReg) : Statement (.fsub h x d a b) := by
  intro wf
  have f : (vecFmt ⟨true, false, 3, 0, []⟩ x && vecRsv ⟨true, false, 3, 0, []⟩ x 0) = true := wf
  simp only [Bool.and_eq_true] at f
  obtain ⟨g, e0, e5, e10, e15⟩ := goodN h 0x3E (d := sregCode d) (a := sregCode a) (b := sregCode b) (fn := 1) (sregCode_lt d) (sregCode_lt a) (sregCode_lt b) (by decide) (by decide) (by decide)
  refine codedV g ?_
  simp only [decodeBody, decodeFp, e0, e5, e10, e15, pxV_takes, pxV_codes, pxV_vecX, dec4, dec8, dec16, pair_ok, pair_code, ldSizeOf_code, ldSize_ok, stSizeOf_code, stSize_ok, g.legal, g.op, g.head, fin_ofNat, sregOf_code, ofNat_toNat, chk, f, Bool.and_self, Bool.and_true, Bool.true_and, Bool.not_true]
  rfl

theorem fmul (h : Head) (x : VecX) (d : SReg) (a : SReg) (b : SReg) : Statement (.fmul h x d a b) := by
  intro wf
  have f : (vecFmt ⟨true, false, 3, 0, []⟩ x && vecRsv ⟨true, false, 3, 0, []⟩ x 0) = true := wf
  simp only [Bool.and_eq_true] at f
  obtain ⟨g, e0, e5, e10, e15⟩ := goodN h 0x3E (d := sregCode d) (a := sregCode a) (b := sregCode b) (fn := 2) (sregCode_lt d) (sregCode_lt a) (sregCode_lt b) (by decide) (by decide) (by decide)
  refine codedV g ?_
  simp only [decodeBody, decodeFp, e0, e5, e10, e15, pxV_takes, pxV_codes, pxV_vecX, dec4, dec8, dec16, pair_ok, pair_code, ldSizeOf_code, ldSize_ok, stSizeOf_code, stSize_ok, g.legal, g.op, g.head, fin_ofNat, sregOf_code, ofNat_toNat, chk, f, Bool.and_self, Bool.and_true, Bool.true_and, Bool.not_true]
  rfl

theorem fdiv (h : Head) (x : VecX) (d : SReg) (a : SReg) (b : SReg) : Statement (.fdiv h x d a b) := by
  intro wf
  have f : (vecFmt ⟨true, false, 3, 0, []⟩ x && vecRsv ⟨true, false, 3, 0, []⟩ x 0) = true := wf
  simp only [Bool.and_eq_true] at f
  obtain ⟨g, e0, e5, e10, e15⟩ := goodN h 0x3E (d := sregCode d) (a := sregCode a) (b := sregCode b) (fn := 3) (sregCode_lt d) (sregCode_lt a) (sregCode_lt b) (by decide) (by decide) (by decide)
  refine codedV g ?_
  simp only [decodeBody, decodeFp, e0, e5, e10, e15, pxV_takes, pxV_codes, pxV_vecX, dec4, dec8, dec16, pair_ok, pair_code, ldSizeOf_code, ldSize_ok, stSizeOf_code, stSize_ok, g.legal, g.op, g.head, fin_ofNat, sregOf_code, ofNat_toNat, chk, f, Bool.and_self, Bool.and_true, Bool.true_and, Bool.not_true]
  rfl

theorem fsqrt (h : Head) (x : VecX) (d : SReg) (a : SReg) : Statement (.fsqrt h x d a) := by
  intro wf
  have f : (vecFmt ⟨true, false, 3, 0, []⟩ x && vecRsv ⟨true, false, 3, 0, []⟩ x 0) = true := wf
  simp only [Bool.and_eq_true] at f
  obtain ⟨g, e0, e5, e10, e15⟩ := goodN h 0x3E (d := sregCode d) (a := sregCode a) (b := 0) (fn := 4) (sregCode_lt d) (sregCode_lt a) (by decide) (by decide) (by decide) (by decide)
  refine codedV g ?_
  simp only [decodeBody, decodeFp, e0, e5, e10, e15, pxV_takes, pxV_codes, pxV_vecX, dec4, dec8, dec16, pair_ok, pair_code, ldSizeOf_code, ldSize_ok, stSizeOf_code, stSize_ok, g.legal, g.op, g.head, fin_ofNat, sregOf_code, ofNat_toNat, chk, f, Bool.and_self, Bool.and_true, Bool.true_and, Bool.not_true]
  rfl

theorem fma (h : Head) (x : VecX) (d : SReg) (a : SReg) (b : SReg) : Statement (.fma h x d a b) := by
  intro wf
  have f : (vecFmt ⟨true, false, 3, 0, []⟩ x && vecRsv ⟨true, false, 3, 0, []⟩ x 0) = true := wf
  simp only [Bool.and_eq_true] at f
  obtain ⟨g, e0, e5, e10, e15⟩ := goodN h 0x3E (d := sregCode d) (a := sregCode a) (b := sregCode b) (fn := 5) (sregCode_lt d) (sregCode_lt a) (sregCode_lt b) (by decide) (by decide) (by decide)
  refine codedV g ?_
  simp only [decodeBody, decodeFp, e0, e5, e10, e15, pxV_takes, pxV_codes, pxV_vecX, dec4, dec8, dec16, pair_ok, pair_code, ldSizeOf_code, ldSize_ok, stSizeOf_code, stSize_ok, g.legal, g.op, g.head, fin_ofNat, sregOf_code, ofNat_toNat, chk, f, Bool.and_self, Bool.and_true, Bool.true_and, Bool.not_true]
  rfl

theorem fmin (h : Head) (x : VecX) (d : SReg) (a : SReg) (b : SReg) : Statement (.fmin h x d a b) := by
  intro wf
  have f : (vecFmt ⟨true, false, 3, 0, []⟩ x && vecRsv ⟨true, false, 3, 0, []⟩ x 0) = true := wf
  simp only [Bool.and_eq_true] at f
  obtain ⟨g, e0, e5, e10, e15⟩ := goodN h 0x3E (d := sregCode d) (a := sregCode a) (b := sregCode b) (fn := 6) (sregCode_lt d) (sregCode_lt a) (sregCode_lt b) (by decide) (by decide) (by decide)
  refine codedV g ?_
  simp only [decodeBody, decodeFp, e0, e5, e10, e15, pxV_takes, pxV_codes, pxV_vecX, dec4, dec8, dec16, pair_ok, pair_code, ldSizeOf_code, ldSize_ok, stSizeOf_code, stSize_ok, g.legal, g.op, g.head, fin_ofNat, sregOf_code, ofNat_toNat, chk, f, Bool.and_self, Bool.and_true, Bool.true_and, Bool.not_true]
  rfl

theorem fmax (h : Head) (x : VecX) (d : SReg) (a : SReg) (b : SReg) : Statement (.fmax h x d a b) := by
  intro wf
  have f : (vecFmt ⟨true, false, 3, 0, []⟩ x && vecRsv ⟨true, false, 3, 0, []⟩ x 0) = true := wf
  simp only [Bool.and_eq_true] at f
  obtain ⟨g, e0, e5, e10, e15⟩ := goodN h 0x3E (d := sregCode d) (a := sregCode a) (b := sregCode b) (fn := 7) (sregCode_lt d) (sregCode_lt a) (sregCode_lt b) (by decide) (by decide) (by decide)
  refine codedV g ?_
  simp only [decodeBody, decodeFp, e0, e5, e10, e15, pxV_takes, pxV_codes, pxV_vecX, dec4, dec8, dec16, pair_ok, pair_code, ldSizeOf_code, ldSize_ok, stSizeOf_code, stSize_ok, g.legal, g.op, g.head, fin_ofNat, sregOf_code, ofNat_toNat, chk, f, Bool.and_self, Bool.and_true, Bool.true_and, Bool.not_true]
  rfl

theorem feq (h : Head) (x : VecX) (d : PReg) (a : SReg) (b : SReg) : Statement (.feq h x d a b) := by
  intro wf
  have f : (vecFmt ⟨true, false, 3, 0, []⟩ x && vecRsv ⟨true, false, 3, 0, []⟩ x 0) = true := wf
  simp only [Bool.and_eq_true] at f
  obtain ⟨g, e0, e5, e10, e15⟩ := goodN h 0x3E (d := d.val) (a := sregCode a) (b := sregCode b) (fn := 8) (by have := d.isLt; omega) (sregCode_lt a) (sregCode_lt b) (by decide) (by decide) (by decide)
  refine codedV g ?_
  simp only [decodeBody, decodeFp, e0, e5, e10, e15, pxV_takes, pxV_codes, pxV_vecX, dec4, dec8, dec16, pair_ok, pair_code, ldSizeOf_code, ldSize_ok, stSizeOf_code, stSize_ok, g.legal, g.op, g.head, fin_ofNat, sregOf_code, ofNat_toNat, chk, f, Bool.and_self, Bool.and_true, Bool.true_and, Bool.not_true]
  rfl

theorem flt (h : Head) (x : VecX) (d : PReg) (a : SReg) (b : SReg) : Statement (.flt h x d a b) := by
  intro wf
  have f : (vecFmt ⟨true, false, 3, 0, []⟩ x && vecRsv ⟨true, false, 3, 0, []⟩ x 0) = true := wf
  simp only [Bool.and_eq_true] at f
  obtain ⟨g, e0, e5, e10, e15⟩ := goodN h 0x3E (d := d.val) (a := sregCode a) (b := sregCode b) (fn := 9) (by have := d.isLt; omega) (sregCode_lt a) (sregCode_lt b) (by decide) (by decide) (by decide)
  refine codedV g ?_
  simp only [decodeBody, decodeFp, e0, e5, e10, e15, pxV_takes, pxV_codes, pxV_vecX, dec4, dec8, dec16, pair_ok, pair_code, ldSizeOf_code, ldSize_ok, stSizeOf_code, stSize_ok, g.legal, g.op, g.head, fin_ofNat, sregOf_code, ofNat_toNat, chk, f, Bool.and_self, Bool.and_true, Bool.true_and, Bool.not_true]
  rfl

theorem fle (h : Head) (x : VecX) (d : PReg) (a : SReg) (b : SReg) : Statement (.fle h x d a b) := by
  intro wf
  have f : (vecFmt ⟨true, false, 3, 0, []⟩ x && vecRsv ⟨true, false, 3, 0, []⟩ x 0) = true := wf
  simp only [Bool.and_eq_true] at f
  obtain ⟨g, e0, e5, e10, e15⟩ := goodN h 0x3E (d := d.val) (a := sregCode a) (b := sregCode b) (fn := 10) (by have := d.isLt; omega) (sregCode_lt a) (sregCode_lt b) (by decide) (by decide) (by decide)
  refine codedV g ?_
  simp only [decodeBody, decodeFp, e0, e5, e10, e15, pxV_takes, pxV_codes, pxV_vecX, dec4, dec8, dec16, pair_ok, pair_code, ldSizeOf_code, ldSize_ok, stSizeOf_code, stSize_ok, g.legal, g.op, g.head, fin_ofNat, sregOf_code, ofNat_toNat, chk, f, Bool.and_self, Bool.and_true, Bool.true_and, Bool.not_true]
  rfl

theorem fcvti (h : Head) (x : VecX) (d : SReg) (a : SReg) : Statement (.fcvti h x d a) := by
  intro wf
  have f : (vecFmt ⟨true, false, 3, 0, [.i32, .f32, .i64]⟩ x && vecRsv ⟨true, false, 3, 0, [.i32, .f32, .i64]⟩ x 0) = true := wf
  simp only [Bool.and_eq_true] at f
  obtain ⟨g, e0, e5, e10, e15⟩ := goodN h 0x3E (d := sregCode d) (a := sregCode a) (b := 0) (fn := 11) (sregCode_lt d) (sregCode_lt a) (by decide) (by decide) (by decide) (by decide)
  refine codedV g ?_
  simp only [decodeBody, decodeFp, e0, e5, e10, e15, pxV_takes, pxV_codes, pxV_vecX, dec4, dec8, dec16, pair_ok, pair_code, ldSizeOf_code, ldSize_ok, stSizeOf_code, stSize_ok, g.legal, g.op, g.head, fin_ofNat, sregOf_code, ofNat_toNat, chk, f, Bool.and_self, Bool.and_true, Bool.true_and, Bool.not_true]
  rfl

theorem fcvtf (h : Head) (x : VecX) (d : SReg) (a : SReg) : Statement (.fcvtf h x d a) := by
  intro wf
  have f : (vecFmt ⟨true, false, 3, 0, [.i32, .f32, .i64]⟩ x && vecRsv ⟨true, false, 3, 0, [.i32, .f32, .i64]⟩ x 0) = true := wf
  simp only [Bool.and_eq_true] at f
  obtain ⟨g, e0, e5, e10, e15⟩ := goodN h 0x3E (d := sregCode d) (a := sregCode a) (b := 0) (fn := 12) (sregCode_lt d) (sregCode_lt a) (by decide) (by decide) (by decide) (by decide)
  refine codedV g ?_
  simp only [decodeBody, decodeFp, e0, e5, e10, e15, pxV_takes, pxV_codes, pxV_vecX, dec4, dec8, dec16, pair_ok, pair_code, ldSizeOf_code, ldSize_ok, stSizeOf_code, stSize_ok, g.legal, g.op, g.head, fin_ofNat, sregOf_code, ofNat_toNat, chk, f, Bool.and_self, Bool.and_true, Bool.true_and, Bool.not_true]
  rfl

theorem fabs (h : Head) (x : VecX) (d : SReg) (a : SReg) : Statement (.fabs h x d a) := by
  intro wf
  have f : (vecFmt ⟨true, false, 3, 0, []⟩ x && vecRsv ⟨true, false, 3, 0, []⟩ x 0) = true := wf
  simp only [Bool.and_eq_true] at f
  obtain ⟨g, e0, e5, e10, e15⟩ := goodN h 0x3E (d := sregCode d) (a := sregCode a) (b := 0) (fn := 13) (sregCode_lt d) (sregCode_lt a) (by decide) (by decide) (by decide) (by decide)
  refine codedV g ?_
  simp only [decodeBody, decodeFp, e0, e5, e10, e15, pxV_takes, pxV_codes, pxV_vecX, dec4, dec8, dec16, pair_ok, pair_code, ldSizeOf_code, ldSize_ok, stSizeOf_code, stSize_ok, g.legal, g.op, g.head, fin_ofNat, sregOf_code, ofNat_toNat, chk, f, Bool.and_self, Bool.and_true, Bool.true_and, Bool.not_true]
  rfl

theorem fneg (h : Head) (x : VecX) (d : SReg) (a : SReg) : Statement (.fneg h x d a) := by
  intro wf
  have f : (vecFmt ⟨true, false, 3, 0, []⟩ x && vecRsv ⟨true, false, 3, 0, []⟩ x 0) = true := wf
  simp only [Bool.and_eq_true] at f
  obtain ⟨g, e0, e5, e10, e15⟩ := goodN h 0x3E (d := sregCode d) (a := sregCode a) (b := 0) (fn := 14) (sregCode_lt d) (sregCode_lt a) (by decide) (by decide) (by decide) (by decide)
  refine codedV g ?_
  simp only [decodeBody, decodeFp, e0, e5, e10, e15, pxV_takes, pxV_codes, pxV_vecX, dec4, dec8, dec16, pair_ok, pair_code, ldSizeOf_code, ldSize_ok, stSizeOf_code, stSize_ok, g.legal, g.op, g.head, fin_ofNat, sregOf_code, ofNat_toNat, chk, f, Bool.and_self, Bool.and_true, Bool.true_and, Bool.not_true]
  rfl

theorem fclass (h : Head) (x : VecX) (d : SReg) (a : SReg) : Statement (.fclass h x d a) := by
  intro wf
  have f : (vecFmt ⟨true, false, 3, 0, []⟩ x && vecRsv ⟨true, false, 3, 0, []⟩ x 0) = true := wf
  simp only [Bool.and_eq_true] at f
  obtain ⟨g, e0, e5, e10, e15⟩ := goodN h 0x3E (d := sregCode d) (a := sregCode a) (b := 0) (fn := 15) (sregCode_lt d) (sregCode_lt a) (by decide) (by decide) (by decide) (by decide)
  refine codedV g ?_
  simp only [decodeBody, decodeFp, e0, e5, e10, e15, pxV_takes, pxV_codes, pxV_vecX, dec4, dec8, dec16, pair_ok, pair_code, ldSizeOf_code, ldSize_ok, stSizeOf_code, stSize_ok, g.legal, g.op, g.head, fin_ofNat, sregOf_code, ofNat_toNat, chk, f, Bool.and_self, Bool.and_true, Bool.true_and, Bool.not_true]
  rfl

end Sys2Proof.Laws.Encoding
end

