-- ==== Sys2Proof/Certificates/Slice0/Obligations.lean ====
section
/-! DEFINITION. The statements for the provers. Each names in its docstring the rules of the specification that it formalises. -/

open Sys2Proof Sys2Proof.Machine

/-! ## Scalar results -/

/-- R102: ADDS and SUBS that are ready clamp the exact sum or difference to 64 bits and raise SAT exactly when they clamp; when
FTRAP does not enable SAT, they change nothing else. R102, R106: every ADD, SUB, AND, OR, XOR, SLL, SRL, SRA, MIN, MAX, MINU, MAXU, MUL, MULH, MULHU, ANDN, ORN, PEER and PEERO that
is ready writes this value to d and changes nothing else: no flag, no other register, no memory. -/
def Obligations.AluWritesItsResult : Prop :=
  (∀ (h : Head) (d a b : SReg),
    let clamp (v : Int) : Int := if v < -2 ^ 63 then -2 ^ 63 else if 2 ^ 63 - 1 < v then 2 ^ 63 - 1 else v
    let result (v : Int) (y : Fx) : RegVal × Fx :=
      (.word (BitVec.ofInt 64 (clamp v)), ⟨y.rng, if clamp v = v then 0 else flagSAT⟩)
    Forms (.adds h d a b) h 1 (usesRRR d a b) (fun sl => sid sl d) false
      (fun c _ y => result ((c.rs a).toInt + (c.rs b).toInt) y) ∧
    Forms (.subs h d a b) h 1 (usesRRR d a b) (fun sl => sid sl d) false
      (fun c _ y => result ((c.rs a).toInt - (c.rs b).toInt) y)) ∧
  ∀ (h : Head) (d a b : SReg),
    Alu (.add h d a b) h d a b (fun x y => x + y) ∧
    Alu (.sub h d a b) h d a b (fun x y => x - y) ∧
    Alu (.and h d a b) h d a b (fun x y => x &&& y) ∧
    Alu (.or h d a b) h d a b (fun x y => x ||| y) ∧
    Alu (.xor h d a b) h d a b (fun x y => x ^^^ y) ∧
    Alu (.sll h d a b) h d a b (fun x y => x <<< (y.toNat % 64)) ∧
    Alu (.srl h d a b) h d a b (fun x y => x >>> (y.toNat % 64)) ∧
    Alu (.sra h d a b) h d a b (fun x y => x.sshiftRight (y.toNat % 64)) ∧
    Alu (.min h d a b) h d a b (fun x y => if x.toInt ≤ y.toInt then x else y) ∧
    Alu (.max h d a b) h d a b (fun x y => if x.toInt ≤ y.toInt then y else x) ∧
    Alu (.minu h d a b) h d a b (fun x y => if x.toNat ≤ y.toNat then x else y) ∧
    Alu (.maxu h d a b) h d a b (fun x y => if x.toNat ≤ y.toNat then y else x) ∧
    Alu (.mul h d a b) h d a b (fun x y => BitVec.ofInt 64 (x.toInt * y.toInt)) ∧
    Alu (.mulh h d a b) h d a b (fun x y => BitVec.ofInt 64 (x.toInt * y.toInt / 2 ^ 64)) ∧
    Alu (.mulhu h d a b) h d a b (fun x y => BitVec.ofNat 64 (x.toNat * y.toNat / 2 ^ 64)) ∧
    Alu (.andn h d a b) h d a b (fun x y => x &&& ~~~y) ∧
    Alu (.orn h d a b) h d a b (fun x y => x ||| ~~~y) ∧
    Alu (.peer h d a b) h d a b (fun x y =>
      BitVec.ofNat 64 (0x1000000000 + (y.toNat % 512) * 2 ^ 27 + (x.toNat % 512) * 2 ^ 18)) ∧
    Alu (.peero h d a b) h d a b (fun x y =>
      BitVec.ofNat 64 (x.toNat / 2 ^ 36 * 2 ^ 36 + (x.toNat / 2 ^ 27 + y.toNat / 2 ^ 16) % 512 * 2 ^ 27
        + (x.toNat / 2 ^ 18 + y.toNat) % 512 * 2 ^ 18 + x.toNat % 2 ^ 18))

/-- R103: DIV, DIVU, REM and REMU that are ready leave this result pending for d, raise no flag and change nothing else; the two
corners have the values that the rule gives. A division takes 4 cc in its corners, and otherwise 4 + ceil(q / 2) for a truncated quotient
whose magnitude has q bits, 0 for a zero quotient; so it takes between 4 and 36 cc. -/
def Obligations.DivisionIsRight : Prop :=
  (∀ (h : Head) (d a b : SReg),
    Divides (.div h d a b) h d a b true (fun x y =>
      if y = 0 then BitVec.allOnes 64 else if x.toInt = -2 ^ 63 ∧ y.toInt = -1 then x
      else BitVec.ofInt 64 (x.toInt.tdiv y.toInt)) ∧
    Divides (.rem h d a b) h d a b true (fun x y =>
      if y = 0 then x else if x.toInt = -2 ^ 63 ∧ y.toInt = -1 then 0 else BitVec.ofInt 64 (x.toInt.tmod y.toInt)) ∧
    Divides (.divu h d a b) h d a b false (fun x y => if y = 0 then BitVec.allOnes 64 else BitVec.ofNat 64 (x.toNat / y.toNat)) ∧
    Divides (.remu h d a b) h d a b false (fun x y => if y = 0 then x else BitVec.ofNat 64 (x.toNat % y.toNat))) ∧
  (∀ (sg : Bool) (x y : Word), 4 ≤ divTime sg x y ∧ divTime sg x y ≤ 36) ∧
  (∀ (sg : Bool) (x : Word), divTime sg x 0 = 4) ∧
  (∀ (x y : Word), x.toInt = -2 ^ 63 → y.toInt = -1 → divTime true x y = 4) ∧
  (∀ (x y : Word), y ≠ 0 → x.toNat < y.toNat → divTime false x y = 4) ∧
  (∀ (x y : Word), y ≠ 0 → x.toInt.tdiv y.toInt = 0 → divTime true x y = 4) ∧
  (∀ (x y : Word) (q : Nat), y ≠ 0 → 2 ^ q ≤ x.toNat / y.toNat → x.toNat / y.toNat < 2 ^ (q + 1) →
    divTime false x y = 4 + (q + 2) / 2) ∧
  (∀ (x y : Word) (q : Nat), y ≠ 0 → ¬ (x.toInt = -2 ^ 63 ∧ y.toInt = -1) → 2 ^ q ≤ (x.toInt.tdiv y.toInt).natAbs →
    (x.toInt.tdiv y.toInt).natAbs < 2 ^ (q + 1) → divTime true x y = 4 + (q + 2) / 2)

/-- R71 to R73, R134, R363: when a result can be read, and when the next instruction issues. An instruction that issues in cycle c and completes leaves its
register in flight until c + L, with L as R72 gives it: 1 (nothing in flight), 2, 3 or 4 cc, and none for a scoreboarded result; its slot
issues next at c + 1 + S, or later; it counts as one event 2; and a floating-point element form takes the pipe for 2 cc, for which the next
one waits. A guard that is false costs the same. Taken branches, which cost one cycle more, stand in `BranchesGoToTheirTarget`. A read finds
the new value of a register that has no write in flight, and else the old or the new. No core issues before its RUNNING slot may.
R363: a counter adds the events of its selection and no others; in a tick the cycles, those with a RUNNING slot, without an issue, held by
the scoreboard, and with the compute pipe busy, and a free number of bank conflicts; and corrected words, placements and held messages,
translations that miss, requests that take an entry and rows of a matrix command as they occur. -/
def Obligations.IssueTimesAreRight : Prop :=
  (∀ (h : Head) (d a b : SReg) (im : ImmX) (c10 : BitVec 10) (c7 : BitVec 7) (sh : BitVec 6) (p q r : PReg) (ml ma mb : MReg) (csr : BitVec 10)
      (x : VecX) (v : VecPfx) (vd va vb : VNum) (gd : GNum) (mk : MaskX) (s : State) (k : Core) (sl : Fin 8),
    (∀ i ∈ [Instr.add h d a b, .sub h d a b, .and h d a b, .or h d a b, .xor h d a b, .sll h d a b, .srl h d a b, .sra h d a b,
        .min h d a b, .max h d a b, .minu h d a b, .maxu h d a b, .andn h d a b, .orn h d a b, .peer h d a b, .peero h d a b,
        .clz h d a, .popc h d a, .sext8 h d a, .sext16 h d a, .sext32 h d a, .zext8 h d a, .zext16 h d a, .zext32 h d a, .bswap h d a,
        .ctz h d a, .pidx h d a, .addi h im d a c10, .andi h im d a c10, .ori h im d a c10, .xori h im d a c10, .lih h im d a c10,
        .li h im d c10, .slli h d a sh, .srli h d a sh, .srai h d a sh, .rori h d a sh, .cmpEq h p a b, .cmpNe h p a b, .cmpLt h p a b,
        .cmpGe h p a b, .cmpLtu h p a b, .cmpGeu h p a b, .cmpBits h p a b, .cmpNbits h p a b, .cmpiEq h im p a c7, .cmpiNe h im p a c7,
        .cmpiLt h im p a c7, .cmpiGe h im p a c7, .cmpiLtu h im p a c7, .cmpiGeu h im p a c7, .cmpiBits h im p a c7,
        .cmpiNbits h im p a c7, .pand h p q r, .por h p q r, .pxor h p q r, .pandn h p q r, .pnot h p q, .pmov h p q, .pset h p, .pclr h p,
        .mand h ml ma mb, .mor h ml ma mb, .mxor h ml ma mb, .mandn h ml ma mb, .mnot h ml ma, .mset h ml a, .mget h d ma, .mpop h d ma,
        .mfirst h d ma, .rngget h d], Times i 1 false false) ∧
    (csr ≠ 0 → csr.toNat < 0x050 → ∀ i ∈ [Instr.csrw h d a csr, .csrs h d a csr, .csrc h d a csr], Times i 1 false false) ∧
    (∀ i ∈ [Instr.adds h d a b, .subs h d a b], Times i 1 false true) ∧
    (∀ i ∈ [Instr.mul h d a b, .mulh h d a b, .mulhu h d a b], Times i 3 false false) ∧
    (∀ i ∈ [Instr.fadd h x d a b, .fsub h x d a b, .fmul h x d a b, .fma h x d a b, .fcvti h x d a, .fcvtf h x d a], Times i 4 false true) ∧
    (∀ i ∈ [Instr.fmin h x d a b, .fmax h x d a b, .fabs h x d a, .fneg h x d a, .fclass h x d a, .feq h x p a b, .flt h x p a b,
        .fle h x p a b], Times i 4 false false) ∧
    (∀ i ∈ [Instr.vaddI32 h x vd va vb mk, .vsubI32 h x vd va vb mk, .vmulI32 h x vd va vb mk, .vmulhI32 h x vd va vb mk,
        .vminI32 h x vd va vb mk, .vmaxI32 h x vd va vb mk, .vminuI32 h x vd va vb mk, .vabsI32 h x vd va mk, .vand h x vd va vb mk,
        .vor h x vd va vb mk, .vxor h x vd va vb mk, .vsll h x vd va vb mk, .vsrl h x vd va vb mk, .vsra h x vd va vb mk,
        .vaddI16 h x vd va vb mk, .vsubI16 h x vd va vb mk, .vmulI16 h x vd va vb mk, .vminI16 h x vd va vb mk, .vmaxI16 h x vd va vb mk,
        .vaddI8 h x vd va vb mk, .vsubI8 h x vd va vb mk, .vminI8 h x vd va vb mk, .vmaxI8 h x vd va vb mk,
        .vcmpI32 h x ml va vb mk, .viota h x vd mk], Times i 2 false false) ∧
    (∀ i ∈ [Instr.vaddsI32 h x vd va vb mk, .vsubsI32 h x vd va vb mk, .vaddsI16 h x vd va vb mk, .vsubsI16 h x vd va vb mk,
        .vaddsI8 h x vd va vb mk, .vsubsI8 h x vd va vb mk], Times i 2 false true) ∧
    (∀ i ∈ [Instr.vcmpF32 h x ml va vb mk, .vperm h x vd va vb mk, .vbcast h x vd va mk, .vbcastScalar h v vd mk, .vrot h x vd va mk,
        .vsel h x vd va vb ml, .vins h v vd, .vext h x gd va, .vhdrRead h v gd va, .vhdrWrite h v vd], Times i 4 false false) ∧
    (∀ i ∈ [Instr.vaddF32 h x vd va vb mk, .vsubF32 h x vd va vb mk, .vmulF32 h x vd va vb mk, .vfmaF32 h x vd va vb mk,
        .vfmsF32 h x vd va vb mk, .vfnmaF32 h x vd va vb mk, .vminF32 h x vd va vb mk, .vmaxF32 h x vd va vb mk, .vabsF32 h x vd va mk,
        .vnegF32 h x vd va mk, .vaddBf16 h x vd va vb mk, .vsubBf16 h x vd va vb mk, .vmulBf16 h x vd va vb mk, .vfmaBf16 h x vd va vb mk,
        .vminBf16 h x vd va vb mk, .vmaxBf16 h x vd va vb mk, .vaddE4m3 h x vd va vb mk, .vsubE4m3 h x vd va vb mk,
        .vmulE4m3 h x vd va vb mk, .vminE4m3 h x vd va vb mk, .vmaxE4m3 h x vd va vb mk, .vaddE5m2 h x vd va vb mk,
        .vsubE5m2 h x vd va vb mk, .vmulE5m2 h x vd va vb mk, .vminE5m2 h x vd va vb mk, .vmaxE5m2 h x vd va vb mk],
      Times i 4 true true ∧ (Ready s i.head i.words (usesOf i) k sl → s.cyc s.cur < k.fpFree → HoldsBack i s false)) ∧
    ∀ i ∈ [Instr.div h d a b, .divu h d a b, .rem h d a b, .remu h d a b, .fdiv h x d a b, .fsqrt h x d a, .vrsumF32 h x vd va mk,
        .vrsumI32 h x vd va mk, .vrmaxF32 h x vd va mk, .vrmaxI32 h x vd va mk, .quantQb8 h x vd va, .quantQb4 h x vd va,
        .dequantQb8 h x vd va mk, .dequantQb4 h x vd va mk, .qtobaQb8 h x vd va, .qtobaQb4 h x vd va, .badd h x vd va vb,
        .balign h x vd va vb, .vcvtBf16F32 h x vd va mk, .vcvtI32F32 h x vd va mk, .vcvtF32I32 h x vd va mk], Times i 0 false false) ∧
  (∀ (i : Instr) (s : State) (k : Core) (sl : Fin 8), i.wf = true → Fetches s i.words k sl → GuardReads s i.head k sl →
    ((k.view s.fresh).getP sl i.head.gp == i.head.neg) = true →
    ∃ t q, exec i s = .next t ∧ t.core? s.cur = some q ∧ IssuedAt k q sl (s.cyc s.cur) i.head.stall.toNat ∧ q.fpFree = k.fpFree ∧
      q.inflight = k.inflight) ∧
  (∀ (k : Core) (cyc f : Nat) (r : RegId),
    ((∀ e ∈ k.inflight, e.reg = r → e.lands ≤ cyc) → ((k.land cyc).view f).getReg r = k.getReg r) ∧
    (((k.land cyc).view f).getReg r = k.getReg r ∨ ∃ e ∈ k.inflight, e.reg = r ∧ cyc < e.lands ∧ ((k.land cyc).view f).getReg r = e.old)) ∧
  (∀ (s : State) (c : Nat), s.nextAct = .issue c → ∃ e ∈ s.cores, e.1 = c ∧ ∃ sl, e.2.running = some sl ∧
    (e.2.slot sl).nextIssue ≤ s.cyc c ∧ e.2.issueFrom ≤ s.cyc c ∧ e.2.frozen = false ∧ e.2.halted = false) ∧
  (∀ (k : Core) (ev n : Nat), ev ≠ 0 → ∀ i : Fin 4, (k.count ev n).regs.pmc[i] =
    if bits k.regs.pmsel (8 * i.val) 8 = ev then k.regs.pmc[i] + BitVec.ofNat 64 n else k.regs.pmc[i]) ∧
  (∀ (s : State) (c : Nat) (k : Core), s.core? c = some k → ∃ q, s.tick.core? c = some q ∧
    let n := s.tick.cyc c - s.cyc c
    q.regs.pmsel = (if n = 0 then k.regs.pmsel else k.regs.pmselNew.getD k.regs.pmsel) ∧
    ∀ i : Fin 4,
      let ev := bits k.regs.pmsel (8 * i.val) 8
      let on : Bool := ev = 1 || (ev = 3 && k.running.isSome) || (ev = 4 && k.running.isSome && decide (k.lastIssue ≠ some (s.cyc c)))
        || (ev = 5 && k.held.any fun e => e.2) || (ev = 8 && decide (s.cyc c < k.computeFree))
      (ev ≠ 6 → q.regs.pmc[i] = if on then k.regs.pmc[i] + BitVec.ofNat 64 n else k.regs.pmc[i]) ∧
      (ev = 6 → ∃ m, q.regs.pmc[i] = k.regs.pmc[i] + BitVec.ofNat 64 m)) ∧
  ∀ (s : State) (c : Nat) (k : Core), s.core? c = some k →
    let counts (q : Core) (ev n : Nat) : Prop := ∀ i : Fin 4, bits k.regs.pmsel (8 * i.val) 8 = ev →
      q.regs.pmc[i] = k.regs.pmc[i] + BitVec.ofNat 64 n
    (∀ fresh e m n a b, e.cmd = .mma m n a b → counts (k.matrixWrite fresh e).1 7 (mmaRows b)) ∧
    (∀ a n, counts (k.correct a n) 16 (k.soft.filter fun e => (wordsOf a n).contains e.1).length) ∧
    (∀ m sl, counts (k.place m sl (s.cyc c)) 18 1) ∧
    (∀ m u, s.doorArrive c m = (u, none) → k.freeSlot = none → ∃ q, u.core? c = some q ∧ counts q 19 1) ∧
    (∀ t y, t.missed = some y → ∃ q, (s.translated c t).core? c = some q ∧ counts q 17 1) ∧
    ∀ r extra, r.att = 0 → r.takesEntry = true → ∃ q, (s.sendReq (.core c) r extra).core? c = some q ∧ counts q 11 1

/-- R102, R105, R106: CLZ, POPC, SEXT8, SEXT16, SEXT32, ZEXT8, ZEXT16, ZEXT32, BSWAP, CTZ and PIDX that are ready write this value to
d and change nothing else; `clzW`, `ctzW`, `popW` and `bswapW` are characterised below. R102, R105: CLZ is the number of leading zero bits, 0 to 64; CTZ that of trailing zero bits, 64 for 0; POPC the number of one bits;
byte i of BSWAP is byte 7 − i. -/
def Obligations.UnaryWritesItsResult : Prop :=
  (∀ (h : Head) (d a : SReg),
    Unary (.clz h d a) h 1 d a clzW ∧
    Unary (.popc h d a) h 1 d a popW ∧
    Unary (.sext8 h d a) h 1 d a (fun x => (x.setWidth 8).signExtend 64) ∧
    Unary (.sext16 h d a) h 1 d a (fun x => (x.setWidth 16).signExtend 64) ∧
    Unary (.sext32 h d a) h 1 d a (fun x => (x.setWidth 32).signExtend 64) ∧
    Unary (.zext8 h d a) h 1 d a (fun x => BitVec.ofNat 64 (x.toNat % 2 ^ 8)) ∧
    Unary (.zext16 h d a) h 1 d a (fun x => BitVec.ofNat 64 (x.toNat % 2 ^ 16)) ∧
    Unary (.zext32 h d a) h 1 d a (fun x => BitVec.ofNat 64 (x.toNat % 2 ^ 32)) ∧
    Unary (.bswap h d a) h 1 d a bswapW ∧
    Unary (.ctz h d a) h 1 d a ctzW ∧
    Unary (.pidx h d a) h 1 d a (fun x => BitVec.ofNat 64 (x.toNat / 2 ^ 18 % 2 ^ 18))) ∧
  (∀ x : Word, (clzW x).toNat ≤ 64 ∧ x.toNat < 2 ^ (64 - (clzW x).toNat) ∧ (x ≠ 0 → 2 ^ (63 - (clzW x).toNat) ≤ x.toNat) ∧
    (x = 0 → clzW x = 64)) ∧
  (∀ x : Word, (x = 0 → ctzW x = 64) ∧ (x ≠ 0 → x.getLsbD (ctzW x).toNat = true) ∧
    ∀ i, i < (ctzW x).toNat → x.getLsbD i = false) ∧
  (∀ x : Word, (popW x).toNat = ((List.range 64).filter fun i => x.getLsbD i).length) ∧
  (∀ (x : Word) (i : Nat), i < 8 → (bswapW x).extractLsb' (8 * i) 8 = x.extractLsb' (8 * (7 - i)) 8)

/-- R104: ADDI, ANDI, ORI, XORI, LIH, LI, SLLI, SRLI, SRAI and RORI that are ready write this value to d, with the immediate of R64,
and change nothing else. -/
def Obligations.ImmediateWritesItsResult : Prop :=
  ∀ (h : Head) (d a : SReg) (x : ImmX) (imm : BitVec 10) (sh : BitVec 6),
    let w := if x.present then 2 else 1
    Unary (.addi h x d a imm) h w d a (fun v => v + immI x imm) ∧
    Unary (.andi h x d a imm) h w d a (fun v => v &&& immI x imm) ∧
    Unary (.ori h x d a imm) h w d a (fun v => v ||| immI x imm) ∧
    Unary (.xori h x d a imm) h w d a (fun v => v ^^^ immI x imm) ∧
    Unary (.lih h x d a imm) h w d a
      (fun v => BitVec.ofNat 64 (v.toNat % 2 ^ 32 + (immI x imm).toNat % 2 ^ 32 * 2 ^ 32)) ∧
    Computes (.li h x d imm) h w (usesD d) (fun sl => sid sl d) (fun _ => .word (immI x imm)) ∧
    Unary (.slli h d a sh) h 1 d a (fun v => v <<< sh.toNat) ∧
    Unary (.srli h d a sh) h 1 d a (fun v => v >>> sh.toNat) ∧
    Unary (.srai h d a sh) h 1 d a (fun v => v.sshiftRight sh.toNat) ∧
    Unary (.rori h d a sh) h 1 d a (fun v => v.rotateRight sh.toNat)

/-- R107: every CMP and CMPI that is ready writes its condition to predicate d and changes nothing else; a write to p0 is
discarded. R108, R136: every instruction of OP 0x0B and 0x0E that is ready writes this value to its predicate, mask or scalar and changes
nothing else; a write to p0 or g0 is discarded. -/
def Obligations.ComparesAndPredicatesAreRight : Prop :=
  (∀ (h : Head) (d : PReg) (a b : SReg) (x : ImmX) (imm : BitVec 7),
    let w := if x.present then 2 else 1
    Compares (.cmpEq h d a b) h d a b (fun u v => decide (u = v)) ∧
    Compares (.cmpNe h d a b) h d a b (fun u v => decide (u ≠ v)) ∧
    Compares (.cmpLt h d a b) h d a b (fun u v => decide (u.toInt < v.toInt)) ∧
    Compares (.cmpGe h d a b) h d a b (fun u v => decide (v.toInt ≤ u.toInt)) ∧
    Compares (.cmpLtu h d a b) h d a b (fun u v => decide (u.toNat < v.toNat)) ∧
    Compares (.cmpGeu h d a b) h d a b (fun u v => decide (v.toNat ≤ u.toNat)) ∧
    Compares (.cmpBits h d a b) h d a b (fun u v => decide (u &&& v ≠ 0)) ∧
    Compares (.cmpNbits h d a b) h d a b (fun u v => decide (u &&& v = 0)) ∧
    ComparesOne (.cmpiEq h x d a imm) h w d a (fun u => decide (u = immCmp x imm)) ∧
    ComparesOne (.cmpiNe h x d a imm) h w d a (fun u => decide (u ≠ immCmp x imm)) ∧
    ComparesOne (.cmpiLt h x d a imm) h w d a (fun u => decide (u.toInt < (immCmp x imm).toInt)) ∧
    ComparesOne (.cmpiGe h x d a imm) h w d a (fun u => decide ((immCmp x imm).toInt ≤ u.toInt)) ∧
    ComparesOne (.cmpiLtu h x d a imm) h w d a (fun u => decide (u.toNat < (immCmp x imm).toNat)) ∧
    ComparesOne (.cmpiGeu h x d a imm) h w d a (fun u => decide ((immCmp x imm).toNat ≤ u.toNat)) ∧
    ComparesOne (.cmpiBits h x d a imm) h w d a (fun u => decide (u &&& immCmp x imm ≠ 0)) ∧
    ComparesOne (.cmpiNbits h x d a imm) h w d a (fun u => decide (u &&& immCmp x imm = 0))) ∧
  ∀ (h : Head) (d a b : PReg) (md ma mb : MReg) (sd sa : SReg),
    Predicate (.pand h d a b) h d [a, b] (fun p => p a && p b) ∧
    Predicate (.por h d a b) h d [a, b] (fun p => p a || p b) ∧
    Predicate (.pxor h d a b) h d [a, b] (fun p => p a ^^ p b) ∧
    Predicate (.pandn h d a b) h d [a, b] (fun p => p a && !p b) ∧
    Predicate (.pnot h d a) h d [a] (fun p => !p a) ∧
    Predicate (.pmov h d a) h d [a] (fun p => p a) ∧
    Predicate (.pset h d) h d [] (fun _ => true) ∧
    Predicate (.pclr h d) h d [] (fun _ => false) ∧
    Masks (.mand h md ma mb) h md [ma, mb] (fun m => m ma &&& m mb) ∧
    Masks (.mor h md ma mb) h md [ma, mb] (fun m => m ma ||| m mb) ∧
    Masks (.mxor h md ma mb) h md [ma, mb] (fun m => m ma ^^^ m mb) ∧
    Masks (.mandn h md ma mb) h md [ma, mb] (fun m => m ma &&& ~~~m mb) ∧
    Masks (.mnot h md ma) h md [ma] (fun m => ~~~m ma) ∧
    Computes (.mset h md sa) h 1 (fun sl => ⟨[sid sl sa], [.m md]⟩) (fun _ => .m md) (fun x => .word (x.rs sa)) ∧
    MaskTo (.mget h sd ma) h sd ma (fun m => m) ∧
    MaskTo (.mpop h sd ma) h sd ma popW ∧
    MaskTo (.mfirst h sd ma) h sd ma ctzW

/-! ## Scalar floating point -/

/-- R109 to R111: FADD, FSUB, FMUL, FMA, FMIN, FMAX, FCVTI, FCVTF, FABS, FNEG and FCLASS that are ready write their FP32 or integer
result to d with d[63:32] zero or extended, OR their flags into FFLAGS, and change nothing else but the generator, when FTRAP enables
none of the flags. R109: FDIV
and FSQRT that are ready leave their result pending for d, written with its flags 14 cc after issue. That a clamp or a NaN of FCVTI raises NV
alone is the model's choice (log 8). R109: FEQ, FLT and FLE that are ready write the order of the two numbers to predicate d, false when one is NaN, and raise no
flag. -/
def Obligations.ScalarFloatIsRight : Prop :=
  (∀ (h : Head) (x : VecX) (d a b : SReg),
    Floats (.fadd h x d a b) h x d (usesRRR d a b) (fun r m y => fpAdd fp32 (r a) (r b) m false y) ∧
    Floats (.fsub h x d a b) h x d (usesRRR d a b) (fun r m y => fpSub fp32 (r a) (r b) m false y) ∧
    Floats (.fmul h x d a b) h x d (usesRRR d a b) (fun r m y => fpMul fp32 (r a) (r b) m false y) ∧
    Floats (.fma h x d a b) h x d (usesRRRd d a b) (fun r m y => fpFma fp32 false false (r a) (r b) (r d) m false y) ∧
    Floats (.fmin h x d a b) h x d (usesRRR d a b) (fun r _ y => (fpMinMax fp32 false (r a) (r b), y)) ∧
    Floats (.fmax h x d a b) h x d (usesRRR d a b) (fun r _ y => (fpMinMax fp32 true (r a) (r b), y)) ∧
    Floats (.fabs h x d a) h x d (usesRR d a) (fun r _ y => (fpAbs fp32 (r a), y)) ∧
    Floats (.fneg h x d a) h x d (usesRR d a) (fun r _ y => (fpNeg fp32 (r a), y)) ∧
    Floats (.fclass h x d a) h x d (usesRR d a) (fun r _ y => (fpClass (r a), y)) ∧
    Floats (.fcvti h x d a) h x d (usesRR d a) (fun r m y =>
      let v := roundToInt (if vxFmt x .f32 = .i64 then 64 else 32) (Num.ofBits fp32 (r a)) m y
      ((BitVec.ofInt 64 v.1).toNat, v.2)) ∧
    Forms (.fcvtf h x d a) h (vxWords x) (usesRR d a) (fun sl => sid sl d) false (fun c _ y =>
      let v := if vxFmt x .f32 = .i64 then (c.rs a).toInt else ((c.rs a).setWidth 32).toInt
      let r := round fp32 (Num.ofInt v) (c.mode (vxRm x)) false y
      (.word (BitVec.ofNat 64 r.1), r.2))) ∧
  (∀ (h : Head) (x : VecX) (d a b : SReg),
    FloatsLater (.fdiv h x d a b) h x d (usesRRR d a b) (fun r m y => fpDiv fp32 (r a) (r b) m false y) ∧
    FloatsLater (.fsqrt h x d a) h x d (usesRR d a) (fun r m y => fpSqrt fp32 (r a) m y)) ∧
  ∀ (h : Head) (x : VecX) (d : PReg) (a b : SReg),
    let ordered (p : Int → Bool) (c : Ctx) : RegVal :=
      .pred (((Num.ofBits fp32 (c.f32 a)).cmp (Num.ofBits fp32 (c.f32 b))).any p)
    let uses (sl : Fin 8) : Uses := ⟨[sid sl a, sid sl b], [.p sl d]⟩
    Computes (.feq h x d a b) h (vxWords x) uses (fun sl => .p sl d) (ordered fun v => decide (v = 0)) ∧
    Computes (.flt h x d a b) h (vxWords x) uses (fun sl => .p sl d) (ordered fun v => decide (v < 0)) ∧
    Computes (.fle h x d a b) h (vxWords x) uses (fun sl => .p sl d) (ordered fun v => decide (v ≤ 0))

/-! ## Branches and loops -/

/-- R112, R117, R373: a ready branch to an aligned target below 0x3_0000 goes there: B and JR leave the loop levels whose body does
not hold the target, JR returns from a trap, CALL and JALR write the return address (JALR reads a first), RET goes to t15; the target issues 2 cc after the branch,
and S later. Nothing else changes. R112: a branch whose target is not a multiple of 4 faults with LALIGN, and one at or above 0x3_0000 (or below 0) with LRANGE;
FADDR holds the target and the branch changes nothing. -/
def Obligations.BranchesGoToTheirTarget : Prop :=
  (∀ (h : Head) (off : BitVec 20) (d a : SReg) (s : State) (k : Core) (sl : Fin 8) (target : Word),
    let pc := (k.slot sl).pc
    let link : RegVal := .word (BitVec.ofNat 64 (pc + 4))
    let j := BitVec.ofInt 64 ((pc : Int) + 4 * off.toInt)
    target.toNat % 4 = 0 → target.toNat < 0x30000 →
    (Ready s h 1 usesNone k sl → j = target →
      Jumps (.b h off) s 1 k sl (fun u => u) ((k.slot sl).leaveLoops target.toNat) target.toNat true) ∧
    (Ready s h 1 (usesD (.t 15)) k sl → j = target →
      Jumps (.call h off) s 1 k sl (onCore fun q => q.takes (sid sl (.t 15)) link) (k.slot sl) target.toNat true) ∧
    (Ready s h 1 (usesA a) k sl → (ctxOf s 1 k sl).rs a = target →
      Jumps (.jr h a) s 1 k sl (onCore fun q => q.modSlot sl fun y => { y with intrap := false })
        ((k.slot sl).leaveLoops target.toNat) target.toNat true) ∧
    (Ready s h 1 (usesRR d a) k sl → (ctxOf s 1 k sl).rs a = target →
      Jumps (.jalr h d a) s 1 k sl (onCore fun q => q.takes (sid sl d) link) (k.slot sl) target.toNat true) ∧
    (Ready s h 1 (usesA (.t 15)) k sl → (ctxOf s 1 k sl).rs (.t 15) = target →
      Jumps (.ret h) s 1 k sl (fun u => u) (k.slot sl) target.toNat true)) ∧
  ∀ (h : Head) (off : BitVec 20) (d a : SReg) (s : State) (k : Core) (sl : Fin 8) (target : Word) (cause : Cause),
    let j := BitVec.ofInt 64 (((k.slot sl).pc : Int) + 4 * off.toInt)
    (target.toNat % 4 ≠ 0 ∧ cause = .lalign ∨ target.toNat % 4 = 0 ∧ 0x30000 ≤ target.toNat ∧ cause = .lrange) →
    (Ready s h 1 usesNone k sl → j = target → Faults (.b h off) s 1 k sl cause target) ∧
    (Ready s h 1 (usesD (.t 15)) k sl → j = target → Faults (.call h off) s 1 k sl cause target) ∧
    (Ready s h 1 (usesA a) k sl → (ctxOf s 1 k sl).rs a = target → Faults (.jr h a) s 1 k sl cause target) ∧
    (Ready s h 1 (usesRR d a) k sl → (ctxOf s 1 k sl).rs a = target → Faults (.jalr h d a) s 1 k sl cause target) ∧
    (Ready s h 1 (usesA (.t 15)) k sl → (ctxOf s 1 k sl).rs (.t 15) = target → Faults (.ret h) s 1 k sl cause target)

/-- R115: LoopEntry. A ready LOOP of `m` words whose body ends by 0x2_FFFC, whose level is inactive and whose body lies within that of
an active other level sets ls, le and lc; with count 0 it skips the body, and otherwise the level becomes active and inner. A body
that ends later faults with LRANGE, and a bad nesting with LOOPNEST; then no loop state changes. R116: the back-edge decision of a slot at an instruction whose last word is `w`. The inner level decides first: a level that is
active and ends at w with lc of at most 1 is left with lc 0, and the next level may decide; with a greater lc the slot goes on at its
start with lc one less; when no level goes on, the pc is w + 4. Nothing else of the slot changes. -/
def Obligations.LoopsAreRight : Prop :=
  (∀ (i : Instr) (h : Head) (m : Nat) (lv : Bool) (len : BitVec 13) (s : State) (k : Core) (sl : Fin 8) (n : Nat),
    ((∃ ca : SReg, i = .loopReg h lv ca len ∧ m = 1 ∧ Ready s h 1 (usesA ca) k sl ∧
        n = min ((ctxOf s 1 k sl).rs ca).toNat 0xFFFFFFFF) ∨
      ∃ (x : ImmX) (ca : BitVec 5), i = .loopImm h x lv ca len ∧ m = (if x.present then 2 else 1) ∧
        Ready s h (if x.present then 2 else 1) usesNone k sl ∧ n = loopCount x ca) →
    len ≠ 0 →
    let pc := (k.slot sl).pc
    let start := pc + 4 * m
    let last := start + 4 * (len.toNat - 1)
    let own : Fin 2 := if lv then 1 else 0
    let y := k.slot sl
    let other := y.loop[1 - own]
    let nested : Prop := (y.loop[own]).active = false ∧ (other.active = true → other.start ≤ start ∧ last ≤ other.last)
    (0x2FFFC < last → Faults i s m k sl .lrange (BitVec.ofNat 64 last)) ∧
    (last ≤ 0x2FFFC → ¬ nested → Faults i s m k sl .loopnest (BitVec.ofNat 64 pc)) ∧
    (last ≤ 0x2FFFC → nested → n = 0 →
      Jumps i s m k sl (onCore fun q => q.modSlot sl fun y => { y with ls := BitVec.ofNat 18 start, le := BitVec.ofNat 18 last })
        { y with lc := y.lc.set own 0 } (last + 4) false) ∧
    (last ≤ 0x2FFFC → nested → n ≠ 0 →
      Jumps i s m k sl (onCore fun q => q.modSlot sl fun y =>
          { y with ls := BitVec.ofNat 18 start, le := BitVec.ofNat 18 last, inner := own })
        { y with lc := y.lc.set own (BitVec.ofNat 32 n), loop := y.loop.set own ⟨true, start, last⟩ } start false)) ∧
  ∀ (x : Slot) (w : Nat) (i o : Fin 2), x.inner = i → o = 1 - i →
    let at_ (l : LoopLevel) : Prop := l.active = true ∧ l.last = w
    let keep (y : Slot) : Slot := { y with pc := x.pc, lc := x.lc, loop := x.loop }
    keep (x.backEdge w) = x ∧
    (at_ x.loop[i] → 1 < (x.lc[i]).toNat →
      (x.backEdge w).pc = (x.loop[i]).start ∧ (x.backEdge w).lc = x.lc.set i (x.lc[i] - 1) ∧ (x.backEdge w).loop = x.loop) ∧
    (at_ x.loop[i] → (x.lc[i]).toNat ≤ 1 → at_ x.loop[o] → 1 < (x.lc[o]).toNat →
      (x.backEdge w).pc = (x.loop[o]).start ∧ (x.backEdge w).lc = (x.lc.set i 0).set o (x.lc[o] - 1) ∧
      (x.backEdge w).loop = x.loop.set i { x.loop[i] with active := false }) ∧
    (at_ x.loop[i] → (x.lc[i]).toNat ≤ 1 → at_ x.loop[o] → (x.lc[o]).toNat ≤ 1 →
      (x.backEdge w).pc = w + 4 ∧ (x.backEdge w).lc = (x.lc.set i 0).set o 0 ∧
      (x.backEdge w).loop = (x.loop.set i { x.loop[i] with active := false }).set o { x.loop[o] with active := false }) ∧
    (at_ x.loop[i] → (x.lc[i]).toNat ≤ 1 → ¬ at_ x.loop[o] →
      (x.backEdge w).pc = w + 4 ∧ (x.backEdge w).lc = x.lc.set i 0 ∧
      (x.backEdge w).loop = x.loop.set i { x.loop[i] with active := false }) ∧
    (¬ at_ x.loop[i] → at_ x.loop[o] → 1 < (x.lc[o]).toNat →
      (x.backEdge w).pc = (x.loop[o]).start ∧ (x.backEdge w).lc = x.lc.set o (x.lc[o] - 1) ∧ (x.backEdge w).loop = x.loop) ∧
    (¬ at_ x.loop[i] → at_ x.loop[o] → (x.lc[o]).toNat ≤ 1 →
      (x.backEdge w).pc = w + 4 ∧ (x.backEdge w).lc = x.lc.set o 0 ∧
      (x.backEdge w).loop = x.loop.set o { x.loop[o] with active := false }) ∧
    (¬ at_ x.loop[i] → ¬ at_ x.loop[o] →
      (x.backEdge w).pc = w + 4 ∧ (x.backEdge w).lc = x.lc ∧ (x.backEdge w).loop = x.loop)


/-! ## Issue -/

/-- R61: every instruction whose guard is false has no effect: its slot goes on with the next instruction, after the back-edge
decision. -/
def Obligations.FalseGuardDoesNothing : Prop :=
  ∀ (i : Instr) (s : State) (k : Core) (sl : Fin 8), i.wf = true → Fetches s i.words k sl → GuardReads s i.head k sl →
    ((k.view s.fresh).getP sl i.head.gp == i.head.neg) = true → Completes i s i.words k sl fun u => u

/-- R75: every instruction that reads or writes a register whose scoreboarded write is outstanding is held at issue, whatever SCHK
says, and raises no fault. R73: with SCHK.EN set, every instruction that reads a register whose fixed-latency write has not landed in the
cycle in which it issues faults with STALL at its own address before it has any effect; for its guard also when the guard is false. One
that a condition of its own holds does not issue, and is held; the plain arithmetic instructions have none. -/
def Obligations.BusyRegistersHoldOrStall : Prop :=
  (∀ (i : Instr) (s : State) (k : Core) (sl : Fin 8) (r : RegId), i.wf = true → Fetches s i.words k sl → GuardReads s i.head k sl →
    ((k.view s.fresh).getP sl i.head.gp == i.head.neg) = false →
    r ∈ (usesOf i sl).reads ++ (usesOf i sl).writes → k.isPending r = true → HoldsBack i s true) ∧
  ∀ (i : Instr) (s : State) (k : Core) (sl : Fin 8), i.wf = true → Fetches s i.words k sl → (k.slot sl).schk = true →
    let pc := BitVec.ofNat 64 (k.slot sl).pc
    let early : Prop := i.head.gp ≠ 0 ∧ k.inFlight (.p sl i.head.gp) (s.cyc s.cur) = true
    let skips : Prop := ((k.view s.fresh).getP sl i.head.gp == i.head.neg) = true
    (early → skips → Faults i s i.words k sl .stall pc) ∧
    (¬ skips → (∀ q ∈ (usesOf i sl).reads ++ (usesOf i sl).writes, k.isPending q = false) →
      early ∨ (∃ r ∈ (usesOf i sl).reads, k.inFlight r (s.cyc s.cur) = true) →
      (HoldsBack i s false ∨ Faults i s i.words k sl .stall pc) ∧
      ∀ (h : Head) (d a b : SReg), i ∈ [Instr.add h d a b, .sub h d a b, .and h d a b, .or h d a b, .xor h d a b,
        .sll h d a b, .adds h d a b, .subs h d a b] → Faults i s i.words k sl .stall pc)

/-- R193, R190, R376, R369: the words of an instruction are checked first, TFETCH before UEFETCH, each with the address of the first
word that fails; then, unless its guard is false or a condition of its own holds it, an uncorrectable register that it reads faults with
UEREG. R69, R70, R113: words that are no instruction fault with their decode cause at their own address, and a pc at or past 0x3_0000
faults with LRANGE and FADDR 0x3_0000; nothing is performed, and the resume address is the pc. -/
def Obligations.BadFetchesFault : Prop :=
  (∀ (i : Instr) (s : State) (k : Core) (sl : Fin 8), i.wf = true → (s.atIssue sl i.words).core? s.cur = some k →
    (s.core? s.cur).bind Core.running = some sl →
    let pc := (k.slot sl).pc
    let readable (j : Nat) : Prop := k.tables.byteAllowed false (pc + 4 * j) = true
    let sound (j : Nat) : Prop := (pc + 4 * j) / 8 ∉ k.badWords
    (∀ j, j < i.words → ¬ readable j → (∀ m, m < j → readable m) →
      Faults i s i.words k sl .tfetch (BitVec.ofNat 64 (pc + 4 * j))) ∧
    (∀ j, (∀ m, m < i.words → readable m) → j < i.words → ¬ sound j → (∀ m, m < j → sound m) →
      Faults i s i.words k sl .uefetch (BitVec.ofNat 64 (pc + 4 * j))) ∧
    ∀ r ∈ (usesOf i sl).reads, r ∈ k.regs.badRegs → (∀ j, j < i.words → readable j ∧ sound j) → GuardReads s i.head k sl →
      ((k.view s.fresh).getP sl i.head.gp == i.head.neg) = false →
      (∀ q ∈ (usesOf i sl).reads ++ (usesOf i sl).writes, k.isPending q = false) →
      ((k.slot sl).schk = false ∨ ∀ q ∈ (usesOf i sl).reads, k.inFlight q (s.cyc s.cur) = false) →
      (HoldsBack i s false ∨ Faults i s i.words k sl .uereg (BitVec.ofNat 64 pc)) ∧
      ∀ (h : Head) (d a b : SReg), i ∈ [Instr.add h d a b, .sub h d a b, .and h d a b, .or h d a b, .xor h d a b,
        .sll h d a b, .adds h d a b, .subs h d a b] → Faults i s i.words k sl .uereg (BitVec.ofNat 64 pc)) ∧
  ∀ (s : State) (k : Core) (sl : Fin 8), s.core? s.cur = some k → k.running = some sl →
    let pc := (k.slot sl).pc
    let w := k.words s.fresh pc
    let n := if prefixOk w.1 w.2 ((k.slot sl).endsBody pc) then 2 else 1
    let u := s.modCore s.cur fun q => q.injectRead pc (4 * n)
    (∀ f : DecodeFault, (∀ q, u.core? s.cur = some q → q.fetchFault pc n = none) → f ≠ .illcsr ∨ (k.slot sl).schk = false →
      exec (.notAnInstruction f) s = .next ((u.modCore s.cur fun q => q.issued sl (s.cyc s.cur) 0).faultSlot s.cur sl
        (match f with
          | .illop => .illop | .illfn => .illfn | .illfmt => .illfmt | .rsvbits => .rsvbits | .longform => .longform
          | .illcsr => .illcsr) (FaultInfo.here (BitVec.ofNat 64 pc) pc))) ∧
    (0x30000 ≤ pc → exec .fetchPastLocalStore s =
      .next ((s.modCore s.cur fun q => q.issued sl (s.cyc s.cur) 0).faultSlot s.cur sl .lrange (FaultInfo.here 0x30000 pc)))


/-! ## System instructions and control registers -/

/-- R125: TRAP that is ready faults with SWTRAP, of group 0x7, at its own address, with FADDR := a, by the shared operation of every fault
(`FaultsTrapOrKill` says what that does); with a false guard it does nothing. Its words have OP 0x14, FN 4 and D = B = 0. -/
def Obligations.TrapRaisesSwtrap : Prop :=
  (Cause.code .swtrap / 16 = 7) ∧
  (∀ (h : Head) (a : SReg) (s : State) (k : Core) (sl : Fin 8), Ready s h 1 (usesA a) k sl →
    Faults (.trap h a) s 1 k sl .swtrap ((ctxOf s 1 k sl).rs a)) ∧
  (∀ (h : Head) (a : SReg) (s : State) (k : Core) (sl : Fin 8), Fetches s 1 k sl → GuardReads s h k sl →
    ((k.view s.fresh).getP sl h.gp == h.neg) = true → Completes (.trap h a) s 1 k sl fun u => u) ∧
  ∀ (n : Nat) (next : Option Nat) (ends : Bool), n < 32 →
    decode (0x14000004 + 1024 * n) next ends = .ok (.trap Head.default (Sys2Proof.sregOf n))

/-- R127: NOP changes nothing but the pc, and is the word 0x1400_0006; the words of YIELD, END and ISYNC without guard or S are
0x1400_0002, 0x1400_0003 and 0x1400_0005. -/
def Obligations.NopChangesNothing : Prop :=
  (∀ (h : Head) (s : State) (k : Core) (sl : Fin 8), Ready s h 1 usesNone k sl → Completes (.nop h) s 1 k sl fun u => u) ∧
  ∀ (next : Option Nat) (ends : Bool),
    decode 0x14000006 next ends = .ok (.nop Head.default) ∧ decode 0x14000002 next ends = .ok (.yield Head.default) ∧
    decode 0x14000003 next ends = .ok (.endTask Head.default) ∧ decode 0x14000005 next ends = .ok (.isync Head.default)

/-- R120 to R123, R126, R192, R217: WAIT with nothing outstanding and WAITA with a satisfying word go on with their result in d; otherwise the
slot is WAITING with its limit. A WAIT is held while a store of its slot would be performed after its next issue. WAITA checks alignment and
range first, waits like a load for the slot's earlier stores, and traps on an uncorrectable word. YIELD makes the slot READY
with its priority kept and its age restarted, after every other slot of its priority that is READY by then. ISYNC waits for the slot's stores and for its writes through the own window, and discards the fetch buffer. -/
def Obligations.WaitsEndOrSuspend : Prop :=
  ∀ (h : Head) (o : OrdX) (d a b : SReg) (s : State) (k : Core) (sl : Fin 8),
    let limit (n : Word) : Option Nat := if n = 0 then none else some (s.timeNs + n.toNat)
    let suspend (w : Wait) (q : Core) : Core := q.leave.modSlot sl fun y => { y with st := .waiting, wait := some w }
    let n := if o.present then 2 else 1
    let addr := (ctxOf s n k sl).rs a
    let bound := (ctxOf s n k sl).rs b
    let p := addr.toNat
    let word := BitVec.ofNat 64 (((k.injectRead p 8).memView sl).readLE p 8)
    let late : Prop := ∃ b ∈ k.stores, b.slot = sl ∧ s.cyc s.cur + 1 < b.due
    (Ready s h 1 (usesRR d a) k sl → late → HoldsBack (.wait h d a) s false) ∧
    (Ready s h 1 (usesRR d a) k sl → ¬ late → k.outstanding sl = false →
      Completes (.wait h d a) s 1 k sl (onCore fun q => q.takes (sid sl d) (.word 0))) ∧
    (Ready s h 1 (usesRR d a) k sl → ¬ late → k.outstanding sl = true →
      Completes (.wait h d a) s 1 k sl (onCore (suspend (.all d (limit ((ctxOf s 1 k sl).rs a)))))) ∧
    (Ready s h n (usesRRRd d a b) k sl → k.scopeOk (ordOf o).2 = true →
      (p % 8 ≠ 0 → Faults (.waita h o d a b) s n k sl .lalign addr) ∧
      (p % 8 = 0 → 0x30000 ≤ p → Faults (.waita h o d a b) s n k sl .lrange addr) ∧
      (p % 8 = 0 → p < 0x30000 → k.localHold s.cur sl p 8 false = false → k.readHold sl (s.cyc s.cur) = false →
        ((k.injectRead p 8).badView sl p 8 ≠ none →
          FaultsAfter (.waita h o d a b) h s n k sl (onCore fun q => q.injectRead p 8) .uels addr) ∧
        ((k.injectRead p 8).badView sl p 8 = none → bound.toNat ≤ word.toNat →
          Completes (.waita h o d a b) s n k sl (onCore fun q => (q.injectRead p 8).takes (sid sl d) (.word word))) ∧
        ((k.injectRead p 8).badView sl p 8 = none → word.toNat < bound.toNat →
          Completes (.waita h o d a b) s n k sl
            (onCore fun q => suspend (.word d (limit ((ctxOf s n k sl).rs d)) p bound) (q.injectRead p 8))))) ∧
    (Ready s h 1 usesNone k sl →
      Completes (.yield h) s 1 k sl (onCore fun q => { q.leave.modSlot sl fun y =>
        { y with st := .ready, ageFrom := s.cyc s.cur, readyAt := s.cyc s.cur, wait := none } with yielded := some sl })) ∧
    (Ready s h 1 usesNone k sl →
      let writes : Prop := (∃ b ∈ k.stores, b.slot = sl) ∨
        ∃ r ∈ k.reqs, r.slot = sl ∧ r.rid.getLsbD 21 = false ∧ r.wr = true ∧ r.home = .core s.cur ∧ r.op.writesStore = true
      (writes → HoldsBack (.isync h) s false) ∧
      (¬ writes → Completes (.isync h) s 1 k sl (onCore fun q => { q with stale := [] })))

/-- R124, R254, R255, R256, R314, R358, R373: a ready END clears INTRAP. With work outstanding and no membership the slot is DRAINING. A membership is
dropped by a request with its count and UNREG, once its latch and the acquires of the slot allow, and until its acknowledgement the slot is
DRAINING. Without work and memberships, a held entry goes back to its home, in another core's window by TRET, or by TUNSH for a shared one, and
until the reply the slot is DRAINING; a LOST entry is removed. With none of these the slot is FREE: a HOME region that it declared with REL is
freed, and a held message may take a slot. Nothing else changes. -/
def Obligations.EndDrainsOrFrees : Prop :=
  ∀ (h : Head) (s : State) (k : Core) (sl : Fin 8), Ready s h 1 usesNone k sl →
    let c := s.cur
    let done (e : State → State) : Prop :=
      ∃ t f, exec (.endTask h) s = .next t ∧ t.placeless sl = (e (s.seen sl 1 f)).placeless sl
    let ends (q : Core) : Core := q.leave.modSlot sl fun y => { y with st := .draining, ended := true, intrap := false }
    let frees (q : Core) : Core := q.leave.modSlot sl fun y =>
      { y with st := .free, killed := false, ended := false, wait := none, intrap := false }
    let drains (f : Core → Prop) : Prop := ∃ t q, exec (.endTask h) s = .next t ∧ t.core? c = some q ∧ (q.slot sl).st = .draining ∧
      (q.slot sl).ended = true ∧ (q.slot sl).intrap = false ∧ (∀ r, r ≠ sl → q.slot r = k.slot r) ∧ f q
    let members := k.tables.members.filter fun e => decide (e.2.slot = sl)
    let held := k.tables.held.filter fun e => decide (e.2.slot = sl)
    (members = [] → k.working sl = true → done (onCore ends)) ∧
    (∀ i m, (k.slot sl).killed = false → members = [(i, m)] → (∀ e ∈ k.tables.members, e.1 = i → e.2.slot = sl) → k.overlapHold sl m.addr 16 true = false → k.acqHold c sl (.core (peerCore m.addr)) = false →
      k.reqFree = true →
      let u (f : Nat) : State := (s.seen sl 1 f).modCore c fun q => { ends q with tables := { q.tables with members := adel i q.tables.members } }
      ∀ y, (∀ f, (u f).remAddr c (ends k) m.addr 1 true = .ok y) → drains fun q => q.tables.members = adel i k.tables.members ∧
        ∃ r ∈ q.reqs, r.home = y.home ∧ r.slot = sl ∧ r.op = .latch .endDrop y.addr (BitVec.ofNat 64 (m.count + 2 ^ 16))) ∧
    ((k.slot sl).killed = false → members = [] → k.working sl = false → ∀ i x, held = [(i, x)] → (∀ e ∈ k.tables.held, e.1 = i → e.2.slot = sl) → x.lost = false → x.reserved = false → k.reqFree = true →
      x.base * 256 < peerBase c ∨ peerBase c + 0x30000 ≤ x.base * 256 →
      let u (f : Nat) : State := (s.seen sl 1 f).modCore c fun q => (ends q).dropHeld i
      ∀ y, (∀ f, (u f).remAddr c (ends k) (x.base * 256) 1 true = .ok y) → drains fun q => q.tables.held = (k.dropHeld i).tables.held ∧
        ∃ r ∈ q.reqs, r.home = y.home ∧ r.slot = sl ∧ r.op =
          if x.kind = 0 then .tok .ret y.addr (x.base * 256) 0 (some x.epoch) 0 else .tok .unsh y.addr (x.base * 256) 0 (some x.epoch) x.kind) ∧
    (members = [] → k.working sl = false → (s.partOf k).killing = none →
      ((∀ e ∈ k.tables.home, e.2.rel = false) →
        (held = [] → k.tables.msgs = [] → done (onCore frees)) ∧
        (held = [] → done fun u => (onCore frees u).dispatchHeld c) ∧
        (∀ i x, held = [(i, x)] → (∀ e ∈ k.tables.held, e.1 = i → e.2.slot = sl) → x.lost = true → k.tables.msgs = [] → done (onCore fun q => frees (q.dropHeld i)))) ∧
      (∀ i e, held = [] → k.tables.msgs = [] → k.tables.home = [(i, e)] → e.rel = true → e.dslot = sl → e.st = .home → e.parent = none →
        e.granting = false → e.holders = [] → done (onCore fun q => frees { q with tables := { q.tables with home := [] } })))

/-- R128, R129, R77: CSRW, CSRS and CSRC return the old value and write what they form of it; CSRS and CSRC with g0 write nothing. A CSR
instruction on FFLAGS waits until the slot's earlier work is done, and one on AMAX sees the drains that are due. RNGGET takes one value of
the core's generator (R57, R58, R361). R97, R98, R128, R39: what a control register reads after a write of `v`: its assigned bits of `v`, reserved bits 0; FRM keeps its value
for the codes 5 to 7; a read-only register keeps its value. No other control register changes. -/
def Obligations.ControlRegistersAreRight : Prop :=
  (∀ (h : Head) (d a : SReg) (csr : BitVec 10) (i : Instr) (form : Word → Word → Word) (always : Bool),
    (i = .csrw h d a csr ∧ always = true ∧ (∀ x y, form x y = y) ∨ i = .csrs h d a csr ∧ always = false ∧ (∀ x y, form x y = x ||| y) ∨
      i = .csrc h d a csr ∧ always = false ∧ (∀ x y, form x y = x &&& ~~~y)) →
    ∀ (s : State) (k : Core) (sl : Fin 8),
    (Ready s h 1 (usesRR d a) k sl →
      let cyc := s.cyc s.cur
      let now (q : Core) : Core := if csr = 0x030 then q.amaxApply cyc else q
      let old := s.readCsr s.cur (now k) sl csr.toNat
      let new (q : Core) : Core :=
        if always = true ∨ a ≠ .g 0 then (now q).writeCsr sl csr.toNat (form old ((ctxOf s 1 k sl).rs a)) else now q
      (csr = 0 → k.flagsBusy sl = true → HoldsBack i s false) ∧
      (csr ≠ 0 ∨ k.flagsBusy sl = false →
        ∃ t f, exec i s = .next t ∧
          Reaches t (onCore (fun q => (new q).takes (sid sl d) (.word old)) (s.seen sl 1 f)) sl
            (((new k).slot sl).backEdge (k.slot sl).pc))) ∧
    (Ready s h 1 (usesD d) k sl →
      Completes (.rngget h d) s 1 k sl (onCore fun q =>
        (q.setRng k.regs.rng.next.2).takes (sid sl d) (.word (k.regs.rng.next.1.setWidth 64))))) ∧
  ∀ (s : State) (c : Nat) (k : Core) (sl : Fin 8) (v : Word),
    let after (n m : Nat) : Word := s.readCsr c (k.writeCsr sl n v) sl m
    (∀ n ∈ [0x000, 0x002], after n n = v &&& 0x3F) ∧
    after 0x001 0x001 = (if 4 < v.toNat % 8 then s.readCsr c k sl 0x001 else v &&& 7) ∧
    after 0x003 0x003 = v &&& 1 ∧
    (∀ n ∈ [0x004, 0x005, 0x030, 0x052], after n n = v &&& 0xFFFFFFFF) ∧
    (∀ n ∈ [0x006, 0x007], after n n = v &&& 0x3FFFC) ∧
    after 0x008 0x008 = v &&& 0xFF ∧
    (∀ n ∈ [0x009, 0x020, 0x021, 0x053, 0x054, 0x055, 0x056], after n n = v) ∧
    after 0x022 0x022 = v &&& 0xF ∧
    after 0x040 0x040 = v &&& 0x007FFF0000FF070F ∧
    (∀ n ∈ [0x00A, 0x010, 0x011, 0x012, 0x013, 0x014, 0x050, 0x051], k.writeCsr sl n v = k) ∧
    ∀ n m, n ≠ m → after n m = s.readCsr c k sl m

/-! ## Traps -/

/-- R370: the fields of a fault report. -/
def Obligations.FaultReportFieldsAreRight : Prop :=
  ∀ (s : State) (c : Nat) (sl : Fin 8) (code : Nat) (kill core drn : Bool) (f : FaultInfo), code < 256 → c < 2 ^ 18 → f.rpc < 2 ^ 18 →
    let r := s.report c sl code kill core drn f
    (r[0].extractLsb' 56 8).toNat = code ∧ r[0].getLsbD 55 = f.unk ∧ r[0].getLsbD 54 = kill ∧ r[0].getLsbD 53 = core ∧
    r[0].getLsbD 52 = drn ∧ (r[0].extractLsb' 49 3).toNat = sl.val ∧ r[0].extractLsb' 47 2 = 0 ∧
    (r[0].extractLsb' 29 18).toNat = f.rpc ∧ r[0].extractLsb' 18 11 = 0 ∧
    (r[0].extractLsb' 9 9).toNat = (s.physOf c).2 ∧ (r[0].extractLsb' 0 9).toNat = (s.physOf c).1 ∧
    r[1] = f.faddr ∧
    r[2].extractLsb' 32 32 = s.mgr.bindgen ∧ (r[2].extractLsb' 14 18).toNat = c ∧ r[2].extractLsb' 8 6 = 0 ∧ r[2].extractLsb' 0 8 = f.inc ∧
    r[3].extractLsb' 32 32 = f.ser ∧ r[3].extractLsb' 10 22 = f.rid ∧ r[3].extractLsb' 0 10 = 0

/-- R372: a fault of a slot that is READY, RUNNING or WAITING, outside a trap and with door 31 dispatchable, enters the trap: TCAUSE, FADDR,
the pc from door 31, the report in t0 to t3, the message word in t4, TASKINFO, INTRAP, READY with its age restarted; its unwritten requests
to the special-function unit, undispatched matrix commands and waiting copies are cancelled, t0 to t4 lose their bad bits; only group 0x8 is logged. Everything else
of the slot, its core and the machine stays.
R372, R374: a fault in a trap, or with door 31 not dispatchable, is logged with KILL and begins the kill of the slot; a fault of a DRAINING
slot is logged with DRN, and kills unless its cause is arithmetic; work issued before the latest trap entry, or in its cycle, is logged with CORE and changes
nothing else. -/
def Obligations.FaultsTrapOrKill : Prop :=
  (∀ (s : State) (c : Nat) (sl : Fin 8) (cause : Cause) (f : FaultInfo) (k : Core), s.core? c = some k →
     (k.slot sl).st ∈ [.ready, .running, .waiting] → (k.slot sl).intrap = false → doorOpen (vat k.tables.doors 31 0) = true →
     (∀ i t, f.issued = some i → (k.slot sl).trapAt = some t → t < i) →
     let d := vat k.tables.doors 31 0
     let rep := s.report c sl cause.code false false false f
     let m : Word := (0 : BitVec 22) ++ (3 : BitVec 2) ++ (32 : BitVec 6) ++ (31 : BitVec 5) ++ s.timeUs ++ (0 : BitVec 13)
     let left := if (k.slot sl).st = .running then k.leave else k
     let q := (left.cancelWork sl (s.cyc c)).clearT sl fun n => decide (n.val < 5)
     let q' := q.modSlot sl fun x => { x with
       tcause := BitVec.ofNat 8 cause.code, faddr := f.faddr, pc := 4 * (d.extractLsb' 0 16).toNat
       t := ((((x.t.set 0 rep[0]).set 1 rep[1]).set 2 rep[2]).set 3 rep[3]).set 4 m
       door := 31, prio := d.extractLsb' 28 2, intrap := true, st := .ready, ageFrom := s.cyc c, readyAt := s.cyc c, wait := none
       stopped := false, trapAt := some (s.cyc c) }
     let t := s.modCore c fun _ => q'
     s.faultSlot c sl cause f = if cause.code / 16 = 8 then t.logReport rep else t) ∧
  ∀ (s : State) (c : Nat) (sl : Fin 8) (cause : Cause) (f : FaultInfo) (k : Core), s.core? c = some k →
    let x := k.slot sl
    let early : Prop := ∃ i t, f.issued = some i ∧ x.trapAt = some t ∧ i ≤ t
    let live : Prop := x.st = .ready ∨ x.st = .running ∨ x.st = .waiting
    let rep (kill core drn : Bool) := s.report c sl cause.code kill core drn f
    (early → s.faultSlot c sl cause f = s.logReport (rep false true false)) ∧
    (¬ early → x.st = .draining → cause.code / 16 = 4 → s.faultSlot c sl cause f = s.logReport (rep false true true)) ∧
    (¬ early → x.st = .draining → cause.code / 16 ≠ 4 → s.faultSlot c sl cause f = (s.logReport (rep true false true)).kill c sl) ∧
    (¬ early → live → x.intrap = true ∨ doorOpen (vat k.tables.doors 31 0) = false →
      s.faultSlot c sl cause f = (s.logReport (rep true false false)).kill c sl) ∧
    (live → x.killed = false → ∃ q, (s.kill c sl).core? c = some q ∧ (q.slot sl).st = .draining ∧ (q.slot sl).killed = true ∧
      q.sfu = k.sfu.filter (fun r => decide (r.slot ≠ sl)) ∧ (∀ r, r ≠ sl → q.slot r = k.slot r) ∧ q.mem = k.mem ∧ q.reqs = k.reqs) ∧
    ∀ r, (s.logReport r).mgr.logseq = s.mgr.logseq + 1 ∧ aget (s.mgr.logseq % 4096) (s.logReport r).mgr.log = some r

/-- R114, R135, R152, R162, R369: an instruction whose flags FTRAP enables completes, and then traps with the lowest of their causes: NV, DZ, OF, UF,
SAT, NX; FADDR is its address. A fixed-latency form, saturating or floating-point, scalar or vector, writes what it writes without the trap, and
traps in its issue cycle (DESIGN CHOICE of log 63), with the next instruction's address to resume at; its flags are those with which the same
form completes. A scoreboarded result, FDIV, FSQRT, the conversions, reductions and block forms among them, traps when RESULT_WRITE has written
it, a result of the special-function unit at SFU_RESULT_WRITE, and a matrix command at MATRIX_COMPLETION, each by the FTRAP of its issue, with
the slot's pc to resume at. -/
def Obligations.EnabledFlagsTrap : Prop :=
  (∀ fl : BitVec 6, trapCause fl = if fl.getLsbD 4 then some .nvtrap else if fl.getLsbD 3 then some .dztrap
    else if fl.getLsbD 2 then some .oftrap else if fl.getLsbD 1 then some .uftrap else if fl.getLsbD 5 then some .sattrap
    else if fl.getLsbD 0 then some .nxtrap else none) ∧
  (∀ (h : Head) (x : VecX) (d a b : SReg) (vd va vb : VNum) (mk : MaskX),
    let sat (v : Int) (y : Fx) : RegVal × Fx := (.word (sat64 v).1, ⟨y.rng, (sat64 v).2⟩)
    let fp (f : (SReg → Nat) → RMode → Fx → Nat × Fx) (c : Ctx) (_ : Core) (y : Fx) : RegVal × Fx :=
      (.word (BitVec.ofNat 64 (f c.f32 (c.mode (vxRm x)) y).1), (f c.f32 (c.mode (vxRm x)) y).2)
    FormsTrap (.adds h d a b) h 1 (usesRRR d a b) (fun sl => sid sl d) false (fun c _ y => sat ((c.rs a).toInt + (c.rs b).toInt) y) ∧
    FormsTrap (.subs h d a b) h 1 (usesRRR d a b) (fun sl => sid sl d) false (fun c _ y => sat ((c.rs a).toInt - (c.rs b).toInt) y) ∧
    FormsTrap (.fadd h x d a b) h (vxWords x) (usesRRR d a b) (fun sl => sid sl d) false
      (fp fun r m y => fpAdd fp32 (r a) (r b) m false y) ∧
    FormsTrap (.fmul h x d a b) h (vxWords x) (usesRRR d a b) (fun sl => sid sl d) false
      (fp fun r m y => fpMul fp32 (r a) (r b) m false y) ∧
    FormsTrap (.vaddF32 h x vd va vb mk) h (vxWords x) (usesV x vd va vb mk false) (fun _ => .v vd) true (fun c k y =>
      lanesBy 32 (c.mask mk) (k.getV vd) (fun e y =>
        fpAdd fp32 (vecElem 32 (c.rd.getV va).lanes e) (vecElem 32 (c.vb x vb).lanes e) (c.mode (vxRm x)) (vxSat x) y) y) ∧
    ∀ i ∈ [Instr.fsub h x d a b, .fma h x d a b, .fcvti h x d a, .fcvtf h x d a, .vaddsI32 h x vd va vb mk, .vsubsI32 h x vd va vb mk,
        .vaddsI16 h x vd va vb mk, .vsubsI16 h x vd va vb mk, .vaddsI8 h x vd va vb mk, .vsubsI8 h x vd va vb mk,
        .vsubF32 h x vd va vb mk, .vmulF32 h x vd va vb mk, .vfmaF32 h x vd va vb mk, .vfmsF32 h x vd va vb mk, .vfnmaF32 h x vd va vb mk,
        .vaddBf16 h x vd va vb mk, .vsubBf16 h x vd va vb mk, .vmulBf16 h x vd va vb mk, .vfmaBf16 h x vd va vb mk,
        .vaddE4m3 h x vd va vb mk, .vsubE4m3 h x vd va vb mk, .vmulE4m3 h x vd va vb mk, .vaddE5m2 h x vd va vb mk,
        .vsubE5m2 h x vd va vb mk, .vmulE5m2 h x vd va vb mk], ∃ dst pipe f,
      Forms i h i.words (usesOf i) dst pipe f ∧ FormsTrap i h i.words (usesOf i) dst pipe f) ∧
  ∀ (s : State) (c : Nat) (k : Core), s.core? c = some k →
    let traps (t : State) (sl : Fin 8) (cause : Cause) (pc issued : Nat) : State := (t.faultSlot c sl cause
      ⟨BitVec.ofNat 64 pc, (((t.core? c).map fun q => (q.slot sl).pc).getD 0), some issued, false, 0, 0, 0⟩).settleWaits c
    (∀ r cause, (k.results.find? fun e => decide (e.id = r.id) && decide (e.due ≤ s.cyc c)) = some r →
      trapCause (r.flags &&& r.trapEn) = some cause →
      exec (.resultWrite c r.id) s = .next (traps (s.modCore c fun q => ({ q.setReg r.reg r.val with
        results := q.results.filter fun e => decide (e.id ≠ r.id) } : Core).orFlags r.slot r.flags) r.slot cause r.pc r.issued)) ∧
    (∀ q post cause, k.sfu = q :: post → q.start.isSome → q.writeAt ≤ s.cyc c → k.sfuWrite ≤ s.cyc c →
      trapCause (q.flags &&& q.trapEn) = some cause →
      exec (.sfuResultWrite c) s = .next (traps (s.modCore c fun p => (({ p.setReg (.v q.d) (.vec q.result) with
        sfu := post, sfuWrite := s.cyc c + 1, issueFrom := s.cyc c + 1 } : Core).count 9 1).orFlags q.slot q.flags) q.slot cause q.pc q.issued)) ∧
    ∀ m cause, (k.matrix.find? fun e => e.dispatched && decide (e.completeAt ≤ s.cyc c) && decide (e.id = m.id)) = some m →
      let k1 := (m.cmd.ranges.foldl (fun q e => q.injectRead e.1 e.2) k).amaxApply (s.cyc c)
      let r := k1.matrixWrite s.fresh m
      k1.badRanges m.cmd.ranges = none → trapCause (r.2 &&& m.trapEn) = some cause →
      exec (.matrixCompletion c m.id) s = .next (traps { s.modCore c (fun _ => ({ r.1 with
        matrix := r.1.matrix.filter fun e => decide (e.id ≠ m.id) } : Core).orFlags m.slot r.2) with fresh := s.fresh + 1 } m.slot cause m.pc m.issued)

/-! ## Local memory -/

/-- R196 to R200: LD, VLD, VGATH and QLD that are ready and pass their checks leave pending for d the bytes at their addresses, the slot's
own earlier stores included, as they are at issue (DESIGN CHOICE of log 64), once no earlier store of the slot is due later than 2 cc from then,
3, 4, occ + 4 and 5 cc after issue; LD extends them as SZ says, VLD and VGATH keep the header, VGATH the
disabled lanes, QLD drops the reserved bits 63:42 of its header (R3). Nothing else changes. -/
def Obligations.LocalLoadsReturnTheirBytes : Prop :=
  ∀ (h : Head) (x : ImmX) (d a b : SReg) (sz : LdSize) (off : BitVec 7) (vd vb : VNum) (mk : MaskX),
    let w := if x.present then 2 else 1
    let i32 (bs : List Byte) (i : Nat) : Lane := BitVec.ofNat 32 (ofBytes ((bs.drop (4 * i)).take 4))
    LoadsLocal (.ld h x d a sz off) h w (usesRR d a) (fun sl => sid sl d)
      (fun c => c.rs a + offM x off * BitVec.ofNat 64 (ldBytes sz)) (ldBytes sz) (ldBytes sz) 3
      (fun _ bs => .word (ldExtend sz (ofBytes bs))) ∧
    LoadsLocal (.vld h x vd a off) h w (fun sl => ⟨[sid sl a], [.v vd]⟩) (fun _ => .v vd) (fun c => c.rs a + offM x off * 256) 16 256 4
      (fun q bs => .vec { q.getV vd with lanes := vgen fun i => i32 bs i.val }) ∧
    (∀ (i : Instr) (n : Nat), (i = .vgathI32 h vd a vb mk ∧ n = 4 ∨ i = .vgathI16 h vd a vb mk ∧ n = 2) →
      ∀ (s : State) (k : Core) (sl : Fin 8), Ready s h 1 (fun sl => ⟨[sid sl a, .v vb] ++ maskRegs mk, [.v vd]⟩) k sl →
      let c := ctxOf s 1 k sl
      let on := (List.range 64).filter fun e => (c.mask mk).getLsbD e
      let addr (e : Nat) : Word := c.rs a + (vat (c.rd.getV vb).lanes e 0).signExtend 64
      let read (q : Core) : Core := on.foldl (fun q e => q.injectRead (addr e).toNat n) q
      (∀ e ∈ on, k.localCheck false (addr e) n n = none ∧ k.localHold s.cur sl (addr e).toNat n false = false ∧
        (read k).badView sl (addr e).toNat n = none) → k.readHold sl (s.cyc s.cur) = false →
      Completes i s 1 k sl fun u => onCore (fun q => { read q with results := q.results ++
        [⟨u.nextId, sl, .v vd, .vec { q.getV vd with
            lanes := vgen fun e =>
              if (c.mask mk).getLsbD e.val then BitVec.ofNat 32 (((read q).memView sl).readLE (addr e.val).toNat n)
              else (q.getV vd).lanes[e] },
          s.cyc s.cur + (gatherOcc (on.map fun e => (e, addr e)) + 4), s.cyc s.cur, 0, (k.slot sl).ftrap, (k.slot sl).pc, true⟩] }) u) ∧
    ∀ (i : Instr) (w : Nat), (i = .qldQb8 h vd a b ∧ w = 8 ∨ i = .qldQb4 h vd a b ∧ w = 4) →
      ∀ (s : State) (k : Core) (sl : Fin 8), Ready s h 1 (fun sl => ⟨[sid sl a, sid sl b], [.v vd]⟩) k sl →
      let p := ((ctxOf s 1 k sl).rs a)
      let r := ((ctxOf s 1 k sl).rs b)
      k.planeCheck false p r (8 * w) = none → k.localHold s.cur sl p.toNat (8 * w) false = false →
      k.localHold s.cur sl r.toNat 8 false = false → k.readHold sl (s.cyc s.cur) = false →
      let one (q : Core) : Core := q.injectRead p.toNat (8 * w)
      let both (q : Core) : Core := (one q).injectRead r.toNat 8
      (one k).badView sl p.toNat (8 * w) = none → (both k).badView sl r.toNat 8 = none →
      let m := (k.memView sl).readLE p.toNat (8 * w)
      Completes i s 1 k sl fun u => onCore (fun q => { both q with results := q.results ++
        [⟨u.nextId, sl, .v vd, .vec ⟨vgen fun e => BitVec.ofInt 32 (BitVec.ofNat w (m / 2 ^ (w * e.val))).toInt,
            BitVec.ofNat 64 ((k.memView sl).readLE r.toNat 8 % 2 ^ 42)⟩,
          s.cyc s.cur + 5, s.cyc s.cur, 0, (k.slot sl).ftrap, (k.slot sl).pc, true⟩] }) u

/-- R196, R198 to R200: ST, VST, VSCAT and QST that are ready and pass their checks buffer their bytes for their addresses, to be performed
2, 2, occ + 2 and 3 cc after issue, or with the last of the slot's earlier stores; no byte of memory and nothing else changes at issue. -/
def Obligations.LocalStoresAreBuffered : Prop :=
  ∀ (h : Head) (x : ImmX) (d a b : SReg) (sz : StSize) (off : BitVec 7) (vd vb : VNum) (mk : MaskX),
    let w := if x.present then 2 else 1
    let bytes (l : Lane) (n : Nat) : List Byte := (List.range n).map fun j => l.extractLsb' (8 * j) 8
    StoresLocal (.st h x d a sz off) h w (usesAB d a) (fun c => c.rs a + offM x off * BitVec.ofNat 64 (stBytes sz)) (stBytes sz) (stBytes sz)
      2 (fun c => (List.range (stBytes sz)).map fun j => (c.rs d).extractLsb' (8 * j) 8) ∧
    StoresLocal (.vst h x vd a off) h w (fun sl => ⟨[sid sl a, .v vd], []⟩) (fun c => c.rs a + offM x off * 256) 16 256 2
      (fun c => (List.range 64).flatMap fun e => bytes (vat (c.rd.getV vd).lanes e 0) 4) ∧
    (∀ (i : Instr) (n : Nat), (i = .vscatI32 h vd a vb mk ∧ n = 4 ∨ i = .vscatI16 h vd a vb mk ∧ n = 2) →
      ∀ (s : State) (k : Core) (sl : Fin 8), Ready s h 1 (fun sl => ⟨[sid sl a, .v vb, .v vd] ++ maskRegs mk, []⟩) k sl →
      let c := ctxOf s 1 k sl
      let on := (List.range 64).filter fun e => (c.mask mk).getLsbD e
      let addr (e : Nat) : Word := c.rs a + (vat (c.rd.getV vb).lanes e 0).signExtend 64
      (∀ e ∈ on, k.localCheck true (addr e) n n = none ∧ k.localHold s.cur sl (addr e).toNat n true = false) →
      Completes i s 1 k sl fun u => on.foldl (fun u e => u.bufferStore c (addr e).toNat (bytes (vat (c.rd.getV vd).lanes e 0) n)
        (gatherOcc (on.map fun e => (e, addr e)) + 2)) u) ∧
    ∀ (i : Instr) (w : Nat), (i = .qstQb8 h vd a b ∧ w = 8 ∨ i = .qstQb4 h vd a b ∧ w = 4) →
      ∀ (s : State) (k : Core) (sl : Fin 8), Ready s h 1 (fun sl => ⟨[sid sl a, sid sl b, .v vd], []⟩) k sl →
      let c := ctxOf s 1 k sl
      k.planeCheck true (c.rs a) (c.rs b) (8 * w) = none → k.localHold s.cur sl (c.rs a).toNat (8 * w) true = false →
      k.localHold s.cur sl (c.rs b).toNat 8 true = false →
      ∃ m : List Byte, m.length = 8 * w ∧
        (∀ e, e < 64 → ofBytes m / 2 ^ (w * e) % 2 ^ w = (vat (c.rd.getV vd).lanes e 0).toNat % 2 ^ w) ∧
        Completes i s 1 k sl fun u => (u.bufferStore c (c.rs a).toNat m 3).bufferStore c (c.rs b).toNat
          ((List.range 8).map fun j => (c.rd.getV vd).header.extractLsb' (8 * j) 8) 3

/-- R195 to R197, R190: RESULT_WRITE of a due store that covers no bad word in part changes exactly its bytes and takes it off the buffer (the memory in its canonical form, which every
step keeps);
RESULT_WRITE of a due result writes its register and ORs its flags, and changes no byte of memory. -/
def Obligations.ResultWritesAreRight : Prop :=
  ∀ (s : State) (c : Nat) (k : Core), s.core? c = some k →
    (∀ (b : StoreBuf), k.mem.wf = true → (k.results.all fun r => decide (r.id ≠ b.id)) = true →
      (k.stores.find? fun e => decide (e.id = b.id) && decide (e.due ≤ s.cyc c)) = some b →
      (b.addr % 8 = 0 ∧ b.data.length % 8 = 0 ∨ k.regs.finj = 0 ∧ k.badPartial b.addr b.data.length = none) →
      ∃ t q, exec (.resultWrite c b.id) s = .next t ∧ t.core? c = some q ∧
        (∀ a, q.mem.read a = if b.addr ≤ a ∧ a < b.addr + b.data.length then b.data.getD (a - b.addr) 0 else k.mem.read a) ∧
        q.stores = k.stores.filter fun e => decide (e.id ≠ b.id)) ∧
    ∀ (r : Result), (k.results.find? fun e => decide (e.id = r.id) && decide (e.due ≤ s.cyc c)) = some r →
      trapCause (r.flags &&& r.trapEn) = none →
      ∃ t, exec (.resultWrite c r.id) s = .next t ∧
        t = (s.modCore c fun q => { (q.setReg r.reg r.val).orFlags r.slot r.flags with
          results := q.results.filter fun e => decide (e.id ≠ r.id) }).settleWaits c

/-- R195, R196, R198 to R200, R369: LD, ST, VLD, VST, VGATH, VSCAT, QLD and QST check alignment, then range, then the token state; a failing
access faults with LALIGN, LRANGE or TNONE and the address that fails, of VGATH and VSCAT that of the lowest failing lane (both by log 17),
and performs nothing. A byte may be read when its region is
PRIVATE, HOME or SHARED, and written when it is PRIVATE or HOME. -/
def Obligations.LocalAccessesAreChecked : Prop :=
  (∀ (k : Core) (write : Bool) (a n : Nat), k.allowed write a n = true ↔ ∀ x, a ≤ x → x < a + n →
    match k.tables.leafAt x with
    | none => True
    | some (_, e) => e.st = .home ∨ write = false ∧ e.st = .shared) ∧
  ∀ (h : Head) (x : ImmX) (d a b : SReg) (ls : LdSize) (ss : StSize) (off : BitVec 7) (vd vb : VNum) (mk : MaskX) (s : State) (k : Core)
    (sl : Fin 8),
    let w := if x.present then 2 else 1
    let checks (i : Instr) (n : Nat) (uses : Fin 8 → Uses) (write : Bool) (p : Word) (align len : Nat) : Prop :=
      Ready s h n uses k sl →
      (p.toNat % align ≠ 0 → Faults i s n k sl .lalign p) ∧
      (p.toNat % align = 0 → 0x30000 < p.toNat + len → Faults i s n k sl .lrange p) ∧
      (p.toNat % align = 0 → p.toNat + len ≤ 0x30000 → k.allowed write p.toNat len = false → Faults i s n k sl .tnone p)
    let c1 := ctxOf s 1 k sl
    let cw := ctxOf s w k sl
    checks (.ld h x d a ls off) w (usesRR d a) false (cw.rs a + offM x off * BitVec.ofNat 64 (ldBytes ls)) (ldBytes ls) (ldBytes ls) ∧
    checks (.st h x d a ss off) w (usesAB d a) true (cw.rs a + offM x off * BitVec.ofNat 64 (stBytes ss)) (stBytes ss) (stBytes ss) ∧
    checks (.vld h x vd a off) w (fun sl => ⟨[sid sl a], [.v vd]⟩) false (cw.rs a + offM x off * 256) 16 256 ∧
    checks (.vst h x vd a off) w (fun sl => ⟨[sid sl a, .v vd], []⟩) true (cw.rs a + offM x off * 256) 16 256 ∧
    (∀ (i : Instr) (uses : Fin 8 → Uses) (write : Bool) (n : Nat),
      (i = .vgathI32 h vd a vb mk ∧ uses = (fun sl => ⟨[sid sl a, .v vb] ++ maskRegs mk, [.v vd]⟩) ∧ write = false ∧ n = 4 ∨
        i = .vgathI16 h vd a vb mk ∧ uses = (fun sl => ⟨[sid sl a, .v vb] ++ maskRegs mk, [.v vd]⟩) ∧ write = false ∧ n = 2 ∨
        i = .vscatI32 h vd a vb mk ∧ uses = (fun sl => ⟨[sid sl a, .v vb, .v vd] ++ maskRegs mk, []⟩) ∧ write = true ∧ n = 4 ∨
        i = .vscatI16 h vd a vb mk ∧ uses = (fun sl => ⟨[sid sl a, .v vb, .v vd] ++ maskRegs mk, []⟩) ∧ write = true ∧ n = 2) →
      Ready s h 1 uses k sl →
      let addr (e : Nat) : Word := c1.rs a + (vat (c1.rd.getV vb).lanes e 0).signExtend 64
      let fails (p : Word → Prop) (cause : Cause) : Prop := ∀ e, e < 64 → (c1.mask mk).getLsbD e = true → p (addr e) →
        (∀ m, m < e → (c1.mask mk).getLsbD m = true → ¬ p (addr m)) → Faults i s 1 k sl cause (addr e)
      let all (p : Word → Prop) : Prop := ∀ e, e < 64 → (c1.mask mk).getLsbD e = true → p (addr e)
      fails (fun p => p.toNat % n ≠ 0) .lalign ∧
      (all (fun p => p.toNat % n = 0) → fails (fun p => 0x30000 ≤ p.toNat) .lrange) ∧
      (all (fun p => p.toNat % n = 0 ∧ p.toNat < 0x30000) → fails (fun p => k.allowed write p.toNat n = false) .tnone)) ∧
    ∀ (i : Instr) (uses : Fin 8 → Uses) (write : Bool) (n : Nat),
      (i = .qldQb8 h vd a b ∧ uses = (fun sl => ⟨[sid sl a, sid sl b], [.v vd]⟩) ∧ write = false ∧ n = 64 ∨
        i = .qldQb4 h vd a b ∧ uses = (fun sl => ⟨[sid sl a, sid sl b], [.v vd]⟩) ∧ write = false ∧ n = 32 ∨
        i = .qstQb8 h vd a b ∧ uses = (fun sl => ⟨[sid sl a, sid sl b, .v vd], []⟩) ∧ write = true ∧ n = 64 ∨
        i = .qstQb4 h vd a b ∧ uses = (fun sl => ⟨[sid sl a, sid sl b, .v vd], []⟩) ∧ write = true ∧ n = 32) →
      Ready s h 1 uses k sl →
      let p := c1.rs a
      let r := c1.rs b
      let aligned : Prop := p.toNat % 16 = 0 ∧ r.toNat % 8 = 0
      let inside : Prop := p.toNat + n ≤ 0x30000 ∧ r.toNat + 8 ≤ 0x30000
      (p.toNat % 16 ≠ 0 → Faults i s 1 k sl .lalign p) ∧
      (p.toNat % 16 = 0 → r.toNat % 8 ≠ 0 → Faults i s 1 k sl .lalign r) ∧
      (aligned → 0x30000 < p.toNat + n → Faults i s 1 k sl .lrange p) ∧
      (aligned → p.toNat + n ≤ 0x30000 → 0x30000 < r.toNat + 8 → Faults i s 1 k sl .lrange r) ∧
      (aligned → inside → k.allowed write p.toNat n = false → Faults i s 1 k sl .tnone p) ∧
      (aligned → inside → k.allowed write p.toNat n = true → k.allowed write r.toNat 8 = false → Faults i s 1 k sl .tnone r)

/-! ## Remote access -/

/-- R201, R203, R206 to R208: RLD, RST, RVLD, RVST and the twelve ATOMs of 32 or 64 bits that are ready, aligned, resolved and entitled take a
request entry and send their request to the home of their address, with the address, the data and the order; RLD, RVLD and ATOM leave d
pending for the reply. Nothing else changes. -/
def Obligations.RemoteAccessesAreSent : Prop :=
  ∀ (h : Head) (x : RemX) (o : OrdX) (d a b : SReg) (vd : VNum) (ls : LdSize) (ss : StSize) (off : BitVec 7) (w32 : Bool),
    let wr := if x.present then 2 else 1
    let wo := if o.present then 2 else 1
    let n := if w32 then 4 else 8
    let bytes (k : Nat) (v : Word) : List Byte := (List.range k).map fun j => v.extractLsb' (8 * j) 8
    let atom (i : Instr) (op : AtomOp) (n : Nat) : Prop :=
      Requests i h wo (if op = .cas then usesRRRd d a b else usesRRR d a b) (fun c => c.rs a) n n true
        (fun c => ⟨true, .data (sid c.sl d) (decide (n = 4)), 3, ordOf o, n⟩)
        fun c t => .atom op (decide (n = 4)) t (c.rs b) (if op = .cas then c.rs d else 0)
    Requests (.rld h x d a ls off) h wr (usesRR d a) (fun c => c.rs a + offRem x off * BitVec.ofNat 64 (ldBytes ls)) (ldBytes ls) (ldBytes ls)
      false (fun c => ⟨false, .scalar (sid c.sl d) ls, 5, ordRem x, ldBytes ls⟩) (fun _ t => .load t (ldBytes ls) 4) ∧
    Requests (.rst h x d a ss off) h wr (usesAB d a) (fun c => c.rs a + offRem x off * BitVec.ofNat 64 (stBytes ss)) (stBytes ss) (stBytes ss)
      false (fun _ => ⟨true, .quiet, 5, ordRem x, stBytes ss⟩) (fun c t => .store t (bytes (stBytes ss) (c.rs d)) 4) ∧
    Requests (.rvld h o vd a b) h wo (fun sl => ⟨[sid sl a, sid sl b], [.v vd]⟩) (fun c => c.rs a + c.rs b) 256 16 false
      (fun _ => ⟨false, .vector vd, 5, ordOf o, 256⟩) (fun _ t => .load t 256 6) ∧
    Requests (.rvst h o vd a b) h wo (fun sl => ⟨[sid sl a, sid sl b, .v vd], []⟩) (fun c => c.rs a + c.rs b) 256 16 false
      (fun _ => ⟨true, .quiet, 5, ordOf o, 256⟩)
      (fun c t => .store t ((List.range 64).flatMap fun e => bytes 4 ((vat (c.rd.getV vd).lanes e 0).setWidth 64)) 6) ∧
    atom (.atomAdd h o d a b w32) .add n ∧ atom (.atomSub h o d a b w32) .sub n ∧ atom (.atomAnd h o d a b w32) .and n ∧
    atom (.atomOr h o d a b w32) .or n ∧ atom (.atomXor h o d a b w32) .xor n ∧ atom (.atomMin h o d a b w32) .min n ∧
    atom (.atomMax h o d a b w32) .max n ∧ atom (.atomMinu h o d a b w32) .minu n ∧ atom (.atomMaxu h o d a b w32) .maxu n ∧
    atom (.atomSwap h o d a b w32) .swap n ∧ atom (.atomCas h o d a b w32) .cas n ∧ atom (.atomFaddF32 h o d a b) .fadd 4

/-- R11, R201, R254, R369: a remote access checks its scope, then alignment (RALIGN, or LALIGN in the own window), then its address (LRANGE
past the own store, RADDR in no window or where its last byte leaves the window, the cause of a peer or a translation that refuses), an ATOM
RADDR in a host window, then its rights (TNONE, TLOST); a failing access faults with its address and sends nothing. That TLOST takes the
place of XLATE for what only LOST entries of a dead edge home cover is the model's reading of R254 (log 44), and FADDR of TNONE that of
R371 (log 17). -/
def Obligations.RemoteAccessesAreChecked : Prop :=
  ∀ (h : Head) (x : RemX) (o : OrdX) (d a b : SReg) (vd : VNum) (ls : LdSize) (ss : StSize) (off : BitVec 7) (w32 : Bool)
    (s : State) (k : Core) (sl : Fin 8),
    let wr := if x.present then 2 else 1
    let wo := if o.present then 2 else 1
    let cr := ctxOf s wr k sl
    let co := ctxOf s wo k sl
    let n := if w32 then 4 else 8
    let checks (i : Instr) (w : Nat) (uses : Fin 8 → Uses) (sc : Scope) (p : Word) (n align : Nat) (write atom : Bool) : Prop :=
      Ready s h w uses k sl →
      (k.scopeOk sc = false → Faults i s w k sl .scope (BitVec.ofNat 64 (k.slot sl).pc)) ∧
      (k.scopeOk sc = true →
        (∀ q, windowOf p.toNat = .own q → p.toNat % align ≠ 0 → Faults i s w k sl .lalign p) ∧
        (∀ q, windowOf p.toNat = .own q → p.toNat % align = 0 → 0x30000 < q + n → Faults i s w k sl .lrange p) ∧
        (∀ q, windowOf p.toNat = .own q → p.toNat % align = 0 → q + n ≤ 0x30000 → k.allowed write q n = false →
          Faults i s w k sl .tnone p) ∧
        (windowOf p.toNat = .bad → Faults i s w k sl .raddr p) ∧
        (∀ c q, windowOf p.toNat = .peer c q → p.toNat % align ≠ 0 → Faults i s w k sl .ralign p) ∧
        (∀ c q e, windowOf p.toNat = .peer c q → p.toNat % align = 0 →
          (∀ f, (s.seen sl w f).peerCheck k c q n = some e) → Faults i s w k sl e p) ∧
        (∀ c q e, windowOf p.toNat = .peer c q → p.toNat % align = 0 → (∀ f, (s.seen sl w f).peerCheck k c q n = none) →
          k.heldCheck sl write false (fun _ => false) p.toNat n = some e → Faults i s w k sl e p) ∧
        (windowOf p.toNat = .cxl ∨ windowOf p.toNat = .host → p.toNat % align ≠ 0 → Faults i s w k sl .ralign p) ∧
        (windowOf p.toNat = .cxl ∨ windowOf p.toNat = .host → p.toNat % align = 0 →
          let stays : Prop := windowOf (p.toNat + n - 1) = windowOf p.toNat
          let mine := k.tables.heldOver sl p.toNat
          let lost : Bool := !mine.isEmpty && mine.all fun e => e.lost && e.port.isSome
          (¬ stays → Faults i s w k sl .raddr p) ∧
          (∀ e, stays → (∀ f, (s.seen sl w f).translate s.cur k p.toNat write = .fault e) →
            Faults i s w k sl (if e = .xlate ∧ lost = true then .tlost else e) p) ∧
          ∀ t : Nat → Access, stays → (∀ f, (s.seen sl w f).translate s.cur k p.toNat write = .ok (t f)) →
            (windowOf p.toNat = .host → atom = true → Faults i s w k sl .raddr p) ∧
            ∀ e, windowOf p.toNat = .cxl → (∀ f, (s.seen sl w f).remRights k sl (t f) p.toNat n write = some e) →
              Faults i s w k sl e p))
    checks (.rld h x d a ls off) wr (usesRR d a) (ordRem x).2 (cr.rs a + offRem x off * BitVec.ofNat 64 (ldBytes ls)) (ldBytes ls) (ldBytes ls)
      false false ∧
    checks (.rst h x d a ss off) wr (usesAB d a) (ordRem x).2 (cr.rs a + offRem x off * BitVec.ofNat 64 (stBytes ss)) (stBytes ss) (stBytes ss)
      true false ∧
    checks (.rvld h o vd a b) wo (fun sl => ⟨[sid sl a, sid sl b], [.v vd]⟩) (ordOf o).2 (co.rs a + co.rs b) 256 16 false false ∧
    checks (.rvst h o vd a b) wo (fun sl => ⟨[sid sl a, sid sl b, .v vd], []⟩) (ordOf o).2 (co.rs a + co.rs b) 256 16 true false ∧
    (∀ i ∈ [Instr.atomAdd h o d a b w32, .atomSub h o d a b w32, .atomAnd h o d a b w32, .atomOr h o d a b w32, .atomXor h o d a b w32,
        .atomMin h o d a b w32, .atomMax h o d a b w32, .atomMinu h o d a b w32, .atomMaxu h o d a b w32, .atomSwap h o d a b w32],
      checks i wo (usesRRR d a b) (ordOf o).2 (co.rs a) n n true true) ∧
    checks (.atomCas h o d a b w32) wo (usesRRRd d a b) (ordOf o).2 (co.rs a) n n true true ∧
    checks (.atomFaddF32 h o d a b) wo (usesRRR d a b) (ordOf o).2 (co.rs a) 4 4 true true

/-- R208: the value that an atomic operation writes, for both widths and every operand: CAS writes only where the word equals d. -/
def Obligations.AtomicOperationsAreRight : Prop :=
  ∀ (w32 : Bool), let w := if w32 then 32 else 64
    ∀ (old b d : BitVec w),
    let writes (op : AtomOp) (v : BitVec w) : Prop := atomExec op w32 old.toNat b.toNat d.toNat = some v.toNat
    writes .add (old + b) ∧ writes .sub (old - b) ∧ writes .and (old &&& b) ∧ writes .or (old ||| b) ∧ writes .xor (old ^^^ b) ∧
    writes .min (if b.toInt < old.toInt then b else old) ∧ writes .max (if old.toInt < b.toInt then b else old) ∧
    writes .minu (if b.toNat < old.toNat then b else old) ∧ writes .maxu (if old.toNat < b.toNat then b else old) ∧
    writes .swap b ∧ (old = d → writes .cas b) ∧ (old ≠ d → atomExec .cas w32 old.toNat b.toNat d.toNat = none) ∧
    (w32 = true → atomExec .fadd w32 old.toNat b.toNat d.toNat =
      some (fpAdd fp32 old.toNat b.toNat .rne false ⟨Rng.reset, 0⟩).1)

/-- R209, R210: ATOM.BADD that is ready checks its scope, then alignment of the target (RALIGN, LALIGN in the own window) and of its addend
(LALIGN), then the target's address (RADDR in a CXL or host window), the addend's range (LRANGE), the rights to both (TNONE of the addend);
FADDR is the address that fails. With nothing to wait for it sends the 272 bytes of its addend, read at issue, to the home of its sill block.
The order of the checks is the model's reading (log 30), FADDR of TNONE too (log 17). A FENCE is held while an earlier access of its slot in
its scope is not complete, reads for .acq, writes for .rel, both for .ar, and then goes on with no other effect. -/
def Obligations.BlockAtomicsAndFences : Prop :=
  ∀ (h : Head) (o : OrdX) (d a b : SReg) (s : State) (k : Core) (sl : Fin 8),
    (let w := if o.present then 2 else 1
      let i := Instr.atomBadd h o d a b
      let c := ctxOf s w k sl
      let p := (c.rs a).toNat
      let src := (c.rs b).toNat
      let addr (f : Nat) := (s.seen sl w f).remAddr s.cur k p 272 true
      let rights (t : Access) (f : Nat) := (s.seen sl w f).remRights k sl t p 272 true
      Ready s h w (usesRRR d a b) k sl →
      (k.scopeOk (ordOf o).2 = false → Faults i s w k sl .scope (BitVec.ofNat 64 (k.slot sl).pc)) ∧
      (k.scopeOk (ordOf o).2 = true →
        (∀ e, remAlign p 16 = some e → Faults i s w k sl e (c.rs a)) ∧
        (remAlign p 16 = none → src % 16 ≠ 0 → Faults i s w k sl .lalign (c.rs b)) ∧
        (remAlign p 16 = none → src % 16 = 0 →
          (windowOf p = .cxl ∨ windowOf p = .host → Faults i s w k sl .raddr (c.rs a)) ∧
          (windowOf p ≠ .cxl → windowOf p ≠ .host →
            (∀ e, (∀ f, addr f = .fault e) → Faults i s w k sl e (c.rs a)) ∧
            ∀ (t : Access), (∀ f, addr f = .ok t) →
              (0x30000 < src + 272 → Faults i s w k sl .lrange (c.rs b)) ∧
              (src + 272 ≤ 0x30000 →
                (∀ e, (∀ f, rights t f = some e) → Faults i s w k sl e (c.rs a)) ∧
                ((∀ f, rights t f = none) →
                  (k.allowed false src 272 = false → Faults i s w k sl .tnone (c.rs b)) ∧
                  (k.allowed false src 272 = true →
                    let q : Ask := ⟨true, .data (sid sl d) false, 3, ordOf o, 272⟩
                    let waits : Bool := k.remHold c t q || k.localHold s.cur sl src 272 false || k.readHold sl (s.cyc s.cur);
                    (waits = true → HoldsBack i s false) ∧
                    (waits = false → (k.injectRead src 272).badView sl src 272 = none →
                      Completes i s w k sl fun u =>
                        (u.modCore u.cur fun q => q.injectRead src 272).sendReq (.core u.cur)
                          (mkReq c (c.rs a) t q (.badd t.addr ((k.memView sl).readN src 272))) 0)))))))) ∧
    ∀ (i : Instr) (sc : Scope) (acq rel : Bool),
      (i = .fenceAcq h sc ∧ acq = true ∧ rel = false ∨ i = .fenceRel h sc ∧ acq = false ∧ rel = true ∨
        i = .fenceAr h sc ∧ acq = true ∧ rel = true) →
      Ready s h 1 usesNone k sl →
      let mine := (k.slotReqs sl).filter fun r => k.inScope s.cur sc r.home
      let waits : Prop := rel = true ∧ ((∃ b ∈ k.stores, b.slot = sl) ∨ ∃ r ∈ mine, r.op.fenceWrite = true) ∨
        acq = true ∧ ((∃ r ∈ k.results, r.slot = sl ∧ r.isLoad = true) ∨ ∃ r ∈ mine, r.op.fenceRead = true)
      (k.scopeOk sc = false → Faults i s 1 k sl .scope (BitVec.ofNat 64 (k.slot sl).pc)) ∧
      (k.scopeOk sc = true → waits → HoldsBack i s false) ∧
      (k.scopeOk sc = true → ¬ waits → Completes i s 1 k sl fun u => u)

/-! ## Ownership tokens -/

/-- R236 to R246: a token instruction on a region whose home is another agent, with sound operands and nothing to wait for, gives up the held
entry that it returns or passes on and sends its request to the home; TDECL at an edge home also reserves the held entry. A return of a
LOST entry sends nothing: once the flush of its region ends it only removes the entry. -/
def Obligations.TokenRequestsAreSent : Prop :=
  ∀ (h : Head) (a b : SReg) (i : Instr) (op : TokOp) (two : Bool),
    (i, op, two) ∈ [(.tdecl h a b, .decl, true), (.tlend h a b, .lend, true), (.tret h a, .ret, false), (.tsplit h a b, .split, true),
      (.tjoin h a, .join, false), (.tshare h a b, .share, true), (.tunsh h a, .unsh, false), (.trecl h a, .recl, false),
      (.tclean h a b, .clean, true)] →
    ∀ (s : State) (k : Core) (sl : Fin 8) (t : Nat → Access), Ready s h 1 (if two then usesAB a b else usesA a) k sl →
    let c := ctxOf s 1 k sl
    let bv : Word := if two then c.rs b else 0
    let held : Option (Nat × HeldTok) :=
      if op = .lend ∨ op = .ret ∨ op = .unsh then k.tables.heldBase sl (ownPeer s.cur (c.rs a).toNat) (op = .unsh) else none
    (∀ e, held = some e → e.2.lost = true → op ≠ .lend →
      let busy := k.flushHold s.cur sl (e.2.base * 256) ((e.2.base + e.2.size) * 256);
      (busy = true → HoldsBack i s false) ∧
      (busy = false → Completes i s 1 k sl fun u => u.modCore u.cur fun k => k.dropHeld e.1)) ∧
    ((∀ f, (s.seen sl 1 f).tokAddr s.cur k (c.rs a).toNat true = .ok (t f)) → (∀ f, (t f).home ≠ .core s.cur) →
    (∀ f, k.acqHold s.cur sl (t f).home = false) → k.serialsFull (slotRid s.cur sl) = false → k.reqFree = true →
    (∀ f, tokArgs ((s.seen sl 1 f).tokEnv (t f).home (ident s.cur sl)) op (t f).addr bv
      (splitPoint (t f).home s.cur (t f).addr (t f).lo bv) = none) →
    held.any (fun e => e.2.lost) = false →
    (held.isSome ∨ op ≠ .ret ∧ op ≠ .unsh ∧ (op = .lend → ∀ f, ∃ p, (t f).home = .port p)) →
    (∀ f lo hi, (s.seen sl 1 f).tokRegion (t f) (held.map fun e => e.2) = some (lo, hi) →
      op ∈ [.lend, .ret, .share, .unsh] → k.flushHold s.cur sl lo hi = false) →
    let q (sink : Sink) : Ask := ⟨true, sink, 3, (.rlx, .part), 0⟩
    (∀ j p, op = .decl → (∀ f, (t f).home = .port p) → afree 32 k.tables.held = some j →
      Completes i s 1 k sl fun u =>
        let x := t u.fresh
        let size := bits bv 0 48 / 256
        sends x (mkReq c (c.rs a) x (q (.heldEntry j (x.lo / 256) size)) (.tok .decl x.addr x.lo bv none 0))
          (u.modCore u.cur fun k => { k with tables := { k.tables with
            held := aset j ⟨x.lo / 256, size, 1, sl, 0, false, some p, true⟩ k.tables.held } })) ∧
    ((op = .decl → ∀ f p, (t f).home ≠ .port p) →
      Completes i s 1 k sl fun u =>
        let x := t u.fresh
        sends x (mkReq c (c.rs a) x (q .quiet) (.tok op x.addr x.lo bv (held.map fun e => e.2.epoch)
            ((held.map fun e => e.2.kind).getD 0)))
          (match held with
          | some e => u.modCore u.cur fun k => k.dropHeld e.1
          | none => u)))

/-- R236, R238: a token instruction on a region of its own core, with nothing to wait for, is checked at issue: one that the home refuses faults
with its cause and the region's address (log 17) and changes nothing; another gives up the entry that it returns or passes on, and its home logic gets
its request, which it performs 2 cc later, before the slot issues again. TQRY on an own byte, or without asking, reports 2 cc later and
changes nothing else; asked of another home it sends its question. -/
def Obligations.TokenInstructionsAtHome : Prop :=
  ∀ (h : Head) (a b d : SReg) (s : State) (k : Core) (sl : Fin 8),
    (∀ (i : Instr) (op : TokOp) (two : Bool),
      (i, op, two) ∈ [(.tdecl h a b, .decl, true), (.tsplit h a b, .split, true), (.tjoin h a, .join, false), (.trecl h a, .recl, false),
        (.tclean h a b, .clean, true), (.tlend h a b, .lend, true), (.tshare h a b, .share, true), (.tret h a, .ret, false),
        (.tunsh h a, .unsh, false)] →
      Ready s h 1 (if two then usesAB a b else usesA a) k sl →
      let c := ctxOf s 1 k sl
      let p := (c.rs a).toNat
      let bv : Word := if two then c.rs b else 0
      let x : Access := ⟨.core s.cur, p, true, peerBase s.cur + p, none, none, 0⟩
      let held : Option (Nat × HeldTok) :=
        if op = .lend ∨ op = .ret ∨ op = .unsh then k.tables.heldBase sl (peerBase s.cur + p) (op = .unsh) else none
      let epoch := held.map fun e => e.2.epoch
      let kind := (held.map fun e => e.2.kind).getD 0
      let drop (u : State) : State := match held with
        | some e => u.modCore u.cur fun k => k.dropHeld e.1
        | none => u
      let run (u : State) := (u.tokRun (.core s.cur) (ident s.cur sl) op p (peerBase s.cur + p) bv epoch kind false 0 0).2
      windowOf p = .own p → p < 0x30000 → held.any (fun e => e.2.lost) = false → k.acqHold s.cur sl (.core s.cur) = false →
      (tokGives op bv s.cur = true → k.reqFree = true) → grantWaits k.tables.home 256 p = false →
      let args (f : Nat) := tokArgs ((s.seen sl 1 f).tokEnv (.core s.cur) (ident s.cur sl)) op p bv
        (splitPoint (.core s.cur) s.cur p (peerBase s.cur + p) bv)
      (∀ cause, (∀ f, args f = some cause) → Faults i s 1 k sl cause (c.rs a)) ∧
      ((∀ f, args f = none) → (op = .ret ∨ op = .unsh → held = none → Faults i s 1 k sl .tnotheld (c.rs a)) ∧
        ((op = .ret ∨ op = .unsh → held.isSome) →
          (∀ f lo hi, (s.seen sl 1 f).tokRegion x (held.map fun e => e.2) = some (lo, hi) → op ∈ [.lend, .ret, .share, .unsh] →
            k.flushHold s.cur sl lo hi = false) →
          (∀ cause v, (∀ f, run (drop (s.seen sl 1 f)) = .done (some cause) v) → Faults i s 1 k sl cause (c.rs a)) ∧
          ((∀ f cause v, run (drop (s.seen sl 1 f)) ≠ .done (some cause) v) →
            Completes i s 1 k sl fun u => ((drop u).occupy c 2).sendReq (.core u.cur)
              (mkReq c (c.rs a) x ⟨true, .quiet, 3, (.rlx, .part), 0⟩ (.tok op p (peerBase s.cur + p) bv epoch kind)) 0)))) ∧
    (Ready s h 1 (usesRRR d a b) k sl →
      let c := ctxOf s 1 k sl
      let p := (c.rs a).toNat
      let later (w : Word) : Prop := Completes (.tqry h d a b) s 1 k sl fun u => onCore (fun q => { q with results := q.results ++
        [⟨u.nextId, sl, sid sl d, .word w, s.cyc s.cur + 2, s.cyc s.cur, 0, (k.slot sl).ftrap, (k.slot sl).pc, false⟩] }) u
      ((c.rs b).toNat < 2 → windowOf p = .own p → k.acqHold s.cur sl (.core s.cur) = false → grantWaits k.tables.home 256 p = false →
        later (tokReport (s.tokEnv (.core s.cur) (ident s.cur sl)) p k.tables.home)) ∧
      (c.rs b = 0 → windowOf p = .cxl → later (k.tables.heldReport sl p)) ∧
      (windowOf p = .host ∨ windowOf p = .bad → Faults (.tqry h d a b) s 1 k sl .raddr (c.rs a)) ∧
      ∀ n m, c.rs b = 1 → windowOf p = .peer n m → n ≠ s.cur → (∀ f, (s.seen sl 1 f).peerCheck k n m 1 = none) →
        k.acqHold s.cur sl (.core n) = false → k.reqFree = true → ¬ (peerBase s.cur ≤ p ∧ p < peerBase s.cur + 0x30000) →
        ownPeer s.cur p = p →
        Completes (.tqry h d a b) s 1 k sl fun u => u.sendReq (.core u.cur)
          (mkReq c (c.rs a) ⟨.core n, m, false, p, none, none, 0⟩ ⟨false, .data (sid sl d) false, 3, (.rlx, .part), 0⟩ (.tqry m)) 0)

/-- R239 to R243, R245, R246: what a home's table becomes: TDECL at a core adds a HOME region, at an edge home one that the issuer holds, where
none overlaps; TLEND of a HOME region, or by its holder, makes it LENT with the next epoch; a return by its holder with its epoch makes it
HOME, and any other changes nothing; TSPLIT makes two HOME parts, and TJOIN frees them again; TSHARE adds a named or an anonymous share and
TUNSH takes one away, the last with the SHARED state; TRECL makes a region HOME and names its holders to be told; TCLEAN frees a HOME
region, or a closed one, or makes a closed one HOME; a refusal changes nothing. -/
def Obligations.TokenTableChangesAreRight : Prop :=
  ∀ (v : TokEnv) (a : Nat) (b : Word) (p : Option Nat) (ep : Option Byte) (kind : BitVec 2) (l : List (Nat × HomeTok)),
    let free := bits b 0 48
    let lim := (a + free) / v.unit
    let declares : Prop := v.mayDeclare = true ∧ a % v.unit = 0 ∧ free ≠ 0 ∧ free % v.unit = 0
    let disjoint : Prop := ∀ e ∈ l, lim ≤ e.2.base ∨ e.2.limit ≤ a / v.unit;
    (∀ op c, (tokApply v op a b p ep kind l).cause = some c → (tokApply v op a b p ep kind l).toks = l) ∧
    (let r := tokApply v .decl a b p ep kind l;
      (v.edge = false ∧ bits b 48 15 = 0 ∧ a + free ≤ 0x30000 ∨ v.edge = true ∧ bits b 48 16 = 0 ∧ lim < 2 ^ 33) → declares →
      (¬ disjoint → r.cause = some .toverlap) ∧ (disjoint → afree v.cap l = none → r.cause = some .tfull) ∧
      ∀ j, disjoint → afree v.cap l = some j → r.cause = none ∧
        (v.edge = false → r.toks = aset j { HomeTok.fresh (a / v.unit) lim with dslot := identSlot v.ident, rel := b.getLsbD 63 } l) ∧
        (v.edge = true → r.toks = aset j { HomeTok.fresh (a / v.unit) lim with
          st := .lent, decl := v.ident, part := v.part, holder := v.ident, epoch := 1 } l)) ∧
    (∀ j e, (l.filter fun x => decide (x.2.st = .split) && decide (x.2.base * v.unit = a)) = [(j, e)] → v.entitled e = true →
      let r := tokApply v .join a b p ep kind l
      let kids := l.filter fun x => decide (x.2.parent = some j);
      (∀ x y, kids = [x, y] → x.2.st = .home → y.2.st = .home → r.cause = none ∧ r.toks = tokHomed (adel y.1 (adel x.1 l)) j) ∧
      ((∃ x ∈ kids, x.2.st ≠ .home) → r.cause = some .tstate)) ∧
    ∀ i e, leafBase l v.unit a = some (i, e) →
      (e.st = .home ∧ v.entitled e = true ∨ e.st = .lent ∧ e.holder = v.ident ∧ ep = some e.epoch →
        b.toNat < 2 ^ 21 → v.target (b.extractLsb' 0 21) = none →
        let r := tokApply v .lend a b p ep kind l
        r.cause = none ∧ r.toks = aset i { e with epoch := e.epoch + 1, holder := b.extractLsb' 0 21, st := .lent } l ∧
        r.grant = some (i, none, 0, b.extractLsb' 0 21)) ∧
      (e.st = .lent ∨ e.st = .uncertain → e.holder = v.ident → ep = some e.epoch →
        (tokApply v .ret a b p ep kind l).cause = none ∧ (tokApply v .ret a b p ep kind l).toks = tokHomed l i) ∧
      (¬ ((e.st = .lent ∨ e.st = .uncertain) ∧ e.holder = v.ident ∧ ep = some e.epoch) →
        (tokApply v .ret a b p ep kind l).cause = none ∧ (tokApply v .ret a b p ep kind l).toks = l) ∧
      (∀ x j1 j2, e.st = .home → v.entitled e = true → p = some x → x % v.unit = 0 → e.base < x / v.unit → x / v.unit < e.limit →
        let part (lo hi : Nat) : HomeTok :=
          { HomeTok.fresh lo hi with parent := some i, dslot := e.dslot, rel := e.rel, decl := e.decl, part := e.part, ext := e.ext }
        afree v.cap l = some j1 → afree v.cap (aset j1 (part e.base (x / v.unit)) l) = some j2 →
        (tokApply v .split a b p ep kind l).cause = none ∧ (tokApply v .split a b p ep kind l).toks =
          aset i { e with st := .split } (aset j2 (part (x / v.unit) e.limit) (aset j1 (part e.base (x / v.unit)) l))) ∧
      (e.st = .home ∨ e.st = .shared → v.entitled e = true → b.toNat < 2 ^ 22 → v.target (b.extractLsb' 0 21) = none →
        let r := tokApply v .share a b p ep kind l
        let t := b.extractLsb' 0 21;
        (∀ n : Fin 4, b.getLsbD 21 = false → e.named[n] = none → (∀ m : Fin 4, m < n → e.named[m] ≠ none) →
          r.cause = none ∧ r.toks = aset i { e.setNamed n (some t) with st := .shared } l ∧ r.grant = some (i, some n, 1, t)) ∧
        (b.getLsbD 21 = true ∨ (∀ m : Fin 4, e.named[m] ≠ none) →
          (e.anon < 4095 → r.cause = none ∧ r.toks = aset i { e with anon := e.anon + 1, st := .shared } l ∧
            r.grant = some (i, none, 2, t)) ∧
          (4095 ≤ e.anon → r.cause = some .tfull))) ∧
      (let r := tokApply v .unsh a b p ep kind l
        let becomes (e1 : HomeTok) : Prop := r.toks = if e1.noShare = true then tokHomed (aset i e1 l) i else aset i e1 l
        r.cause = none ∧ (e.st ≠ .shared → r.toks = l) ∧
        (e.st = .shared → kind = 1 →
          (∀ n : Fin 4, e.named[n] = some v.ident → (∀ m : Fin 4, m < n → e.named[m] ≠ some v.ident) → becomes (e.setNamed n none)) ∧
          ((∀ n : Fin 4, e.named[n] ≠ some v.ident) → becomes e)) ∧
        (e.st = .shared → kind ≠ 1 → 0 < e.anon → becomes { e with anon := e.anon - 1 }) ∧
        (e.st = .shared → kind ≠ 1 → e.anon = 0 → becomes { e with susp := true })) ∧
      (v.entitled e = true →
        let r := tokApply v .recl a b p ep kind l;
        (e.st = .home → r.cause = none ∧ r.toks = l) ∧
        (e.st = .lent ∨ e.st = .uncertain → r.cause = none ∧ r.toks = tokHomed l i ∧ r.revoke = [e.holder]) ∧
        (e.st = .shared → r.cause = none ∧ r.revoke = e.holders ∧
          r.toks = tokHomed (aset i { e with named := Vector.replicate 4 none, anon := 0, susp := false } l) i) ∧
        (e.st = .tainted ∨ e.st = .lost → r.cause = some .tstate)) ∧
      (v.entitled e = true → b.toNat < 2 →
        let r := tokApply v .clean a b p ep kind l;
        (e.st = .tainted ∨ e.st = .lost → r.cause = none ∧ r.toks = if b = 1 then tokDrop l i l.length else tokHomed l i) ∧
        (e.st = .home → b = 0 → r.cause = none ∧ r.toks = l) ∧
        (e.st = .home → b = 1 → e.parent = none → r.cause = none ∧ r.toks = tokDrop l i l.length) ∧
        (e.st = .home → b = 1 → e.parent ≠ none → r.cause = some .tstate) ∧
        (e.st = .lent ∨ e.st = .shared ∨ e.st = .uncertain → r.cause = some .tstate)) ∧
      (e.withdraw = false → aget i l = some e → aget i (tokHomed l i) = some { e with st := .home })

/-! ## Messages, doors, checkpoints and copies -/

/-- R311, R319, R369: SEND of at most 32 bytes to the base of a core that its partition may address, with nothing to wait for, sends the
message of its registers to that core: payload, identity, kind, length and door. Another address faults with RADDR, a refused core with its
cause, a bad descriptor with DARGS, each with FADDR := a (of DARGS by log 17); with no entry free, or held by an order, it waits. -/
def Obligations.SendSendsItsMessage : Prop :=
  ∀ (h : Head) (o : OrdX) (d : BitVec 3) (a b : SReg) (s : State) (k : Core) (sl : Fin 8),
    let w := if o.present then 2 else 1
    let i := Instr.send h o d a b;
    let c := ctxOf s w k sl
    let v := c.rs b
    let len := bits v 5 6
    Ready s h w (fun sl => ⟨(sendRegs d).map (sid sl) ++ [sid sl a, sid sl b], []⟩) k sl → k.scopeOk (ordOf o).2 = true →
    ((∀ m, windowOf (c.rs a).toNat ≠ .peer m 0) → Faults i s w k sl .raddr (c.rs a)) ∧
    ∀ m, windowOf (c.rs a).toNat = .peer m 0 →
      (∀ e, (∀ f, (s.seen sl w f).peerCheck k m 0 1 = some e) → Faults i s w k sl e (c.rs a)) ∧
      ((∀ f, (s.seen sl w f).peerCheck k m 0 1 = none) →
        (32 < len ∨ 2 ^ 11 ≤ v.toNat → Faults i s w k sl .dargs (c.rs a)) ∧
        (len ≤ 32 → v.toNat < 2 ^ 11 → k.msgHold c (.core m) true (ordOf o) = true → HoldsBack i s false) ∧
        (len ≤ 32 → v.toNat < 2 ^ 11 → k.msgHold c (.core m) true (ordOf o) = false →
          ∃ msg : BitVec 320,
            (∀ j, j < 32 → msg.extractLsb' (64 + 8 * j) 8 =
              if j < len then (c.rs (Machine.sregOf (4 * d.toNat + j / 8))).extractLsb' (8 * (j % 8)) 8 else 0) ∧
            msg.extractLsb' 42 22 = slotRid s.cur sl ∧ msg.extractLsb' 40 2 = 0 ∧ msg.extractLsb' 34 6 = BitVec.ofNat 6 len ∧
            msg.extractLsb' 29 5 = v.extractLsb' 0 5 ∧ msg.extractLsb' 0 29 = 0 ∧
            Completes i s w k sl fun u => u.sendReq (.core u.cur) (msgReq c (c.rs a) (.core m) true .quiet 5 (.send msg)) 0))

/-- R320, R338: SENDR through a route that takes partials of its own core, aligned, inside the store and readable, gives the bytes of its payload,
read at issue, to its router; a route that does not faults with ROUTE, a bad operand with DARGS
(FADDR by log 17). SUBMIT of a readable record sends its eight words to the module
manager, and the reply will write the word at b. With no entry free, or held by an order or an own write, they wait. -/
def Obligations.PartialsAndRecordsAreSent : Prop :=
  ∀ (h : Head) (o : OrdX) (a b : SReg) (s : State) (k : Core) (sl : Fin 8),
    let w := if o.present then 2 else 1
    let c := ctxOf s w k sl
    let p := (c.rs a).toNat
    let q := (c.rs b).toNat
    let v := c.rs b
    let reads (n : Nat) (u : State) : State := u.modCore u.cur fun q => q.injectRead p n
    let waits (n : Nat) : Bool := k.localHold s.cur sl p n false || k.readHold sl (s.cyc s.cur)
    Ready s h w (usesAB a b) k sl → k.scopeOk (ordOf o).2 = true →
    (let i := Instr.sendr h o a b;
      let rt : Fin 64 := Fin.ofNat 64 (bits v 0 6)
      let e := k.tables.routes[rt]
      (e.getLsbD 0 = false ∨ e.getLsbD 28 = false → Faults i s w k sl .route (c.rs a)) ∧
      (e.getLsbD 0 = true → e.getLsbD 28 = true → bits e 21 3 ≤ 4 →
        let op := bits e 21 3
        let len := bits v 20 9
        let n := if op = 0 then len else if op = 1 then 272 else if op = 4 then 16 else 256
        let fits : Prop := v &&& 0xFFFFFFFFE00000C0 = 0 ∧ (if op = 0 then 1 ≤ len ∧ len ≤ 272 else len = 0) ∧
          (e.getLsbD 33 = true → (e.getLsbD 39 = true → op = 0 → len ≤ 32) ∧ bits e 48 14 * 16 + bits v 8 12 * 16 + n ≤ 0x30000)
        (p % 16 ≠ 0 → Faults i s w k sl .lalign (c.rs a)) ∧
        (p % 16 = 0 → 1 ≤ n → 0x30000 < p + n → Faults i s w k sl .lrange (c.rs a)) ∧
        (p % 16 = 0 → 1 ≤ n → p + n ≤ 0x30000 → ¬ fits → Faults i s w k sl .dargs (c.rs a)) ∧
        (p % 16 = 0 → p + n ≤ 0x30000 → fits → k.allowed false p n = false → Faults i s w k sl .tnone (c.rs a)) ∧
        (p % 16 = 0 → p + n ≤ 0x30000 → fits → k.allowed false p n = true →
          (k.msgHold c (.core s.cur) false (ordOf o) = true ∨ waits n = true → HoldsBack i s false) ∧
          (k.msgHold c (.core s.cur) false (ordOf o) = false → waits n = false →
            (k.injectRead p n).badView sl p n = none →
            Completes i s w k sl fun u => (reads n u).sendReq (.core u.cur)
              { msgReq c (c.rs a) (.core s.cur) true .quiet 4 (.partialTo rt (bits v 8 12) ((k.memView sl).readN p n) 4) with
                localWait := true } ((reads n u).ahead (.core u.cur) (flits n - 1)))))) ∧
    (let i := Instr.submit h o a b;
      (p % 64 ≠ 0 → Faults i s w k sl .lalign (c.rs a)) ∧
      (p % 64 = 0 → q % 8 ≠ 0 → Faults i s w k sl .lalign (c.rs b)) ∧
      (p % 64 = 0 → q % 8 = 0 → 0x30000 < p + 64 → Faults i s w k sl .lrange (c.rs a)) ∧
      (p % 64 = 0 → q % 8 = 0 → p + 64 ≤ 0x30000 → 0x30000 < q + 8 → Faults i s w k sl .lrange (c.rs b)) ∧
      (p % 64 = 0 → q % 8 = 0 → p + 64 ≤ 0x30000 → q + 8 ≤ 0x30000 →
        (k.allowed false p 64 = false → Faults i s w k sl .tnone (c.rs a)) ∧
        (k.allowed false p 64 = true → k.msgHold c .mgr true (ordOf o) = true ∨ waits 64 = true → HoldsBack i s false) ∧
        (k.allowed false p 64 = true → k.msgHold c .mgr true (ordOf o) = false → waits 64 = false →
          (k.injectRead p 64).badView sl p 64 = none →
          let word (j : Nat) : Word := BitVec.ofNat 64 ((k.memView sl).readLE (p + 8 * j) 8)
          Completes i s w k sl fun u => (reads 64 u).sendReq (.core u.cur)
            (msgReq c (c.rs a) .mgr true (.submitWord q ((word 3).extractLsb' 32 32)) 5
              (.submit (vgen fun j => word j.val) (s.partOf k).prio)) 0)))

/-- R321, R322, R339: DOOR returns the old entry of its door and changes the fields of its mode, and held messages that may then be placed are;
DOORQ reports the entry, the free entries and the FREE slots. CKPT with a table that keeps the rules records it, with KEEP only the id; in a
HALTING partition its slot is stopped. Bad operands fault with DARGS, and CKPT's table with LALIGN, LRANGE or CARGS; it is read when nothing
holds the instruction, and one with an uncorrectable word faults with UELS. FADDR of DARGS and CARGS is the model's reading (log 17). DOOR
and DOORQ check no scope (R323). -/
def Obligations.DoorsAndCheckpointsAreRight : Prop :=
  ∀ (h : Head) (o : OrdX) (d a b : SReg) (s : State) (k : Core) (sl : Fin 8),
    let w := if o.present then 2 else 1
    let c := ctxOf s w k sl
    let p := (c.rs a).toNat
    let v := c.rs b
    let n := bits (c.rs a) 0 5
    let mode := bits (c.rs a) 5 2
    let old : BitVec 32 := vat k.tables.doors n 0
    let later (x : Word) (u : State) : State := { onCore (fun q => { q with results := q.results ++
      [⟨u.nextId, sl, sid sl d, .word x, s.cyc s.cur + 2, s.cyc s.cur, 0, (k.slot sl).ftrap, (k.slot sl).pc, false⟩] }) u with
      nextId := u.nextId + 1 }
    (Ready s h w (usesRRR d a b) k sl →
      let i := Instr.door h o d a b;
      (2 ^ 7 ≤ p ∨ mode = 3 → Faults i s w k sl .dargs (c.rs a)) ∧
      (p < 2 ^ 7 → mode ≠ 3 →
        let new : BitVec 32 := if mode = 0 then (old &&& 0x07FF0000) ||| (v.setWidth 32 &&& 0xF800FFFF)
          else if mode = 1 then old ||| 0x08000000 else old &&& 0xF7FFFFFF
        Completes i s w k sl fun u => (later (old.setWidth 64) (onCore (fun q => { q with
          tables := { q.tables with doors := q.tables.doors.setIfInBounds n new } }) u)).dispatchHeld u.cur)) ∧
    (Ready s h w (usesRR d a) k sl →
      let i := Instr.doorq h o d a;
      (2 ^ 5 ≤ p → Faults i s w k sl .dargs (c.rs a)) ∧
      (p < 2 ^ 5 → ∃ x : Word, x.extractLsb' 44 20 = 0 ∧
        bits x 40 4 = ((List.finRange 8).filter fun r => decide ((k.slot r).st = .free)).length ∧
        (k.tables.msgs.length ≤ 56 → bits x 32 8 = 56 - k.tables.msgs.length) ∧ x.extractLsb' 0 32 = old ∧
        Completes i s w k sl (later x))) ∧
    (Ready s h w (usesAB a b) k sl → k.scopeOk (ordOf o).2 = true →
      let i := Instr.ckpt h o a b;
      let ckid := v.extractLsb' 0 16
      let held : Bool := ordReleases (ordOf o).1 && k.relHold s.cur sl (ordOf o).2
      let stop (q : Core) : Core := if (s.partOf k).st = .halting then
          q.leave.modSlot sl fun y => { y with
            st := .ready, ageFrom := s.cyc s.cur, readyAt := s.cyc s.cur, wait := none, stopped := true }
        else q
      let sets (l : Lrt) (q : Core) : Core := stop { q with tables := { q.tables with lrt := l } }
      (v.getLsbD 16 = true →
        (2 ^ 17 ≤ v.toNat → Faults i s w k sl .dargs (c.rs a)) ∧
        (v.toNat < 2 ^ 17 → held = true → HoldsBack i s false) ∧
        (v.toNat < 2 ^ 17 → held = false → Completes i s w k sl (onCore (sets { k.tables.lrt with ckid := ckid })))) ∧
      (v.getLsbD 16 = false →
        let hdr := (k.memView sl).readLE p 8
        let m := hdr % 128
        let entry (j : Nat) : Word := BitVec.ofNat 64 ((k.memView sl).readLE (p + 8 + 8 * j) 8)
        let good : Prop := hdr ≤ 64 ∧ ∀ j, j < m → (entry j).toNat < 2 ^ 36 ∧ bits (entry j) 0 18 % 16 = 0 ∧ bits (entry j) 18 18 % 16 = 0 ∧
          16 ≤ bits (entry j) 18 18 ∧ bits (entry j) 0 18 + bits (entry j) 18 18 ≤ 0x30000
        let waits (n : Nat) : Bool := k.readHold sl (s.cyc s.cur) || k.localHold s.cur sl p n false
        let reads (n : Nat) (q : Core) : Core := q.injectRead p n
        let table (n : Nat) (e : Prop) : Prop :=
          (2 ^ 17 ≤ v.toNat → Faults i s w k sl .dargs (c.rs a)) ∧
          (v.toNat < 2 ^ 17 → k.allowed false p n = false → Faults i s w k sl .tnone (c.rs a)) ∧
          (v.toNat < 2 ^ 17 → k.allowed false p n = true → e)
        let unread (n : Nat) : Prop := ∀ x, (reads n k).badView sl p n = some x →
          table n (FaultsAfter i h s w k sl (onCore (reads n)) .uels (BitVec.ofNat 64 x))
        (p % 16 ≠ 0 → Faults i s w k sl .lalign (c.rs a)) ∧
        (p % 16 = 0 → 0x30000 < p + 8 → Faults i s w k sl .lrange (c.rs a)) ∧
        (p % 16 = 0 → p + 8 ≤ 0x30000 →
          (held = true ∨ waits 8 = true → HoldsBack i s false) ∧
          (held = false → waits 8 = false → unread 8 ∧
            ((reads 8 k).badView sl p 8 = none →
              (0x30000 < p + 8 + 8 * m → Faults i s w k sl .lrange (c.rs a)) ∧
              (p + 8 + 8 * m ≤ 0x30000 →
                (waits (8 + 8 * m) = true → HoldsBack i s false) ∧
                (waits (8 + 8 * m) = false → unread (8 + 8 * m) ∧
                  ((reads (8 + 8 * m) k).badView sl p (8 + 8 * m) = none →
                    (¬ good → Faults i s w k sl .cargs (c.rs a)) ∧
                    (good → table (8 + 8 * m)
                      (Completes i s w k sl (onCore fun q => sets ⟨true, ckid, p⟩ (reads (8 + 8 * m) q))))))))))))

/-- R326, R327, R332: CPY and CPYX with a readable descriptor that keeps the rules, whose ranges their slot may reach, with room in the queue and
nothing to wait for, queue a copy with its fields; a bad descriptor faults with CARGS
(FADDR by log 17), a failing range with its cause and address. CPYQ reports the
free entries, the active copies and those of its slot. -/
def Obligations.CopiesAreQueued : Prop :=
  ∀ (h : Head) (o : OrdX) (a b d : SReg) (s : State) (k : Core) (sl : Fin 8),
    (∀ (i : Instr) (wide : Bool), (i = .cpy h o a b ∧ wide = false ∨ i = .cpyx h o a b ∧ wide = true) →
      let w := if o.present then 2 else 1
      let c := ctxOf s w k sl
      let p := (c.rs a).toNat
      let n := if wide then 48 else 32
      Ready s h w (usesAB a b) k sl → k.scopeOk (ordOf o).2 = true →
      (p % 16 ≠ 0 → Faults i s w k sl .lalign (c.rs a)) ∧
      (p % 16 = 0 → 0x30000 < p + n → Faults i s w k sl .lrange (c.rs a)) ∧
      (p % 16 = 0 → p + n ≤ 0x30000 → k.allowed false p n = false → Faults i s w k sl .tnone (c.rs a)) ∧
      (p % 16 = 0 → p + n ≤ 0x30000 → k.allowed false p n = true →
        k.localHold s.cur sl p n false = true ∨ k.readHold sl (s.cyc s.cur) = true → HoldsBack i s false) ∧
      (p % 16 = 0 → p + n ≤ 0x30000 → k.allowed false p n = true → k.localHold s.cur sl p n false = false →
        k.readHold sl (s.cyc s.cur) = false → (k.injectRead p n).badView sl p n = none →
        let word (j : Nat) : Word := BitVec.ofNat 64 ((k.memView sl).readLE (p + 8 * j) 8)
        let ctl := word 3
        let len := bits ctl 0 25
        let rows := if wide then bits (word 5) 0 16 else 1
        let good : Prop := bits ctl 56 8 = 0 ∧ bits ctl 28 4 = 0 ∧ 1 ≤ len ∧ len ≤ 0x1000000 ∧ 1 ≤ rows ∧ rows * len ≤ 0x1000000 ∧
          (ctl.getLsbD 26 = true → bits ctl 32 24 ≠ 0) ∧ (ctl.getLsbD 27 = false → (word 2).toNat % 8 = 0) ∧
          (wide = true → bits (word 5) 16 48 = 0)
        let y (id : Nat) : Copy := {
          id := id, slot := sl, src := (word 0).toNat, dst := (word 1).toNat, cw := (word 2).toNat, dl := bits ctl 32 24
          ncw := ctl.getLsbD 27, dla := ctl.getLsbD 26, offload := ctl.getLsbD 25, len := len, rows := rows
          dstr := if wide then bits (word 4) 32 32 else 0, sstr := if wide then bits (word 4) 0 32 else 0, value := c.rs b
          issuedNs := s.timeNs, issued := s.cyc s.cur, active := false, begun := 0, sent := 0, ended := 0, ready := [], late := false
          abandoned := false, completing := false, snap := if (word 0).toNat < 0x30000 then [k.memView sl] else [], spill := none }
        let check (f : Nat) := (onCore (fun q => q.injectRead p n) (s.seen sl w f)).copyCheck s.cur k sl (y 0).spans
        (¬ good → Faults i s w k sl .cargs (c.rs a)) ∧
        (good → ∀ homes, (∀ f, check f = some (.ok homes)) → k.copies.length < 64 →
          (ordReleases (ordOf o).1 && k.relHold s.cur sl (ordOf o).2) = false → (∀ m ∈ homes, k.acqHold s.cur sl m = false) →
          Completes i s w k sl fun u => onCore (fun q => { q.injectRead p n with copies := q.copies ++ [y u.nextId] }) u) ∧
        (good → ∀ e, (∀ f, check f = some (.error e)) → Faults i s w k sl e.1 (BitVec.ofNat 64 e.2)) ∧
        (good → 64 ≤ k.copies.length → (∃ homes, ∀ f, check f = some (.ok homes)) → HoldsBack i s false))) ∧
    (Ready s h 1 (usesD d) k sl →
      ∃ x : Word,
        (k.copies.length ≤ 64 → x.extractLsb' 24 40 = 0 ∧ bits x 0 8 = 64 - k.copies.length ∧ bits x 8 8 = (k.copies.filter fun y => y.active).length ∧
          bits x 16 8 = (k.copies.filter fun y => decide (y.slot = sl)).length) ∧
        Completes (.cpyq h d) s 1 k sl fun u => onCore (fun q => { q with results := q.results ++
          [⟨u.nextId, sl, sid sl d, .word x, s.cyc s.cur + 2, s.cyc s.cur, 0, (k.slot sl).ftrap, (k.slot sl).pc, false⟩] }) u)

/-! ## Latches -/

/-- R203, R352, R353, R355, R357, R369: LINIT, LARV, LTEST, LREG, LDROP and LBYTES check scope, alignment and address, LARGS and the requester's
token, each fault with FADDR := a (for LARGS and TNONE by log 17); LINIT at its own home first of all the group that it names, and LREG
whose sum is too large waits for what is outstanding on its latch before LARGS. They wait for what holds them, and in the cycle in which they
do issue LMFULL and LNOTREG are checked; then they send their operation to the home of the latch, or give it to their own home logic. In the own peer range the home core's rights suffice. LREG without ADD sends nothing and records the membership. R356: LWAIT on an own latch that is broken faults with LBROKEN; on one in another phase it goes on with the latch's bits in d; on one in the
phase it waits, with its limit. It checks alignment, range, LARGS and the token first. -/
def Obligations.LatchInstructionsAreRight : Prop :=
  (∀ (h : Head) (o : OrdX) (d a b : SReg) (s : State) (k : Core) (sl : Fin 8),
    let w := if o.present then 2 else 1
    let c := ctxOf s w k sl
    let p := (c.rs a).toNat
    let v := c.rs b
    let n := bits v 0 16
    let runs (i : Instr) (uses : Fin 8 → Uses) (wait bad : Access → Prop) (rights : Option Bool) (last : Access → Option (Cause × Word)) (wr : Bool)
        (e : Access → State → State) : Prop :=
      Ready s h w uses k sl → k.scopeOk (ordOf o).2 = true →
      (windowOf p = .cxl ∨ windowOf p = .host ∨ windowOf p = .bad → Faults i s w k sl .raddr (c.rs a)) ∧
      (∀ q, windowOf p = .own q → p % 16 ≠ 0 → Faults i s w k sl .lalign (c.rs a)) ∧
      (∀ m q, windowOf p = .peer m q → p % 16 ≠ 0 → Faults i s w k sl .ralign (c.rs a)) ∧
      (∀ m q x, windowOf p = .peer m q → p % 16 = 0 → (∀ f, (s.seen sl w f).peerCheck k m q 16 = some x) → Faults i s w k sl x (c.rs a)) ∧
      ∀ t, p % 16 = 0 → (windowOf p = .own p ∧ t = ⟨.core s.cur, p, true, peerBase s.cur + p, none, none, 0⟩ ∨ ∃ m q, windowOf p = .peer m q ∧
          (∀ f, (s.seen sl w f).peerCheck k m q 16 = none) ∧ t = ⟨.core m, q, false, p, none, none, 0⟩) →
        (wait t → HoldsBack i s false) ∧ (¬ wait t → bad t → Faults i s w k sl .largs (c.rs a)) ∧
        (¬ wait t → ¬ bad t →
          (∀ wr x, rights = some wr → (∀ f, (s.seen sl w f).latchRights c k t p wr = some x) → Faults i s w k sl x (c.rs a)) ∧
          ((∀ wr, rights = some wr → ∀ f, (s.seen sl w f).latchRights c k t p wr = none) →
            let waits := k.latchHold c t ⟨wr, .quiet, 3, ordOf o, 16⟩ rights.isSome
            (waits = true → HoldsBack i s false) ∧
            (waits = false → (∀ x, last t = some x → Faults i s w k sl x.1 x.2) ∧ (last t = none → Completes i s w k sl (e t)))))
    let now : Access → Prop := fun _ => False
    let sent (sink : Sink) (wr : Bool) (op : Nat → ROp) (t : Access) (u : State) : State := u.sendReq (.core u.cur)
      { mkReq c (c.rs a) t ⟨wr, sink, 3, ordOf o, 16⟩ (op t.addr) with localWait := t.own || decide (t.home = .core s.cur) } 0
    (let foreign : Prop := ownHome s.cur p = true ∧ v.getLsbD 17 = true ∧ k.scopeOk (.grp (v.extractLsb' 18 8)) = false;
      (Ready s h w (usesAB a b) k sl → k.scopeOk (ordOf o).2 = true → foreign →
        Faults (.linit h o a b) s w k sl .scope (BitVec.ofNat 64 (k.slot sl).pc)) ∧
      (¬ foreign → runs (.linit h o a b) (usesAB a b) now (fun _ => 2 ^ 30 ≤ v.toNat) (some true) (fun _ => none) true
        (sent .quiet true fun q => .latch .init q v))) ∧
    runs (.larv h o d a b) (usesRRR d a b) now (fun _ => 2 ^ 21 ≤ v.toNat ∨ n = 0) (some false) (fun _ => none) true
      (sent (.data (sid sl d) false) true fun q => .latch .arv q v) ∧
    runs (.lbytes h o d a b) (usesRRR d a b) now (fun _ => False) (some false) (fun _ => none) true
      (sent (.data (sid sl d) false) true fun q => .latch .bytes q v) ∧
    runs (.ltest h o d a) (usesRR d a) now (fun _ => False) (some false) (fun _ => none) false
      (sent (.scalar (sid sl d) .i64) false fun q => .load q 8 6) ∧
    (let many (t : Access) : Prop := ∃ j m, k.tables.member sl t.lo = some (j, m) ∧ 65535 < m.count + n
      let bad (t : Access) : Prop := 2 ^ 17 ≤ v.toNat ∨ n = 0 ∨ many t
      let wait (t : Access) : Prop := v.toNat < 2 ^ 17 ∧ n ≠ 0 ∧ many t ∧ k.overlapHold sl t.lo 16 true = true
      let full (t : Access) : Option (Cause × Word) := if k.membersFull sl t.lo then some (.lmfull, c.rs a) else none
      (v.getLsbD 16 = true → runs (.lreg h o a b) (usesAB a b) wait bad (some false) full true
        fun t => sent (.membership t.lo n) true (fun q => .latch .reg q v) t) ∧
      (v.getLsbD 16 = false → runs (.lreg h o a b) (usesAB a b) wait bad none full true
        fun t => onCore fun q => { q with tables := q.tables.addMember sl t.lo n })) ∧
    runs (.ldrop h o a b) (usesAB a b) now (fun _ => 2 ^ 17 ≤ v.toNat ∨ n = 0) (some false)
      (fun t => if v.getLsbD 16 && !(k.tables.member sl t.lo).any (fun e => decide (n ≤ e.2.count)) then some (.lnotreg, c.rs a) else none)
      true fun t => sent (if v.getLsbD 16 then .unregister t.lo n else .quiet) true (fun q => .latch .drop q v) t) ∧
  ∀ (h : Head) (o : OrdX) (d a b : SReg) (s : State) (k : Core) (sl : Fin 8),
    let w := if o.present then 2 else 1
    let i := Instr.lwait h o d a b;
    let c := ctxOf s w k sl
    let p := (c.rs a).toNat
    let v := c.rs b
    let reads (q : Core) : Core := q.injectRead p 16
    let latch : Word := BitVec.ofNat 64 ((k.memView sl).readLE p 8)
    Ready s h w (usesRRRd d a b) k sl → k.scopeOk (ordOf o).2 = true →
    (p % 16 ≠ 0 → Faults i s w k sl .lalign (c.rs a)) ∧
    (p % 16 = 0 → 0x30000 ≤ p → Faults i s w k sl .lrange (c.rs a)) ∧
    (p % 16 = 0 → p < 0x30000 → 16 ≤ v.toNat → Faults i s w k sl .largs (c.rs a)) ∧
    (p % 16 = 0 → p < 0x30000 → v.toNat < 16 → k.allowed false p 16 = false → Faults i s w k sl .tnone (c.rs a)) ∧
    (p % 16 = 0 → p < 0x30000 → v.toNat < 16 → k.allowed false p 16 = true →
      (k.localHold s.cur sl p 16 false = true ∨ k.readHold sl (s.cyc s.cur) = true → HoldsBack i s false) ∧
      (k.localHold s.cur sl p 16 false = false → k.readHold sl (s.cyc s.cur) = false → (reads k).badView sl p 16 = none →
        (latch.getLsbD 4 = true → FaultsAfter i h s w k sl (onCore reads) .lbroken (c.rs a)) ∧
        (latch.getLsbD 4 = false → latch.toNat % 16 ≠ v.toNat →
          Completes i s w k sl (onCore fun q => (reads q).takes (sid sl d) (.word latch))) ∧
        (latch.getLsbD 4 = false → latch.toNat % 16 = v.toNat →
          Completes i s w k sl (onCore fun q => (reads q).leave.modSlot sl fun y => { y with
            st := .waiting
            wait := some (.latch d (if c.rs d = 0 then none else some (s.timeNs + (c.rs d).toNat)) p (v.extractLsb' 0 4)) }))))

/-- R350, R351, R353: what an operation does to a latch: LINIT sets all of it; every other is refused by a broken latch with LBROKEN and for a
core outside its group with LGROUP, changing nothing; one that its own rule refuses sets OVERRUN alone, with LOVERRUN; else it changes its
field, and with it the phase as Settle says. Its home then holds the latch, answers its old word to LARV and LBYTES and 0 to the others (R295),
and no other byte of memory changes; a drop at END and BREAK need no token (R351). -/
def Obligations.LatchOperationsAreRight : Prop :=
  ∀ (k : Core) (core : Nat) (v : Word) (l : LatchVal),
    let n := bits v 0 16
    let sound : Prop := l.broken = false ∧ (l.g = true → k.groupCovers l.gid core = true)
    let refused : Option LatchVal × Option Cause := (some { l with overrun := true }, some .loverrun)
    let settled (m : LatchVal) (before : Nat) : LatchVal :=
      if m.exp = 0 ∧ 0 < before ∨ 0 < m.exp ∧ m.exp ≤ m.arr ∧ (m.b = false ∨ m.pend = 0) then { m with phase := m.phase + 1, arr := 0 } else m
    ((v.getLsbD 17 = true → k.scopeOk (.grp (v.extractLsb' 18 8)) = true) → latchStep k core .init v l =
      (some ⟨v.extractLsb' 18 8, 0, 0, n, v.getLsbD 17, v.getLsbD 16, false, false, v.extractLsb' 26 4⟩, none)) ∧
    (v.getLsbD 17 = true → k.scopeOk (.grp (v.extractLsb' 18 8)) = false → latchStep k core .init v l = (none, some .scope)) ∧
    (∀ op ∈ [LatchOp.arv, .reg, .drop, .endDrop, .bytes],
      (l.broken = true → latchStep k core op v l = (none, some .lbroken)) ∧
      (l.broken = false → l.g = true → k.groupCovers l.gid core = false → latchStep k core op v l = (none, some .lgroup))) ∧
    (sound →
      (v.getLsbD 20 = true ∧ l.phase ≠ v.extractLsb' 16 4 ∨ l.exp < l.arr + n → latchStep k core .arv v l = refused) ∧
      ((v.getLsbD 20 = true → l.phase = v.extractLsb' 16 4) → l.arr + n ≤ l.exp →
        latchStep k core .arv v l = (some (settled { l with arr := l.arr + n } l.exp), none)) ∧
      latchStep k core .reg v l = (if 65535 < l.exp + n then refused else (some { l with exp := l.exp + n }, none)) ∧
      (∀ op ∈ [LatchOp.drop, .endDrop], latchStep k core op v l =
        if l.exp < n then refused else (some (settled { l with exp := l.exp - n } l.exp), none)) ∧
      (∀ x : Nat, (x : Int) = l.pend + v.toInt → x < 2 ^ 48 → latchStep k core .bytes v l = (some (settled { l with pend := x } l.exp), none)) ∧
      ((l.pend : Int) + v.toInt < 0 ∨ 2 ^ 48 ≤ (l.pend : Int) + v.toInt → latchStep k core .bytes v l = refused)) ∧
    latchStep k core .brk v l = (some { l with broken := true }, none) ∧
    ∀ (s : State) (c a : Nat) (x : BitVec 21) (rid : BitVec 22) (ser : BitVec 32) (op : LatchOp) (m : LatchVal), s.core? c = some k →
      k.mem.wf = true → (k.injectRead a 16).badIn a 16 = none → l = .ofBits (BitVec.ofNat 128 (k.mem.readLE a 16)) →
      latchStep k (ridCore rid) op v l = (some m, none) → ∀ via : Via,
      op = .endDrop ∨ op = .brk ∨ k.viaDenied via x (decide (op = .init)) a 16 = none →
      ∃ t q, s.latchServe c via x rid ser op a v =
          (t, .done (if op = .arv ∨ op = .bytes then BitVec.ofNat 64 (k.mem.readLE a 8) else 0) 6) ∧ t.core? c = some q ∧
        ∀ y, q.mem.read y = if a ≤ y ∧ y < a + 16 then m.toBits.extractLsb' (8 * (y - a)) 8 else k.mem.read y

/-! ## Vector instructions -/

/-- R132, R137: the integer element forms that are ready write every enabled element of d from those of a and b, low bits kept or clamped
with SAT, shifts by the low five bits, and keep the other elements and the header; nothing else changes. -/
def Obligations.IntegerLanesAreRight : Prop :=
  ∀ (h : Head) (x : VecX) (d a b : VNum) (mk : MaskX),
    let clamp (w : Nat) (v : Int) : Int × Bool :=
      (max (-(2 ^ (w - 1) : Int)) (min (2 ^ (w - 1) - 1) v), decide (v < -(2 ^ (w - 1) : Int)) || decide ((2 ^ (w - 1) : Int) ≤ v))
    let ints (i : Instr) (w : Nat) (f : Int → Int → Int × Bool) : Prop := IntLanes i h x d a b mk w f
    let lanes (i : Instr) (f : Lane → Lane → Lane) : Prop := BitLanes i h x d a b mk f
    ints (.vaddI32 h x d a b mk) 32 (fun a b => (a + b, false)) ∧ ints (.vsubI32 h x d a b mk) 32 (fun a b => (a - b, false)) ∧
    ints (.vmulI32 h x d a b mk) 32 (fun a b => (a * b, false)) ∧ ints (.vmulhI32 h x d a b mk) 32 (fun a b => (a * b / 2 ^ 32, false)) ∧
    ints (.vminI32 h x d a b mk) 32 (fun a b => (min a b, false)) ∧ ints (.vmaxI32 h x d a b mk) 32 (fun a b => (max a b, false)) ∧
    ints (.vaddsI32 h x d a b mk) 32 (fun a b => clamp 32 (a + b)) ∧ ints (.vsubsI32 h x d a b mk) 32 (fun a b => clamp 32 (a - b)) ∧
    ints (.vaddI16 h x d a b mk) 16 (fun a b => (a + b, false)) ∧ ints (.vsubI16 h x d a b mk) 16 (fun a b => (a - b, false)) ∧
    ints (.vmulI16 h x d a b mk) 16 (fun a b => (a * b, false)) ∧ ints (.vaddsI16 h x d a b mk) 16 (fun a b => clamp 16 (a + b)) ∧
    ints (.vsubsI16 h x d a b mk) 16 (fun a b => clamp 16 (a - b)) ∧ ints (.vminI16 h x d a b mk) 16 (fun a b => (min a b, false)) ∧
    ints (.vmaxI16 h x d a b mk) 16 (fun a b => (max a b, false)) ∧ ints (.vaddI8 h x d a b mk) 8 (fun a b => (a + b, false)) ∧
    ints (.vsubI8 h x d a b mk) 8 (fun a b => (a - b, false)) ∧ ints (.vaddsI8 h x d a b mk) 8 (fun a b => clamp 8 (a + b)) ∧
    ints (.vsubsI8 h x d a b mk) 8 (fun a b => clamp 8 (a - b)) ∧ ints (.vminI8 h x d a b mk) 8 (fun a b => (min a b, false)) ∧
    ints (.vmaxI8 h x d a b mk) 8 (fun a b => (max a b, false)) ∧
    lanes (.vand h x d a b mk) (fun a b => a &&& b) ∧ lanes (.vor h x d a b mk) (fun a b => a ||| b) ∧
    lanes (.vxor h x d a b mk) (fun a b => a ^^^ b) ∧ lanes (.vsll h x d a b mk) (fun a b => a <<< (b.toNat % 32)) ∧
    lanes (.vsrl h x d a b mk) (fun a b => a >>> (b.toNat % 32)) ∧ lanes (.vsra h x d a b mk) (fun a b => a.sshiftRight (b.toNat % 32)) ∧
    lanes (.vminuI32 h x d a b mk) (fun a b => if b.toNat < a.toNat then b else a) ∧
    Forms (.vabsI32 h x d a mk) h (vxWords x) (usesV2 d a mk) (fun _ => .v d) false fun c k y =>
      lanesBy 32 (c.mask mk) (k.getV d) (fun e y =>
        let l := vat (c.rd.getV a).lanes e 0
        ((if l.msb then -l else l).toNat, y)) y

/-- R138, R139: the floating-point element forms that are ready, with the pipe free, write every enabled element of d with one rounding
in the mode in force, FP32 and BF16 without saturation and FP8 as the prefix says, and OR their flags; the other elements, the header and everything
else stay. VFMA, VFMS and VFNMA read the old d; VABS and VNEG change only the sign, of a NaN nothing
but its canonical form. -/
def Obligations.FloatingPointLanesAreRight : Prop :=
  ∀ (h : Head) (x : VecX) (d a b : VNum) (mk : MaskX),
    let fp (i : Instr) (w : Nat) (f : Nat → Nat → RMode → Fx → Nat × Fx) : Prop :=
      FpLanes i h x d a b mk w false fun a b _ m y => f a b m y
    let fma (i : Instr) (w : Nat) (f : Nat → Nat → Nat → RMode → Fx → Nat × Fx) : Prop := FpLanes i h x d a b mk w true f
    let sat := vxSat x
    let sign (i : Instr) (f : Nat → Nat) : Prop :=
      Forms i h (vxWords x) (usesV2 d a mk) (fun _ => .v d) true fun c k y =>
        lanesBy 32 (c.mask mk) (k.getV d) (fun e y => (f (vecElem 32 (c.rd.getV a).lanes e), y)) y
    fp (.vaddF32 h x d a b mk) 32 (fun a b m y => fpAdd fp32 a b m false y) ∧ fp (.vsubF32 h x d a b mk) 32 (fun a b m y => fpSub fp32 a b m false y) ∧
    fp (.vmulF32 h x d a b mk) 32 (fun a b m y => fpMul fp32 a b m false y) ∧
    fma (.vfmaF32 h x d a b mk) 32 (fun a b d m y => fpFma fp32 false false a b d m false y) ∧
    fma (.vfmsF32 h x d a b mk) 32 (fun a b d m y => fpFma fp32 false true a b d m false y) ∧
    fma (.vfnmaF32 h x d a b mk) 32 (fun a b d m y => fpFma fp32 true false a b d m false y) ∧
    fp (.vminF32 h x d a b mk) 32 (fun a b _ y => (fpMinMax fp32 false a b, y)) ∧ fp (.vmaxF32 h x d a b mk) 32 (fun a b _ y => (fpMinMax fp32 true a b, y)) ∧
    fp (.vaddBf16 h x d a b mk) 16 (fun a b m y => fpAdd bf16 a b m false y) ∧ fp (.vsubBf16 h x d a b mk) 16 (fun a b m y => fpSub bf16 a b m false y) ∧
    fp (.vmulBf16 h x d a b mk) 16 (fun a b m y => fpMul bf16 a b m false y) ∧
    fma (.vfmaBf16 h x d a b mk) 16 (fun a b d m y => fpFma bf16 false false a b d m false y) ∧
    fp (.vminBf16 h x d a b mk) 16 (fun a b _ y => (fpMinMax bf16 false a b, y)) ∧ fp (.vmaxBf16 h x d a b mk) 16 (fun a b _ y => (fpMinMax bf16 true a b, y)) ∧
    fp (.vaddE4m3 h x d a b mk) 8 (fun a b m y => fpAdd e4m3 a b m sat y) ∧ fp (.vsubE4m3 h x d a b mk) 8 (fun a b m y => fpSub e4m3 a b m sat y) ∧
    fp (.vmulE4m3 h x d a b mk) 8 (fun a b m y => fpMul e4m3 a b m sat y) ∧ fp (.vminE4m3 h x d a b mk) 8 (fun a b _ y => (fpMinMax e4m3 false a b, y)) ∧
    fp (.vmaxE4m3 h x d a b mk) 8 (fun a b _ y => (fpMinMax e4m3 true a b, y)) ∧
    fp (.vaddE5m2 h x d a b mk) 8 (fun a b m y => fpAdd e5m2 a b m sat y) ∧ fp (.vsubE5m2 h x d a b mk) 8 (fun a b m y => fpSub e5m2 a b m sat y) ∧
    fp (.vmulE5m2 h x d a b mk) 8 (fun a b m y => fpMul e5m2 a b m sat y) ∧ fp (.vminE5m2 h x d a b mk) 8 (fun a b _ y => (fpMinMax e5m2 false a b, y)) ∧
    fp (.vmaxE5m2 h x d a b mk) 8 (fun a b _ y => (fpMinMax e5m2 true a b, y)) ∧
    sign (.vabsF32 h x d a mk) (fun v => if (Num.ofBits fp32 v).isNan then 0x7FC00000 else v % 2 ^ 31) ∧
    sign (.vnegF32 h x d a mk) (fun v => if (Num.ofBits fp32 v).isNan then 0x7FC00000 else (v + 2 ^ 31) % 2 ^ 32)

/-- R140 to R143: VCMP that is ready writes the enabled bits of its mask, each set when its condition holds for every element of its lane;
VPERM, VBCAST, VROT, VIOTA, VSEL and VINS write their lanes and keep the others and the header, VEXT and VHDR move a lane or the header;
VRSUM and VRMAX leave their reduction pending for every lane, 12 cc. Nothing else changes. -/
def Obligations.ComparesMovesAndReductionsAreRight : Prop :=
  ∀ (h : Head) (x : VecX) (p : VecPfx) (md : MReg) (d a b : VNum) (gd : GNum) (mk : MaskX) (m : MReg),
    let lane (c : Ctx) (r : VNum) (e : Nat) : Lane := vat (c.rd.getV r).lanes e 0
    let cond (n : Nat) (lt eq : Bool) (ltu : Bool) : Bool :=
      if n = 0 then eq else if n = 1 then !eq else if n = 2 then lt else if n = 3 then !lt else if n = 4 then ltu else !ltu
    let compare (i : Instr) (w : Nat) (f : Nat → Nat → Bool) : Prop :=
      ∀ s k sl, Ready s h (vxWords x) (usesVcmp x md a b mk) k sl →
        ∃ v : Word, (∀ e, e < 64 → v.getLsbD e =
            if ((ctxOf s (vxWords x) k sl).mask mk).getLsbD e then (List.range (32 / w)).all fun j =>
              f (vecElem w ((ctxOf s (vxWords x) k sl).rd.getV a).lanes (e * (32 / w) + j))
                (vecElem w ((ctxOf s (vxWords x) k sl).vb x b).lanes (e * (32 / w) + j))
            else (k.getM md).getLsbD e) ∧
          Completes i s (vxWords x) k sl (onCore fun q => q.takes (.m md) (.word v))
    let wi := fmtWidth (vxFmt x .i32)
    let wf := fmtWidth (vxFmt x .f32)
    let ff := fmtFp (vxFmt x .f32)
    let reads (sl : Fin 8) : Uses := ⟨[sid sl p.xb] ++ maskRegs mk, [.v d]⟩
    compare (.vcmpI32 h x md a b mk) wi (fun a b => cond (vxImm8 x) (BitVec.slt (BitVec.ofNat wi a) (BitVec.ofNat wi b)) (a == b)
      (decide (a < b))) ∧
    compare (.vcmpF32 h x md a b mk) wf (fun a b =>
      match (Num.ofBits ff a).cmp (Num.ofBits ff b) with
      | none => vxImm8 x == 1 || vxImm8 x == 6
      | some v => match vxImm8 x with
        | 0 => decide (v = 0)
        | 1 => decide (v ≠ 0)
        | 2 => decide (v < 0)
        | 3 => decide (v ≤ 0)
        | 4 => decide (0 < v)
        | 5 => decide (0 ≤ v)
        | _ => false) ∧
    Moves (.vperm h x d a b mk) h (vxWords x) (usesV x d a b mk false) d (fun c => c.mask mk)
      (fun c e => lane c a ((vat (c.vb x b).lanes e 0).toNat % 64)) ∧
    Moves (.vbcast h x d a mk) h (vxWords x) (usesV2 d a mk) d (fun c => c.mask mk) (fun c _ => lane c a (vxImm8 x)) ∧
    Moves (.vbcastScalar h p d mk) h 2 reads d (fun c => c.mask mk) (fun c _ => (c.rs p.xb).setWidth 32) ∧
    Moves (.vrot h x d a mk) h (vxWords x) (usesV2 d a mk) d (fun c => c.mask mk) (fun c e => lane c a ((e + vxImm8 x) % 64)) ∧
    Moves (.viota h x d mk) h (vxWords x) (fun _ => ⟨maskRegs mk, [.v d]⟩) d (fun c => c.mask mk) (fun _ e => BitVec.ofNat 32 e) ∧
    Moves (.vsel h x d a b m) h (vxWords x) (usesV x d a b (.by m) false) d (fun _ => BitVec.allOnes 64)
      (fun c e => if (c.rd.getM m).getLsbD e then lane c a e else vat (c.vb x b).lanes e 0) ∧
    Moves (.vins h p d) h 2 (fun sl => ⟨[sid sl p.xb], [.v d]⟩) d (fun _ => BitVec.twoPow 64 p.imm8.toNat) (fun c _ => (c.rs p.xb).setWidth 32) ∧
    Computes (.vext h x gd a) h (vxWords x) (fun _ => ⟨[.v a], [.g gd]⟩) (fun _ => .g gd) (fun c => .word ((lane c a (vxImm8 x)).signExtend 64)) ∧
    Computes (.vhdrRead h p gd a) h 2 (fun _ => ⟨[.v a], [.g gd]⟩) (fun _ => .g gd) (fun c => .word (c.rd.getV a).header) ∧
    Forms (.vhdrWrite h p d) h 2 (fun sl => ⟨[sid sl p.xb], [.v d]⟩) (fun _ => .v d) false (fun c k y =>
      (.vec { k.getV d with header := (c.rs p.xb).extractLsb' 0 42 |>.setWidth 64 }, y)) ∧
    Reduces (.vrsumF32 h x d a mk) h x d a mk 0 canon32 (fun m a b y => fpAdd fp32 a b m false y) ∧
    Reduces (.vrsumI32 h x d a mk) h x d a mk 0 (fun v => v) (fun _ a b y => ((a + b) % 2 ^ 32, y)) ∧
    Reduces (.vrmaxF32 h x d a mk) h x d a mk 0xFF800000 canon32 (fun _ a b y => (fpMinMax fp32 true a b, y)) ∧
    Reduces (.vrmaxI32 h x d a mk) h x d a mk 0x80000000 (fun v => v)
      (fun _ a b y => (if (BitVec.ofNat 32 a).toInt < (BitVec.ofNat 32 b).toInt then b else a, y))

/-- R144, R145: the conversions that are ready leave pending for d, 6 cc, each enabled element rounded once where it narrows and exact where
it widens, in the part of the register that the prefix names; integers clamp with SAT, and FP32 to integers with NV. -/
def Obligations.ConversionsAreRight : Prop :=
  ∀ (h : Head) (x : VecX) (d a : VNum) (mk : MaskX),
    let narrow (i : Instr) (sw dw : Nat) (f : RMode → Nat → Fx → Nat × Fx) : Prop := Converts i h x d a mk sw dw f
    let widen (i : Instr) (sw dw : Nat) (f : Nat → Nat) : Prop := Converts i h x d a mk sw dw fun _ v y => (f v, y)
    let exact (p q : FpFmt) (v : Nat) : Nat := (fpConv p q v .rne false ⟨Rng.reset, 0⟩).1
    narrow (.vcvtBf16F32 h x d a mk) 32 16 (fun m v y => fpConv fp32 bf16 v m false y) ∧
    narrow (.vcvtE4m3F32 h x d a mk) 32 8 (fun m v y => fpConv fp32 e4m3 v m (vxSat x) y) ∧
    narrow (.vcvtE5m2F32 h x d a mk) 32 8 (fun m v y => fpConv fp32 e5m2 v m (vxSat x) y) ∧
    narrow (.vcvtE4m3Bf16 h x d a mk) 16 8 (fun m v y => fpConv bf16 e4m3 v m (vxSat x) y) ∧
    narrow (.vcvtE5m2Bf16 h x d a mk) 16 8 (fun m v y => fpConv bf16 e5m2 v m (vxSat x) y) ∧
    widen (.vcvtF32Bf16 h x d a mk) 16 32 (exact bf16 fp32) ∧ widen (.vcvtF32E4m3 h x d a mk) 8 32 (exact e4m3 fp32) ∧
    widen (.vcvtF32E5m2 h x d a mk) 8 32 (exact e5m2 fp32) ∧ widen (.vcvtBf16E4m3 h x d a mk) 8 16 (exact e4m3 bf16) ∧
    widen (.vcvtBf16E5m2 h x d a mk) 8 16 (exact e5m2 bf16) ∧
    narrow (.vcvtI32F32 h x d a mk) 32 32 (fun m v y =>
      ((BitVec.ofInt 32 (roundToInt 32 (Num.ofBits fp32 v) m y).1).toNat, (roundToInt 32 (Num.ofBits fp32 v) m y).2)) ∧
    narrow (.vcvtF32I32 h x d a mk) 32 32 (fun m v y => round fp32 (Num.ofInt (BitVec.ofNat 32 v).toInt) m false y) ∧
    widen (.vcvtBf16Q4 h x d a mk) 4 16 (fun v => (round bf16 (Num.ofInt v) .rne false ⟨Rng.reset, 0⟩).1) ∧
    narrow (.vcvtI8I32 h x d a mk) 32 8 (fun _ v y =>
      let n := (BitVec.ofNat 32 v).toInt
      (if n < -128 then 0x80 else if 127 < n then 0x7F else v % 256, y.raise (satFlag (decide (n < -128) || decide (127 < n))))) ∧
    widen (.vcvtI32I8 h x d a mk) 8 32 (fun v => ((BitVec.ofNat 8 v).signExtend 32).toNat)

/-- R147 to R149: QUANT, DEQUANT, QTOBA, BADD, BALIGN, VLUT and VDQW that are ready leave their result pending for d, 6 cc, with its flags;
DEQUANT, VLUT and VDQW keep the header and the disabled lanes. Nothing else changes but the generator. -/
def Obligations.BlockInstructionsAreRight : Prop :=
  ∀ (h : Head) (x : VecX) (d a b : VNum) (kn : ANum) (mk : MaskX),
    let keep (i : Instr) (uses : Fin 8 → Uses) (w : Nat) (f : Ctx → Nat → Fx → Nat × Fx) : Prop :=
      FormsLater i h (vxWords x) uses (fun _ => .v d) (fun c k y => lanesBy w (c.mask mk) (k.getV d) (f c) y) fun _ => 6
    let dequant (w : Nat) (c : Ctx) (e : Nat) (y : Fx) : Nat × Fx :=
      ((dequantElem (c.rd.getV a).header (vat (c.rd.getV a).lanes e 0) e w y).1.toNat,
        (dequantElem (c.rd.getV a).header (vat (c.rd.getV a).lanes e 0) e w y).2)
    let nibble (c : Ctx) (e : Nat) : Nat := (vat (c.rd.getV a).lanes (e / 8) 0).toNat / 2 ^ (4 * (e % 8)) % 16
    Blocks (.quantQb8 h x d a) h x d a (fun m v y => quantise v.lanes.toList 8 m y) ∧
    Blocks (.quantQb4 h x d a) h x d a (fun m v y => quantise v.lanes.toList 4 m y) ∧
    Blocks (.qtobaQb8 h x d a) h x d a (fun _ v y => ((qtoba v 8 y).1.toVec, (qtoba v 8 y).2)) ∧
    Blocks (.qtobaQb4 h x d a) h x d a (fun _ v y => ((qtoba v 4 y).1.toVec, (qtoba v 4 y).2)) ∧
    keep (.dequantQb8 h x d a mk) (usesV2 d a mk) 32 (dequant 8) ∧ keep (.dequantQb4 h x d a mk) (usesV2 d a mk) 32 (dequant 4) ∧
    FormsLater (.badd h x d a b) h (vxWords x) (fun _ => ⟨[.v a, .v b], [.v d]⟩) (fun _ => .v d) (fun c _ y =>
      let q := Ba.ofVec (c.rd.getV b)
      (.vec (baAdd (Ba.ofVec (c.rd.getV a)) q (fun _ => q.x) none).1.toVec, y.raise (baAdd (Ba.ofVec (c.rd.getV a)) q (fun _ => q.x) none).2))
      (fun _ => 6) ∧
    FormsLater (.balign h x d a b) h (vxWords x) (fun sl => ⟨[RegId.v a] ++ vbRegs x b sl, [.v d]⟩) (fun _ => .v d) (fun c _ y =>
      let tx : Int := match vxScalar x with
        | some r => ((c.rs r).extractLsb' 0 16).toInt
        | none => (Ba.ofVec (c.rd.getV b)).x
      let r := baAlign (Ba.ofVec (c.rd.getV a)) tx
      (.vec { r.1.toVec with header := putBits r.1.toVec.header 40 2 (bits (c.rd.getV a).header 40 2) }, y.raise r.2)) (fun _ => 6) ∧
    keep (.vlut h x d a kn mk) (fun _ => ⟨[RegId.v a, .kb kn] ++ maskRegs mk, [.v d]⟩) 16
      (fun c e y => (bits c.rd.regs.kb[kn] (16 * nibble c (128 * vxImm8 x + e)) 16, y)) ∧
    keep (.vdqw h x d a b mk) (usesV x d a b mk true) 32 fun c e y =>
      let n : Int := nibble c (64 * vxImm8 x + e)
      let z : Int := ((vat (c.vb x b).lanes e 0).toNat % 16 : Nat)
      let p := (Num.ofBits fp32 (vat (c.rd.getV d).lanes e 0).toNat).mul (Num.ofInt (n - z))
      round fp32 p.1 (c.mode (vxRm x)) false (y.raise p.2)

/-- R150 to R155: a ready request to the special-function unit with fewer than 8 queued is queued with its operands, its mask and its rounding
mode; with 8 queued it is held. Nothing else changes at issue. -/
def Obligations.SpecialFunctionsAreQueued : Prop :=
  ∀ (h : Head) (x : VecX) (p : VecPfx) (d a b : VNum) (mk : MaskX),
    let holds (i : Instr) (n : Nat) (uses : Fin 8 → Uses) : Prop := ∀ s k sl, Ready s h n uses k sl → 8 ≤ k.sfu.length → HoldsBack i s false
    let one (i : Instr) (fn : SfuFn) : Prop :=
      holds i (vxWords x) (usesV2 d a mk) ∧ Queues i h (vxWords x) (usesV2 d a mk) fn d (fun c k => (k.getV d, c.rd.getV a, VReg.reset))
        (fun c => c.mask mk) (vxRm x)
    let draws (sl : Fin 8) : Uses := ⟨[sid sl p.xb, .v a, .v d] ++ maskRegs mk, [.v d]⟩
    let merges (_ : Fin 8) : Uses := ⟨[.v a, .v b], [.v d]⟩
    one (.vexp h x d a mk) .exp ∧ one (.vexp2 h x d a mk) .exp2 ∧ one (.vlog h x d a mk) .log ∧ one (.vlog2 h x d a mk) .log2 ∧
    one (.vrcp h x d a mk) .rcp ∧ one (.vrsqrt h x d a mk) .rsqrt ∧ one (.vsqrt h x d a mk) .sqrt ∧ one (.vtanh h x d a mk) .tanh ∧
    one (.vsigm h x d a mk) .sigm ∧ one (.verf h x d a mk) .erf ∧ one (.vsin h x d a mk) .sin ∧ one (.vcos h x d a mk) .cos ∧
    holds (.vdiv h x d a b mk) (vxWords x) (usesV x d a b mk false) ∧
    Queues (.vdiv h x d a b mk) h (vxWords x) (usesV x d a b mk false) .div d (fun c k => (k.getV d, c.rd.getV a, c.vb x b))
      (fun c => c.mask mk) (vxRm x) ∧
    holds (.vdraw h p d a mk) 2 draws ∧
    Queues (.vdraw h p d a mk) h 2 draws .draw d
      (fun c k => (k.getV d, c.rd.getV a,
        ⟨(Vector.replicate 64 ((c.rs p.xb).setWidth 32)).set 1 (vat (c.rd.getV d).lanes 0 0), 0⟩)) (fun c => c.mask mk) .rne ∧
    holds (.dmerge h x d a b) (vxWords x) merges ∧
    Queues (.dmerge h x d a b) h (vxWords x) merges .dmerge d (fun c k => (k.getV d, c.rd.getV a, c.rd.getV b)) (fun _ => BitVec.allOnes 64) .rne

/-! ## The matrix unit -/

/-- R157 to R159, R163 to R186: a ready matrix command with fewer than 16 undispatched commands in the queue, whose checks pass and whose operands
have nothing to wait for, is queued with its operands as read at issue; with 16 it is held. Nothing else changes at issue. -/
def Obligations.MatrixCommandsAreQueued : Prop :=
  ∀ (h : Head) (x : VecX) (n : ANum) (pr : Bool) (d : SReg) (a b : SReg) (vd va vb : VNum) (g : BitVec 2) (z : Bool),
    let first : ANum := if pr then 2 else 0
    let full (i : Instr) (w : Nat) (uses : Fin 8 → Uses) : Prop :=
      ∀ s k sl, Ready s h w uses k sl → 16 ≤ k.matrix.countP (fun m => !m.dispatched) → HoldsBack i s false
    let mma (i : Instr) (m : MmaMode) (n : ANum) : Prop := full i 1 (usesAB a b) ∧
      QueuesMatrix i h 1 (usesAB a b) (fun c k => k.mmaCheck c.pc m (c.rs a) (c.rs b)) true fun c => .mma m n (c.rs a).toNat (c.rs b)
    let plain (i : Instr) (w : Nat) (uses : Fin 8 → Uses) (cmd : Ctx → MCmd) : Prop := full i w uses ∧
      QueuesMatrix i h w uses (fun _ _ => none) false cmd
    let drain (i : Instr) (out : DrainFmt) (own : Fmt) : Prop := plain i (vxWords x) (fun _ => ⟨[], [.v vd]⟩) fun c =>
      .mdrain out vd n g.toNat z (decide (vxFmt x own = .ba32)) (fixedRm (c.mode (vxRm x))) (vxSat x)
    mma (.mmaF8f8 h n a b) .f8f8 n ∧ mma (.mmaB16b16 h n a b) .b16b16 n ∧ mma (.mmaF8i4 h pr a b) .f8i4 first ∧
    mma (.mmaB16i4 h pr a b) .b16i4 first ∧ mma (.mmaB16l4 h pr a b) .b16l4 first ∧ mma (.mmaQb8 h n a b) .qb8 n ∧
    mma (.mmaQb4 h n a b) .qb4 n ∧
    (full (.mldw h a b) 1 (usesAB a b) ∧ QueuesMatrix (.mldw h a b) h 1 (usesAB a b) (fun c k => k.ldwCheck c.pc (c.rs a) (c.rs b)) true
      fun c => .mldw (c.rs a).toNat (c.rs b)) ∧
    plain (.mswap h) 1 usesNone (fun _ => .mswap) ∧ plain (.mldk h n va) 1 (fun _ => ⟨[.v va], []⟩) (fun c => .mldk n (c.rd.getV va)) ∧
    plain (.mcolq h pr va vb) 1 (fun _ => ⟨[.v va, .v vb], []⟩) (fun c => .mcolq first (c.rd.getV va) (c.rd.getV vb)) ∧
    plain (.mzero h n) 1 usesNone (fun _ => .mzero n) ∧
    plain (.mmovaToVector h vd n g) 1 (fun _ => ⟨[], [.v vd]⟩) (fun _ => .toVector vd n g.toFin) ∧
    plain (.mmovaToAcc h n va g) 1 (fun _ => ⟨[.v va], []⟩) (fun c => .toAcc n (c.rd.getV va) g.toFin) ∧
    plain (.mrsum h vd n) 1 (fun _ => ⟨[], [.v vd]⟩) (fun _ => .mrsum vd n) ∧
    plain (.mchk h d n) 1 (usesD d) (fun _ => .mchk d n) ∧ plain (.msync h d) 1 (usesD d) (fun _ => .msync d) ∧
    drain (.mdrainF32 h x vd n g z) .f32 .f32 ∧ drain (.mdrainBf16 h x vd n g z) .bf16 .f32 ∧ drain (.mdrainE4m3 h x vd n g z) .e4m3 .f32 ∧
    drain (.mdrainE5m2 h x vd n g z) .e5m2 .f32 ∧ drain (.mdrainQb8 h x vd n g z) .qb8 .ba32 ∧
    drain (.mdrainQb4 h x vd n g z) .qb4 .ba32 ∧ drain (.mdrainBa32 h x vd n g z) .ba32 .ba32

/-- R165 to R167, R170, R171, R175, R187: MMA with a row count outside 1 to 16, and MLDW with a layout that the rules refuse, fault with MARGS; both then check
that a and the stride are multiples of 16, that their bytes lie below 0x3_0000 and that the slot may read them; FADDR holds a when a is
misaligned or 2^18 or more. A fault queues nothing. -/
def Obligations.MatrixOperandsAreChecked : Prop :=
  ∀ (h : Head) (n : ANum) (pr : Bool) (a b : SReg) (s : State) (k : Core) (sl : Fin 8),
    let c := ctxOf s 1 k sl
    let p := (c.rs a).toNat
    let v := c.rs b
    let stride := bits v 16 16
    let here : Word := BitVec.ofNat 64 (k.slot sl).pc
    let checks (i : Instr) (bad strided : Prop) (l : List (Nat × Nat)) : Prop :=
      (bad → Faults i s 1 k sl .margs here) ∧
      (¬ bad →
        (p % 16 ≠ 0 → Faults i s 1 k sl .lalign (c.rs a)) ∧
        (p % 16 = 0 → strided → stride % 16 ≠ 0 →
          Faults i s 1 k sl .lalign (if 2 ^ 18 ≤ p then c.rs a else c.rs a + BitVec.ofNat 64 stride)) ∧
        (p % 16 = 0 → (strided → stride % 16 = 0) →
          (2 ^ 18 ≤ p → Faults i s 1 k sl .lrange (c.rs a)) ∧
          (p < 2 ^ 18 →
            (∀ y, 0x30000 ≤ y → (∃ e ∈ l, e.1 ≤ y ∧ y < e.1 + e.2) → (∀ z, 0x30000 ≤ z → z < y → ∀ e ∈ l, ¬ (e.1 ≤ z ∧ z < e.1 + e.2)) →
              (∀ e ∈ l, 0 < e.2) → Faults i s 1 k sl .lrange (BitVec.ofNat 64 y)) ∧
            ((∀ e ∈ l, e.1 + e.2 ≤ 0x30000) → ∀ pre e post, l = pre ++ e :: post → (∀ q ∈ pre, k.allowed false q.1 q.2 = true) →
              k.allowed false e.1 e.2 = false → Faults i s 1 k sl .tnone (BitVec.ofNat 64 e.1)))))
    Ready s h 1 (usesAB a b) k sl → k.matrix.countP (fun m => !m.dispatched) < 16 →
    (∀ (i : Instr) (m : MmaMode),
      (i, m) ∈ [(.mmaF8f8 h n a b, .f8f8), (.mmaB16b16 h n a b, .b16b16), (.mmaF8i4 h pr a b, .f8i4), (.mmaB16i4 h pr a b, .b16i4),
        (.mmaB16l4 h pr a b, .b16l4), (.mmaQb8 h n a b, .qb8), (.mmaQb4 h n a b, .qb4)] →
      let rows := bits v 0 5
      let blocks := if m = .qb8 then 4 else 8
      let tables : List (Nat × Nat) :=
        if m = .qb8 ∨ m = .qb4 then [(8 * bits v 32 15, 8 * blocks * rows), (8 * bits v 48 15, 8 * blocks * 16)] else []
      checks i (rows = 0 ∨ 16 < rows) True (((List.range rows).map fun r => (p + r * stride, 256)) ++ tables)) ∧
    (let kk := 128 * 2 ^ bits v 4 2
      let nc := bits v 6 6
      let ew := if bits v 0 2 = 0 then 8 else if bits v 0 2 = 1 then 16 else 4
      let rows := if v.getLsbD 3 then kk else nc
      let cols := if v.getLsbD 3 then nc else kk
      let zorder := v.getLsbD 2
      checks (.mldw h a b) (bits v 0 2 = 3 ∨ bits v 4 2 = 3 ∨ nc = 0 ∨ 32 < nc ∨ 32768 < nc * kk * ew ∨
          zorder = true ∧ nc ≠ 4 ∧ nc ≠ 8 ∧ nc ≠ 16 ∧ nc ≠ 32) (zorder = false)
        (if zorder then [(p, nc * kk * ew / 8)] else (List.range rows).map fun j => (p + j * stride, (cols * ew + 7) / 8)))

/-- R160, R161: MATRIX_DISPATCH takes the oldest undispatched command when it was issued and the last dispatch happened in earlier cycles, its pipes
are free and no earlier command that has not completed conflicts with it, an MMA on the same accumulators apart; it occupies its pipes and
completes after its times, MSYNC when the slot's earlier commands have. R159, R162, R163, R168, R169, R173, R177, R178, R182, R184 to R186:
MATRIX_COMPLETION of a due command whose operands are sound takes it off the queue and writes its destination: MMA, MLDW and MCOLQ form their
accumulators and plane, of the bytes at their addresses when no write has come since issue; MZERO clears its accumulator, MSWAP exchanges
the planes, MLDK loads a codebook, MMOVA and MRSUM move lanes, MDRAIN writes the vector formed at dispatch and clears what Z says, MCHK and
MSYNC write their scalar; an accumulator, plane or codebook that the command does not write keeps its value. One whose operands hold an uncorrectable word
faults its slot with UELS then (log 15); a dispatch that is not due is none of the model's (log 57). -/
def Obligations.MatrixEventsAreRight : Prop :=
  (∀ (s : State) (c : Nat) (k : Core) (pre post : List MEntry) (x : MEntry), s.core? c = some k → k.matrix = pre ++ x :: post →
    (∀ e ∈ pre, e.dispatched = true) → x.dispatched = false → (∀ e ∈ pre ++ post, e.id ≠ x.id) →
    let load := match x.cmd with
      | .mldw _ _ | .mswap => true
      | _ => false
    let compute := match x.cmd with
      | .mldw _ _ | .msync _ => false
      | _ => true
    let conflicts (e : MCmd) : Prop :=
      ((∃ r ∈ e.writes, r ∈ x.cmd.reads ∨ r ∈ x.cmd.writes) ∨ ∃ r ∈ e.reads, r ∈ x.cmd.writes) ∧
        ¬ (x.cmd.isMma = true ∧ e.isMma = true ∧ x.cmd.writes = e.writes)
    let free : Prop := x.issued < s.cyc c ∧ k.lastDispatch < s.cyc c ∧ (load = true → k.loadFree ≤ s.cyc c) ∧
      (compute = true → k.computeFree ≤ s.cyc c) ∧ ∀ e ∈ k.matrix, e.dispatched = true → ¬ conflicts e.cmd
    let occ := match x.cmd with
      | .mma m _ _ b => (if m = .qb4 then 8 else 16) * bits b 0 5
      | .mldw _ b => cdiv (ldwBytes b) 64
      | .toVector _ _ _ | .toAcc _ _ _ => 2
      | .mcolq _ _ _ | .mchk _ _ => 16
      | .mdrain out _ _ _ _ _ _ _ => out.rows
      | .msync _ => 0
      | _ => 1
    let lat := match x.cmd with
      | .mma _ _ _ _ => 14
      | .mldw _ _ | .toVector _ _ _ | .toAcc _ _ _ => 4
      | .mcolq _ _ _ | .mdrain _ _ _ _ _ _ _ _ => 6
      | .mswap | .msync _ => 0
      | _ => 2
    (¬ free → exec (.matrixDispatch c) s = .fault .noSuchItem) ∧
    (free → ∃ t q y, exec (.matrixDispatch c) s = .next t ∧ t.core? c = some q ∧ y ∈ q.matrix ∧ y.id = x.id ∧ y.dispatched = true ∧
      y.cmd = x.cmd ∧ (x.cmd.isSync = false → y.completeAt = s.cyc c + occ + lat) ∧
      (x.cmd.isSync = true → s.cyc c ≤ y.completeAt ∧ ∀ e ∈ pre, e.slot = x.slot → e.completeAt ≤ y.completeAt) ∧
      q.lastDispatch = s.cyc c ∧ q.loadFree = (if load then s.cyc c + occ else k.loadFree) ∧
      q.computeFree = (if compute then s.cyc c + occ else k.computeFree) ∧ (∀ e ∈ pre ++ post, e ∈ q.matrix) ∧
      q.mem = k.mem ∧ q.regs.acc = k.regs.acc ∧ ∀ r, q.slot r = k.slot r)) ∧
  ∀ (s : State) (c : Nat) (k : Core) (x : MEntry), s.core? c = some k →
    (k.matrix.find? fun m => m.dispatched && decide (m.completeAt ≤ s.cyc c) && decide (m.id = x.id)) = some x →
    let q0 := (x.cmd.ranges.foldl (fun q e => q.injectRead e.1 e.2) k).amaxApply (s.cyc c)
    let leaves (q : Core) : Core := { q with matrix := q.matrix.filter fun e => decide (e.id ≠ x.id) }
    (∀ w, q0.badRanges x.cmd.ranges = some w → exec (.matrixCompletion c x.id) s = .next
      (((s.modCore c fun _ => { leaves q0 with
          matrix := (leaves q0).matrix.filter fun e => decide (e.slot ≠ x.slot) || e.dispatched }).faultSlot c x.slot .uels
        ⟨BitVec.ofNat 64 w, (k.slot x.slot).pc, some x.issued, false, 0, 0, 0⟩).settleWaits c)) ∧
    (q0.badRanges x.cmd.ranges = none →
    let q := (q0.matrixWrite s.fresh x).1
    (exec (.matrixCompletion c x.id) s = .next
      (({ s.modCore c fun _ => leaves q with fresh := s.fresh + 1 }.raiseFlags c x.slot (q0.matrixWrite s.fresh x).2 x.trapEn x.pc
        x.issued).settleWaits c)) ∧
    (∀ n : Fin 4, MatReg.acc n ∉ x.cmd.writes → q.regs.acc[n] = k.regs.acc[n]) ∧
    (MatReg.wa ∉ x.cmd.writes → q.regs.wa = k.regs.wa) ∧ (MatReg.ws ∉ x.cmd.writes → q.regs.ws = k.regs.ws) ∧
    (∀ n : Fin 4, MatReg.kb n ∉ x.cmd.writes → q.regs.kb[n] = k.regs.kb[n]) ∧ q.mem = k.mem ∧
    (∀ m n a b, x.cmd = .mma m n a b → x.snap = [k.mem] →
      let rows := (List.range (bits b 0 5)).map fun r => k.mem.readN (a + r * bits b 16 16) 256
      let qb := mmaQb m b rows (k.mem.readN (8 * bits b 32 15) (8 * m.blocks * bits b 0 5)) (k.mem.readN (8 * bits b 48 15) (8 * m.blocks * 16))
        k.regs.wa k.regs.acc[n]
      let fp := mmaFp m b rows k.regs.wa k.regs.kb k.regs.acc[n] k.regs.acc[n + 1]
      (m = .qb8 ∨ m = .qb4 → q.regs.acc[n] = qb.1 ∧ (q0.matrixWrite s.fresh x).2 = qb.2.flags) ∧
      (m = .f8f8 ∨ m = .b16b16 → q.regs.acc[n] = fp.1) ∧
      (m = .f8i4 ∨ m = .b16i4 ∨ m = .b16l4 → q.regs.acc[n] = fp.1 ∧ q.regs.acc[n + 1] = fp.2.1) ∧
      (m ≠ .qb8 → m ≠ .qb4 → (q0.matrixWrite s.fresh x).2 = fp.2.2.flags)) ∧
    (∀ a b, x.cmd = .mldw a b → x.snap = [k.mem] → ∃ len, (∀ e ∈ ldwRanges a b, e.1 + e.2 ≤ a + len) ∧
      q.regs.ws = ldwPlane b (ofBytes (k.mem.readN a len)) k.regs.ws) ∧
    (∀ n va vb, x.cmd = .mcolq n va vb →
      let r := colQ k.regs.acc[n] k.regs.acc[n + 1] va vb
      q.regs.acc[n] = r.1 ∧ q.regs.acc[n + 1] = r.2.1) ∧
    (∀ n, x.cmd = .mzero n → q.regs.acc[n] = Acc.reset) ∧
    (x.cmd = .mswap → q.regs.wa = k.regs.ws ∧ q.regs.ws = k.regs.wa) ∧
    (∀ n v, x.cmd = .mldk n v → ∀ j, j < 8 → (q.regs.kb[n]).extractLsb' (32 * j) 32 = vat v.lanes j 0) ∧
    (∀ d n g, x.cmd = .toVector d n g → ∀ e, e < 64 → vat (q.getV d).lanes e 0 = vat (k.regs.acc[n]).lanes (64 * g.val + e) 0) ∧
    (∀ n v g, x.cmd = .toAcc n v g → ∀ e, e < 256 → vat (q.regs.acc[n]).lanes e 0 =
      if e / 64 = g.val then vat v.lanes (e % 64) 0 else vat (k.regs.acc[n]).lanes e 0) ∧
    (∀ d n, x.cmd = .mrsum d n → ∀ e, e < 64 → vat (q.getV d).lanes e 0 =
      if e < 16 then vat (k.regs.acc[n]).rs e 0 else vat (k.getV d).lanes e 0) ∧
    (∀ out d n g z ba rm sat v, x.cmd = .mdrain out d n g z ba rm sat → x.result = some v → q.getV d = v ∧
      (z = true → ∀ e, e < 256 → vat (q.regs.acc[n]).lanes e 0 =
        if out.rows * g ≤ e / 16 ∧ e / 16 < out.rows * g + out.rows then 0 else vat (k.regs.acc[n]).lanes e 0)) ∧
    (∀ d n, x.cmd = .mchk d n → d ≠ .g 0 → ∃ w : Word, q.getReg (sid x.slot d) = .word w ∧ ∀ r, r < 64 →
      (w.getLsbD r = true ↔ ∃ v, r < 16 ∧ ((n.castSucc, r), v) ∈ k.regs.badRows ∨ ((4, r), v) ∈ k.regs.badRows)) ∧
    (∀ d, x.cmd = .msync d → d ≠ .g 0 → q.getReg (sid x.slot d) = .word 0))

/-! ## Events of a core -/

/-- R71, R120, R122 to R124, R134, R152, R192, R317, R318, R356: SLOT_SELECTION makes RUNNING the READY slot of lowest PRIO, then longest READY, then
lowest number, one that has just yielded after every other (R123), which issues 2 cc after it became READY, 3 cc after the last issue and when the S of its own last
instruction lets it, and empties the fetch buffer; PRIORITY_RAISE lowers PRIO by one after 65,536
cycles; WAIT_LIMIT_EXPIRY ends a wait with its value, or faults its slot on an uncorrectable word; the special-function unit starts requests in
order, each with its service time, and writes their results in order; DRAINING_END drops a membership of an ended slot, returns a held entry to another core's home or removes a LOST one, and frees a slot without work and
tokens, in this order (DEDUCED, log 34). -/
def Obligations.SlotEventsAreRight : Prop :=
  ∀ (s : State) (c : Nat) (k : Core) (sl : Fin 8), s.core? c = some k →
    let x := k.slot sl
    let cyc := s.cyc c
    let able (r : Fin 8) : Prop := (k.slot r).st = .ready ∧ (k.slot r).readyAt ≤ cyc ∧ (k.slot r).stopped = false
    let first (r : Fin 8) : Prop := x.prio.toNat < (k.slot r).prio.toNat ∨ x.prio = (k.slot r).prio ∧
      (x.readyAt < (k.slot r).readyAt ∨ x.readyAt = (k.slot r).readyAt ∧
        (r = sl ∨ k.yielded = some r ∨ sl < r ∧ k.yielded ≠ some sl))
    (k.running = none → able sl → (∀ r, able r → first r) →
      exec (.slotSelection c) s = .next (s.modCore c fun q => { q.modSlot sl fun y => { y with
        st := .running, nextIssue := max y.nextIssue (max (y.readyAt + 2) (match k.lastIssue with
          | some l => l + 3
          | none => 0)) } with stale := [], yielded := none })) ∧
    (x.st = .ready → x.ageFrom + 65536 ≤ cyc → x.prio ≠ 0 →
      exec (.priorityRaise c sl) s = .next (s.modCore c fun q =>
        (q.modSlot sl fun y => { y with prio := y.prio - 1, ageFrom := cyc }).count 20 1)) ∧
    (x.st = .waiting → k.halted = false → k.frozen = false → ∀ limit, limit ≤ s.timeNs →
      let ends (u : State) (d : SReg) (v : Word) : State := u.modCore c fun q => (q.setReg (sid sl d) (.word v)).modSlot sl fun y =>
        { y with st := .ready, ageFrom := cyc, readyAt := cyc, wait := none }
      let reads (a n : Nat) : State := s.modCore c fun q => q.injectRead a n
      let word (a : Nat) : Word := BitVec.ofNat 64 (k.mem.readLE a 8)
      (∀ d, x.wait = some (.all d (some limit)) → exec (.waitLimitExpiry c sl) s = .next (ends s d 1)) ∧
      ∀ d a n, ((∃ v, x.wait = some (.word d (some limit) a v)) ∧ n = 8 ∨ (∃ v, x.wait = some (.latch d (some limit) a v)) ∧ n = 16) →
        ((k.injectRead a n).badIn a n = none → exec (.waitLimitExpiry c sl) s = .next (ends (reads a n) d (word a))) ∧
        ((k.injectRead a n).badIn a n ≠ none → exec (.waitLimitExpiry c sl) s =
          .next ((reads a n).faultSlot c sl .uels (FaultInfo.here (BitVec.ofNat 64 a) x.pc)))) ∧
    (∀ pre q post, k.sfu = pre ++ q :: post → (∀ e ∈ pre, e.start.isSome) → q.start = none → q.issued < cyc → k.sfuNext ≤ cyc →
      let latency := if q.fn = .draw then 40 else if q.fn = .dmerge then 8 else 22
      let service := if q.fn = .draw then 16 else if q.fn = .dmerge then 1 else 4
      let r := q.compute k.regs.rng
      exec (.sfuServiceStart c) s = .next (s.modCore c fun p => { p.setRng r.2.rng with
        sfuNext := cyc + service
        sfu := pre ++ { q with start := some cyc, writeAt := cyc + latency, result := r.1, flags := r.2.flags } :: post })) ∧
    (∀ q post, k.sfu = q :: post → q.start.isSome → q.writeAt ≤ cyc → k.sfuWrite ≤ cyc → trapCause (q.flags &&& q.trapEn) = none →
      exec (.sfuResultWrite c) s = .next ((s.modCore c fun p => (({ p.setReg (.v q.d) (.vec q.result) with
        sfu := post, sfuWrite := cyc + 1, issueFrom := cyc + 1 } : Core).count 9 1).orFlags q.slot q.flags).settleWaits c)) ∧
    (x.st = .draining →
      (∀ i m, x.killed = false → (k.tables.members.find? fun e => decide (e.2.slot = sl)) = some (i, m) →
        k.overlapHold sl m.addr 16 true = false → k.acqHold c sl (.core (peerCore m.addr)) = false → k.reqFree = true →
        let u : State := s.modCore c fun q => { q with tables := { q.tables with members := adel i q.tables.members } }
        ∀ y, u.remAddr c k m.addr 1 true = .ok y → ∃ t q r, exec (.drainingEnd c sl) s = .next t ∧ t.core? c = some q ∧
          q.tables.members = adel i k.tables.members ∧ r ∈ q.reqs ∧ r.home = y.home ∧ r.slot = sl ∧
          r.op = .latch .endDrop y.addr (BitVec.ofNat 64 (m.count + 2 ^ 16))) ∧
      (k.working sl = false → (∀ e ∈ k.tables.members, e.2.slot ≠ sl) →
        (∀ i h rest, (k.tables.held.filter fun e => decide (e.2.slot = sl)) = (i, h) :: rest → h.lost = true →
          exec (.drainingEnd c sl) s = .next (s.modCore c fun q => q.dropHeld i)) ∧
        (∀ i h, (k.tables.held.filter fun e => decide (e.2.slot = sl)) = [(i, h)] → h.lost = false → h.reserved = false → x.killed = false →
          k.reqFree = true → h.base * 256 < peerBase c ∨ peerBase c + 0x30000 ≤ h.base * 256 →
          let u : State := s.modCore c fun q => q.dropHeld i
          ∀ y, u.remAddr c k (h.base * 256) 1 true = .ok y → ∃ t q r, exec (.drainingEnd c sl) s = .next t ∧ t.core? c = some q ∧
            q.tables.held = (k.dropHeld i).tables.held ∧ r ∈ q.reqs ∧ r.home = y.home ∧ r.slot = sl ∧ r.op =
              if h.kind = 0 then .tok .ret y.addr (h.base * 256) 0 (some h.epoch) 0
              else .tok .unsh y.addr (h.base * 256) 0 (some h.epoch) h.kind) ∧
        ((∀ e ∈ k.tables.held, e.2.slot ≠ sl) → (∀ e ∈ k.tables.home, e.2.rel = false) → k.tables.msgs = [] →
          (s.partOf k).killing = none → exec (.drainingEnd c sl) s = .next (s.modCore c fun q => q.modSlot sl fun y => { y with
            st := .free, killed := false, ended := false, wait := none }))))

/-- R303, R307, R328 to R330, R379: COPY_ACTIVATION makes the first waiting copy active while fewer than 48 are; COPY_UNIT_SEND of a unit within
the own store writes its bytes, which no write to the source has changed since issue, and is counted (R363), and of one with a remote source asks its home for
them; COPY_COMPLETION_WRITE of an ended copy writes its word, with bit 63 after its deadline and bits 63 and 62 when it was abandoned, or
sends it in the data class; COPY_DEADLINE notes the deadline, and abandons a copy with DLA and units not transmitted; COPY_CLASS_RAISE moves
a copy to the data class. -/
def Obligations.CopyEventsAreRight : Prop :=
  ∀ (s : State) (c : Nat) (k : Core) (x : Copy), s.core? c = some k →
    let only : Prop := x ∈ k.copies ∧ ∀ y ∈ k.copies, y.id = x.id → y = x
    let becomes (f : Copy → Copy) : State := s.modCore c fun q => { q with copies := q.copies.map fun y => if y.id = x.id then f y else y }
    (∀ pre post, k.copies = pre ++ x :: post → (∀ y ∈ pre, y.active = true) → x.active = false →
      (k.copies.filter fun y => y.active).length < 48 →
      exec (.copyActivation c) s = .next (becomes fun y => { y with active := true })) ∧
    (k.copyNext ≤ s.now → k.copyNextUnit (s.cyc c) = some x →
      let (a, d, n) := x.unit x.begun
      (a < 0x30000 → d < 0x30000 → k.mem.wf = true → x.snap = [k.mem] → only → x.sent = x.begun → x.ready = [] →
        (∀ r ∈ k.reqs, r.unsent x.id = false) → (k.injectRead a n).badIn a n = none →
        ((k.injectRead a n).injectPartial d n).badPartial d n = none →
        ∃ t q, exec (.copyUnitSend c) s = .next t ∧ t.core? c = some q ∧
          (∀ y, q.mem.read y = if d ≤ y ∧ y < d + n then k.mem.read (a + (y - d)) else k.mem.read y) ∧
          ∀ i : Fin 4, bits k.regs.pmsel (8 * i.val) 8 = 10 → q.regs.pmc[i] = k.regs.pmc[i] + 1) ∧
      (∀ y, 0x30000 ≤ a → x.spill = none → s.remAddr c k a n false = .ok y → ∃ t q r, exec (.copyUnitSend c) s = .next t ∧ t.core? c = some q ∧ r ∈ q.reqs ∧
        r.home = y.home ∧ r.op = .load y.addr n 6 ∧ r.sink = .copyRead x.id x.begun)) ∧
    (only → x.completing = false → x.ready = [] → x.ended = (if x.abandoned then x.sent else x.total) →
      (x.ncw = true → exec (.copyCompletionWrite c x.id) s = .next (s.modCore c fun q => { q with
        copies := q.copies.filter fun y => decide (y.id ≠ x.id), reqs := q.reqs.filter fun r => !r.unsent x.id })) ∧
      (∀ y, x.ncw = false → 0x30000 ≤ x.cw → s.remAddr c k x.cw 8 true = .ok y → ∃ t q r, exec (.copyCompletionWrite c x.id) s = .next t ∧
        t.core? c = some q ∧ r ∈ q.reqs ∧ r.home = y.home ∧ r.op = .cword y.addr x.value x.deadline x.abandoned ∧
        r.sink = .copyDone x.id ∧ r.cls = 5) ∧
      (x.ncw = false → x.cw < 0x30000 → k.mem.wf = true →
        ∃ t q v, exec (.copyCompletionWrite c x.id) s = .next t ∧ t.core? c = some q ∧ v = x.value % 2 ^ 62 +
            (if x.abandoned then 0xC000000000000000
              else if ∃ dl, x.deadline = some dl ∧ dl / 1000 < s.timeNs / 1000 then 0x8000000000000000 else 0) ∧
          ∀ y, q.mem.read y = if x.cw ≤ y ∧ y < x.cw + 8 then v.extractLsb' (8 * (y - x.cw)) 8 else k.mem.read y)) ∧
    (only → x.late = false → ∀ dl, x.deadline = some dl → dl ≤ s.timeNs →
      let sent := x.sent - (k.reqs.filter fun r => r.unsent x.id).length
      let abandons : Prop := x.dla = true ∧ x.completing = false ∧ sent < x.total
      (abandons → exec (.copyDeadline c x.id) s = .next (s.modCore c fun q => { q with
        reqs := q.reqs.filter fun r => !r.unsent x.id
        copies := q.copies.map fun y =>
          if y.id = x.id then { y with late := true, abandoned := true, ready := [], sent := sent } else y })) ∧
      (¬ abandons → exec (.copyDeadline c x.id) s = .next (becomes fun y => { y with late := true }))) ∧
    (only → x.offload = true → x.dl ≠ 0 → x.issuedNs + (x.dl - x.dl / 4) * 1000 ≤ s.timeNs →
      ∃ t q, exec (.copyClassRaise c x.id) s = .next t ∧ t.core? c = some q ∧ { x with offload := false } ∈ q.copies ∧
        ∀ r ∈ q.reqs, r.sink = .copyUnit x.id ∨ r.sink = .copyDone x.id ∨ (∃ u, r.sink = .copyRead x.id u) → r.cls = 5)

/-! ## Events of messages -/

/-- R205, R212, R214, R293, R294, R297, R301, R389: a request that its home may serve is performed: a first store writes its bytes, marks its reply
entry done and is acknowledged, a retransmission changes no byte, a load is answered with its bytes; a device completes what it holds, a CXL
device 64 bytes at a time in rising order (log 64), and a host read, whose 500 µs begin when the port takes it, ends with XLATE when they have passed. A walk in flight ends, or begins again after a shootdown (log 21). A reply of success writes its register; a timer sends the next attempt, with the timer doubled, or after
the eighth ends the request; a retransmission is counted (R363). Messages older than 64 µs are dropped, and freeable entries freed. -/
def Obligations.MessageEventsAreRight : Prop :=
  ∀ (s : State) (pk : Packet) (rid : BitVec 22) (ser : BitVec 32) (ackd att : Nat) (fts sts : BitVec 16) (subject : BitVec 21) (wr : Bool)
    (rq : Nat) (op : ROp), pk ∈ s.net → (∀ p ∈ s.net, p.id = pk.id → p = pk) →
    let request : Prop := pk.body = .request rid ser ackd att fts sts subject wr rq op
    let answered (t : State) (st : Byte) (bs : List Byte) : Prop := ∃ p ∈ t.net, ∃ inc data, p.dst = pk.src ∧
      p.body = .reply rid ser rq inc st data bs
    let foreign : Prop := s.isLocal pk.src rq = false ∧ s.isDead pk.src = false ∧ s.isDead pk.dst = false
    (request → s.serviceReady pk = true →
      (wr = true → op.isGrant = false → op.isSubmit = false → ∃ t, exec (.writeRequestService pk.id) s = .next t ∧
        ∀ c k, pk.dst = .core c → s.core? c = some k → k.frozen = false → foreign →
          (ackd < 2 ^ 31 → (∃ e ∈ k.tables.once.cache, e.2.rid = rid ∧ e.2.ser = ser) → ∃ q, t.core? c = some q ∧ q.mem = k.mem) ∧
          (∀ a bs n fi ei, op = .store a bs n → (∀ e ∈ k.tables.once.cache, ¬ (e.2.rid = rid ∧ e.2.ser = ser)) →
            (∀ e ∈ k.tables.once.reqs, e.2.rid ≠ rid) → afree 16 k.tables.once.reqs = some fi → afree 64 k.tables.once.cache = some ei →
            k.homeCheck subject true a bs.length = none → a % 8 = 0 → bs.length % 8 = 0 → k.badPartial a bs.length = none → k.mem.wf = true →
            answered t 0 [] ∧ ∃ q e, t.core? c = some q ∧ aget ei q.tables.once.cache = some e ∧ e.rid = rid ∧ e.ser = ser ∧ e.done = true ∧
              ∀ y, q.mem.read y = if a ≤ y ∧ y < a + bs.length then bs.getD (y - a) 0 else k.mem.read y)) ∧
      (wr = false → ∃ t, exec (.readRequestService pk.id) s = .next t ∧
        ∀ c k a m n, pk.dst = .core c → s.core? c = some k → k.frozen = false → foreign → op = .load a m n →
          k.homeCheck subject false a m = none → (k.injectRead a m).badIn a m = none → answered t 0 (k.mem.readN a m)) ∧
      (wr = false → ∀ p a m n, pk.dst = .port p → (s.port p).kind = 2 → op = .load a m n → foreign →
        s.edgeDenied p subject op = none → ∃ t, exec (.readRequestService pk.id) s = .next t ∧
          ∃ x ∈ t.net, x.id = pk.id ∧ x.atDevice = true ∧ x.body = pk.body ∧ x.dst = pk.dst ∧ x.base = s.now + 650000)) ∧
    (request → pk.atDevice = true → pk.arrive ≤ s.now → ∀ p, p < 64 → pk.dst = .port p →
      let m := (s.port p).mem
      (∀ a bs n, op = .store a bs n → m.wf = true → 0 < bs.length →
        let performed (t : State) (lo hi : Nat) : Prop := ∀ y, (t.port p).mem.read y = if lo ≤ y ∧ y < hi then bs.getD (y - a) 0 else m.read y
        (let j := a / 64 + pk.lines.length
          let lo := max a (64 * j)
          let hi := min (a + bs.length) (64 * (j + 1))
          (s.port p).kind = 1 → 64 * j < a + bs.length → hi ≤ (s.port p).cap.toNat * 2 ^ 30 →
            ∃ t, exec (.cxlMemCompletion pk.id) s = .next t ∧ performed t lo hi ∧
              (64 * (j + 1) < a + bs.length → ∃ x ∈ t.net, x.id = pk.id ∧ x.atDevice = true ∧ x.lines = pk.lines ++ [some []]) ∧
              (a + bs.length ≤ 64 * (j + 1) → (∀ l ∈ pk.lines, l.isSome) → s.isLocal pk.src rq = false → answered t 0 [])) ∧
        ((s.port p).kind = 2 → ∃ t, exec (.hostPortCompletion pk.id) s = .next t ∧ performed t a (a + bs.length) ∧
          (s.isLocal pk.src rq = false → answered t 0 []))) ∧
      ∀ a len n, op = .load a len n → 0 < len → s.isLocal pk.src rq = false → (s.port p).poisoned a len = false →
        ((s.port p).kind = 1 → a / 64 = (a + len - 1) / 64 → pk.lines = [] → a + len ≤ (s.port p).cap.toNat * 2 ^ 30 →
          ∃ t, exec (.cxlMemCompletion pk.id) s = .next t ∧ answered t 0 (m.readN a len)) ∧
        ((s.port p).kind = 2 → ∃ t, exec (.hostPortCompletion pk.id) s = .next t ∧ answered t 0 (m.readN a len))) ∧
    (request → pk.atDevice = true → pk.base ≤ s.now → ∀ p a m n, pk.dst = .port p → (s.port p).kind = 2 → op = .load a m n →
      ∃ t, exec (.hostReadTimeout pk.id) s = .next t ∧ (s.isLocal pk.src rq = false → answered t (BitVec.ofNat 8 Cause.xlate.code) [])) ∧
    (request → pk.atDevice = false → s.isLocal pk.src rq = false → s.tooOld sts = true →
      exec (.requestAgeDiscard pk.id) s = .next { s with net := s.net.filter fun p => decide (p.id ≠ pk.id) }) ∧
    (∀ inc st data bs q, pk.body = .reply rid ser rq inc st data bs → pk.atDevice = false → pk.arrive ≤ s.now → pk.crcBad = false →
      s.isFrozen pk.dst = false → s.findReq pk.dst rq = some q → (∀ i n k w, q.sink ≠ .grantFor i n k w) →
      (∃ t, exec (.replyArrival pk.id) s = .next t) ∧
      ∀ c k, pk.dst = .core c → s.core? c = some k → k.regs.finj.getLsbD 0 = false → q.localWait = true ∨ q.ser = ser → st = 0 →
        (k.slot q.slot).killed = false → ∀ r v, (∃ sz, q.sink = .scalar r sz ∧ v = .word (ldExtend sz (ofBytes bs))) ∨
          (q.sink = .data r false ∧ v = .word data) →
        exec (.replyArrival pk.id) s = .next (((({ s with net := s.net.filter fun p => decide (p.id ≠ pk.id) }.modCore c fun z => { z with
          reqs := z.reqs.filter fun y => decide (y.id ≠ q.id) }).modCore c fun z => z.setReg r v).settleWaits c).copyFlush c)) ∧
    ∀ (n : Node) (id : Nat),
      (∀ q, s.findReq n id = some q → 0 < q.att → q.due ≤ s.now → q.localWait = false → q.walk = none →
        (8 ≤ q.att → exec (.retryTimerExpiry n id) s = .next (s.endReq n q (if q.wr then .unknown else .fail .fabricLost))) ∧
        (q.att < 8 → ∃ t, exec (.retryTimerExpiry n id) s = .next t ∧
          (∃ q' ∈ t.reqsOf n, q'.id = id ∧ q'.att = q.att + 1 ∧ q'.ser = q.ser ∧ q'.due = s.now + 5200 * 2 ^ q.att) ∧
          ∀ c k z, n = .core c → s.core? c = some k → t.core? c = some z → ∀ i : Fin 4, bits k.regs.pmsel (8 * i.val) 8 = 12 →
            z.regs.pmc[i] = k.regs.pmc[i] + 1)) ∧
      (∀ e, aget id (s.once n).cache = some e → e.done = true → e.timeNs + 1088000 ≤ s.timeNs →
        exec (.replyEntryAgeing n id) s = .next (s.modOnce n fun o => { o with cache := adel id o.cache })) ∧
      (∀ e, aget id (s.once n).reqs = some e → e.lastNs + 64000 ≤ s.timeNs →
        exec (.requesterEntryAgeing n id) s = .next (s.modOnce n fun o => { o with reqs := adel id o.reqs })) ∧
      ∀ c k q w, n = .core c → s.core? c = some k → s.findReq n id = some q → q.walk = some w → (∃ d, w.due = some d ∧ d ≤ s.now) →
        (w.again = false → k.copies = [] → fieldOf c < 48 → ∃ t q', exec (.translationWalkComplete c id) s = .next t ∧
          w.found ∈ (t.fieldAt (fieldOf c)).cache ++ (t.fieldAt (fieldOf c)).ranges ∧ q' ∈ t.reqsOf n ∧ q'.id = id ∧ q'.walk = none) ∧
        ∀ x y, w.again = true → s.walk (s.partOf k) w.va = .ok x → s.targetOf x w.va w.write = .ok y →
          ∃ t q', exec (.translationWalkComplete c id) s = .next t ∧ q' ∈ t.reqsOf n ∧ q'.id = id ∧ q'.home = .port y.1 ∧
            q'.op = q.op.atAddr y.2 ∧ ∃ v, q'.walk = some v ∧ v.again = false ∧ v.found = x

/-- R281 to R284, R312 to R314, R346, R376: PARTIAL_ARRIVAL of a partial on a port that its route does not take is reported, of one that needs
no combining is passed on, of the first of a round opens the round, of a later one is combined, and of the last closes the round and sends
the result on; its message is used up, and a neighbour gets its acknowledgement. ROUTE_DELIVERY writes, adds or combines a delivery's bytes
at its place, or gives the door logic its message; RENORMALISE_NOTICE_ARRIVAL records a floor that changed; MESSAGE_ARRIVAL places or
holds a message, and reports one that its door does not take; a seed waits for room, and none arrives at a full door (logs 52, 57). -/
def Obligations.RouteAndDoorEventsAreRight : Prop :=
  (∀ (s : State) (pk : Packet), pk ∈ s.net → (∀ p ∈ s.net, p.id = pk.id → p = pk) → pk.arrive ≤ s.now → ∀ c k, pk.dst = .core c →
    s.core? c = some k →
    (∀ rid ser ackd att fts sts subject wr rq rt ofs p port, pk.body = .request rid ser ackd att fts sts subject wr rq (.partialTo rt ofs p port) →
      let local_ : Prop := s.isLocal pk.src rq = true ∧ rq < s.nextId
      let first : Prop := s.isLocal pk.src rq = false ∧ wr = true ∧ s.tooOld sts = false ∧ k.frozen = false ∧ s.isDead pk.dst = false ∧
        (∀ e ∈ k.tables.once.cache, ¬ (e.2.rid = rid ∧ e.2.ser = ser)) ∧ (∀ e ∈ k.tables.once.reqs, e.2.rid ≠ rid) ∧
        (∃ i, afree 16 k.tables.once.reqs = some i) ∧ ∃ i, afree 64 k.tables.once.cache = some i
      let e := k.tables.routes[rt]
      let takes : Prop := e.getLsbD 0 = true ∧ e.getLsbD (24 + port) = true
      let op := bits e 21 3
      let cnt := bits e 40 8
      let combines : Prop := op ≠ 0 ∧ 2 ≤ cnt
      let round (r : Round) : Prop := r.rt = rt ∧ r.ofs = ofs
      let done (f : Core → Prop) : Prop := ∃ t q, exec (.partialArrival pk.id) s = .next t ∧ t.core? c = some q ∧ f q ∧
        (∀ x ∈ t.net, x.id = pk.id → s.nextId ≤ x.id) ∧
        (first → ∃ x ∈ t.net, ∃ inc, x.dst = pk.src ∧ x.body = .reply rid ser rq inc 0 0 [])
      let sentOn (q : Core) (v : List Byte) : Prop :=
        (e.getLsbD 33 = true → ∃ d ∈ q.deliveries, d.rt = rt ∧ d.ofs = ofs ∧ d.payload = v) ∧
        ∀ j, j < 4 → e.getLsbD (29 + j) = true → ∃ r ∈ q.reqs, r.home = .core (neighbour c j) ∧ r.op = .partialTo rt ofs v ((j + 2) % 4)
      local_ ∨ first →
        (¬ takes → done fun q => q.rounds = k.rounds ∧ q.deliveries = k.deliveries) ∧
        (takes → ¬ combines → done fun q => q.rounds = k.rounds ∧ sentOn q p) ∧
        (takes → combines → (∀ r ∈ k.rounds, ¬ round r) → (k.rounds.filter fun r => decide (r.rt = rt)).length < 4 →
          done fun q => q.rounds = k.rounds ++ [⟨rt, ofs, some p, 1, s.now⟩] ∧ q.deliveries = k.deliveries) ∧
        ∀ r a, takes → combines → (k.rounds.find? fun r => decide (r.rt = rt) && decide (r.ofs = ofs)) = some r → r.acc = some a →
          let v := (combine op a p (if op = 1 then k.floorFor rt ofs else none) k.regs.rng).1
          (r.k + 1 < cnt → done fun q => q.deliveries = k.deliveries ∧ ∃ x ∈ q.rounds, round x ∧ x.acc = some v ∧ x.k = r.k + 1) ∧
          (cnt ≤ r.k + 1 → done fun q => (∀ x ∈ q.rounds, ¬ round x) ∧ sentOn q v)) ∧
    ∀ rt ofs x, pk.body = .renorm rt ofs x →
      let e := k.tables.routes[rt]
      let known : Prop := ∃ f, (k.floors.find? fun f => decide (f.rt = rt)) = some f ∧ f.ofs = ofs ∧ x.toInt ≤ f.x.toInt
      (e.getLsbD 0 = false ∨ known → exec (.renormaliseNoticeArrival pk.id) s = .next { s with net := s.net.filter fun p => decide (p.id ≠ pk.id) }) ∧
      (e.getLsbD 0 = true → ¬ known → ∃ t q, exec (.renormaliseNoticeArrival pk.id) s = .next t ∧ t.core? c = some q ∧
        q.floorFor rt ofs = some x.toInt ∧ (∀ f, f.rt ≠ rt → (f ∈ q.floors ↔ f ∈ k.floors)) ∧
        ∀ j, j < 4 → e.getLsbD (24 + j) = true → ∃ m ∈ t.net, m.dst = .core (neighbour c j) ∧ m.body = .renorm rt ofs x)) ∧
  (∀ (s : State) (c : Nat) (k : Core) (d : Delivery), s.core? c = some k → d ∈ k.deliveries → (∀ y ∈ k.deliveries, y.id = d.id → y = d) →
    k.deliveryDue s.now d = true →
    let e := k.tables.routes[d.rt]
    let op := bits e 21 3
    let a := bits e 48 14 * 16 + d.ofs * 16
    let n := d.payload.length
    let taken : State := s.modCore c fun q => { q with deliveries := q.deliveries.filter fun y => decide (y.id ≠ d.id) }
    let reports (x : Cause) : Prop := exec (.routeDelivery c d.id) s = .next (taken.coreReport c x ⟨0, 0, none, false, 0, 0, engineRid c 1⟩)
    let writes (bs : List Byte) : Prop := ∃ t q, exec (.routeDelivery c d.id) s = .next t ∧ t.core? c = some q ∧
      ∀ y, q.mem.read y = if a ≤ y ∧ y < a + bs.length then bs.getD (y - a) 0 else k.mem.read y
    (e.getLsbD 39 = true → op = 0 → 32 < n → reports .route) ∧
    (e.getLsbD 39 = true → op ≠ 0 ∨ n ≤ 32 → ∃ t q m, exec (.routeDelivery c d.id) s = .next t ∧ t.core? c = some q ∧
      q.doorIn = k.doorIn ++ [m] ∧ m.extractLsb' 29 5 = e.extractLsb' 34 5 ∧ m.extractLsb' 40 2 = 1 ∧
      ∀ j, j < 32 → m.extractLsb' (64 + 8 * j) 8 = d.payload.getD j 0) ∧
    (e.getLsbD 39 = false →
      (0x30000 < a + n → reports .route) ∧
      (a + n ≤ 0x30000 → k.deliveryOk a n = false → reports .tnone) ∧
      (a + n ≤ 0x30000 → k.deliveryOk a n = true → k.mem.wf = true →
        (op = 0 → (k.injectPartial a n).badPartial a n = none → writes d.payload) ∧
        (op = 1 → (k.injectRead a n).badIn a n = none →
          writes (baAdd (Ba.ofSill (k.mem.readN a 272)) (Ba.ofSill d.payload) (fun _ => (Ba.ofSill d.payload).x) none).1.toSill) ∧
        (2 ≤ op → (k.injectRead a n).badIn a n = none → writes (combine op (k.mem.readN a n) d.payload none k.regs.rng).1)))) ∧
  ∀ (s : State) (c : Nat) (k : Core) (m : BitVec 320), s.core? c = some k → m ∈ k.doorIn →
    let n := bits m 29 5
    let d : BitVec 32 := vat k.tables.doors n 0
    let kind := bits m 40 2
    let taken : State := s.modCore c fun q => { q with doorIn := q.doorIn.erase m }
    let closed : Prop := n = 31 ∧ kind ≠ 3 ∨ doorOpen d = false
    let held : Prop := (∃ e ∈ k.tables.msgs, bits e 29 5 = n) ∨ s.placing k = false ∨ ∀ r, (k.slot r).st ≠ .free
    let room : Prop := bits d 16 8 < 255 ∧ k.tables.msgs.length < 56
    let stamped := putBits m 13 16 s.timeUs.toNat
    let reports (x : Cause) : Prop := exec (.messageArrival c m) s = .next (taken.coreReport c x ⟨0, 0, none, false, 0, 0, m.extractLsb' 42 22⟩)
    (closed → (kind = 2 → doorOpen d = false ∨ ¬ held ∨ room) → reports .dclosed) ∧
    (¬ closed → held → ¬ room → (kind ≠ 2 → reports .dfull) ∧ (kind = 2 → exec (.messageArrival c m) s = .fault .noSuchItem)) ∧
    (¬ closed → (s.partOf k).killing = none →
      (held → room → ∃ t q, exec (.messageArrival c m) s = .next t ∧ t.core? c = some q ∧ q.doorIn = k.doorIn.erase m ∧
        q.tables.msgs = k.tables.msgs ++ [stamped] ∧ bits (vat q.tables.doors n 0) 16 8 = bits d 16 8 + 1 ∧ ∀ r, q.slot r = k.slot r) ∧
      (¬ held → ∃ t q r, exec (.messageArrival c m) s = .next t ∧ t.core? c = some q ∧ q.doorIn = k.doorIn.erase m ∧
        (k.slot r).st = .free ∧ (∀ r', r' < r → (k.slot r').st ≠ .free) ∧
        (q.slot r).st = .ready ∧ (q.slot r).pc = 4 * bits d 0 16 ∧ (q.slot r).door = m.extractLsb' 29 5 ∧ (q.slot r).prio = d.extractLsb' 28 2 ∧
        (q.slot r).t[4] = stamped.extractLsb' 0 64 ∧ (q.slot r).readyAt = s.cyc c + 3 ∧
        (∀ r', r' ≠ r → q.slot r' = k.slot r') ∧ q.tables.msgs = k.tables.msgs)) ∧
    (¬ closed → ¬ held → (s.partOf k).killing.isSome → ∃ t q r, exec (.messageArrival c m) s = .next t ∧ t.core? c = some q ∧
      (k.slot r).st = .free ∧ (∀ r', r' < r → (k.slot r').st ≠ .free) ∧ (q.slot r).st = .draining ∧ (q.slot r).killed = true)

/-- R240, R245, R247, R251 to R254, R31, R307: a grant that reaches its core is refused unless its slot runs, waits or is READY, is refused when the
table is full or the range overlaps a held one, and is held otherwise; its outcome ends the wait of the home's entry, which after a refusal is
HOME again, or loses the share; a revoke notice removes the held entry of its slot with its base and size (log 28); a death declaration kills
the partition of a dead core and tells its other cores, and tells every core of a dead port; a notice marks the leaves lent to a dead core,
and what is held at a dead home, LOST; a flit with a bad CRC is dropped and counted at the next router, on the rim's ways at some core's, and a
message that has waited 1,024 cc at a port is sent on (log 6). No instruction issues in the cycle in which its core accepts a grant. -/
def Obligations.TokenAndDeathEventsAreRight : Prop :=
  ∀ (s : State) (pk : Packet), pk ∈ s.net → (∀ p ∈ s.net, p.id = pk.id → p = pk) →
    let gone : State := { s with net := s.net.filter fun p => decide (p.id ≠ pk.id) }
    let here : Prop := pk.arrive ≤ s.now ∧ pk.atDevice = false ∧ pk.crcBad = false ∧ s.isFrozen pk.dst = false
    (∀ (rid : BitVec 22) (ser : BitVec 32) (ackd att : Nat) (fts sts : BitVec 16) (subject : BitVec 21) (rq : Nat) (sl : Fin 8) (base size : Nat)
      (epoch : Byte) (kind : BitVec 2),
      pk.body = .request rid ser ackd att fts sts subject true rq (.grant sl base size epoch kind) → s.serviceReady pk = true →
      (∃ t, exec (.grantArrival pk.id) s = .next t) ∧
      ∀ c k fi ei, pk.dst = .core c → s.core? c = some k → k.frozen = false → s.isLocal pk.src rq = false → s.isDead pk.src = false →
        s.isDead pk.dst = false → (∀ e ∈ k.tables.once.cache, ¬ (e.2.rid = rid ∧ e.2.ser = ser)) →
        (∀ e ∈ k.tables.once.reqs, e.2.rid ≠ rid) → afree 16 k.tables.once.reqs = some fi → afree 64 k.tables.once.cache = some ei →
        let x := k.slot sl
        let live : Prop := x.st = .running ∨ x.st = .waiting ∨ x.st = .ready ∧ x.readyAt ≤ s.cyc c
        let overlap : Prop := ∃ e ∈ k.tables.held, e.2.slot = sl ∧ e.2.reserved = false ∧ e.2.base < base + size ∧ base < e.2.base + e.2.size
        let answered (st : Byte) (held : List (Nat × HeldTok)) : Prop := ∃ t q, exec (.grantArrival pk.id) s = .next t ∧ t.core? c = some q ∧
          q.tables.held = held ∧ ∃ p ∈ t.net, ∃ inc data, p.dst = pk.src ∧ p.body = .reply rid ser rq inc st data []
        (¬ live → answered (BitVec.ofNat 8 Cause.trefused.code) k.tables.held) ∧
        (live → afree 32 k.tables.held = none → answered (BitVec.ofNat 8 Cause.thfull.code) k.tables.held) ∧
        ∀ i, live → afree 32 k.tables.held = some i →
          (overlap → answered (BitVec.ofNat 8 Cause.toverlap.code) k.tables.held) ∧
          (¬ overlap → answered 0 (aset i ⟨base, size, epoch, sl, kind, false,
              (match pk.src with
                | .port p => some p
                | _ => none), false⟩ k.tables.held) ∧
            ∃ t q, exec (.grantArrival pk.id) s = .next t ∧ t.core? c = some q ∧ q.issueFrom = s.cyc c + 1)) ∧
    (∀ rid ser rq inc st data bs q i named kind w, pk.body = .reply rid ser rq inc st data bs → here → s.findReq pk.dst rq = some q →
      q.sink = .grantFor i named kind w →
      (∃ t, exec (.grantOutcome pk.id) s = .next t) ∧
      ∀ e, aget i (s.toks pk.dst) = some e → e.withdraw = false → q.localWait = true ∨ q.ser = ser →
        (∀ c k, pk.dst = .core c → s.core? c = some k → k.regs.finj.getLsbD 0 = false) →
        let becomes (e' : HomeTok) : Prop := ∃ t, exec (.grantOutcome pk.id) s = .next t ∧ aget i (t.toks pk.dst) = some e'
        let refused : Prop := st = BitVec.ofNat 8 Cause.trefused.code ∨ st = BitVec.ofNat 8 Cause.thfull.code ∨
          st = BitVec.ofNat 8 Cause.toverlap.code
        let ended : HomeTok := { e with granting := false }
        (st = 0 → becomes ended) ∧
        (refused → kind = 0 → e.st = .lent → becomes { ended with st := .home }) ∧
        ∀ m, refused → kind ≠ 0 → e.st = .shared → named = some m →
          let left : HomeTok := { ended with named := e.named.set m none }
          becomes (if left.noShare then { left with st := .home } else left)) ∧
    (∀ i base size, pk.body = .revoke i base size → here →
      exec (.revokeNoticeArrival pk.id) s = .next (gone.modCore (identCore i) fun k => { k with
        tables := { k.tables with
          held := k.tables.held.filter fun e =>
            !(decide (e.2.slot = identSlot i) && !e.2.reserved && decide (e.2.base = base) && decide (e.2.size = size)) } })) ∧
    (∀ n g, pk.body = .death n g → here →
      (∃ t, exec (.deathNoticeArrival pk.id) s = .next t) ∧
      ((∀ q ∈ s.reqsOf pk.dst, q.home ≠ n) → ∃ t, exec (.deathNoticeArrival pk.id) s = .next t ∧
        (∀ d i e, n = .core d → aget i (s.toks pk.dst) = some e → ∃ e', aget i (t.toks pk.dst) = some e' ∧ e'.base = e.base ∧
          e'.limit = e.limit ∧ (e.st = .lent ∨ e.st = .uncertain → e'.st = if identCore e.holder = d then .lost else e.st) ∧
          (e.st = .shared → e'.st = .shared ∧ e'.susp = (e.susp || decide (0 < e.anon)) ∧
            ∀ m, vat e'.named m none = (vat e.named m none).bind fun h => if identCore h = d then none else some h)) ∧
        ∀ c k, pk.dst = .core c → s.core? c = some k → ∃ q, t.core? c = some q ∧
          ∀ i h, aget i k.tables.held = some h → ∃ h', aget i q.tables.held = some h' ∧ h'.base = h.base ∧ h'.size = h.size ∧
            (∀ d, n = .core d → h'.lost = (h.lost || decide (peerBase d ≤ h.base * 256 ∧ h.base * 256 < peerBase d + 2 ^ 18))) ∧
            ∀ p, n = .port p → h'.lost = (h.lost || decide (h.port = some p)))) ∧
    (pk.crcBad = true → pk.sentAt < s.now →
      let counts (c : Nat) : Prop :=
        exec (.flitCrcDrop pk.id) s = .next (({ gone with fresh := s.fresh + 1 } : State).modCore c fun k => k.count 21 1)
      (∀ a b, pk.src = .core a → pk.dst = .core b → counts (nextCore a b)) ∧
      ((∀ a b, ¬ (pk.src = .core a ∧ pk.dst = .core b)) → s.cores ≠ [] → ∃ c k, s.core? c = some k ∧ counts c)) ∧
    (pk.atDevice = false → pk.since + 1024 ≤ s.now → s.now < pk.arrive →
      exec (.flitAgePriority pk.id) s = .next { s with
        net := s.net.map fun (p : Packet) => if p.id = pk.id then { p with arrive := s.now + Config.delay s.fresh, since := s.now } else p
        fresh := s.fresh + 1 }) ∧
    ∀ n : Node,
      (n ∈ s.mgr.dead → exec (.deathDeclaration n) s = .next s) ∧
      (n ∉ s.mgr.dead → ∀ p, n = .port p → ∃ t, exec (.deathDeclaration n) s = .next t ∧ t.mgr.dead = s.mgr.dead ++ [n] ∧
        ∀ c k, s.core? c = some k → ∃ m ∈ t.net, m.dst = .core c ∧ m.body = .death n s.mgr.bindgen) ∧
      (n ∉ s.mgr.dead → ∀ c k, n = .core c → s.core? c = some k → ∃ t q, exec (.deathDeclaration n) s = .next t ∧
        t.mgr.dead = s.mgr.dead ++ [n] ∧ t.core? c = some q ∧ q.halted = true ∧ q.next = k.next ∧
        q.tables.once.inc = k.tables.once.inc ∧ ((s.part k.entry).st.active = true → (t.part k.entry).killing.isSome) ∧
        ∀ c' k', c' ≠ c → s.core? c' = some k' → k'.entry = k.entry → ∃ m ∈ t.net, m.dst = .core c' ∧ m.body = .death n s.mgr.bindgen)

/-! ## Events of launches -/

/-- R88, R24, R25, R287, R333 to R338, R345: a launch store is answered with its CODE in RESULT, and an accepted one queued and journalled; a
SUBMIT is decided; the head launch is PLACED on free fields or FAILED; the open wave makes its cores as R88 says, loading ends in
RUNNING, seeds reach door 0 in order, a quiescent partition is CLOSED with its REASON, and one without progress beyond its HANG limit is killed. -/
def Obligations.LaunchEventsAreRight : Prop :=
  ∀ (s : State),
    (∀ port r, port < 64 →
      let code := s.launchCode r none
      let answer : Word := BitVec.ofNat 64 ((recTag r).toNat * 2 ^ 32 + code * 2 ^ 24 + if code = 1 then (s.mgr.jseq + 1) % 2 ^ 24 else 0)
      ((s.port port).kind = 2 → (s.port port).up = true → ∃ t, exec (.launchStore port r) s = .next t ∧ (t.port port).result = answer ∧
        (s.mgr.ready = false → code = 2) ∧ (s.mgr.ready = true → s.badRecord r = true → code = 5) ∧ (64 ≤ s.mgr.queue.length → code ≠ 1) ∧
        (s.mgr.ready = true → s.badRecord r = false → s.imageHeader (recEntry r 0 0 0) = none → code = 4) ∧
        (code ≠ 1 → t.mgr = s.mgr) ∧
        (code = 1 → t.mgr.queue = s.mgr.queue ++ [⟨s.mgr.jseq + 1, r⟩] ∧ t.mgr.jseq = s.mgr.jseq + 1 ∧
          ∃ j, aget ((s.mgr.jseq + 1) % 4096) t.mgr.journal = some j ∧ j.seq = s.mgr.jseq + 1 ∧ j.tag = recTag r ∧ j.code = 1 ∧ j.st = 0)) ∧
      ((s.port port).up = false ∨ (s.port port).kind ≠ 2 → exec (.launchStore port r) s = .next s)) ∧
    (∀ pk ∈ s.net, (∀ p ∈ s.net, p.id = pk.id → p = pk) → s.serviceReady pk = true → pk.dst = .mgr →
      ∀ rid ser ackd att fts sts subject wr rq r prio, pk.body = .request rid ser ackd att fts sts subject wr rq (.submit r prio) →
        (∃ t, exec (.submitService pk.id) s = .next t) ∧
        (wr = true → s.isLocal pk.src rq = false → s.isDead .mgr = false → (∀ e ∈ s.mgr.once.cache, ¬ (e.2.rid = rid ∧ e.2.ser = ser)) →
          (∀ e ∈ s.mgr.once.reqs, e.2.rid ≠ rid) → (∃ i, afree 256 s.mgr.once.reqs = some i) → (∃ i, afree 1024 s.mgr.once.cache = some i) →
          let code := s.launchCode r (some prio)
          ∃ t, exec (.submitService pk.id) s = .next t ∧ (recPrio r < prio.toNat → code ≠ 1) ∧
            t.mgr.queue = s.mgr.queue ++ (if code = 1 then [⟨s.mgr.jseq + 1, r⟩] else []) ∧
            ∃ x ∈ t.net, ∃ inc, x.dst = pk.src ∧ x.body = .reply rid ser rq inc 0
              (BitVec.ofNat 64 (code * 2 ^ 24 + if code = 1 then (s.mgr.jseq + 1) % 2 ^ 24 else 0)) [])) ∧
    (∀ l e fx fy, s.placeFor = some (l, e, fx, fy) →
      let p := recEntry l.record l.seq fx fy
      let queue := s.mgr.queue.filter fun q => decide (q.seq ≠ l.seq)
      let u : State := ({ s with mgr := { s.mgr with queue := queue } } : State).modPart e fun _ =>
        { p with waitUntil := s.now + Config.launchTime (s.fresh + 1) }
      ∃ t, exec .placement s = .next t ∧ t.mgr.queue = queue ∧
        (∀ gs seeds, u.placeCheck p = .ok (gs, seeds) → (t.part e).st = .placed ∧ (t.part e).fieldList = p.fieldList ∧
          (t.part e).groups = gs ∧ (t.part e).seeds = seeds) ∧
        (∀ r, u.placeCheck p = .error r → (t.part e).st = .failed ∧ (t.part e).reason = r) ∧
        ((∃ f ∈ p.fieldList, s.fenced f = true) → (t.part e).st = .failed ∧ (t.part e).reason = 6)) ∧
    (∀ e, e < 48 →
      let p := s.part e
      let due : Prop := p.killing = none ∧ p.waitUntil ≤ s.now
      (p.st = .placed → due →
        (∀ ranges, s.readRanges p = .ok ranges → s.imageBytes p = none →
          ∃ t, exec (.openWave e) s = .next t ∧ (t.part e).st = .failed ∧ (t.part e).reason = 4) ∧
        (∀ bs ranges, s.imageBytes p = some bs → s.readRanges p = .ok ranges →
          ∃ t, exec (.openWave e) s = .next t ∧ (t.part e).st = .loading ∧
            ∀ c ∈ p.rect.cores, ∃ q, t.core? c = some q ∧ q = { openCore (s.idleCore c) e s.mgr.cols p (parseImage bs) c with
                frozen := s.mgr.retiring.any fun r => decide (r.1 = c) } ∧
              q.entry = e ∧ q.tables.msgs = [] ∧ ∀ sl, (q.slot sl).st = .free) ∧
        ((∀ ranges, s.readRanges p ≠ .ok ranges) → ∃ t, exec (.openWave e) s = .next t ∧ (t.part e).st = .failed ∧ (t.part e).reason = 5)) ∧
      (p.st = .loading → due → ∃ t, exec (.loadComplete e) s = .next t ∧ (t.part e).st = .running ∧ t.cores = s.cores) ∧
      (∀ x rest, p.st = .running → due → p.seeds = x :: rest → s.seedRoom x.core = true →
        ∃ t, exec (.seedInjection e) s = .next t ∧ (t.part e).seeds = rest ∧
          ∀ k, s.core? x.core = some k → ∃ q m, t.core? x.core = some q ∧ q.doorIn = k.doorIn ++ [m] ∧
            m.extractLsb' 29 5 = 0 ∧ m.extractLsb' 40 2 = 2 ∧
            ∀ j, j < 32 → m.extractLsb' (64 + 8 * j) 8 = if j < x.len then x.payload.extractLsb' (8 * j) 8 else 0) ∧
      (s.closeDue e = true → ∃ t, exec (.closeWave e) s = .next t ∧ (t.part e).st = .closed ∧ (t.part e).reason = p.killing.getD 0x10 ∧
        (∀ c k, t.core? c = some k → k.entry ≠ e) ∧
        (∀ port i h, port < 64 → (i, h) ∈ (t.port port).toks → h.ext = false → h.part = e → e = noPart) ∧
        (∀ port i, (port, i) ∈ (t.part e).left ↔ port < 64 ∧ ∃ h, (i, h) ∈ (s.port port).toks ∧ h.ext = false ∧ h.part = e ∧
          (h.st = .tainted ∨ h.st = .lost ∨ h.st = .uncertain)) ∧
        (∀ port i h, port < 64 → ((s.port port).toks.map fun x => x.1).Nodup →
          (∀ x ∈ (s.port port).toks, ∀ y ∈ (s.port port).toks, x.2.parent = some y.1 →
            y.2.st = .split ∧ y.2.part = x.2.part ∧ y.2.ext = x.2.ext) →
          (i, h) ∈ (s.port port).toks →
          (h.ext = true ∨ h.part ≠ e → (i, h) ∈ (t.port port).toks) ∧
          (h.ext = false → h.part = e → h.st ≠ .home → h.st ≠ .shared → h.st ≠ .split → (i, { h with part := noPart }) ∈ (t.port port).toks)) ∧
        ∀ port tag, p.asker = some (port, tag) → port < 64 → (t.port port).response = BitVec.ofNat 64 (tag.toNat * 2 ^ 32 + 1))) ∧
    (s.mgr.hangNs ≤ s.timeNs → ∃ t, exec .hangMonitorSample s = .next t ∧ t.mgr.hangNs = (s.timeNs / 1000000 + 1) * 1000000 ∧
      ∀ e, e < 48 →
        let p := s.part e
        let idle : Prop := ∀ k ∈ s.cores, k.2.entry = e → s.progressed k.1 k.2 = false
        let limit : Option Nat := if p.hang = 0 then some 2000000000 else if p.hang = 255 then none else some (p.hang.toNat * 100000000)
        (p.st = .running → ¬ idle → (t.part e).progressNs = s.timeNs ∧ (t.part e).killing = p.killing) ∧
        (∀ n, p.st = .running → idle → limit = some n → p.progressNs + n ≤ s.timeNs → (t.part e).killing = some (p.killing.getD 0x12)) ∧
        ((p.st ≠ .running ∨ idle ∧ ∀ n, limit = some n → s.timeNs < p.progressNs + n) → t.part e = p))

/-! ## Events of halts and of the mailbox -/

/-- R264, R268 to R270, R340 to R346, R390: a mailbox command is answered BUSY while another lasts, BADCMD or NOPRE where R344 says so, and else has
its effect: PREEMPT writes HALTING, RESUME begins the copy back, KILL kills, also during a PREEMPT, which then fails, SHOOTDOWN starts, CLEARRET
and READBIND answer, FREE frees. A core whose slots are halt-ready halts; when all stand and the step before is done, the live ranges go out,
the store is cleared and filled again, and after 520 cc the contexts change and the other partition runs; HALTFAIL goes back to RUNNING; other
host writes are discarded. The model's choices: an unknown command (log 43), a bad SPILL area and another partition on the fields (log 74), the
time until the manager acts (log 6), and that a launch or a listed command is no such write (log 57). -/
def Obligations.MailboxAndHaltEventsAreRight : Prop :=
  ∀ (s : State),
    (∀ q : MailCmd, q.port < 64 →
      let up : Prop := (s.port q.port).kind = 2 ∧ (s.port q.port).up = true
      let answer (st : Nat) : State := s.modPort q.port fun p => { p with response := BitVec.ofNat 64 (q.tag.toNat * 2 ^ 32 + st) }
      let e := q.a0.toNat
      let p := s.part e
      let area : Prop := bits q.a1 0 58 % 2 ^ 18 = 0 ∧ (s.port (bits q.a1 58 6)).isMem = true
      (¬ up → ∀ i ∈ [Instr.preempt q, .resume q, .kill q, .shootdown q, .clearret q, .readbind q, .free q], exec i s = .next s) ∧
      (up → s.mgrBusy = true →
        ∀ i ∈ [Instr.preempt q, .resume q, .shootdown q, .clearret q, .readbind q, .free q], exec i s = .next (answer 0x23)) ∧
      (up → s.mgrBusy = false →
        (47 < e → ∀ i ∈ [Instr.preempt q, .resume q, .kill q, .shootdown q, .free q], exec i s = .next (answer 0x20)) ∧
        (e ≤ 47 →
          (p.st ≠ .running → exec (.preempt q) s = .next (answer 0x20)) ∧
          (p.st = .running → p.pre = false → exec (.preempt q) s = .next (answer 0x21)) ∧
          (p.st = .running → p.pre = true →
            let named (resumed : Option Nat) : Prop := q.opt = none ∧ resumed = none ∨ ∃ w r, q.opt = some w ∧ w.toNat = r ∧ r ≤ 47 ∧
              resumed = some r ∧ (s.part r).st = .saved ∧ (s.part r).fieldList = p.fieldList
            let alone (resumed : Option Nat) : Prop :=
              ∀ f ∈ p.fieldList, ∀ e', e' < 48 → (s.part e').st = .saved → resumed ≠ some e' → f ∉ (s.part e').fieldList
            (p.killing.isSome ∨ ¬ area ∨ (∀ r, ¬ named r) → exec (.preempt q) s = .next (answer 0x20)) ∧
            ∀ resumed, named resumed →
              (¬ alone resumed → exec (.preempt q) s = .next (answer 0x20)) ∧
              (alone resumed → area → p.killing = none → ∃ t, exec (.preempt q) s = .next t ∧ (t.part e).st = .halting ∧
                (t.part e).swapStep = .none ∧ (t.part e).spill = q.a1 ∧ (t.part e).resumeEntry = resumed ∧
                (t.part e).asker = some (q.port, q.tag) ∧ t.cores = s.cores)) ∧
          (p.st ≠ .saved ∨ ¬ area ∨ (∃ f ∈ p.fieldList, s.fieldFree f = false) → exec (.resume q) s = .next (answer 0x20)) ∧
          (p.st = .saved → area → (∀ f ∈ p.fieldList, s.fieldFree f = true) →
            ∃ t, exec (.resume q) s = .next t ∧ (t.part e).st = .resuming ∧ (t.part e).swapStep = .refill ∧ (t.part e).spill = q.a1 ∧
              (t.part e).asker = some (q.port, q.tag) ∧
              ∀ c ∈ p.rect.cores, ∀ x, (s.idleCore c).shadow = some x → ∃ k, t.core? c = some k ∧ k.entry = e ∧ k.halted = true ∧
                k.shadow = some x ∧
                ((s.fieldAt (fieldOf c)).placedSince = false → k.mem = (s.idleCore c).mem ∧ k.copies = []) ∧
                ((s.fieldAt (fieldOf c)).placedSince = true → k.mem = [] ∧ ∀ r ∈ x.ranges, r.2 ≠ 0 → ∃ y ∈ k.copies,
                  y.src = spillWindow + (spillBase q.a1 p.rect c).2 + r.1 ∧ y.dst = r.1 ∧ y.len = r.2 ∧ y.offload = false)) ∧
          (p.st = .saved → ∃ t, exec (.kill q) s = .next t ∧ (t.part e).st = .closed ∧ (t.part e).reason = 0x11) ∧
          (p.st.active = true → ∃ t, exec (.kill q) s = .next t ∧ (t.part e).killing.isSome ∧ (t.part e).asker = some (q.port, q.tag)) ∧
          (p.st.active = false → p.st ≠ .saved → exec (.kill q) s = .next (answer 0x20)) ∧
          (p.st = .loading ∨ p.st = .running ∨ p.st = .halting ∨ p.st = .saved ∨ p.st = .resuming →
            ∃ t, exec (.shootdown q) s = .next t ∧ t.mgr.shoot.isSome ∧
              (∀ f ∈ p.fieldList, f < 48 → ∀ x ∈ (t.fieldAt f).cache ++ (t.fieldAt f).ranges, ¬ (x.base < q.a2.toNat ∧ q.a1.toNat < x.limit)) ∧
              ∀ c k, t.core? c = some k → k.entry = e → ∀ x ∈ k.tlb, ¬ (x.base < q.a2.toNat ∧ q.a1.toNat < x.limit)) ∧
          (p.st = .free ∨ p.st = .placed ∨ p.st = .closed ∨ p.st = .failed → exec (.shootdown q) s = .next (answer 0x20)) ∧
          (p.st = .closed ∨ p.st = .failed → ∃ t, exec (.free q) s = .next t ∧ (t.part e).st = .free) ∧
          (p.st ≠ .closed → p.st ≠ .failed → exec (.free q) s = .next (answer 0x20))) ∧
        (let pos := (q.a0.toNat, q.a1.toNat);
          (pos.1 < 480 → pos.2 < 450 → physSt (s.physRec pos) = 2 →
            ∃ t, exec (.clearret q) s = .next t ∧ t.physRec pos = putBits (s.physRec pos) 0 3 0) ∧
          (pos.1 < 480 → pos.2 < 450 → physSt (s.physRec pos) ≠ 2 → exec (.clearret q) s = .next (answer 0x20)) ∧
          (480 ≤ pos.1 ∨ 450 ≤ pos.2 → exec (.clearret q) s = .next (answer 0x20))) ∧
        (e < 2 ^ 18 → ∃ t, exec (.readbind q) s = .next t ∧ (t.port q.port).readbind = s.binding e ∧
          (t.port q.port).response = BitVec.ofNat 64 (q.tag.toNat * 2 ^ 32 + 1)) ∧
        (2 ^ 18 ≤ e → exec (.readbind q) s = .next (answer 0x20))) ∧
      (up → s.mgr.shoot = none → e ≤ 47 → p.st = .halting → p.killing = none → ∃ t, exec (.kill q) s = .next t ∧
        (t.part e).killing = some 0x11 ∧ (t.part e).asker = some (q.port, q.tag) ∧ ∀ port tag, p.asker = some (port, tag) → port < 64 →
          (t.port port).response = BitVec.ofNat 64 (tag.toNat * 2 ^ 32 + 0x22))) ∧
    (∀ c k, s.core? c = some k → s.haltDue k = true →
      ∃ t, exec (.coreHalt c) s = .next t ∧ t.core? c = some { k with halted := true } ∧
        (k.entry < 48 → (t.part k.entry).waitUntil = max (s.part k.entry).waitUntil (s.now + Config.firmwareTime s.fresh))) ∧
    (∀ e, e < 48 →
      let p := s.part e
      let answered (t : State) (st : Nat) : Prop :=
        ∀ port tag, p.asker = some (port, tag) → port < 64 → (t.port port).response = BitVec.ofNat 64 (tag.toNat * 2 ^ 32 + st)
      (s.haltDone e = true → p.waitUntil ≤ s.now → (s.cores.map fun k => k.1).Nodup →
        let steps (e : Nat) (f : State → Prop) : Prop := ∃ t, exec (.haltComplete e) s = .next t ∧ f t
        let moves (r : Nat) (back : Bool) (c : Nat) (ranges : List (Nat × Nat)) (q : Core) : Prop :=
          ∀ x ∈ ranges, x.2 ≠ 0 → ∃ y ∈ q.copies, y.len = x.2 ∧ y.offload = false ∧ y.spill = some (bits (s.part r).spill 58 6) ∧
            let far := spillWindow + (spillBase (s.part r).spill (s.part r).rect c).2 + x.1
            (y.src, y.dst) = if back then (far, x.1) else (x.1, far)
        (p.swapStep = .none → steps e fun t => (t.part e).swapStep = .spill ∧
          ∀ c k, s.core? c = some k → k.entry = e → ∃ q, t.core? c = some q ∧ q.live = k.readTable.liveRanges ∧ moves e false c q.live q) ∧
        (∀ r, p.swapStep = .spill → p.resumeEntry = some r → steps e fun t => (t.part e).swapStep = .refill ∧
          ∀ c k, s.core? c = some k → k.entry = e → ∃ q, t.core? c = some q ∧ q.mem = [] ∧
            ∀ x, k.shadow = some x → moves r true c x.ranges q) ∧
        (p.swapStep = .spill ∧ p.resumeEntry = none ∨ p.swapStep = .refill → steps e fun t => (t.part e).swapStep = .swap ∧
          t.cores = s.cores ∧ ∀ c k, s.core? c = some k → k.entry = e → s.now + s.ahead (.core c) 520 ≤ (t.part e).waitUntil) ∧
        (p.swapStep = .swap → p.st = .halting → p.resumeEntry = none → (∀ c k, s.core? c = some k → k.entry = e → k.shadow = none) →
          steps e fun t => (t.part e).st = .saved ∧ answered t 1 ∧
            ∀ c k, s.core? c = some k → k.entry = e → t.core? c = none ∧ ∃ y x, aget c t.idle = some y ∧ y.mem = k.mem ∧
              y.shadow = some x ∧ x.entry = e ∧ x.tables = k.tables ∧ x.regs.g = k.regs.g ∧ x.regs.v = k.regs.v ∧ y.next = k.next) ∧
        (∀ r, p.swapStep = .swap → p.st = .halting → p.resumeEntry = some r → r < 48 → r ≠ e →
          (∀ c k, s.core? c = some k → k.entry ≠ r ∧ (k.entry = e → ∃ x, k.shadow = some x ∧ x.entry = r ∧ x.bad = false)) →
          steps e fun t => (t.part e).st = .saved ∧ answered t 1 ∧ (t.part r).st = .running ∧
            ∀ c k, s.core? c = some k → k.entry = e → ∃ k' x, t.core? c = some k' ∧ k'.entry = r ∧ k'.shadow = some x ∧ x.entry = e ∧
              x.tables = k.tables) ∧
        (p.swapStep = .swap → p.st = .resuming →
          (∀ c k, s.core? c = some k → k.entry = e → ∃ x, k.shadow = some x ∧ x.entry = e ∧ x.bad = false) →
          steps e fun t => (t.part e).st = .running ∧ answered t 1 ∧
            ∀ c k, s.core? c = some k → k.entry = e → ∃ k', t.core? c = some k' ∧ k'.entry = e ∧ k'.shadow = none ∧ k'.halted = false)) ∧
      (p.st = .halting → p.killing = none → p.swapStep = .none → p.haltNs + 10000000 ≤ s.timeNs →
        (∃ k ∈ s.cores, k.2.entry = e ∧ k.2.haltKept = false) →
        ∃ t, exec (.haltfail e) s = .next t ∧ (t.part e).st = .running ∧ (∀ c k, t.core? c = some k → k.entry = e → k.halted = false) ∧
          answered t 0x22)) ∧
    ∀ port off data,
      (¬ (data.length = 64 ∧ (off = 0 ∨ off = 0x100)) → exec (.hostWindowWrite port off data) s = .next s) ∧
      (data.length = 64 → off = 0 ∨ off = 0x100 ∧ data.getD 0 0 ≠ 0 ∧ (data.getD 0 0).toNat < 8 →
        exec (.hostWindowWrite port off data) s = .fault .noSuchItem) ∧
      (data.length = 64 → off = 0x100 → (data.getD 0 0 = 0 ∨ 8 ≤ (data.getD 0 0).toNat) → port < 64 → (s.port port).kind = 2 →
        (s.port port).up = true → s.mgrBusy = false → exec (.hostWindowWrite port off data) s = .next (s.modPort port fun p => { p with
          response := BitVec.ofNat 64 (ofBytes ((data.drop 4).take 4) * 2 ^ 32 + 0x20) }))
/-! ## Events of the module -/

/-- R271 to R273, R275, R283, R300, R386, R389, R394: a retirement freezes a core and reserves its spare, or declares it dead where no spare
is left; the copy gives the spare the state, discards what R29 discards, binds it with a new GEN and ends the freeze; after 100 µs the core is
dead; an edge home restarts with empty tables and a new incarnation; a lost link takes a port down and, of a memory port, its edge home; a
retraining takes it up at a width and rate of R386, a memory port no wider than before (log 71: the lesser of the two widths); a decoder base
is written; an external segment is made, or freed, as is an entry with its bounds that an ended partition has left. -/
def Obligations.RetirementAndPortEventsAreRight : Prop :=
  (∀ (s : State) (c : Nat), s.retirable c = true →
    (s.chooseSpare c = none → exec (.retirementStart c) s = .next (s.declareDead (.core c))) ∧
    ∀ sp, s.chooseSpare c = some sp → ∃ t, exec (.retirementStart c) s = .next t ∧ (t.binding c).getLsbD 27 = true ∧
      t.mgr.retiring = s.mgr.retiring ++ [(c, physKey sp, s.timeNs)] ∧
      ∀ k, s.core? c = some k → ∃ q, t.core? c = some q ∧ q.frozen = true ∧ q.mem = k.mem ∧ ∀ r ∈ q.rounds, r.acc = none) ∧
  (∀ (s : State) (c : Nat) sp t0, s.retiringOf c = some (sp, t0) →
    (t0 + 100000 ≤ s.timeNs → exec (.retirementTimeout c) s = .next (s.declareDead (.core c))) ∧
    ((∀ k, s.core? c = some k → k.frozen = true ∧ s.retireReady k = true) →
      (s.spareFor c sp = none → exec (.retirementCopy c) s = .next (s.declareDead (.core c))) ∧
      ∀ p, s.spareFor c sp = some p → ∃ t, exec (.retirementCopy c) s = .next t ∧ (∀ r ∈ t.mgr.retiring, r.1 ≠ c) ∧
        (t.fieldAt (fieldOf c)).cache = [] ∧ t.mgr.bindgen = s.mgr.bindgen + 1 ∧
        (s.fenced (fieldOf c) = false → t.binding c = bindEntry (s.mgr.bindgen + 1) false p) ∧
        ∀ k, s.core? c = some k → ∃ q, t.core? c = some q ∧ q.frozen = false ∧ q.mem.read = k.mem.read ∧ q.regs.acc = k.regs.acc ∧
          q.tables.home = k.tables.home ∧ q.tables.once = k.tables.once ∧ q.floors = [] ∧ q.tlb = [] ∧ q.regs.badRows = [])) ∧
  ∀ (s : State) (p : Nat), p < 64 →
    let q := s.port p
    (q.isMem = true → ∃ t, exec (.edgeHomeRestart p) s = .next t ∧ Node.port p ∉ t.mgr.dead ∧
      (∀ m ∈ t.net, ¬ (m.dst = .port p ∧ m.atDevice = true)) ∧ t.port p = { q with
        once := ⟨[], [], q.once.inc + 1⟩
        restartNs := some s.timeNs
        rstt := s.timeUs }) ∧
    (q.up = true → q.failed = false → ∃ t, exec (.portLinkLoss p) s = .next t ∧
      (t.port p).up = false ∧ (t.port p).width = 0 ∧ (t.port p).rate = 0 ∧ (t.port p).retryAt = s.now + 1300000000 ∧
      (q.kind = 2 → s.heldAtPort p = [] → (t.port p).mem = q.mem) ∧
      (q.kind = 1 → (t.port p).mem = q.mem ∧ Node.port p ∈ t.mgr.dead ∧ (t.port p).lastWidth = q.lastWidth)) ∧
    (∀ r : Training, q.up = false → q.failed = false → q.changed = false → q.retryAt ≤ s.now → s.mgr.power = true → q.kind = 1 ∨ q.kind = 2 →
      let becomes (f : Port → Port) : State := s.modPort p f
      let comesUp : Prop := r.up = true ∧ (r.width = 16 ∨ r.width = 8 ∨ r.width = 4) ∧ (r.rate = 1 ∨ r.rate = 2)
      (¬ comesUp → exec (.portRetrainAttempt p r) s = .next (becomes fun x => { x with retryAt := s.now + 1300000000 })) ∧
      (comesUp → q.kind = 2 → exec (.portRetrainAttempt p r) s = .next (becomes fun x => { x with
          up := true, width := r.width, rate := r.rate, lastWidth := r.width })) ∧
      (comesUp → q.kind = 1 → r.sameDevice = false → exec (.portRetrainAttempt p r) s = .next (becomes fun x => { x with changed := true })) ∧
      (comesUp → q.kind = 1 → r.sameDevice = true → ∃ t, exec (.portRetrainAttempt p r) s = .next t ∧ Node.port p ∉ t.mgr.dead ∧
        (t.port p).up = true ∧ (t.port p).rate = r.rate ∧ (t.port p).width = (if q.lastWidth < r.width then q.lastWidth else r.width) ∧
        (t.port p).once = ⟨[], [], q.once.inc + 1⟩ ∧ (t.port p).mem = q.mem ∧ (t.port p).toks = q.toks)) ∧
    (q.kind = 2 → ∀ base, exec (.hdmDecoderBaseWrite p base) s = .next (s.modPort p fun x => { x with hdm := base })) ∧
    ∀ base limit make, q.isMem = true →
      let lo := base.toNat / 4096
      let hi := limit.toNat / 4096
      let clear : Prop := ∀ e ∈ q.toks, ¬ (e.2.base < hi ∧ lo < e.2.limit)
      (base.toNat % 4096 ≠ 0 ∨ limit.toNat % 4096 ≠ 0 ∨ hi ≤ lo ∨ 2 ^ 33 ≤ hi →
        exec (.externalSegmentDeclaration p base limit make) s = .next s) ∧
      (base.toNat % 4096 = 0 → limit.toNat % 4096 = 0 → lo < hi → hi < 2 ^ 33 →
        (make = true → ¬ clear ∨ afree (tokCap (.port p)) q.toks = none →
          exec (.externalSegmentDeclaration p base limit make) s = .next s) ∧
        (make = true → clear → ∀ i, afree (tokCap (.port p)) q.toks = some i →
          ∃ t e, exec (.externalSegmentDeclaration p base limit make) s = .next t ∧ aget i (t.port p).toks = some e ∧
            e.base = lo ∧ e.limit = hi ∧ e.ext = true) ∧
        (make = false →
          let gone (h : HomeTok) : Prop := h.st ≠ .split ∧ (h.ext = true ∨ h.part = noPart) ∧ h.base = lo ∧ h.limit = hi
          ∃ t, exec (.externalSegmentDeclaration p base limit make) s = .next t ∧
            (∀ e ∈ (t.port p).toks, e ∈ q.toks ∧ ¬ gone e.2) ∧
            ((q.toks.map fun x => x.1).Nodup → (∀ x ∈ q.toks, ∀ y ∈ q.toks, x.2.parent = some y.1 → y.2.st = .split) →
              ∀ e ∈ q.toks, e.2.st ≠ .split → ¬ gone e.2 → e ∈ (t.port p).toks)))

/-- R185, R190, R269, R275, R364, R365, R376, R387, R388, R393, R395 to R398: power-good starts bring-up with TIME 0 and FRZ clear, whose
stages count up to READY: the first raises the domains in order and gives every port the kind of the port map, the third writes the island
records; the loss of power lowers the domains and keeps the memory of the devices; island readings are recorded with GEN, and below 25 ps
planned anew; the plan takes effect at a 1 ms boundary, from which on the cycles of what is under way are counted at the new clock; at each
1 ms boundary power and temperature act at their limits, the raising pausing above 37,000 W (log 74), and overtemperature at once; a soft
error strikes what it names, a scrub corrects a single bit; a fenced field is cleared when it passes self-test. -/
def Obligations.ModuleEventsAreRight : Prop :=
  ∀ (s : State),
    let kept (t : State) : Prop := t.cores = [] ∧ t.mgr.bind = s.mgr.bind.map (fun e => (e.1, putBits e.2 27 1 0)) ∧
      t.mgr.phys = s.mgr.phys ∧ t.mgr.fence = s.mgr.fence ∧ t.mgr.portMap = s.mgr.portMap ∧ t.mgr.rails = [] ∧
      (∀ p, p < 64 → (t.port p).mem = (s.port p).mem) ∧
      ∀ i, i < 96 → (t.islandAt i).vmv = (s.islandAt i).vmv ∧ (t.islandAt i).slack = (s.islandAt i).slack
    (s.mgr.power = false → ∃ t, exec .powerGood s = .next t ∧ t.now = 0 ∧ t.mgr.power = true ∧ t.mgr.ready = false ∧ t.mgr.stage = 0 ∧
      t.mgr.boots = s.mgr.boots + 1 ∧ kept t) ∧
    (s.mgr.power = true → ∃ t, exec .powerGoodLoss s = .next t ∧ t.mgr.power = false ∧ t.net = [] ∧ kept t) ∧
    (∀ o, s.mgr.power = true → s.mgr.ready = false → ∃ t, exec (.bringUpStage o) s = .next t ∧
      t.mgr.stage = s.mgr.stage + 1 ∧ (t.mgr.ready = true ↔ s.mgr.stage = 5) ∧
      (s.mgr.stage = 0 → (s.mgr.rails = [] → t.mgr.rails = [.phys, .links, .logic, .arrays]) ∧
        (s.mgr.portMap.toList.countP (· = 2) ≤ 8 → t.mgr.portMap.toList.countP (· = 2) ≤ 8) ∧
        (o.map = [] → t.mgr.portMap = s.mgr.portMap) ∧
        ∀ p (hp : p < 64), (t.port p).kind = t.mgr.portMap[p]) ∧
      (s.mgr.stage = 2 → t.mgr.links = [] ∧ ∀ i, i < 96 →
        let x := s.islandAt i
        (t.islandAt i).gen = s.mgr.bindgen ∧ (t.islandAt i).fmhz = (if s.fenced (i / 2) then 0 else x.planned) ∧
          (t.islandAt i).vmv = x.vplan ∧ (t.islandAt i).plans = 0 ∧ (t.islandAt i).tplan = 0) ∧
      (s.mgr.stage = 5 → t.mgr.journal = [] ∧ t.mgr.jseq = 0 ∧ t.mgr.log = [] ∧ t.mgr.logseq = 0)) ∧
    (∀ i, i < 96 →
      let x := s.islandAt i
      let becomes (f : Island → Island) : State := s.modIsland i fun y => { f y with gen := s.mgr.bindgen }
      let heats (temp : BitVec 16) : Bool := decide (1000 ≤ temp.toInt) || (x.hot && decide (950 ≤ temp.toInt))
      let turn : Prop := s.now % 1300000 = 0 ∧ x.stepMs < s.now / 1300000
      let fenced := s.fenced (i / 2)
      (∀ temp slack steps,
        (fenced = true ∨ 25 ≤ slack.toInt → exec (.islandMonitorRead [⟨i, temp, slack, steps⟩]) s =
          .next (becomes fun y => { y with temp := temp, slack := slack, hot := heats temp })) ∧
        (fenced = false → slack.toInt < 25 → ∀ sl, steps = [sl] → 40 ≤ sl.toInt → x.vplan + 5 ≤ 880 → exec (.islandMonitorRead [⟨i, temp, slack, steps⟩]) s =
          .next (becomes fun y => { y with
            temp := temp, slack := slack, hot := heats temp
            vplan := y.vplan + 5, splan := some sl, plans := y.plans + 1, tplan := s.timeWord }))) ∧
      (s.now % 1300000 = 0 →
        let mhz := x.planned - 13 * max x.lowered x.cooled
        let clocked (f : Nat) : Island := { x with baseCyc := x.cycles s.now, baseAt := s.now, fmhz := f }
        let changed (y : Island) : Prop := exec (.islandClockChange i) s = .next ((becomes fun _ => y).recount i x y)
        (fenced = true → x.fmhz ≠ 0 → changed (clocked 0)) ∧
        (fenced = false → x.fmhz ≠ mhz ∨ x.vmv ≠ x.vplan ∨ x.splan ≠ none →
          changed { clocked mhz with vmv := x.vplan, slack := x.splan.getD x.slack, splan := none })) ∧
      (∀ (y : Island) (t : Nat), y.baseAt = s.now → y.baseCyc = x.cycles s.now → 0 < x.fmhz → 0 < y.fmhz → y.fmhz ≤ 1300 → s.now < t →
        y.cycles (x.recount y s.now t) = x.cycles t) ∧
      (∀ temp : BitVec 16,
        (turn → exec (.thermalThrottleStep i temp) s = .next (becomes fun y => { y with
          temp := temp, hot := heats temp, cooled := if heats temp then y.cooled + 1 else y.cooled, stepMs := s.now / 1300000 })) ∧
        (¬ turn → exec (.thermalThrottleStep i temp) s = .next (becomes fun y => { y with temp := temp, hot := heats temp })) ∧
        (1100 ≤ temp.toInt → ∃ t, exec (.overtempShutdown i temp) s = .next t ∧ t.mgr.power = false ∧ t.mgr.rails = [] ∧ t.cores = [] ∧
          t.net = [] ∧ (t.islandAt i).temp = temp ∧ (∀ p, p < 64 → (t.port p).up = false ∧ (t.port p).mem = (s.port p).mem) ∧
          ∀ e, e < 48 → (s.part e).st.active = true ∨ (s.part e).st = .saved → (t.part e).st = .closed ∧ (t.part e).reason = 0x11))) ∧
    (∀ amps watts : BitVec 32, ∃ t, exec (.powerLimitStep amps watts) s = .next t ∧ t.mgr.amps = amps ∧ t.mgr.watts = watts ∧
      let turn : Prop := s.now % 1300000 = 0 ∧ s.mgr.stepMs < s.now / 1300000
      ∀ i, i < 96 →
        (∀ o, turn → s.mgr.overNs = some o → o + 10000000 ≤ s.timeNs → 39000 < watts.toNat →
          (t.islandAt i).lowered = (s.islandAt i).lowered + 1) ∧
        (s.mgr.overNs = none → 37000 < watts.toNat → (t.islandAt i).lowered = (s.islandAt i).lowered) ∧
        (turn → watts.toNat ≤ 37000 → (t.islandAt i).lowered = (s.islandAt i).lowered - 1) ∧
        (¬ turn → (t.islandAt i).lowered = (s.islandAt i).lowered)) ∧
    (∀ fld, s.fenced fld = true → fld < 48 →
      exec (.fenceClearCommand fld false) s = .next s ∧
      ∃ t, exec (.fenceClearCommand fld true) s = .next t ∧ t.fenced fld = false ∧ (∀ f, f < 48 → f ≠ fld → t.fenced f = s.fenced f) ∧
        (∀ i, i = 2 * fld ∨ i = 2 * fld + 1 → (t.islandAt i).fmhz = (s.islandAt i).fmhz ∧ (t.islandAt i).planned = 1300) ∧
        (s.mgr.dead = [] → t.mgr.bindgen = s.mgr.bindgen + 1)) ∧
    (∀ c k, s.core? c = some k →
      (∀ word, k.regs.finj.getLsbD 0 = false → ∃ t q, exec (.patrolScrub c word) s = .next t ∧ t.core? c = some q ∧
        ({ q with scrubbed := k.scrubbed } : Core) = k.correct (8 * word) 8) ∧
      (∀ word (flip : Word) (bit : Nat), bit < 64 → flip = BitVec.ofNat 64 (2 ^ bit) → word < 24576 → word ∉ k.badWords → (∀ e ∈ k.soft, e.1 ≠ word) →
        exec (.softError (.store c word flip)) s = .next (s.modCore c fun q => { q with soft := k.soft ++ [(word, flip)] })) ∧
      (∀ word b1 b2, b1 < b2 → b2 < 64 → word < 24576 → word ∉ k.badWords → (∀ e ∈ k.soft, e.1 ≠ word) →
        ∃ t q, exec (.softError (.store c word (BitVec.ofNat 64 (2 ^ b1 + 2 ^ b2)))) s = .next t ∧ t.core? c = some q ∧
          q.badWords = word :: k.badWords ∧ q.mem = k.mem) ∧
      (∀ n, ∃ t q, exec (.softError (.vReg c n)) s = .next t ∧ t.core? c = some q ∧ RegId.v n ∈ q.regs.badRegs) ∧
      (∀ a lane flip, ∃ t q, exec (.softError (.accLane c a lane flip)) s = .next t ∧ t.core? c = some q ∧
        q.regs.acc[a].lanes[lane] = k.regs.acc[a].lanes[lane] ^^^ flip) ∧
      (∃ t, exec (.softError (.table c)) s = .next t ∧ Node.core c ∈ t.mgr.dead) ∧
      ∀ n, exec (.softError (.tlb c n)) s = .next (s.modCore c fun q => { q with tlb := q.tlb.eraseIdx n })) ∧
    ∀ p addr, p < 64 → (s.port p).isMem = true →
      ∃ t, exec (.softError (.device p addr)) s = .next t ∧ ∀ a, a ∈ (t.port p).poison ↔ a = addr / 64 * 64 ∨ a ∈ (s.port p).poison

/-! ## The machine as a whole -/

/-- R3, R88 to R90, R97, R393: at power-on no core holds a partition, nothing is on the way, every memory is in its canonical form, and
a core as the open wave makes it has zero registers, vector headers 0x0000_0100_0000_0000, empty tables, FREE slots, doors whose PEND and reserved bits are 0, a new incarnation and, where no
segment writes it, a store of zero bytes. Values that the specification does not give at power-on are the model's choices (logs 3 and 4). -/
def Obligations.ResetIsRight : Prop :=
  State.reset.memOk ∧ State.reset.cores = [] ∧ State.reset.net = [] ∧ State.reset.mgr.ready = false ∧
  (∀ e, e < 48 → (State.reset.part e).st = .free) ∧
  (∀ p, p < 64 → (State.reset.port p).up = false ∧ (State.reset.port p).toks = [] ∧ ∀ a, (State.reset.port p).mem.read a = 0) ∧
  ∀ (idle : Core) (e cols : Nat) (p : PartEntry) (im : Image) (c : Nat),
    let k := openCore idle e cols p im c
    (∀ sl r, k.getS sl r = 0) ∧ (∀ v, k.getV v = ⟨Vector.replicate 64 0, 0x0000010000000000⟩) ∧ (∀ m, k.getM m = 0) ∧
    (∀ sl q, k.getP sl q = true ↔ q = 0) ∧
    (∀ sl, (k.slot sl).st = .free ∧ (k.slot sl).fflags = 0 ∧ (k.slot sl).ftrap = 0 ∧ (k.slot sl).intrap = false) ∧
    k.tables.msgs = [] ∧ k.tables.home = [] ∧ k.tables.held = [] ∧ k.tables.members = [] ∧ k.stores = [] ∧ k.reqs = [] ∧
    k.badWords = [] ∧ k.regs.badRegs = [] ∧ k.tables.once.inc = idle.tables.once.inc + 1 ∧
    (∀ d, (vat k.tables.doors d 0).extractLsb' 16 11 = 0) ∧
    (im.segs = [] → ∀ a, k.mem.read a = 0)

/-- R69, R113, R192, R369: a step in which a core issues, with a RUNNING slot whose pc lies in the local store, is exec of the
instruction that its words there decode to, with that core as the current one; where the words are no instruction it is the
fault of R369, and past the local store that of R113; a due event is exec of it, and when nothing is due time advances by one cc. -/
def Obligations.StepRunsTheDecodedInstruction : Prop :=
  (∀ (s : State) (c : Nat) (k : Core) (sl : Fin 8), s.nextAct = .issue c → s.core? c = some k → k.running = some sl →
    let pc := (k.slot sl).pc
    let w := k.words s.fresh pc
    (∀ i, pc < 0x30000 → decode w.1 w.2 ((k.slot sl).endsBody pc) = .ok i → step s = exec i { s with cur := c }) ∧
    (∀ f, pc < 0x30000 → decode w.1 w.2 ((k.slot sl).endsBody pc) = .error f → step s = exec (.notAnInstruction f) { s with cur := c }) ∧
    (0x30000 ≤ pc → step s = exec .fetchPastLocalStore { s with cur := c }) ∧
    (k.stale = [] → pc ≠ 0x2FFFC → w = (k.mem.readLE pc 4 % 2 ^ 32, some (k.mem.readLE (pc + 4) 4 % 2 ^ 32)))) ∧
  (∀ s i, s.nextAct = .event i → step s = settled i (exec i s)) ∧
  ∀ s, s.nextAct = .tick → step s = .next s.tick ∧ s.tick.now = s.now + 1

/-- R60 to R68, and the worked examples of R61, R64, R65, R93, R99, R107, R115, R120, R140, R145, R178, R202, R205, R244, R327 and R361: words written out from
the encodings of the specification decode to the instructions that they stand for, and a word that a check refuses to its fault. -/
def Obligations.DecodedWords : Prop :=
  let h : Head := ⟨0, false, 0⟩
  let relPart : OrdX := .ord ⟨.rel, .part, 0⟩
  (∀ next ends,
    decode 0x01020C60 next ends = .ok (.add h (.g 4) (.g 3) (.g 3)) ∧
    decode 0x8121844C next ends = .ok (.mul ⟨2, false, 2⟩ (.g 3) (.g 1) (.g 2)) ∧
    decode 0x09014642 next ends = .ok (.cmpLt h 2 (.t 1) (.t 2)) ∧
    decode 0x0D0B5421 next ends = .ok (.peero h (.t 6) (.t 5) (.g 1)) ∧
    decode 0x13060005 next ends = .ok (.loopImm h .none false 16 5) ∧
    decode 0x16010402 next ends = .ok (.csrs h (.g 2) (.g 1) 2) ∧
    decode 0x200B0F02 next ends = .ok (.rld h .none (.t 6) (.g 3) .i64 2) ∧
    decode 0x220814CA next ends = .ok (.atomCas h .none (.t 0) (.g 5) (.g 6) false) ∧
    decode 0x28000463 next ends = .ok (.tsplit h (.g 1) (.g 3)) ∧
    decode 0x280AD807 next ends = .ok (.tqry h (.t 5) (.t 6) (.g 0)) ∧
    decode 0x380010A2 next ends = .ok (.mmaF8i4 h false (.g 4) (.g 5)) ∧
    decode 0x39000443 next ends = .ok (.mcolq h false 1 2) ∧
    decode 0x3A018004 next ends = .ok (.mdrainF32 h .none 3 0 0 false) ∧
    decode 0x3C0810A1 next ends = .ok (.larv h .none (.t 0) (.g 4) (.g 5)) ∧
    decode 0x3D098000 next ends = .ok (.rngget h (.t 3))) ∧
  decode 0x3F000061 (some 0x022AD6A0) false = .ok (.addi ⟨0, false, 2⟩ (.imm 0x61) (.t 5) (.t 5) 0x2A0) ∧
  decode 0x3F580000 (some 0x140B94C1) false = .ok (.waita h (.ord ⟨.acq, .part, 0⟩) (.t 7) (.g 5) (.g 6)) ∧
  decode 0x3F680000 (some 0x2C0C14C0) false = .ok (.send h relPart 6 (.g 5) (.g 6)) ∧
  decode 0x3F680000 (some 0x2D0010A0) false = .ok (.cpy h relPart (.g 4) (.g 5)) ∧
  decode 0x3F838000 (some 0x33012306) false = .ok (.vaddE4m3 h (.vec ⟨.i8, .dyn, false, false, .g 0, 0⟩) 1 2 3 .all) ∧
  decode 0x3F803100 (some 0x3704200E) false = .ok (.vdraw h ⟨.i8, .rne, false, true, .t 1, 0⟩ 4 2 .all) ∧
  (∀ next ends, decode 0x00000000 next ends = .error .illop) ∧
  (∀ ends, decode 0x3F000061 none ends = .error .longform) ∧
  ∀ next, decode 0x3F000061 next true = .error .longform

/-- R60 to R70, R113, R192: a well-formed instruction has one word or two, and stored little-endian at any place of a local store that holds
them, with no older word in the fetch buffer, it is fetched and decoded as that instruction, with every operand at every value that its
encoding admits; one word decodes so at the end of a loop body too. -/
def Obligations.StoredInstructionsDecodeAsThemselves : Prop :=
  ∀ (i : Instr) (k : Core) (pc fresh : Nat), i.wf = true → k.mem.wf = true → k.stale = [] → pc % 4 = 0 →
    pc + 4 * (encode i).length ≤ 0x30000 →
    let q : Core := { k with mem := k.mem.writeN pc ((encode i).flatMap fun w => bytesLE 4 w) }
    let w := q.words fresh pc
    ((encode i).length = 1 ∨ (encode i).length = 2) ∧ decode w.1 w.2 false = .ok i ∧
      ((encode i).length = 1 → ∀ ends, decode w.1 w.2 ends = .ok i)

/-- R188, and the form of the model's memories: every step keeps every memory of the machine, those of cores, of cores without a partition
and of the devices and hosts at the ports, in its canonical form. -/
def Obligations.EveryStepKeepsTheMemoriesCanonical : Prop := ∀ s t : State, s.memOk → step s = .next t → t.memOk
end

