-- ==== Sys2Proof/Laws/Bits.lean ====
section
/-! SUPPORT. Fields of words as arithmetic. -/

namespace Sys2Proof.Machine

/- One thread keeps the check of the package within its memory. -/
set_option Elab.async false

/-- The bits of a word with a field replaced. -/
theorem getLsbD_putBits {w : Nat} (v : BitVec w) (lo len x i : Nat) (h : lo + len ≤ w) :
    (putBits v lo len x).getLsbD i = if lo ≤ i ∧ i < lo + len then x.testBit (i - lo) else v.getLsbD i := by
  by_cases hi : i < w
  · simp only [putBits, BitVec.getLsbD_or, BitVec.getLsbD_and, BitVec.getLsbD_not, BitVec.getLsbD_shiftLeft, BitVec.getLsbD_ofNat,
      Nat.testBit_two_pow_sub_one]
    simp only [hi, decide_true, Bool.true_and]
    by_cases h1 : i < lo
    · simp [h1, Nat.not_le.mpr h1]
    · have : i - lo < w := by omega
      by_cases h2 : i < lo + len
      · have : i - lo < len := by omega
        simp [*, Nat.not_lt.mp h1]
      · have : ¬ i - lo < len := by omega
        simp [*]
  · have : ¬ (lo ≤ i ∧ i < lo + len) := by omega
    simp [this, BitVec.getLsbD_of_ge _ _ (Nat.not_lt.mp hi)]

/-- The number that a word with a field replaced stands for. -/
theorem toNat_putBits {w : Nat} (v : BitVec w) (lo len x : Nat) (h : lo + len ≤ w) :
    (putBits v lo len x).toNat = v.toNat / 2 ^ (lo + len) * 2 ^ (lo + len) + x % 2 ^ len * 2 ^ lo + v.toNat % 2 ^ lo := by
  apply Nat.eq_of_testBit_eq
  intro i
  have e : v.toNat / 2 ^ (lo + len) * 2 ^ (lo + len) + x % 2 ^ len * 2 ^ lo + v.toNat % 2 ^ lo =
      2 ^ (lo + len) * (v.toNat / 2 ^ (lo + len)) + (2 ^ lo * (x % 2 ^ len) + v.toNat % 2 ^ lo) := by
    rw [Nat.mul_comm, Nat.mul_comm (x % 2 ^ len), Nat.add_assoc]
  have hb : v.toNat % 2 ^ lo < 2 ^ lo := Nat.mod_lt _ (Nat.two_pow_pos lo)
  have hx : x % 2 ^ len < 2 ^ len := Nat.mod_lt _ (Nat.two_pow_pos len)
  have hc : 2 ^ lo * (x % 2 ^ len) + v.toNat % 2 ^ lo < 2 ^ (lo + len) := by
    calc _ < 2 ^ lo * (x % 2 ^ len) + 2 ^ lo := by omega
      _ = 2 ^ lo * (x % 2 ^ len + 1) := by rw [Nat.mul_add, Nat.mul_one]
      _ ≤ 2 ^ lo * 2 ^ len := Nat.mul_le_mul_left _ hx
      _ = _ := (Nat.pow_add 2 lo len).symm
  rw [e, Nat.testBit_two_pow_mul_add _ hc, Nat.testBit_two_pow_mul_add _ hb]
  have : (putBits v lo len x).toNat.testBit i = (putBits v lo len x).getLsbD i := rfl
  rw [this, getLsbD_putBits _ _ _ _ _ h]
  simp only [Nat.testBit_div_two_pow, Nat.testBit_mod_two_pow]
  have g : v.getLsbD i = v.toNat.testBit i := rfl
  by_cases h1 : i < lo
  · have h2 : ¬ (lo ≤ i ∧ i < lo + len) := by omega
    simp [h2, h1, g]; omega
  · by_cases h2 : i < lo + len
    · have h3 : i - lo < len := by omega
      have h4 : lo ≤ i := by omega
      simp [h1, h2, h3, h4]
    · simp [h2, g]; rw [show i - (lo+len) + (lo + len) = i by omega]

/-- A field as arithmetic. -/
theorem bits_eq {w : Nat} (v : BitVec w) (lo len : Nat) : bits v lo len = v.toNat / 2 ^ lo % 2 ^ len := by
  simp [bits, BitVec.extractLsb'_toNat, Nat.shiftRight_eq_div_pow]

end Sys2Proof.Machine
end

