-- ==== Sys2Proof/Laws/State.lean ====
section
/-! SUPPORT. One lemma for each field of each record update that the operations are built of. -/

namespace Sys2Proof.Machine

@[simp] theorem State.modCore_now (x : State) (c : Nat) (f : Core → Core) : (x.modCore c f).now = x.now := rfl
@[simp] theorem State.modCore_cores (x : State) (c : Nat) (f : Core → Core) : (x.modCore c f).cores = amod c f x.cores := rfl
@[simp] theorem State.modCore_ports (x : State) (c : Nat) (f : Core → Core) : (x.modCore c f).ports = x.ports := rfl
@[simp] theorem State.modCore_fields (x : State) (c : Nat) (f : Core → Core) : (x.modCore c f).fields = x.fields := rfl
@[simp] theorem State.modCore_islands (x : State) (c : Nat) (f : Core → Core) : (x.modCore c f).islands = x.islands := rfl
@[simp] theorem State.modCore_mgr (x : State) (c : Nat) (f : Core → Core) : (x.modCore c f).mgr = x.mgr := rfl
@[simp] theorem State.modCore_net (x : State) (c : Nat) (f : Core → Core) : (x.modCore c f).net = x.net := rfl
@[simp] theorem State.modCore_idle (x : State) (c : Nat) (f : Core → Core) : (x.modCore c f).idle = x.idle := rfl
@[simp] theorem State.modCore_inputs (x : State) (c : Nat) (f : Core → Core) : (x.modCore c f).inputs = x.inputs := rfl
@[simp] theorem State.modCore_cur (x : State) (c : Nat) (f : Core → Core) : (x.modCore c f).cur = x.cur := rfl
@[simp] theorem State.modCore_nextId (x : State) (c : Nat) (f : Core → Core) : (x.modCore c f).nextId = x.nextId := rfl
@[simp] theorem State.modCore_fresh (x : State) (c : Nat) (f : Core → Core) : (x.modCore c f).fresh = x.fresh := rfl

@[simp] theorem State.modPort_now (x : State) (p : Nat) (f : Port → Port) : (x.modPort p f).now = x.now := rfl
@[simp] theorem State.modPort_cores (x : State) (p : Nat) (f : Port → Port) : (x.modPort p f).cores = x.cores := rfl
@[simp] theorem State.modPort_fields (x : State) (p : Nat) (f : Port → Port) : (x.modPort p f).fields = x.fields := rfl
@[simp] theorem State.modPort_islands (x : State) (p : Nat) (f : Port → Port) : (x.modPort p f).islands = x.islands := rfl
@[simp] theorem State.modPort_mgr (x : State) (p : Nat) (f : Port → Port) : (x.modPort p f).mgr = x.mgr := rfl
@[simp] theorem State.modPort_net (x : State) (p : Nat) (f : Port → Port) : (x.modPort p f).net = x.net := rfl
@[simp] theorem State.modPort_idle (x : State) (p : Nat) (f : Port → Port) : (x.modPort p f).idle = x.idle := rfl
@[simp] theorem State.modPort_inputs (x : State) (p : Nat) (f : Port → Port) : (x.modPort p f).inputs = x.inputs := rfl
@[simp] theorem State.modPort_cur (x : State) (p : Nat) (f : Port → Port) : (x.modPort p f).cur = x.cur := rfl
@[simp] theorem State.modPort_nextId (x : State) (p : Nat) (f : Port → Port) : (x.modPort p f).nextId = x.nextId := rfl
@[simp] theorem State.modPort_fresh (x : State) (p : Nat) (f : Port → Port) : (x.modPort p f).fresh = x.fresh := rfl

@[simp] theorem State.modField_now (x : State) (i : Nat) (f : Field → Field) : (x.modField i f).now = x.now := rfl
@[simp] theorem State.modField_cores (x : State) (i : Nat) (f : Field → Field) : (x.modField i f).cores = x.cores := rfl
@[simp] theorem State.modField_ports (x : State) (i : Nat) (f : Field → Field) : (x.modField i f).ports = x.ports := rfl
@[simp] theorem State.modField_islands (x : State) (i : Nat) (f : Field → Field) : (x.modField i f).islands = x.islands := rfl
@[simp] theorem State.modField_mgr (x : State) (i : Nat) (f : Field → Field) : (x.modField i f).mgr = x.mgr := rfl
@[simp] theorem State.modField_net (x : State) (i : Nat) (f : Field → Field) : (x.modField i f).net = x.net := rfl
@[simp] theorem State.modField_idle (x : State) (i : Nat) (f : Field → Field) : (x.modField i f).idle = x.idle := rfl
@[simp] theorem State.modField_inputs (x : State) (i : Nat) (f : Field → Field) : (x.modField i f).inputs = x.inputs := rfl
@[simp] theorem State.modField_cur (x : State) (i : Nat) (f : Field → Field) : (x.modField i f).cur = x.cur := rfl
@[simp] theorem State.modField_nextId (x : State) (i : Nat) (f : Field → Field) : (x.modField i f).nextId = x.nextId := rfl
@[simp] theorem State.modField_fresh (x : State) (i : Nat) (f : Field → Field) : (x.modField i f).fresh = x.fresh := rfl

@[simp] theorem State.modPart_now (x : State) (e : Nat) (f : PartEntry → PartEntry) : (x.modPart e f).now = x.now := by simp only [State.modPart]; split <;> rfl
@[simp] theorem State.modPart_cores (x : State) (e : Nat) (f : PartEntry → PartEntry) : (x.modPart e f).cores = x.cores := by simp only [State.modPart]; split <;> rfl
@[simp] theorem State.modPart_ports (x : State) (e : Nat) (f : PartEntry → PartEntry) : (x.modPart e f).ports = x.ports := by simp only [State.modPart]; split <;> rfl
@[simp] theorem State.modPart_fields (x : State) (e : Nat) (f : PartEntry → PartEntry) : (x.modPart e f).fields = x.fields := by simp only [State.modPart]; split <;> rfl
@[simp] theorem State.modPart_islands (x : State) (e : Nat) (f : PartEntry → PartEntry) : (x.modPart e f).islands = x.islands := by simp only [State.modPart]; split <;> rfl
@[simp] theorem State.modPart_net (x : State) (e : Nat) (f : PartEntry → PartEntry) : (x.modPart e f).net = x.net := by simp only [State.modPart]; split <;> rfl
@[simp] theorem State.modPart_idle (x : State) (e : Nat) (f : PartEntry → PartEntry) : (x.modPart e f).idle = x.idle := by simp only [State.modPart]; split <;> rfl
@[simp] theorem State.modPart_inputs (x : State) (e : Nat) (f : PartEntry → PartEntry) : (x.modPart e f).inputs = x.inputs := by simp only [State.modPart]; split <;> rfl
@[simp] theorem State.modPart_cur (x : State) (e : Nat) (f : PartEntry → PartEntry) : (x.modPart e f).cur = x.cur := by simp only [State.modPart]; split <;> rfl
@[simp] theorem State.modPart_nextId (x : State) (e : Nat) (f : PartEntry → PartEntry) : (x.modPart e f).nextId = x.nextId := by simp only [State.modPart]; split <;> rfl
@[simp] theorem State.modPart_fresh (x : State) (e : Nat) (f : PartEntry → PartEntry) : (x.modPart e f).fresh = x.fresh := by simp only [State.modPart]; split <;> rfl

@[simp] theorem State.newId_now (x : State)  : (x.newId ).now = x.now := rfl
@[simp] theorem State.newId_cores (x : State)  : (x.newId ).cores = x.cores := rfl
@[simp] theorem State.newId_ports (x : State)  : (x.newId ).ports = x.ports := rfl
@[simp] theorem State.newId_fields (x : State)  : (x.newId ).fields = x.fields := rfl
@[simp] theorem State.newId_islands (x : State)  : (x.newId ).islands = x.islands := rfl
@[simp] theorem State.newId_mgr (x : State)  : (x.newId ).mgr = x.mgr := rfl
@[simp] theorem State.newId_net (x : State)  : (x.newId ).net = x.net := rfl
@[simp] theorem State.newId_idle (x : State)  : (x.newId ).idle = x.idle := rfl
@[simp] theorem State.newId_inputs (x : State)  : (x.newId ).inputs = x.inputs := rfl
@[simp] theorem State.newId_cur (x : State)  : (x.newId ).cur = x.cur := rfl
@[simp] theorem State.newId_nextId (x : State)  : (x.newId ).nextId = x.nextId + 1 := rfl
@[simp] theorem State.newId_fresh (x : State)  : (x.newId ).fresh = x.fresh := rfl

@[simp] theorem State.logReport_now (x : State) (r : Report) : (x.logReport r).now = x.now := rfl
@[simp] theorem State.logReport_cores (x : State) (r : Report) : (x.logReport r).cores = x.cores := rfl
@[simp] theorem State.logReport_ports (x : State) (r : Report) : (x.logReport r).ports = x.ports := rfl
@[simp] theorem State.logReport_fields (x : State) (r : Report) : (x.logReport r).fields = x.fields := rfl
@[simp] theorem State.logReport_islands (x : State) (r : Report) : (x.logReport r).islands = x.islands := rfl
@[simp] theorem State.logReport_net (x : State) (r : Report) : (x.logReport r).net = x.net := rfl
@[simp] theorem State.logReport_idle (x : State) (r : Report) : (x.logReport r).idle = x.idle := rfl
@[simp] theorem State.logReport_inputs (x : State) (r : Report) : (x.logReport r).inputs = x.inputs := rfl
@[simp] theorem State.logReport_cur (x : State) (r : Report) : (x.logReport r).cur = x.cur := rfl
@[simp] theorem State.logReport_nextId (x : State) (r : Report) : (x.logReport r).nextId = x.nextId := rfl
@[simp] theorem State.logReport_fresh (x : State) (r : Report) : (x.logReport r).fresh = x.fresh := rfl

@[simp] theorem State.atIssue_now (x : State) (sl : Fin 8) (n : Nat) : (x.atIssue sl n).now = x.now := rfl
@[simp] theorem State.atIssue_ports (x : State) (sl : Fin 8) (n : Nat) : (x.atIssue sl n).ports = x.ports := rfl
@[simp] theorem State.atIssue_fields (x : State) (sl : Fin 8) (n : Nat) : (x.atIssue sl n).fields = x.fields := rfl
@[simp] theorem State.atIssue_islands (x : State) (sl : Fin 8) (n : Nat) : (x.atIssue sl n).islands = x.islands := rfl
@[simp] theorem State.atIssue_mgr (x : State) (sl : Fin 8) (n : Nat) : (x.atIssue sl n).mgr = x.mgr := rfl
@[simp] theorem State.atIssue_net (x : State) (sl : Fin 8) (n : Nat) : (x.atIssue sl n).net = x.net := rfl
@[simp] theorem State.atIssue_idle (x : State) (sl : Fin 8) (n : Nat) : (x.atIssue sl n).idle = x.idle := rfl
@[simp] theorem State.atIssue_inputs (x : State) (sl : Fin 8) (n : Nat) : (x.atIssue sl n).inputs = x.inputs := rfl
@[simp] theorem State.atIssue_cur (x : State) (sl : Fin 8) (n : Nat) : (x.atIssue sl n).cur = x.cur := rfl
@[simp] theorem State.atIssue_nextId (x : State) (sl : Fin 8) (n : Nat) : (x.atIssue sl n).nextId = x.nextId := rfl
@[simp] theorem State.atIssue_fresh (x : State) (sl : Fin 8) (n : Nat) : (x.atIssue sl n).fresh = x.fresh := rfl

@[simp] theorem Core.modSlot_regs (x : Core) (sl : Fin 8) (f : Slot → Slot) : (x.modSlot sl f).regs = { x.regs with slots := x.regs.slots.set sl (f x.regs.slots[sl]) } := rfl
@[simp] theorem Core.modSlot_tables (x : Core) (sl : Fin 8) (f : Slot → Slot) : (x.modSlot sl f).tables = x.tables := rfl
@[simp] theorem Core.modSlot_mem (x : Core) (sl : Fin 8) (f : Slot → Slot) : (x.modSlot sl f).mem = x.mem := rfl
@[simp] theorem Core.modSlot_badWords (x : Core) (sl : Fin 8) (f : Slot → Slot) : (x.modSlot sl f).badWords = x.badWords := rfl
@[simp] theorem Core.modSlot_soft (x : Core) (sl : Fin 8) (f : Slot → Slot) : (x.modSlot sl f).soft = x.soft := rfl
@[simp] theorem Core.modSlot_stale (x : Core) (sl : Fin 8) (f : Slot → Slot) : (x.modSlot sl f).stale = x.stale := rfl
@[simp] theorem Core.modSlot_stores (x : Core) (sl : Fin 8) (f : Slot → Slot) : (x.modSlot sl f).stores = x.stores := rfl
@[simp] theorem Core.modSlot_inflight (x : Core) (sl : Fin 8) (f : Slot → Slot) : (x.modSlot sl f).inflight = x.inflight := rfl
@[simp] theorem Core.modSlot_results (x : Core) (sl : Fin 8) (f : Slot → Slot) : (x.modSlot sl f).results = x.results := rfl
@[simp] theorem Core.modSlot_sfu (x : Core) (sl : Fin 8) (f : Slot → Slot) : (x.modSlot sl f).sfu = x.sfu := rfl
@[simp] theorem Core.modSlot_sfuNext (x : Core) (sl : Fin 8) (f : Slot → Slot) : (x.modSlot sl f).sfuNext = x.sfuNext := rfl
@[simp] theorem Core.modSlot_sfuWrite (x : Core) (sl : Fin 8) (f : Slot → Slot) : (x.modSlot sl f).sfuWrite = x.sfuWrite := rfl
@[simp] theorem Core.modSlot_matrix (x : Core) (sl : Fin 8) (f : Slot → Slot) : (x.modSlot sl f).matrix = x.matrix := rfl
@[simp] theorem Core.modSlot_computeFree (x : Core) (sl : Fin 8) (f : Slot → Slot) : (x.modSlot sl f).computeFree = x.computeFree := rfl
@[simp] theorem Core.modSlot_loadFree (x : Core) (sl : Fin 8) (f : Slot → Slot) : (x.modSlot sl f).loadFree = x.loadFree := rfl
@[simp] theorem Core.modSlot_lastDispatch (x : Core) (sl : Fin 8) (f : Slot → Slot) : (x.modSlot sl f).lastDispatch = x.lastDispatch := rfl
@[simp] theorem Core.modSlot_fpFree (x : Core) (sl : Fin 8) (f : Slot → Slot) : (x.modSlot sl f).fpFree = x.fpFree := rfl
@[simp] theorem Core.modSlot_atomNext (x : Core) (sl : Fin 8) (f : Slot → Slot) : (x.modSlot sl f).atomNext = x.atomNext := rfl
@[simp] theorem Core.modSlot_copies (x : Core) (sl : Fin 8) (f : Slot → Slot) : (x.modSlot sl f).copies = x.copies := rfl
@[simp] theorem Core.modSlot_copyNext (x : Core) (sl : Fin 8) (f : Slot → Slot) : (x.modSlot sl f).copyNext = x.copyNext := rfl
@[simp] theorem Core.modSlot_copyTurn (x : Core) (sl : Fin 8) (f : Slot → Slot) : (x.modSlot sl f).copyTurn = x.copyTurn := rfl
@[simp] theorem Core.modSlot_reqs (x : Core) (sl : Fin 8) (f : Slot → Slot) : (x.modSlot sl f).reqs = x.reqs := rfl
@[simp] theorem Core.modSlot_tlb (x : Core) (sl : Fin 8) (f : Slot → Slot) : (x.modSlot sl f).tlb = x.tlb := rfl
@[simp] theorem Core.modSlot_next (x : Core) (sl : Fin 8) (f : Slot → Slot) : (x.modSlot sl f).next = x.next := rfl
@[simp] theorem Core.modSlot_rounds (x : Core) (sl : Fin 8) (f : Slot → Slot) : (x.modSlot sl f).rounds = x.rounds := rfl
@[simp] theorem Core.modSlot_deliveries (x : Core) (sl : Fin 8) (f : Slot → Slot) : (x.modSlot sl f).deliveries = x.deliveries := rfl
@[simp] theorem Core.modSlot_floors (x : Core) (sl : Fin 8) (f : Slot → Slot) : (x.modSlot sl f).floors = x.floors := rfl
@[simp] theorem Core.modSlot_doorIn (x : Core) (sl : Fin 8) (f : Slot → Slot) : (x.modSlot sl f).doorIn = x.doorIn := rfl
@[simp] theorem Core.modSlot_shadow (x : Core) (sl : Fin 8) (f : Slot → Slot) : (x.modSlot sl f).shadow = x.shadow := rfl
@[simp] theorem Core.modSlot_entry (x : Core) (sl : Fin 8) (f : Slot → Slot) : (x.modSlot sl f).entry = x.entry := rfl
@[simp] theorem Core.modSlot_halted (x : Core) (sl : Fin 8) (f : Slot → Slot) : (x.modSlot sl f).halted = x.halted := rfl
@[simp] theorem Core.modSlot_live (x : Core) (sl : Fin 8) (f : Slot → Slot) : (x.modSlot sl f).live = x.live := rfl
@[simp] theorem Core.modSlot_frozen (x : Core) (sl : Fin 8) (f : Slot → Slot) : (x.modSlot sl f).frozen = x.frozen := rfl
@[simp] theorem Core.modSlot_lastIssue (x : Core) (sl : Fin 8) (f : Slot → Slot) : (x.modSlot sl f).lastIssue = x.lastIssue := rfl
@[simp] theorem Core.modSlot_lastWork (x : Core) (sl : Fin 8) (f : Slot → Slot) : (x.modSlot sl f).lastWork = x.lastWork := rfl
@[simp] theorem Core.modSlot_issueFrom (x : Core) (sl : Fin 8) (f : Slot → Slot) : (x.modSlot sl f).issueFrom = x.issueFrom := rfl
@[simp] theorem Core.modSlot_yielded (x : Core) (sl : Fin 8) (f : Slot → Slot) : (x.modSlot sl f).yielded = x.yielded := rfl
@[simp] theorem Core.modSlot_held (x : Core) (sl : Fin 8) (f : Slot → Slot) : (x.modSlot sl f).held = x.held := rfl
@[simp] theorem Core.modSlot_cycOff (x : Core) (sl : Fin 8) (f : Slot → Slot) : (x.modSlot sl f).cycOff = x.cycOff := rfl
@[simp] theorem Core.modSlot_scrubbed (x : Core) (sl : Fin 8) (f : Slot → Slot) : (x.modSlot sl f).scrubbed = x.scrubbed := rfl

@[simp] theorem Core.setV_regs (x : Core) (n : VNum) (v : VReg) : (x.setV n v).regs = { x.regs with v := x.regs.v.set n v } := rfl
@[simp] theorem Core.setV_tables (x : Core) (n : VNum) (v : VReg) : (x.setV n v).tables = x.tables := rfl
@[simp] theorem Core.setV_mem (x : Core) (n : VNum) (v : VReg) : (x.setV n v).mem = x.mem := rfl
@[simp] theorem Core.setV_badWords (x : Core) (n : VNum) (v : VReg) : (x.setV n v).badWords = x.badWords := rfl
@[simp] theorem Core.setV_soft (x : Core) (n : VNum) (v : VReg) : (x.setV n v).soft = x.soft := rfl
@[simp] theorem Core.setV_stale (x : Core) (n : VNum) (v : VReg) : (x.setV n v).stale = x.stale := rfl
@[simp] theorem Core.setV_stores (x : Core) (n : VNum) (v : VReg) : (x.setV n v).stores = x.stores := rfl
@[simp] theorem Core.setV_inflight (x : Core) (n : VNum) (v : VReg) : (x.setV n v).inflight = x.inflight := rfl
@[simp] theorem Core.setV_results (x : Core) (n : VNum) (v : VReg) : (x.setV n v).results = x.results := rfl
@[simp] theorem Core.setV_sfu (x : Core) (n : VNum) (v : VReg) : (x.setV n v).sfu = x.sfu := rfl
@[simp] theorem Core.setV_sfuNext (x : Core) (n : VNum) (v : VReg) : (x.setV n v).sfuNext = x.sfuNext := rfl
@[simp] theorem Core.setV_sfuWrite (x : Core) (n : VNum) (v : VReg) : (x.setV n v).sfuWrite = x.sfuWrite := rfl
@[simp] theorem Core.setV_matrix (x : Core) (n : VNum) (v : VReg) : (x.setV n v).matrix = x.matrix := rfl
@[simp] theorem Core.setV_computeFree (x : Core) (n : VNum) (v : VReg) : (x.setV n v).computeFree = x.computeFree := rfl
@[simp] theorem Core.setV_loadFree (x : Core) (n : VNum) (v : VReg) : (x.setV n v).loadFree = x.loadFree := rfl
@[simp] theorem Core.setV_lastDispatch (x : Core) (n : VNum) (v : VReg) : (x.setV n v).lastDispatch = x.lastDispatch := rfl
@[simp] theorem Core.setV_fpFree (x : Core) (n : VNum) (v : VReg) : (x.setV n v).fpFree = x.fpFree := rfl
@[simp] theorem Core.setV_atomNext (x : Core) (n : VNum) (v : VReg) : (x.setV n v).atomNext = x.atomNext := rfl
@[simp] theorem Core.setV_copies (x : Core) (n : VNum) (v : VReg) : (x.setV n v).copies = x.copies := rfl
@[simp] theorem Core.setV_copyNext (x : Core) (n : VNum) (v : VReg) : (x.setV n v).copyNext = x.copyNext := rfl
@[simp] theorem Core.setV_copyTurn (x : Core) (n : VNum) (v : VReg) : (x.setV n v).copyTurn = x.copyTurn := rfl
@[simp] theorem Core.setV_reqs (x : Core) (n : VNum) (v : VReg) : (x.setV n v).reqs = x.reqs := rfl
@[simp] theorem Core.setV_tlb (x : Core) (n : VNum) (v : VReg) : (x.setV n v).tlb = x.tlb := rfl
@[simp] theorem Core.setV_next (x : Core) (n : VNum) (v : VReg) : (x.setV n v).next = x.next := rfl
@[simp] theorem Core.setV_rounds (x : Core) (n : VNum) (v : VReg) : (x.setV n v).rounds = x.rounds := rfl
@[simp] theorem Core.setV_deliveries (x : Core) (n : VNum) (v : VReg) : (x.setV n v).deliveries = x.deliveries := rfl
@[simp] theorem Core.setV_floors (x : Core) (n : VNum) (v : VReg) : (x.setV n v).floors = x.floors := rfl
@[simp] theorem Core.setV_doorIn (x : Core) (n : VNum) (v : VReg) : (x.setV n v).doorIn = x.doorIn := rfl
@[simp] theorem Core.setV_shadow (x : Core) (n : VNum) (v : VReg) : (x.setV n v).shadow = x.shadow := rfl
@[simp] theorem Core.setV_entry (x : Core) (n : VNum) (v : VReg) : (x.setV n v).entry = x.entry := rfl
@[simp] theorem Core.setV_halted (x : Core) (n : VNum) (v : VReg) : (x.setV n v).halted = x.halted := rfl
@[simp] theorem Core.setV_live (x : Core) (n : VNum) (v : VReg) : (x.setV n v).live = x.live := rfl
@[simp] theorem Core.setV_frozen (x : Core) (n : VNum) (v : VReg) : (x.setV n v).frozen = x.frozen := rfl
@[simp] theorem Core.setV_lastIssue (x : Core) (n : VNum) (v : VReg) : (x.setV n v).lastIssue = x.lastIssue := rfl
@[simp] theorem Core.setV_lastWork (x : Core) (n : VNum) (v : VReg) : (x.setV n v).lastWork = x.lastWork := rfl
@[simp] theorem Core.setV_issueFrom (x : Core) (n : VNum) (v : VReg) : (x.setV n v).issueFrom = x.issueFrom := rfl
@[simp] theorem Core.setV_yielded (x : Core) (n : VNum) (v : VReg) : (x.setV n v).yielded = x.yielded := rfl
@[simp] theorem Core.setV_held (x : Core) (n : VNum) (v : VReg) : (x.setV n v).held = x.held := rfl
@[simp] theorem Core.setV_cycOff (x : Core) (n : VNum) (v : VReg) : (x.setV n v).cycOff = x.cycOff := rfl
@[simp] theorem Core.setV_scrubbed (x : Core) (n : VNum) (v : VReg) : (x.setV n v).scrubbed = x.scrubbed := rfl

@[simp] theorem Core.setM_regs (x : Core) (n : MReg) (v : Word) : (x.setM n v).regs = { x.regs with m := x.regs.m.set n v } := rfl
@[simp] theorem Core.setM_tables (x : Core) (n : MReg) (v : Word) : (x.setM n v).tables = x.tables := rfl
@[simp] theorem Core.setM_mem (x : Core) (n : MReg) (v : Word) : (x.setM n v).mem = x.mem := rfl
@[simp] theorem Core.setM_badWords (x : Core) (n : MReg) (v : Word) : (x.setM n v).badWords = x.badWords := rfl
@[simp] theorem Core.setM_soft (x : Core) (n : MReg) (v : Word) : (x.setM n v).soft = x.soft := rfl
@[simp] theorem Core.setM_stale (x : Core) (n : MReg) (v : Word) : (x.setM n v).stale = x.stale := rfl
@[simp] theorem Core.setM_stores (x : Core) (n : MReg) (v : Word) : (x.setM n v).stores = x.stores := rfl
@[simp] theorem Core.setM_inflight (x : Core) (n : MReg) (v : Word) : (x.setM n v).inflight = x.inflight := rfl
@[simp] theorem Core.setM_results (x : Core) (n : MReg) (v : Word) : (x.setM n v).results = x.results := rfl
@[simp] theorem Core.setM_sfu (x : Core) (n : MReg) (v : Word) : (x.setM n v).sfu = x.sfu := rfl
@[simp] theorem Core.setM_sfuNext (x : Core) (n : MReg) (v : Word) : (x.setM n v).sfuNext = x.sfuNext := rfl
@[simp] theorem Core.setM_sfuWrite (x : Core) (n : MReg) (v : Word) : (x.setM n v).sfuWrite = x.sfuWrite := rfl
@[simp] theorem Core.setM_matrix (x : Core) (n : MReg) (v : Word) : (x.setM n v).matrix = x.matrix := rfl
@[simp] theorem Core.setM_computeFree (x : Core) (n : MReg) (v : Word) : (x.setM n v).computeFree = x.computeFree := rfl
@[simp] theorem Core.setM_loadFree (x : Core) (n : MReg) (v : Word) : (x.setM n v).loadFree = x.loadFree := rfl
@[simp] theorem Core.setM_lastDispatch (x : Core) (n : MReg) (v : Word) : (x.setM n v).lastDispatch = x.lastDispatch := rfl
@[simp] theorem Core.setM_fpFree (x : Core) (n : MReg) (v : Word) : (x.setM n v).fpFree = x.fpFree := rfl
@[simp] theorem Core.setM_atomNext (x : Core) (n : MReg) (v : Word) : (x.setM n v).atomNext = x.atomNext := rfl
@[simp] theorem Core.setM_copies (x : Core) (n : MReg) (v : Word) : (x.setM n v).copies = x.copies := rfl
@[simp] theorem Core.setM_copyNext (x : Core) (n : MReg) (v : Word) : (x.setM n v).copyNext = x.copyNext := rfl
@[simp] theorem Core.setM_copyTurn (x : Core) (n : MReg) (v : Word) : (x.setM n v).copyTurn = x.copyTurn := rfl
@[simp] theorem Core.setM_reqs (x : Core) (n : MReg) (v : Word) : (x.setM n v).reqs = x.reqs := rfl
@[simp] theorem Core.setM_tlb (x : Core) (n : MReg) (v : Word) : (x.setM n v).tlb = x.tlb := rfl
@[simp] theorem Core.setM_next (x : Core) (n : MReg) (v : Word) : (x.setM n v).next = x.next := rfl
@[simp] theorem Core.setM_rounds (x : Core) (n : MReg) (v : Word) : (x.setM n v).rounds = x.rounds := rfl
@[simp] theorem Core.setM_deliveries (x : Core) (n : MReg) (v : Word) : (x.setM n v).deliveries = x.deliveries := rfl
@[simp] theorem Core.setM_floors (x : Core) (n : MReg) (v : Word) : (x.setM n v).floors = x.floors := rfl
@[simp] theorem Core.setM_doorIn (x : Core) (n : MReg) (v : Word) : (x.setM n v).doorIn = x.doorIn := rfl
@[simp] theorem Core.setM_shadow (x : Core) (n : MReg) (v : Word) : (x.setM n v).shadow = x.shadow := rfl
@[simp] theorem Core.setM_entry (x : Core) (n : MReg) (v : Word) : (x.setM n v).entry = x.entry := rfl
@[simp] theorem Core.setM_halted (x : Core) (n : MReg) (v : Word) : (x.setM n v).halted = x.halted := rfl
@[simp] theorem Core.setM_live (x : Core) (n : MReg) (v : Word) : (x.setM n v).live = x.live := rfl
@[simp] theorem Core.setM_frozen (x : Core) (n : MReg) (v : Word) : (x.setM n v).frozen = x.frozen := rfl
@[simp] theorem Core.setM_lastIssue (x : Core) (n : MReg) (v : Word) : (x.setM n v).lastIssue = x.lastIssue := rfl
@[simp] theorem Core.setM_lastWork (x : Core) (n : MReg) (v : Word) : (x.setM n v).lastWork = x.lastWork := rfl
@[simp] theorem Core.setM_issueFrom (x : Core) (n : MReg) (v : Word) : (x.setM n v).issueFrom = x.issueFrom := rfl
@[simp] theorem Core.setM_yielded (x : Core) (n : MReg) (v : Word) : (x.setM n v).yielded = x.yielded := rfl
@[simp] theorem Core.setM_held (x : Core) (n : MReg) (v : Word) : (x.setM n v).held = x.held := rfl
@[simp] theorem Core.setM_cycOff (x : Core) (n : MReg) (v : Word) : (x.setM n v).cycOff = x.cycOff := rfl
@[simp] theorem Core.setM_scrubbed (x : Core) (n : MReg) (v : Word) : (x.setM n v).scrubbed = x.scrubbed := rfl

@[simp] theorem Core.setAcc_regs (x : Core) (n : ANum) (a : Acc) : (x.setAcc n a).regs = { x.regs with acc := x.regs.acc.set n a } := rfl
@[simp] theorem Core.setAcc_tables (x : Core) (n : ANum) (a : Acc) : (x.setAcc n a).tables = x.tables := rfl
@[simp] theorem Core.setAcc_mem (x : Core) (n : ANum) (a : Acc) : (x.setAcc n a).mem = x.mem := rfl
@[simp] theorem Core.setAcc_badWords (x : Core) (n : ANum) (a : Acc) : (x.setAcc n a).badWords = x.badWords := rfl
@[simp] theorem Core.setAcc_soft (x : Core) (n : ANum) (a : Acc) : (x.setAcc n a).soft = x.soft := rfl
@[simp] theorem Core.setAcc_stale (x : Core) (n : ANum) (a : Acc) : (x.setAcc n a).stale = x.stale := rfl
@[simp] theorem Core.setAcc_stores (x : Core) (n : ANum) (a : Acc) : (x.setAcc n a).stores = x.stores := rfl
@[simp] theorem Core.setAcc_inflight (x : Core) (n : ANum) (a : Acc) : (x.setAcc n a).inflight = x.inflight := rfl
@[simp] theorem Core.setAcc_results (x : Core) (n : ANum) (a : Acc) : (x.setAcc n a).results = x.results := rfl
@[simp] theorem Core.setAcc_sfu (x : Core) (n : ANum) (a : Acc) : (x.setAcc n a).sfu = x.sfu := rfl
@[simp] theorem Core.setAcc_sfuNext (x : Core) (n : ANum) (a : Acc) : (x.setAcc n a).sfuNext = x.sfuNext := rfl
@[simp] theorem Core.setAcc_sfuWrite (x : Core) (n : ANum) (a : Acc) : (x.setAcc n a).sfuWrite = x.sfuWrite := rfl
@[simp] theorem Core.setAcc_matrix (x : Core) (n : ANum) (a : Acc) : (x.setAcc n a).matrix = x.matrix := rfl
@[simp] theorem Core.setAcc_computeFree (x : Core) (n : ANum) (a : Acc) : (x.setAcc n a).computeFree = x.computeFree := rfl
@[simp] theorem Core.setAcc_loadFree (x : Core) (n : ANum) (a : Acc) : (x.setAcc n a).loadFree = x.loadFree := rfl
@[simp] theorem Core.setAcc_lastDispatch (x : Core) (n : ANum) (a : Acc) : (x.setAcc n a).lastDispatch = x.lastDispatch := rfl
@[simp] theorem Core.setAcc_fpFree (x : Core) (n : ANum) (a : Acc) : (x.setAcc n a).fpFree = x.fpFree := rfl
@[simp] theorem Core.setAcc_atomNext (x : Core) (n : ANum) (a : Acc) : (x.setAcc n a).atomNext = x.atomNext := rfl
@[simp] theorem Core.setAcc_copies (x : Core) (n : ANum) (a : Acc) : (x.setAcc n a).copies = x.copies := rfl
@[simp] theorem Core.setAcc_copyNext (x : Core) (n : ANum) (a : Acc) : (x.setAcc n a).copyNext = x.copyNext := rfl
@[simp] theorem Core.setAcc_copyTurn (x : Core) (n : ANum) (a : Acc) : (x.setAcc n a).copyTurn = x.copyTurn := rfl
@[simp] theorem Core.setAcc_reqs (x : Core) (n : ANum) (a : Acc) : (x.setAcc n a).reqs = x.reqs := rfl
@[simp] theorem Core.setAcc_tlb (x : Core) (n : ANum) (a : Acc) : (x.setAcc n a).tlb = x.tlb := rfl
@[simp] theorem Core.setAcc_next (x : Core) (n : ANum) (a : Acc) : (x.setAcc n a).next = x.next := rfl
@[simp] theorem Core.setAcc_rounds (x : Core) (n : ANum) (a : Acc) : (x.setAcc n a).rounds = x.rounds := rfl
@[simp] theorem Core.setAcc_deliveries (x : Core) (n : ANum) (a : Acc) : (x.setAcc n a).deliveries = x.deliveries := rfl
@[simp] theorem Core.setAcc_floors (x : Core) (n : ANum) (a : Acc) : (x.setAcc n a).floors = x.floors := rfl
@[simp] theorem Core.setAcc_doorIn (x : Core) (n : ANum) (a : Acc) : (x.setAcc n a).doorIn = x.doorIn := rfl
@[simp] theorem Core.setAcc_shadow (x : Core) (n : ANum) (a : Acc) : (x.setAcc n a).shadow = x.shadow := rfl
@[simp] theorem Core.setAcc_entry (x : Core) (n : ANum) (a : Acc) : (x.setAcc n a).entry = x.entry := rfl
@[simp] theorem Core.setAcc_halted (x : Core) (n : ANum) (a : Acc) : (x.setAcc n a).halted = x.halted := rfl
@[simp] theorem Core.setAcc_live (x : Core) (n : ANum) (a : Acc) : (x.setAcc n a).live = x.live := rfl
@[simp] theorem Core.setAcc_frozen (x : Core) (n : ANum) (a : Acc) : (x.setAcc n a).frozen = x.frozen := rfl
@[simp] theorem Core.setAcc_lastIssue (x : Core) (n : ANum) (a : Acc) : (x.setAcc n a).lastIssue = x.lastIssue := rfl
@[simp] theorem Core.setAcc_lastWork (x : Core) (n : ANum) (a : Acc) : (x.setAcc n a).lastWork = x.lastWork := rfl
@[simp] theorem Core.setAcc_issueFrom (x : Core) (n : ANum) (a : Acc) : (x.setAcc n a).issueFrom = x.issueFrom := rfl
@[simp] theorem Core.setAcc_yielded (x : Core) (n : ANum) (a : Acc) : (x.setAcc n a).yielded = x.yielded := rfl
@[simp] theorem Core.setAcc_held (x : Core) (n : ANum) (a : Acc) : (x.setAcc n a).held = x.held := rfl
@[simp] theorem Core.setAcc_cycOff (x : Core) (n : ANum) (a : Acc) : (x.setAcc n a).cycOff = x.cycOff := rfl
@[simp] theorem Core.setAcc_scrubbed (x : Core) (n : ANum) (a : Acc) : (x.setAcc n a).scrubbed = x.scrubbed := rfl

@[simp] theorem Core.land_regs (x : Core) (cyc : Nat) : (x.land cyc).regs = x.regs := rfl
@[simp] theorem Core.land_tables (x : Core) (cyc : Nat) : (x.land cyc).tables = x.tables := rfl
@[simp] theorem Core.land_mem (x : Core) (cyc : Nat) : (x.land cyc).mem = x.mem := rfl
@[simp] theorem Core.land_badWords (x : Core) (cyc : Nat) : (x.land cyc).badWords = x.badWords := rfl
@[simp] theorem Core.land_soft (x : Core) (cyc : Nat) : (x.land cyc).soft = x.soft := rfl
@[simp] theorem Core.land_stale (x : Core) (cyc : Nat) : (x.land cyc).stale = x.stale := rfl
@[simp] theorem Core.land_stores (x : Core) (cyc : Nat) : (x.land cyc).stores = x.stores := rfl
@[simp] theorem Core.land_inflight (x : Core) (cyc : Nat) : (x.land cyc).inflight = x.inflight.filter fun e => decide (cyc < e.lands) := rfl
@[simp] theorem Core.land_results (x : Core) (cyc : Nat) : (x.land cyc).results = x.results := rfl
@[simp] theorem Core.land_sfu (x : Core) (cyc : Nat) : (x.land cyc).sfu = x.sfu := rfl
@[simp] theorem Core.land_sfuNext (x : Core) (cyc : Nat) : (x.land cyc).sfuNext = x.sfuNext := rfl
@[simp] theorem Core.land_sfuWrite (x : Core) (cyc : Nat) : (x.land cyc).sfuWrite = x.sfuWrite := rfl
@[simp] theorem Core.land_matrix (x : Core) (cyc : Nat) : (x.land cyc).matrix = x.matrix := rfl
@[simp] theorem Core.land_computeFree (x : Core) (cyc : Nat) : (x.land cyc).computeFree = x.computeFree := rfl
@[simp] theorem Core.land_loadFree (x : Core) (cyc : Nat) : (x.land cyc).loadFree = x.loadFree := rfl
@[simp] theorem Core.land_lastDispatch (x : Core) (cyc : Nat) : (x.land cyc).lastDispatch = x.lastDispatch := rfl
@[simp] theorem Core.land_fpFree (x : Core) (cyc : Nat) : (x.land cyc).fpFree = x.fpFree := rfl
@[simp] theorem Core.land_atomNext (x : Core) (cyc : Nat) : (x.land cyc).atomNext = x.atomNext := rfl
@[simp] theorem Core.land_copies (x : Core) (cyc : Nat) : (x.land cyc).copies = x.copies := rfl
@[simp] theorem Core.land_copyNext (x : Core) (cyc : Nat) : (x.land cyc).copyNext = x.copyNext := rfl
@[simp] theorem Core.land_copyTurn (x : Core) (cyc : Nat) : (x.land cyc).copyTurn = x.copyTurn := rfl
@[simp] theorem Core.land_reqs (x : Core) (cyc : Nat) : (x.land cyc).reqs = x.reqs := rfl
@[simp] theorem Core.land_tlb (x : Core) (cyc : Nat) : (x.land cyc).tlb = x.tlb := rfl
@[simp] theorem Core.land_next (x : Core) (cyc : Nat) : (x.land cyc).next = x.next := rfl
@[simp] theorem Core.land_rounds (x : Core) (cyc : Nat) : (x.land cyc).rounds = x.rounds := rfl
@[simp] theorem Core.land_deliveries (x : Core) (cyc : Nat) : (x.land cyc).deliveries = x.deliveries := rfl
@[simp] theorem Core.land_floors (x : Core) (cyc : Nat) : (x.land cyc).floors = x.floors := rfl
@[simp] theorem Core.land_doorIn (x : Core) (cyc : Nat) : (x.land cyc).doorIn = x.doorIn := rfl
@[simp] theorem Core.land_shadow (x : Core) (cyc : Nat) : (x.land cyc).shadow = x.shadow := rfl
@[simp] theorem Core.land_entry (x : Core) (cyc : Nat) : (x.land cyc).entry = x.entry := rfl
@[simp] theorem Core.land_halted (x : Core) (cyc : Nat) : (x.land cyc).halted = x.halted := rfl
@[simp] theorem Core.land_live (x : Core) (cyc : Nat) : (x.land cyc).live = x.live := rfl
@[simp] theorem Core.land_frozen (x : Core) (cyc : Nat) : (x.land cyc).frozen = x.frozen := rfl
@[simp] theorem Core.land_lastIssue (x : Core) (cyc : Nat) : (x.land cyc).lastIssue = x.lastIssue := rfl
@[simp] theorem Core.land_lastWork (x : Core) (cyc : Nat) : (x.land cyc).lastWork = x.lastWork := rfl
@[simp] theorem Core.land_issueFrom (x : Core) (cyc : Nat) : (x.land cyc).issueFrom = x.issueFrom := rfl
@[simp] theorem Core.land_yielded (x : Core) (cyc : Nat) : (x.land cyc).yielded = x.yielded := rfl
@[simp] theorem Core.land_held (x : Core) (cyc : Nat) : (x.land cyc).held = x.held := rfl
@[simp] theorem Core.land_cycOff (x : Core) (cyc : Nat) : (x.land cyc).cycOff = x.cycOff := rfl
@[simp] theorem Core.land_scrubbed (x : Core) (cyc : Nat) : (x.land cyc).scrubbed = x.scrubbed := rfl

@[simp] theorem Core.leave_regs (x : Core)  : (x.leave ).regs = x.regs := rfl
@[simp] theorem Core.leave_tables (x : Core)  : (x.leave ).tables = x.tables := rfl
@[simp] theorem Core.leave_mem (x : Core)  : (x.leave ).mem = x.mem := rfl
@[simp] theorem Core.leave_badWords (x : Core)  : (x.leave ).badWords = x.badWords := rfl
@[simp] theorem Core.leave_soft (x : Core)  : (x.leave ).soft = x.soft := rfl
@[simp] theorem Core.leave_stale (x : Core)  : (x.leave ).stale = [] := rfl
@[simp] theorem Core.leave_stores (x : Core)  : (x.leave ).stores = x.stores := rfl
@[simp] theorem Core.leave_inflight (x : Core)  : (x.leave ).inflight = [] := rfl
@[simp] theorem Core.leave_results (x : Core)  : (x.leave ).results = x.results := rfl
@[simp] theorem Core.leave_sfu (x : Core)  : (x.leave ).sfu = x.sfu := rfl
@[simp] theorem Core.leave_sfuNext (x : Core)  : (x.leave ).sfuNext = x.sfuNext := rfl
@[simp] theorem Core.leave_sfuWrite (x : Core)  : (x.leave ).sfuWrite = x.sfuWrite := rfl
@[simp] theorem Core.leave_matrix (x : Core)  : (x.leave ).matrix = x.matrix := rfl
@[simp] theorem Core.leave_computeFree (x : Core)  : (x.leave ).computeFree = x.computeFree := rfl
@[simp] theorem Core.leave_loadFree (x : Core)  : (x.leave ).loadFree = x.loadFree := rfl
@[simp] theorem Core.leave_lastDispatch (x : Core)  : (x.leave ).lastDispatch = x.lastDispatch := rfl
@[simp] theorem Core.leave_fpFree (x : Core)  : (x.leave ).fpFree = x.fpFree := rfl
@[simp] theorem Core.leave_atomNext (x : Core)  : (x.leave ).atomNext = x.atomNext := rfl
@[simp] theorem Core.leave_copies (x : Core)  : (x.leave ).copies = x.copies := rfl
@[simp] theorem Core.leave_copyNext (x : Core)  : (x.leave ).copyNext = x.copyNext := rfl
@[simp] theorem Core.leave_copyTurn (x : Core)  : (x.leave ).copyTurn = x.copyTurn := rfl
@[simp] theorem Core.leave_reqs (x : Core)  : (x.leave ).reqs = x.reqs := rfl
@[simp] theorem Core.leave_tlb (x : Core)  : (x.leave ).tlb = x.tlb := rfl
@[simp] theorem Core.leave_next (x : Core)  : (x.leave ).next = x.next := rfl
@[simp] theorem Core.leave_rounds (x : Core)  : (x.leave ).rounds = x.rounds := rfl
@[simp] theorem Core.leave_deliveries (x : Core)  : (x.leave ).deliveries = x.deliveries := rfl
@[simp] theorem Core.leave_floors (x : Core)  : (x.leave ).floors = x.floors := rfl
@[simp] theorem Core.leave_doorIn (x : Core)  : (x.leave ).doorIn = x.doorIn := rfl
@[simp] theorem Core.leave_shadow (x : Core)  : (x.leave ).shadow = x.shadow := rfl
@[simp] theorem Core.leave_entry (x : Core)  : (x.leave ).entry = x.entry := rfl
@[simp] theorem Core.leave_halted (x : Core)  : (x.leave ).halted = x.halted := rfl
@[simp] theorem Core.leave_live (x : Core)  : (x.leave ).live = x.live := rfl
@[simp] theorem Core.leave_frozen (x : Core)  : (x.leave ).frozen = x.frozen := rfl
@[simp] theorem Core.leave_lastIssue (x : Core)  : (x.leave ).lastIssue = x.lastIssue := rfl
@[simp] theorem Core.leave_lastWork (x : Core)  : (x.leave ).lastWork = x.lastWork := rfl
@[simp] theorem Core.leave_issueFrom (x : Core)  : (x.leave ).issueFrom = x.issueFrom := rfl
@[simp] theorem Core.leave_yielded (x : Core)  : (x.leave ).yielded = x.yielded := rfl
@[simp] theorem Core.leave_held (x : Core)  : (x.leave ).held = none := rfl
@[simp] theorem Core.leave_cycOff (x : Core)  : (x.leave ).cycOff = x.cycOff := rfl
@[simp] theorem Core.leave_scrubbed (x : Core)  : (x.leave ).scrubbed = x.scrubbed := rfl

@[simp] theorem Slot.placeless_pc (x : Slot)  : (x.placeless ).pc = 0 := rfl
@[simp] theorem Slot.placeless_t (x : Slot)  : (x.placeless ).t = x.t := rfl
@[simp] theorem Slot.placeless_p (x : Slot)  : (x.placeless ).p = x.p := rfl
@[simp] theorem Slot.placeless_ls (x : Slot)  : (x.placeless ).ls = x.ls := rfl
@[simp] theorem Slot.placeless_le (x : Slot)  : (x.placeless ).le = x.le := rfl
@[simp] theorem Slot.placeless_inner (x : Slot)  : (x.placeless ).inner = x.inner := rfl
@[simp] theorem Slot.placeless_fflags (x : Slot)  : (x.placeless ).fflags = x.fflags := rfl
@[simp] theorem Slot.placeless_frm (x : Slot)  : (x.placeless ).frm = x.frm := rfl
@[simp] theorem Slot.placeless_ftrap (x : Slot)  : (x.placeless ).ftrap = x.ftrap := rfl
@[simp] theorem Slot.placeless_schk (x : Slot)  : (x.placeless ).schk = x.schk := rfl
@[simp] theorem Slot.placeless_tcause (x : Slot)  : (x.placeless ).tcause = x.tcause := rfl
@[simp] theorem Slot.placeless_faddr (x : Slot)  : (x.placeless ).faddr = x.faddr := rfl
@[simp] theorem Slot.placeless_door (x : Slot)  : (x.placeless ).door = x.door := rfl
@[simp] theorem Slot.placeless_prio (x : Slot)  : (x.placeless ).prio = x.prio := rfl
@[simp] theorem Slot.placeless_intrap (x : Slot)  : (x.placeless ).intrap = x.intrap := rfl
@[simp] theorem Slot.placeless_st (x : Slot)  : (x.placeless ).st = x.st := rfl
@[simp] theorem Slot.placeless_ageFrom (x : Slot)  : (x.placeless ).ageFrom = x.ageFrom := rfl
@[simp] theorem Slot.placeless_readyAt (x : Slot)  : (x.placeless ).readyAt = x.readyAt := rfl
@[simp] theorem Slot.placeless_wait (x : Slot)  : (x.placeless ).wait = x.wait := rfl
@[simp] theorem Slot.placeless_savedAs (x : Slot)  : (x.placeless ).savedAs = x.savedAs := rfl
@[simp] theorem Slot.placeless_savedAge (x : Slot)  : (x.placeless ).savedAge = x.savedAge := rfl
@[simp] theorem Slot.placeless_stopped (x : Slot)  : (x.placeless ).stopped = x.stopped := rfl
@[simp] theorem Slot.placeless_killed (x : Slot)  : (x.placeless ).killed = x.killed := rfl
@[simp] theorem Slot.placeless_trapAt (x : Slot)  : (x.placeless ).trapAt = x.trapAt := rfl
@[simp] theorem Slot.placeless_nextIssue (x : Slot)  : (x.placeless ).nextIssue = 0 := rfl
@[simp] theorem Slot.placeless_ended (x : Slot)  : (x.placeless ).ended = x.ended := rfl

@[simp] theorem Slot.toReady_pc (x : Slot) (cyc : Nat) : (x.toReady cyc).pc = x.pc := rfl
@[simp] theorem Slot.toReady_t (x : Slot) (cyc : Nat) : (x.toReady cyc).t = x.t := rfl
@[simp] theorem Slot.toReady_p (x : Slot) (cyc : Nat) : (x.toReady cyc).p = x.p := rfl
@[simp] theorem Slot.toReady_lc (x : Slot) (cyc : Nat) : (x.toReady cyc).lc = x.lc := rfl
@[simp] theorem Slot.toReady_ls (x : Slot) (cyc : Nat) : (x.toReady cyc).ls = x.ls := rfl
@[simp] theorem Slot.toReady_le (x : Slot) (cyc : Nat) : (x.toReady cyc).le = x.le := rfl
@[simp] theorem Slot.toReady_loop (x : Slot) (cyc : Nat) : (x.toReady cyc).loop = x.loop := rfl
@[simp] theorem Slot.toReady_inner (x : Slot) (cyc : Nat) : (x.toReady cyc).inner = x.inner := rfl
@[simp] theorem Slot.toReady_fflags (x : Slot) (cyc : Nat) : (x.toReady cyc).fflags = x.fflags := rfl
@[simp] theorem Slot.toReady_frm (x : Slot) (cyc : Nat) : (x.toReady cyc).frm = x.frm := rfl
@[simp] theorem Slot.toReady_ftrap (x : Slot) (cyc : Nat) : (x.toReady cyc).ftrap = x.ftrap := rfl
@[simp] theorem Slot.toReady_schk (x : Slot) (cyc : Nat) : (x.toReady cyc).schk = x.schk := rfl
@[simp] theorem Slot.toReady_tcause (x : Slot) (cyc : Nat) : (x.toReady cyc).tcause = x.tcause := rfl
@[simp] theorem Slot.toReady_faddr (x : Slot) (cyc : Nat) : (x.toReady cyc).faddr = x.faddr := rfl
@[simp] theorem Slot.toReady_door (x : Slot) (cyc : Nat) : (x.toReady cyc).door = x.door := rfl
@[simp] theorem Slot.toReady_prio (x : Slot) (cyc : Nat) : (x.toReady cyc).prio = x.prio := rfl
@[simp] theorem Slot.toReady_intrap (x : Slot) (cyc : Nat) : (x.toReady cyc).intrap = x.intrap := rfl
@[simp] theorem Slot.toReady_st (x : Slot) (cyc : Nat) : (x.toReady cyc).st = .ready := rfl
@[simp] theorem Slot.toReady_ageFrom (x : Slot) (cyc : Nat) : (x.toReady cyc).ageFrom = cyc := rfl
@[simp] theorem Slot.toReady_readyAt (x : Slot) (cyc : Nat) : (x.toReady cyc).readyAt = cyc := rfl
@[simp] theorem Slot.toReady_wait (x : Slot) (cyc : Nat) : (x.toReady cyc).wait = none := rfl
@[simp] theorem Slot.toReady_savedAs (x : Slot) (cyc : Nat) : (x.toReady cyc).savedAs = x.savedAs := rfl
@[simp] theorem Slot.toReady_savedAge (x : Slot) (cyc : Nat) : (x.toReady cyc).savedAge = x.savedAge := rfl
@[simp] theorem Slot.toReady_stopped (x : Slot) (cyc : Nat) : (x.toReady cyc).stopped = x.stopped := rfl
@[simp] theorem Slot.toReady_killed (x : Slot) (cyc : Nat) : (x.toReady cyc).killed = x.killed := rfl
@[simp] theorem Slot.toReady_trapAt (x : Slot) (cyc : Nat) : (x.toReady cyc).trapAt = x.trapAt := rfl
@[simp] theorem Slot.toReady_nextIssue (x : Slot) (cyc : Nat) : (x.toReady cyc).nextIssue = x.nextIssue := rfl
@[simp] theorem Slot.toReady_ended (x : Slot) (cyc : Nat) : (x.toReady cyc).ended = x.ended := rfl

end Sys2Proof.Machine
end

