-- ==== Sys2Proof/Laws/Exec.lean ====
section
/-! SUPPORT. One equation per instruction: `exec` runs its meaning. Proofs cite these and never unfold `exec`. -/

namespace Sys2Proof.Machine

/- One thread keeps the check of the package within its memory. -/
set_option Elab.async false

theorem exec_slotSelection (c : Nat) (st : State) : exec (.slotSelection c) st = execSlotSelection c st := rfl
theorem exec_priorityRaise (c : Nat) (sl : Fin 8) (st : State) : exec (.priorityRaise c sl) st = execPriorityRaise c sl st := rfl
theorem exec_waitLimitExpiry (c : Nat) (sl : Fin 8) (st : State) : exec (.waitLimitExpiry c sl) st = execWaitLimitExpiry c sl st := rfl
theorem exec_resultWrite (c id : Nat) (st : State) : exec (.resultWrite c id) st = execResultWrite c id st := rfl
theorem exec_sfuServiceStart (c : Nat) (st : State) : exec (.sfuServiceStart c) st = execSfuServiceStart c st := rfl
theorem exec_sfuResultWrite (c : Nat) (st : State) : exec (.sfuResultWrite c) st = execSfuResultWrite c st := rfl
theorem exec_matrixDispatch (c : Nat) (st : State) : exec (.matrixDispatch c) st = execMatrixDispatch c st := rfl
theorem exec_matrixCompletion (c id : Nat) (st : State) : exec (.matrixCompletion c id) st = execMatrixCompletion c id st := rfl
theorem exec_drainingEnd (c : Nat) (sl : Fin 8) (st : State) : exec (.drainingEnd c sl) st = execDrainingEnd c sl st := rfl
theorem exec_messageArrival (c : Nat) (msg : BitVec 320) (st : State) : exec (.messageArrival c msg) st = execMessageArrival c msg st := rfl
theorem exec_writeRequestService (id : Nat) (st : State) : exec (.writeRequestService id) st = execWriteRequestService id st := rfl
theorem exec_readRequestService (id : Nat) (st : State) : exec (.readRequestService id) st = execReadRequestService id st := rfl
theorem exec_cxlMemCompletion (id : Nat) (st : State) : exec (.cxlMemCompletion id) st = execCxlMemCompletion id st := rfl
theorem exec_hostPortCompletion (id : Nat) (st : State) : exec (.hostPortCompletion id) st = execHostPortCompletion id st := rfl
theorem exec_hostReadTimeout (id : Nat) (st : State) : exec (.hostReadTimeout id) st = execHostReadTimeout id st := rfl
theorem exec_replyArrival (id : Nat) (st : State) : exec (.replyArrival id) st = execReplyArrival id st := rfl
theorem exec_retryTimerExpiry (n : Node) (id : Nat) (st : State) : exec (.retryTimerExpiry n id) st = execRetryTimerExpiry n id st := rfl
theorem exec_requestAgeDiscard (id : Nat) (st : State) : exec (.requestAgeDiscard id) st = execRequestAgeDiscard id st := rfl
theorem exec_replyEntryAgeing (n : Node) (i : Nat) (st : State) : exec (.replyEntryAgeing n i) st = execReplyEntryAgeing n i st := rfl
theorem exec_requesterEntryAgeing (n : Node) (i : Nat) (st : State) : exec (.requesterEntryAgeing n i) st = execRequesterEntryAgeing n i st := rfl
theorem exec_translationWalkComplete (c id : Nat) (st : State) : exec (.translationWalkComplete c id) st = execTranslationWalkComplete c id st := rfl
theorem exec_partialArrival (id : Nat) (st : State) : exec (.partialArrival id) st = execPartialArrival id st := rfl
theorem exec_routeDelivery (c id : Nat) (st : State) : exec (.routeDelivery c id) st = execRouteDelivery c id st := rfl
theorem exec_renormaliseNoticeArrival (id : Nat) (st : State) : exec (.renormaliseNoticeArrival id) st = execRenormaliseNoticeArrival id st := rfl
theorem exec_grantArrival (id : Nat) (st : State) : exec (.grantArrival id) st = execGrantArrival id st := rfl
theorem exec_grantOutcome (id : Nat) (st : State) : exec (.grantOutcome id) st = execGrantOutcome id st := rfl
theorem exec_revokeNoticeArrival (id : Nat) (st : State) : exec (.revokeNoticeArrival id) st = execRevokeNoticeArrival id st := rfl
theorem exec_deathDeclaration (n : Node) (st : State) : exec (.deathDeclaration n) st = execDeathDeclaration n st := rfl
theorem exec_deathNoticeArrival (id : Nat) (st : State) : exec (.deathNoticeArrival id) st = execDeathNoticeArrival id st := rfl
theorem exec_copyActivation (c : Nat) (st : State) : exec (.copyActivation c) st = execCopyActivation c st := rfl
theorem exec_copyUnitSend (c : Nat) (st : State) : exec (.copyUnitSend c) st = execCopyUnitSend c st := rfl
theorem exec_copyCompletionWrite (c id : Nat) (st : State) : exec (.copyCompletionWrite c id) st = execCopyCompletionWrite c id st := rfl
theorem exec_copyDeadline (c id : Nat) (st : State) : exec (.copyDeadline c id) st = execCopyDeadline c id st := rfl
theorem exec_copyClassRaise (c id : Nat) (st : State) : exec (.copyClassRaise c id) st = execCopyClassRaise c id st := rfl
theorem exec_launchStore (port : Nat) (r : Vector (BitVec 64) 8) (st : State) : exec (.launchStore port r) st = execLaunchStore port r st := rfl
theorem exec_submitService (id : Nat) (st : State) : exec (.submitService id) st = execSubmitService id st := rfl
theorem exec_placement (st : State) : exec (.placement) st = execPlacement st := rfl
theorem exec_openWave (e : Nat) (st : State) : exec (.openWave e) st = execOpenWave e st := rfl
theorem exec_loadComplete (e : Nat) (st : State) : exec (.loadComplete e) st = execLoadComplete e st := rfl
theorem exec_seedInjection (e : Nat) (st : State) : exec (.seedInjection e) st = execSeedInjection e st := rfl
theorem exec_closeWave (e : Nat) (st : State) : exec (.closeWave e) st = execCloseWave e st := rfl
theorem exec_hangMonitorSample (st : State) : exec (.hangMonitorSample) st = execHangMonitorSample st := rfl
theorem exec_preempt (q : MailCmd) (st : State) : exec (.preempt q) st = execPreempt q st := rfl
theorem exec_coreHalt (c : Nat) (st : State) : exec (.coreHalt c) st = execCoreHalt c st := rfl
theorem exec_haltComplete (e : Nat) (st : State) : exec (.haltComplete e) st = execHaltComplete e st := rfl
theorem exec_haltfail (e : Nat) (st : State) : exec (.haltfail e) st = execHaltfail e st := rfl
theorem exec_resume (q : MailCmd) (st : State) : exec (.resume q) st = execResume q st := rfl
theorem exec_kill (q : MailCmd) (st : State) : exec (.kill q) st = execKill q st := rfl
theorem exec_shootdown (q : MailCmd) (st : State) : exec (.shootdown q) st = execShootdown q st := rfl
theorem exec_clearret (q : MailCmd) (st : State) : exec (.clearret q) st = execClearret q st := rfl
theorem exec_readbind (q : MailCmd) (st : State) : exec (.readbind q) st = execReadbind q st := rfl
theorem exec_free (q : MailCmd) (st : State) : exec (.free q) st = execFree q st := rfl
theorem exec_hostWindowWrite (port off : Nat) (data : List (BitVec 8)) (st : State) : exec (.hostWindowWrite port off data) st = execHostWindowWrite port off data st := rfl
theorem exec_retirementStart (c : Nat) (st : State) : exec (.retirementStart c) st = execRetirementStart c st := rfl
theorem exec_retirementCopy (c : Nat) (st : State) : exec (.retirementCopy c) st = execRetirementCopy c st := rfl
theorem exec_retirementTimeout (c : Nat) (st : State) : exec (.retirementTimeout c) st = execRetirementTimeout c st := rfl
theorem exec_edgeHomeRestart (p : Nat) (st : State) : exec (.edgeHomeRestart p) st = execEdgeHomeRestart p st := rfl
theorem exec_portLinkLoss (p : Nat) (st : State) : exec (.portLinkLoss p) st = execPortLinkLoss p st := rfl
theorem exec_portRetrainAttempt (p : Nat) (r : Training) (st : State) : exec (.portRetrainAttempt p r) st = execPortRetrainAttempt p r st := rfl
theorem exec_powerGood (st : State) : exec (.powerGood) st = execPowerGood st := rfl
theorem exec_bringUpStage (o : BringUpObs) (st : State) : exec (.bringUpStage o) st = execBringUpStage o st := rfl
theorem exec_islandMonitorRead (rs : List IslandReading) (st : State) : exec (.islandMonitorRead rs) st = execIslandMonitorRead rs st := rfl
theorem exec_islandClockChange (i : Nat) (st : State) : exec (.islandClockChange i) st = execIslandClockChange i st := rfl
theorem exec_powerLimitStep (amps watts : BitVec 32) (st : State) : exec (.powerLimitStep amps watts) st = execPowerLimitStep amps watts st := rfl
theorem exec_thermalThrottleStep (i : Nat) (temp : BitVec 16) (st : State) : exec (.thermalThrottleStep i temp) st = execThermalThrottleStep i temp st := rfl
theorem exec_overtempShutdown (i : Nat) (temp : BitVec 16) (st : State) : exec (.overtempShutdown i temp) st = execOvertempShutdown i temp st := rfl
theorem exec_patrolScrub (c word : Nat) (st : State) : exec (.patrolScrub c word) st = execPatrolScrub c word st := rfl
theorem exec_flitCrcDrop (id : Nat) (st : State) : exec (.flitCrcDrop id) st = execFlitCrcDrop id st := rfl
theorem exec_flitAgePriority (id : Nat) (st : State) : exec (.flitAgePriority id) st = execFlitAgePriority id st := rfl
theorem exec_notAnInstruction (f : DecodeFault) (st : State) : exec (.notAnInstruction f) st = execNotAnInstruction f st := rfl
theorem exec_fetchPastLocalStore (st : State) : exec (.fetchPastLocalStore) st = execFetchPastLocalStore st := rfl
theorem exec_softError (e : SoftErr) (st : State) : exec (.softError e) st = execSoftError e st := rfl
theorem exec_powerGoodLoss (st : State) : exec (.powerGoodLoss) st = execPowerGoodLoss st := rfl
theorem exec_hdmDecoderBaseWrite (port : Nat) (base : BitVec 64) (st : State) : exec (.hdmDecoderBaseWrite port base) st = execHdmDecoderBaseWrite port base st := rfl
theorem exec_fenceClearCommand (fld : Nat) (pass : Bool) (st : State) : exec (.fenceClearCommand fld pass) st = execFenceClearCommand fld pass st := rfl
theorem exec_externalSegmentDeclaration (port : Nat) (base limit : BitVec 64) (make : Bool) (st : State) : exec (.externalSegmentDeclaration port base limit make) st = execExternalSegmentDeclaration port base limit make st := rfl
theorem exec_add (h : Head) (d a b : SReg) (st : State) : exec (.add h d a b) st = execAdd h d a b st := rfl
theorem exec_sub (h : Head) (d a b : SReg) (st : State) : exec (.sub h d a b) st = execSub h d a b st := rfl
theorem exec_and (h : Head) (d a b : SReg) (st : State) : exec (.and h d a b) st = execAnd h d a b st := rfl
theorem exec_or (h : Head) (d a b : SReg) (st : State) : exec (.or h d a b) st = execOr h d a b st := rfl
theorem exec_xor (h : Head) (d a b : SReg) (st : State) : exec (.xor h d a b) st = execXor h d a b st := rfl
theorem exec_sll (h : Head) (d a b : SReg) (st : State) : exec (.sll h d a b) st = execSll h d a b st := rfl
theorem exec_srl (h : Head) (d a b : SReg) (st : State) : exec (.srl h d a b) st = execSrl h d a b st := rfl
theorem exec_sra (h : Head) (d a b : SReg) (st : State) : exec (.sra h d a b) st = execSra h d a b st := rfl
theorem exec_min (h : Head) (d a b : SReg) (st : State) : exec (.min h d a b) st = execMin h d a b st := rfl
theorem exec_max (h : Head) (d a b : SReg) (st : State) : exec (.max h d a b) st = execMax h d a b st := rfl
theorem exec_minu (h : Head) (d a b : SReg) (st : State) : exec (.minu h d a b) st = execMinu h d a b st := rfl
theorem exec_maxu (h : Head) (d a b : SReg) (st : State) : exec (.maxu h d a b) st = execMaxu h d a b st := rfl
theorem exec_mul (h : Head) (d a b : SReg) (st : State) : exec (.mul h d a b) st = execMul h d a b st := rfl
theorem exec_mulh (h : Head) (d a b : SReg) (st : State) : exec (.mulh h d a b) st = execMulh h d a b st := rfl
theorem exec_mulhu (h : Head) (d a b : SReg) (st : State) : exec (.mulhu h d a b) st = execMulhu h d a b st := rfl
theorem exec_div (h : Head) (d a b : SReg) (st : State) : exec (.div h d a b) st = execDiv h d a b st := rfl
theorem exec_divu (h : Head) (d a b : SReg) (st : State) : exec (.divu h d a b) st = execDivu h d a b st := rfl
theorem exec_rem (h : Head) (d a b : SReg) (st : State) : exec (.rem h d a b) st = execRem h d a b st := rfl
theorem exec_remu (h : Head) (d a b : SReg) (st : State) : exec (.remu h d a b) st = execRemu h d a b st := rfl
theorem exec_adds (h : Head) (d a b : SReg) (st : State) : exec (.adds h d a b) st = execAdds h d a b st := rfl
theorem exec_subs (h : Head) (d a b : SReg) (st : State) : exec (.subs h d a b) st = execSubs h d a b st := rfl
theorem exec_clz (h : Head) (d a : SReg) (st : State) : exec (.clz h d a) st = execClz h d a st := rfl
theorem exec_popc (h : Head) (d a : SReg) (st : State) : exec (.popc h d a) st = execPopc h d a st := rfl
theorem exec_andn (h : Head) (d a b : SReg) (st : State) : exec (.andn h d a b) st = execAndn h d a b st := rfl
theorem exec_orn (h : Head) (d a b : SReg) (st : State) : exec (.orn h d a b) st = execOrn h d a b st := rfl
theorem exec_addi (h : Head) (x : ImmX) (d a : SReg) (imm : BitVec 10) (st : State) : exec (.addi h x d a imm) st = execAddi h x d a imm st := rfl
theorem exec_andi (h : Head) (x : ImmX) (d a : SReg) (imm : BitVec 10) (st : State) : exec (.andi h x d a imm) st = execAndi h x d a imm st := rfl
theorem exec_ori (h : Head) (x : ImmX) (d a : SReg) (imm : BitVec 10) (st : State) : exec (.ori h x d a imm) st = execOri h x d a imm st := rfl
theorem exec_xori (h : Head) (x : ImmX) (d a : SReg) (imm : BitVec 10) (st : State) : exec (.xori h x d a imm) st = execXori h x d a imm st := rfl
theorem exec_slli (h : Head) (d a : SReg) (sh : BitVec 6) (st : State) : exec (.slli h d a sh) st = execSlli h d a sh st := rfl
theorem exec_srli (h : Head) (d a : SReg) (sh : BitVec 6) (st : State) : exec (.srli h d a sh) st = execSrli h d a sh st := rfl
theorem exec_srai (h : Head) (d a : SReg) (sh : BitVec 6) (st : State) : exec (.srai h d a sh) st = execSrai h d a sh st := rfl
theorem exec_rori (h : Head) (d a : SReg) (sh : BitVec 6) (st : State) : exec (.rori h d a sh) st = execRori h d a sh st := rfl
theorem exec_li (h : Head) (x : ImmX) (d : SReg) (imm : BitVec 10) (st : State) : exec (.li h x d imm) st = execLi h x d imm st := rfl
theorem exec_lih (h : Head) (x : ImmX) (d a : SReg) (imm : BitVec 10) (st : State) : exec (.lih h x d a imm) st = execLih h x d a imm st := rfl
theorem exec_cmpEq (h : Head) (d : PReg) (a b : SReg) (st : State) : exec (.cmpEq h d a b) st = execCmpEq h d a b st := rfl
theorem exec_cmpNe (h : Head) (d : PReg) (a b : SReg) (st : State) : exec (.cmpNe h d a b) st = execCmpNe h d a b st := rfl
theorem exec_cmpLt (h : Head) (d : PReg) (a b : SReg) (st : State) : exec (.cmpLt h d a b) st = execCmpLt h d a b st := rfl
theorem exec_cmpGe (h : Head) (d : PReg) (a b : SReg) (st : State) : exec (.cmpGe h d a b) st = execCmpGe h d a b st := rfl
theorem exec_cmpLtu (h : Head) (d : PReg) (a b : SReg) (st : State) : exec (.cmpLtu h d a b) st = execCmpLtu h d a b st := rfl
theorem exec_cmpGeu (h : Head) (d : PReg) (a b : SReg) (st : State) : exec (.cmpGeu h d a b) st = execCmpGeu h d a b st := rfl
theorem exec_cmpBits (h : Head) (d : PReg) (a b : SReg) (st : State) : exec (.cmpBits h d a b) st = execCmpBits h d a b st := rfl
theorem exec_cmpNbits (h : Head) (d : PReg) (a b : SReg) (st : State) : exec (.cmpNbits h d a b) st = execCmpNbits h d a b st := rfl
theorem exec_cmpiEq (h : Head) (x : ImmX) (d : PReg) (a : SReg) (imm : BitVec 7) (st : State) : exec (.cmpiEq h x d a imm) st = execCmpiEq h x d a imm st := rfl
theorem exec_cmpiNe (h : Head) (x : ImmX) (d : PReg) (a : SReg) (imm : BitVec 7) (st : State) : exec (.cmpiNe h x d a imm) st = execCmpiNe h x d a imm st := rfl
theorem exec_cmpiLt (h : Head) (x : ImmX) (d : PReg) (a : SReg) (imm : BitVec 7) (st : State) : exec (.cmpiLt h x d a imm) st = execCmpiLt h x d a imm st := rfl
theorem exec_cmpiGe (h : Head) (x : ImmX) (d : PReg) (a : SReg) (imm : BitVec 7) (st : State) : exec (.cmpiGe h x d a imm) st = execCmpiGe h x d a imm st := rfl
theorem exec_cmpiLtu (h : Head) (x : ImmX) (d : PReg) (a : SReg) (imm : BitVec 7) (st : State) : exec (.cmpiLtu h x d a imm) st = execCmpiLtu h x d a imm st := rfl
theorem exec_cmpiGeu (h : Head) (x : ImmX) (d : PReg) (a : SReg) (imm : BitVec 7) (st : State) : exec (.cmpiGeu h x d a imm) st = execCmpiGeu h x d a imm st := rfl
theorem exec_cmpiBits (h : Head) (x : ImmX) (d : PReg) (a : SReg) (imm : BitVec 7) (st : State) : exec (.cmpiBits h x d a imm) st = execCmpiBits h x d a imm st := rfl
theorem exec_cmpiNbits (h : Head) (x : ImmX) (d : PReg) (a : SReg) (imm : BitVec 7) (st : State) : exec (.cmpiNbits h x d a imm) st = execCmpiNbits h x d a imm st := rfl
theorem exec_pand (h : Head) (d a b : PReg) (st : State) : exec (.pand h d a b) st = execPand h d a b st := rfl
theorem exec_por (h : Head) (d a b : PReg) (st : State) : exec (.por h d a b) st = execPor h d a b st := rfl
theorem exec_pxor (h : Head) (d a b : PReg) (st : State) : exec (.pxor h d a b) st = execPxor h d a b st := rfl
theorem exec_pandn (h : Head) (d a b : PReg) (st : State) : exec (.pandn h d a b) st = execPandn h d a b st := rfl
theorem exec_pnot (h : Head) (d a : PReg) (st : State) : exec (.pnot h d a) st = execPnot h d a st := rfl
theorem exec_pmov (h : Head) (d a : PReg) (st : State) : exec (.pmov h d a) st = execPmov h d a st := rfl
theorem exec_pset (h : Head) (d : PReg) (st : State) : exec (.pset h d) st = execPset h d st := rfl
theorem exec_pclr (h : Head) (d : PReg) (st : State) : exec (.pclr h d) st = execPclr h d st := rfl
theorem exec_sext8 (h : Head) (d a : SReg) (st : State) : exec (.sext8 h d a) st = execSext8 h d a st := rfl
theorem exec_sext16 (h : Head) (d a : SReg) (st : State) : exec (.sext16 h d a) st = execSext16 h d a st := rfl
theorem exec_sext32 (h : Head) (d a : SReg) (st : State) : exec (.sext32 h d a) st = execSext32 h d a st := rfl
theorem exec_zext8 (h : Head) (d a : SReg) (st : State) : exec (.zext8 h d a) st = execZext8 h d a st := rfl
theorem exec_zext16 (h : Head) (d a : SReg) (st : State) : exec (.zext16 h d a) st = execZext16 h d a st := rfl
theorem exec_zext32 (h : Head) (d a : SReg) (st : State) : exec (.zext32 h d a) st = execZext32 h d a st := rfl
theorem exec_bswap (h : Head) (d a : SReg) (st : State) : exec (.bswap h d a) st = execBswap h d a st := rfl
theorem exec_ctz (h : Head) (d a : SReg) (st : State) : exec (.ctz h d a) st = execCtz h d a st := rfl
theorem exec_peer (h : Head) (d a b : SReg) (st : State) : exec (.peer h d a b) st = execPeer h d a b st := rfl
theorem exec_peero (h : Head) (d a b : SReg) (st : State) : exec (.peero h d a b) st = execPeero h d a b st := rfl
theorem exec_pidx (h : Head) (d a : SReg) (st : State) : exec (.pidx h d a) st = execPidx h d a st := rfl
theorem exec_mand (h : Head) (d a b : MReg) (st : State) : exec (.mand h d a b) st = execMand h d a b st := rfl
theorem exec_mor (h : Head) (d a b : MReg) (st : State) : exec (.mor h d a b) st = execMor h d a b st := rfl
theorem exec_mxor (h : Head) (d a b : MReg) (st : State) : exec (.mxor h d a b) st = execMxor h d a b st := rfl
theorem exec_mandn (h : Head) (d a b : MReg) (st : State) : exec (.mandn h d a b) st = execMandn h d a b st := rfl
theorem exec_mnot (h : Head) (d a : MReg) (st : State) : exec (.mnot h d a) st = execMnot h d a st := rfl
theorem exec_mset (h : Head) (d : MReg) (a : SReg) (st : State) : exec (.mset h d a) st = execMset h d a st := rfl
theorem exec_mget (h : Head) (d : SReg) (a : MReg) (st : State) : exec (.mget h d a) st = execMget h d a st := rfl
theorem exec_mpop (h : Head) (d : SReg) (a : MReg) (st : State) : exec (.mpop h d a) st = execMpop h d a st := rfl
theorem exec_mfirst (h : Head) (d : SReg) (a : MReg) (st : State) : exec (.mfirst h d a) st = execMfirst h d a st := rfl
theorem exec_b (h : Head) (off : BitVec 20) (st : State) : exec (.b h off) st = execB h off st := rfl
theorem exec_call (h : Head) (off : BitVec 20) (st : State) : exec (.call h off) st = execCall h off st := rfl
theorem exec_jr (h : Head) (a : SReg) (st : State) : exec (.jr h a) st = execJr h a st := rfl
theorem exec_jalr (h : Head) (d a : SReg) (st : State) : exec (.jalr h d a) st = execJalr h d a st := rfl
theorem exec_ret (h : Head) (st : State) : exec (.ret h) st = execRet h st := rfl
theorem exec_loopReg (h : Head) (lv : Bool) (ca : SReg) (len : BitVec 13) (st : State) : exec (.loopReg h lv ca len) st = execLoopReg h lv ca len st := rfl
theorem exec_loopImm (h : Head) (x : ImmX) (lv : Bool) (ca : BitVec 5) (len : BitVec 13) (st : State) : exec (.loopImm h x lv ca len) st = execLoopImm h x lv ca len st := rfl
theorem exec_wait (h : Head) (d a : SReg) (st : State) : exec (.wait h d a) st = execWait h d a st := rfl
theorem exec_waita (h : Head) (o : OrdX) (d a b : SReg) (st : State) : exec (.waita h o d a b) st = execWaita h o d a b st := rfl
theorem exec_yield (h : Head) (st : State) : exec (.yield h) st = execYield h st := rfl
theorem exec_endTask (h : Head) (st : State) : exec (.endTask h) st = execEndTask h st := rfl
theorem exec_trap (h : Head) (a : SReg) (st : State) : exec (.trap h a) st = execTrap h a st := rfl
theorem exec_isync (h : Head) (st : State) : exec (.isync h) st = execIsync h st := rfl
theorem exec_nop (h : Head) (st : State) : exec (.nop h) st = execNop h st := rfl
theorem exec_csrw (h : Head) (d a : SReg) (csr : BitVec 10) (st : State) : exec (.csrw h d a csr) st = execCsrw h d a csr st := rfl
theorem exec_csrs (h : Head) (d a : SReg) (csr : BitVec 10) (st : State) : exec (.csrs h d a csr) st = execCsrs h d a csr st := rfl
theorem exec_csrc (h : Head) (d a : SReg) (csr : BitVec 10) (st : State) : exec (.csrc h d a csr) st = execCsrc h d a csr st := rfl
theorem exec_ld (h : Head) (x : ImmX) (d a : SReg) (sz : LdSize) (off : BitVec 7) (st : State) : exec (.ld h x d a sz off) st = execLd h x d a sz off st := rfl
theorem exec_st (h : Head) (x : ImmX) (d a : SReg) (sz : StSize) (off : BitVec 7) (st : State) : exec (.st h x d a sz off) st = execSt h x d a sz off st := rfl
theorem exec_vld (h : Head) (x : ImmX) (d : VNum) (a : SReg) (off : BitVec 7) (st : State) : exec (.vld h x d a off) st = execVld h x d a off st := rfl
theorem exec_vst (h : Head) (x : ImmX) (d : VNum) (a : SReg) (off : BitVec 7) (st : State) : exec (.vst h x d a off) st = execVst h x d a off st := rfl
theorem exec_vgathI32 (h : Head) (d : VNum) (a : SReg) (b : VNum) (mk : MaskX) (st : State) : exec (.vgathI32 h d a b mk) st = execVgathI32 h d a b mk st := rfl
theorem exec_vscatI32 (h : Head) (d : VNum) (a : SReg) (b : VNum) (mk : MaskX) (st : State) : exec (.vscatI32 h d a b mk) st = execVscatI32 h d a b mk st := rfl
theorem exec_vgathI16 (h : Head) (d : VNum) (a : SReg) (b : VNum) (mk : MaskX) (st : State) : exec (.vgathI16 h d a b mk) st = execVgathI16 h d a b mk st := rfl
theorem exec_vscatI16 (h : Head) (d : VNum) (a : SReg) (b : VNum) (mk : MaskX) (st : State) : exec (.vscatI16 h d a b mk) st = execVscatI16 h d a b mk st := rfl
theorem exec_qldQb8 (h : Head) (d : VNum) (a b : SReg) (st : State) : exec (.qldQb8 h d a b) st = execQldQb8 h d a b st := rfl
theorem exec_qldQb4 (h : Head) (d : VNum) (a b : SReg) (st : State) : exec (.qldQb4 h d a b) st = execQldQb4 h d a b st := rfl
theorem exec_qstQb8 (h : Head) (d : VNum) (a b : SReg) (st : State) : exec (.qstQb8 h d a b) st = execQstQb8 h d a b st := rfl
theorem exec_qstQb4 (h : Head) (d : VNum) (a b : SReg) (st : State) : exec (.qstQb4 h d a b) st = execQstQb4 h d a b st := rfl
theorem exec_rld (h : Head) (x : RemX) (d a : SReg) (sz : LdSize) (off : BitVec 7) (st : State) : exec (.rld h x d a sz off) st = execRld h x d a sz off st := rfl
theorem exec_rst (h : Head) (x : RemX) (d a : SReg) (sz : StSize) (off : BitVec 7) (st : State) : exec (.rst h x d a sz off) st = execRst h x d a sz off st := rfl
theorem exec_atomAdd (h : Head) (o : OrdX) (d a b : SReg) (w : Bool) (st : State) : exec (.atomAdd h o d a b w) st = execAtomAdd h o d a b w st := rfl
theorem exec_atomSub (h : Head) (o : OrdX) (d a b : SReg) (w : Bool) (st : State) : exec (.atomSub h o d a b w) st = execAtomSub h o d a b w st := rfl
theorem exec_atomAnd (h : Head) (o : OrdX) (d a b : SReg) (w : Bool) (st : State) : exec (.atomAnd h o d a b w) st = execAtomAnd h o d a b w st := rfl
theorem exec_atomOr (h : Head) (o : OrdX) (d a b : SReg) (w : Bool) (st : State) : exec (.atomOr h o d a b w) st = execAtomOr h o d a b w st := rfl
theorem exec_atomXor (h : Head) (o : OrdX) (d a b : SReg) (w : Bool) (st : State) : exec (.atomXor h o d a b w) st = execAtomXor h o d a b w st := rfl
theorem exec_atomMin (h : Head) (o : OrdX) (d a b : SReg) (w : Bool) (st : State) : exec (.atomMin h o d a b w) st = execAtomMin h o d a b w st := rfl
theorem exec_atomMax (h : Head) (o : OrdX) (d a b : SReg) (w : Bool) (st : State) : exec (.atomMax h o d a b w) st = execAtomMax h o d a b w st := rfl
theorem exec_atomMinu (h : Head) (o : OrdX) (d a b : SReg) (w : Bool) (st : State) : exec (.atomMinu h o d a b w) st = execAtomMinu h o d a b w st := rfl
theorem exec_atomMaxu (h : Head) (o : OrdX) (d a b : SReg) (w : Bool) (st : State) : exec (.atomMaxu h o d a b w) st = execAtomMaxu h o d a b w st := rfl
theorem exec_atomSwap (h : Head) (o : OrdX) (d a b : SReg) (w : Bool) (st : State) : exec (.atomSwap h o d a b w) st = execAtomSwap h o d a b w st := rfl
theorem exec_atomCas (h : Head) (o : OrdX) (d a b : SReg) (w : Bool) (st : State) : exec (.atomCas h o d a b w) st = execAtomCas h o d a b w st := rfl
theorem exec_atomFaddF32 (h : Head) (o : OrdX) (d a b : SReg) (st : State) : exec (.atomFaddF32 h o d a b) st = execAtomFaddF32 h o d a b st := rfl
theorem exec_atomBadd (h : Head) (o : OrdX) (d a b : SReg) (st : State) : exec (.atomBadd h o d a b) st = execAtomBadd h o d a b st := rfl
theorem exec_fenceAcq (h : Head) (sc : Scope) (st : State) : exec (.fenceAcq h sc) st = execFenceAcq h sc st := rfl
theorem exec_fenceRel (h : Head) (sc : Scope) (st : State) : exec (.fenceRel h sc) st = execFenceRel h sc st := rfl
theorem exec_fenceAr (h : Head) (sc : Scope) (st : State) : exec (.fenceAr h sc) st = execFenceAr h sc st := rfl
theorem exec_rvld (h : Head) (o : OrdX) (d : VNum) (a b : SReg) (st : State) : exec (.rvld h o d a b) st = execRvld h o d a b st := rfl
theorem exec_rvst (h : Head) (o : OrdX) (d : VNum) (a b : SReg) (st : State) : exec (.rvst h o d a b) st = execRvst h o d a b st := rfl
theorem exec_tdecl (h : Head) (a b : SReg) (st : State) : exec (.tdecl h a b) st = execTdecl h a b st := rfl
theorem exec_tlend (h : Head) (a b : SReg) (st : State) : exec (.tlend h a b) st = execTlend h a b st := rfl
theorem exec_tret (h : Head) (a : SReg) (st : State) : exec (.tret h a) st = execTret h a st := rfl
theorem exec_tsplit (h : Head) (a b : SReg) (st : State) : exec (.tsplit h a b) st = execTsplit h a b st := rfl
theorem exec_tjoin (h : Head) (a : SReg) (st : State) : exec (.tjoin h a) st = execTjoin h a st := rfl
theorem exec_tshare (h : Head) (a b : SReg) (st : State) : exec (.tshare h a b) st = execTshare h a b st := rfl
theorem exec_tunsh (h : Head) (a : SReg) (st : State) : exec (.tunsh h a) st = execTunsh h a st := rfl
theorem exec_tqry (h : Head) (d a b : SReg) (st : State) : exec (.tqry h d a b) st = execTqry h d a b st := rfl
theorem exec_trecl (h : Head) (a : SReg) (st : State) : exec (.trecl h a) st = execTrecl h a st := rfl
theorem exec_tclean (h : Head) (a b : SReg) (st : State) : exec (.tclean h a b) st = execTclean h a b st := rfl
theorem exec_send (h : Head) (o : OrdX) (d : BitVec 3) (a b : SReg) (st : State) : exec (.send h o d a b) st = execSend h o d a b st := rfl
theorem exec_sendr (h : Head) (o : OrdX) (a b : SReg) (st : State) : exec (.sendr h o a b) st = execSendr h o a b st := rfl
theorem exec_door (h : Head) (o : OrdX) (d a b : SReg) (st : State) : exec (.door h o d a b) st = execDoor h o d a b st := rfl
theorem exec_doorq (h : Head) (o : OrdX) (d a : SReg) (st : State) : exec (.doorq h o d a) st = execDoorq h o d a st := rfl
theorem exec_submit (h : Head) (o : OrdX) (a b : SReg) (st : State) : exec (.submit h o a b) st = execSubmit h o a b st := rfl
theorem exec_ckpt (h : Head) (o : OrdX) (a b : SReg) (st : State) : exec (.ckpt h o a b) st = execCkpt h o a b st := rfl
theorem exec_cpy (h : Head) (o : OrdX) (a b : SReg) (st : State) : exec (.cpy h o a b) st = execCpy h o a b st := rfl
theorem exec_cpyq (h : Head) (d : SReg) (st : State) : exec (.cpyq h d) st = execCpyq h d st := rfl
theorem exec_cpyx (h : Head) (o : OrdX) (a b : SReg) (st : State) : exec (.cpyx h o a b) st = execCpyx h o a b st := rfl
theorem exec_vaddI32 (h : Head) (x : VecX) (d a b : VNum) (mk : MaskX) (st : State) : exec (.vaddI32 h x d a b mk) st = execVaddI32 h x d a b mk st := rfl
theorem exec_vsubI32 (h : Head) (x : VecX) (d a b : VNum) (mk : MaskX) (st : State) : exec (.vsubI32 h x d a b mk) st = execVsubI32 h x d a b mk st := rfl
theorem exec_vmulI32 (h : Head) (x : VecX) (d a b : VNum) (mk : MaskX) (st : State) : exec (.vmulI32 h x d a b mk) st = execVmulI32 h x d a b mk st := rfl
theorem exec_vmulhI32 (h : Head) (x : VecX) (d a b : VNum) (mk : MaskX) (st : State) : exec (.vmulhI32 h x d a b mk) st = execVmulhI32 h x d a b mk st := rfl
theorem exec_vminI32 (h : Head) (x : VecX) (d a b : VNum) (mk : MaskX) (st : State) : exec (.vminI32 h x d a b mk) st = execVminI32 h x d a b mk st := rfl
theorem exec_vmaxI32 (h : Head) (x : VecX) (d a b : VNum) (mk : MaskX) (st : State) : exec (.vmaxI32 h x d a b mk) st = execVmaxI32 h x d a b mk st := rfl
theorem exec_vand (h : Head) (x : VecX) (d a b : VNum) (mk : MaskX) (st : State) : exec (.vand h x d a b mk) st = execVand h x d a b mk st := rfl
theorem exec_vor (h : Head) (x : VecX) (d a b : VNum) (mk : MaskX) (st : State) : exec (.vor h x d a b mk) st = execVor h x d a b mk st := rfl
theorem exec_vxor (h : Head) (x : VecX) (d a b : VNum) (mk : MaskX) (st : State) : exec (.vxor h x d a b mk) st = execVxor h x d a b mk st := rfl
theorem exec_vsll (h : Head) (x : VecX) (d a b : VNum) (mk : MaskX) (st : State) : exec (.vsll h x d a b mk) st = execVsll h x d a b mk st := rfl
theorem exec_vsrl (h : Head) (x : VecX) (d a b : VNum) (mk : MaskX) (st : State) : exec (.vsrl h x d a b mk) st = execVsrl h x d a b mk st := rfl
theorem exec_vsra (h : Head) (x : VecX) (d a b : VNum) (mk : MaskX) (st : State) : exec (.vsra h x d a b mk) st = execVsra h x d a b mk st := rfl
theorem exec_vaddsI32 (h : Head) (x : VecX) (d a b : VNum) (mk : MaskX) (st : State) : exec (.vaddsI32 h x d a b mk) st = execVaddsI32 h x d a b mk st := rfl
theorem exec_vsubsI32 (h : Head) (x : VecX) (d a b : VNum) (mk : MaskX) (st : State) : exec (.vsubsI32 h x d a b mk) st = execVsubsI32 h x d a b mk st := rfl
theorem exec_vabsI32 (h : Head) (x : VecX) (d a : VNum) (mk : MaskX) (st : State) : exec (.vabsI32 h x d a mk) st = execVabsI32 h x d a mk st := rfl
theorem exec_vminuI32 (h : Head) (x : VecX) (d a b : VNum) (mk : MaskX) (st : State) : exec (.vminuI32 h x d a b mk) st = execVminuI32 h x d a b mk st := rfl
theorem exec_vaddF32 (h : Head) (x : VecX) (d a b : VNum) (mk : MaskX) (st : State) : exec (.vaddF32 h x d a b mk) st = execVaddF32 h x d a b mk st := rfl
theorem exec_vsubF32 (h : Head) (x : VecX) (d a b : VNum) (mk : MaskX) (st : State) : exec (.vsubF32 h x d a b mk) st = execVsubF32 h x d a b mk st := rfl
theorem exec_vmulF32 (h : Head) (x : VecX) (d a b : VNum) (mk : MaskX) (st : State) : exec (.vmulF32 h x d a b mk) st = execVmulF32 h x d a b mk st := rfl
theorem exec_vfmaF32 (h : Head) (x : VecX) (d a b : VNum) (mk : MaskX) (st : State) : exec (.vfmaF32 h x d a b mk) st = execVfmaF32 h x d a b mk st := rfl
theorem exec_vfmsF32 (h : Head) (x : VecX) (d a b : VNum) (mk : MaskX) (st : State) : exec (.vfmsF32 h x d a b mk) st = execVfmsF32 h x d a b mk st := rfl
theorem exec_vminF32 (h : Head) (x : VecX) (d a b : VNum) (mk : MaskX) (st : State) : exec (.vminF32 h x d a b mk) st = execVminF32 h x d a b mk st := rfl
theorem exec_vmaxF32 (h : Head) (x : VecX) (d a b : VNum) (mk : MaskX) (st : State) : exec (.vmaxF32 h x d a b mk) st = execVmaxF32 h x d a b mk st := rfl
theorem exec_vabsF32 (h : Head) (x : VecX) (d a : VNum) (mk : MaskX) (st : State) : exec (.vabsF32 h x d a mk) st = execVabsF32 h x d a mk st := rfl
theorem exec_vnegF32 (h : Head) (x : VecX) (d a : VNum) (mk : MaskX) (st : State) : exec (.vnegF32 h x d a mk) st = execVnegF32 h x d a mk st := rfl
theorem exec_vfnmaF32 (h : Head) (x : VecX) (d a b : VNum) (mk : MaskX) (st : State) : exec (.vfnmaF32 h x d a b mk) st = execVfnmaF32 h x d a b mk st := rfl
theorem exec_vaddI16 (h : Head) (x : VecX) (d a b : VNum) (mk : MaskX) (st : State) : exec (.vaddI16 h x d a b mk) st = execVaddI16 h x d a b mk st := rfl
theorem exec_vsubI16 (h : Head) (x : VecX) (d a b : VNum) (mk : MaskX) (st : State) : exec (.vsubI16 h x d a b mk) st = execVsubI16 h x d a b mk st := rfl
theorem exec_vmulI16 (h : Head) (x : VecX) (d a b : VNum) (mk : MaskX) (st : State) : exec (.vmulI16 h x d a b mk) st = execVmulI16 h x d a b mk st := rfl
theorem exec_vaddsI16 (h : Head) (x : VecX) (d a b : VNum) (mk : MaskX) (st : State) : exec (.vaddsI16 h x d a b mk) st = execVaddsI16 h x d a b mk st := rfl
theorem exec_vsubsI16 (h : Head) (x : VecX) (d a b : VNum) (mk : MaskX) (st : State) : exec (.vsubsI16 h x d a b mk) st = execVsubsI16 h x d a b mk st := rfl
theorem exec_vminI16 (h : Head) (x : VecX) (d a b : VNum) (mk : MaskX) (st : State) : exec (.vminI16 h x d a b mk) st = execVminI16 h x d a b mk st := rfl
theorem exec_vmaxI16 (h : Head) (x : VecX) (d a b : VNum) (mk : MaskX) (st : State) : exec (.vmaxI16 h x d a b mk) st = execVmaxI16 h x d a b mk st := rfl
theorem exec_vaddBf16 (h : Head) (x : VecX) (d a b : VNum) (mk : MaskX) (st : State) : exec (.vaddBf16 h x d a b mk) st = execVaddBf16 h x d a b mk st := rfl
theorem exec_vsubBf16 (h : Head) (x : VecX) (d a b : VNum) (mk : MaskX) (st : State) : exec (.vsubBf16 h x d a b mk) st = execVsubBf16 h x d a b mk st := rfl
theorem exec_vmulBf16 (h : Head) (x : VecX) (d a b : VNum) (mk : MaskX) (st : State) : exec (.vmulBf16 h x d a b mk) st = execVmulBf16 h x d a b mk st := rfl
theorem exec_vfmaBf16 (h : Head) (x : VecX) (d a b : VNum) (mk : MaskX) (st : State) : exec (.vfmaBf16 h x d a b mk) st = execVfmaBf16 h x d a b mk st := rfl
theorem exec_vminBf16 (h : Head) (x : VecX) (d a b : VNum) (mk : MaskX) (st : State) : exec (.vminBf16 h x d a b mk) st = execVminBf16 h x d a b mk st := rfl
theorem exec_vmaxBf16 (h : Head) (x : VecX) (d a b : VNum) (mk : MaskX) (st : State) : exec (.vmaxBf16 h x d a b mk) st = execVmaxBf16 h x d a b mk st := rfl
theorem exec_vaddI8 (h : Head) (x : VecX) (d a b : VNum) (mk : MaskX) (st : State) : exec (.vaddI8 h x d a b mk) st = execVaddI8 h x d a b mk st := rfl
theorem exec_vsubI8 (h : Head) (x : VecX) (d a b : VNum) (mk : MaskX) (st : State) : exec (.vsubI8 h x d a b mk) st = execVsubI8 h x d a b mk st := rfl
theorem exec_vaddsI8 (h : Head) (x : VecX) (d a b : VNum) (mk : MaskX) (st : State) : exec (.vaddsI8 h x d a b mk) st = execVaddsI8 h x d a b mk st := rfl
theorem exec_vsubsI8 (h : Head) (x : VecX) (d a b : VNum) (mk : MaskX) (st : State) : exec (.vsubsI8 h x d a b mk) st = execVsubsI8 h x d a b mk st := rfl
theorem exec_vminI8 (h : Head) (x : VecX) (d a b : VNum) (mk : MaskX) (st : State) : exec (.vminI8 h x d a b mk) st = execVminI8 h x d a b mk st := rfl
theorem exec_vmaxI8 (h : Head) (x : VecX) (d a b : VNum) (mk : MaskX) (st : State) : exec (.vmaxI8 h x d a b mk) st = execVmaxI8 h x d a b mk st := rfl
theorem exec_vaddE4m3 (h : Head) (x : VecX) (d a b : VNum) (mk : MaskX) (st : State) : exec (.vaddE4m3 h x d a b mk) st = execVaddE4m3 h x d a b mk st := rfl
theorem exec_vsubE4m3 (h : Head) (x : VecX) (d a b : VNum) (mk : MaskX) (st : State) : exec (.vsubE4m3 h x d a b mk) st = execVsubE4m3 h x d a b mk st := rfl
theorem exec_vmulE4m3 (h : Head) (x : VecX) (d a b : VNum) (mk : MaskX) (st : State) : exec (.vmulE4m3 h x d a b mk) st = execVmulE4m3 h x d a b mk st := rfl
theorem exec_vminE4m3 (h : Head) (x : VecX) (d a b : VNum) (mk : MaskX) (st : State) : exec (.vminE4m3 h x d a b mk) st = execVminE4m3 h x d a b mk st := rfl
theorem exec_vmaxE4m3 (h : Head) (x : VecX) (d a b : VNum) (mk : MaskX) (st : State) : exec (.vmaxE4m3 h x d a b mk) st = execVmaxE4m3 h x d a b mk st := rfl
theorem exec_vaddE5m2 (h : Head) (x : VecX) (d a b : VNum) (mk : MaskX) (st : State) : exec (.vaddE5m2 h x d a b mk) st = execVaddE5m2 h x d a b mk st := rfl
theorem exec_vsubE5m2 (h : Head) (x : VecX) (d a b : VNum) (mk : MaskX) (st : State) : exec (.vsubE5m2 h x d a b mk) st = execVsubE5m2 h x d a b mk st := rfl
theorem exec_vmulE5m2 (h : Head) (x : VecX) (d a b : VNum) (mk : MaskX) (st : State) : exec (.vmulE5m2 h x d a b mk) st = execVmulE5m2 h x d a b mk st := rfl
theorem exec_vminE5m2 (h : Head) (x : VecX) (d a b : VNum) (mk : MaskX) (st : State) : exec (.vminE5m2 h x d a b mk) st = execVminE5m2 h x d a b mk st := rfl
theorem exec_vmaxE5m2 (h : Head) (x : VecX) (d a b : VNum) (mk : MaskX) (st : State) : exec (.vmaxE5m2 h x d a b mk) st = execVmaxE5m2 h x d a b mk st := rfl
theorem exec_quantQb8 (h : Head) (x : VecX) (d a : VNum) (st : State) : exec (.quantQb8 h x d a) st = execQuantQb8 h x d a st := rfl
theorem exec_quantQb4 (h : Head) (x : VecX) (d a : VNum) (st : State) : exec (.quantQb4 h x d a) st = execQuantQb4 h x d a st := rfl
theorem exec_dequantQb8 (h : Head) (x : VecX) (d a : VNum) (mk : MaskX) (st : State) : exec (.dequantQb8 h x d a mk) st = execDequantQb8 h x d a mk st := rfl
theorem exec_dequantQb4 (h : Head) (x : VecX) (d a : VNum) (mk : MaskX) (st : State) : exec (.dequantQb4 h x d a mk) st = execDequantQb4 h x d a mk st := rfl
theorem exec_qtobaQb8 (h : Head) (x : VecX) (d a : VNum) (st : State) : exec (.qtobaQb8 h x d a) st = execQtobaQb8 h x d a st := rfl
theorem exec_qtobaQb4 (h : Head) (x : VecX) (d a : VNum) (st : State) : exec (.qtobaQb4 h x d a) st = execQtobaQb4 h x d a st := rfl
theorem exec_badd (h : Head) (x : VecX) (d a b : VNum) (st : State) : exec (.badd h x d a b) st = execBadd h x d a b st := rfl
theorem exec_balign (h : Head) (x : VecX) (d a b : VNum) (st : State) : exec (.balign h x d a b) st = execBalign h x d a b st := rfl
theorem exec_vlut (h : Head) (x : VecX) (d a : VNum) (kn : ANum) (mk : MaskX) (st : State) : exec (.vlut h x d a kn mk) st = execVlut h x d a kn mk st := rfl
theorem exec_vdqw (h : Head) (x : VecX) (d a b : VNum) (mk : MaskX) (st : State) : exec (.vdqw h x d a b mk) st = execVdqw h x d a b mk st := rfl
theorem exec_vcvtBf16F32 (h : Head) (x : VecX) (d a : VNum) (mk : MaskX) (st : State) : exec (.vcvtBf16F32 h x d a mk) st = execVcvtBf16F32 h x d a mk st := rfl
theorem exec_vcvtF32Bf16 (h : Head) (x : VecX) (d a : VNum) (mk : MaskX) (st : State) : exec (.vcvtF32Bf16 h x d a mk) st = execVcvtF32Bf16 h x d a mk st := rfl
theorem exec_vcvtE4m3F32 (h : Head) (x : VecX) (d a : VNum) (mk : MaskX) (st : State) : exec (.vcvtE4m3F32 h x d a mk) st = execVcvtE4m3F32 h x d a mk st := rfl
theorem exec_vcvtE5m2F32 (h : Head) (x : VecX) (d a : VNum) (mk : MaskX) (st : State) : exec (.vcvtE5m2F32 h x d a mk) st = execVcvtE5m2F32 h x d a mk st := rfl
theorem exec_vcvtF32E4m3 (h : Head) (x : VecX) (d a : VNum) (mk : MaskX) (st : State) : exec (.vcvtF32E4m3 h x d a mk) st = execVcvtF32E4m3 h x d a mk st := rfl
theorem exec_vcvtF32E5m2 (h : Head) (x : VecX) (d a : VNum) (mk : MaskX) (st : State) : exec (.vcvtF32E5m2 h x d a mk) st = execVcvtF32E5m2 h x d a mk st := rfl
theorem exec_vcvtE4m3Bf16 (h : Head) (x : VecX) (d a : VNum) (mk : MaskX) (st : State) : exec (.vcvtE4m3Bf16 h x d a mk) st = execVcvtE4m3Bf16 h x d a mk st := rfl
theorem exec_vcvtE5m2Bf16 (h : Head) (x : VecX) (d a : VNum) (mk : MaskX) (st : State) : exec (.vcvtE5m2Bf16 h x d a mk) st = execVcvtE5m2Bf16 h x d a mk st := rfl
theorem exec_vcvtBf16E4m3 (h : Head) (x : VecX) (d a : VNum) (mk : MaskX) (st : State) : exec (.vcvtBf16E4m3 h x d a mk) st = execVcvtBf16E4m3 h x d a mk st := rfl
theorem exec_vcvtBf16E5m2 (h : Head) (x : VecX) (d a : VNum) (mk : MaskX) (st : State) : exec (.vcvtBf16E5m2 h x d a mk) st = execVcvtBf16E5m2 h x d a mk st := rfl
theorem exec_vcvtI32F32 (h : Head) (x : VecX) (d a : VNum) (mk : MaskX) (st : State) : exec (.vcvtI32F32 h x d a mk) st = execVcvtI32F32 h x d a mk st := rfl
theorem exec_vcvtF32I32 (h : Head) (x : VecX) (d a : VNum) (mk : MaskX) (st : State) : exec (.vcvtF32I32 h x d a mk) st = execVcvtF32I32 h x d a mk st := rfl
theorem exec_vcvtBf16Q4 (h : Head) (x : VecX) (d a : VNum) (mk : MaskX) (st : State) : exec (.vcvtBf16Q4 h x d a mk) st = execVcvtBf16Q4 h x d a mk st := rfl
theorem exec_vcvtI8I32 (h : Head) (x : VecX) (d a : VNum) (mk : MaskX) (st : State) : exec (.vcvtI8I32 h x d a mk) st = execVcvtI8I32 h x d a mk st := rfl
theorem exec_vcvtI32I8 (h : Head) (x : VecX) (d a : VNum) (mk : MaskX) (st : State) : exec (.vcvtI32I8 h x d a mk) st = execVcvtI32I8 h x d a mk st := rfl
theorem exec_vexp (h : Head) (x : VecX) (d a : VNum) (mk : MaskX) (st : State) : exec (.vexp h x d a mk) st = execVexp h x d a mk st := rfl
theorem exec_vexp2 (h : Head) (x : VecX) (d a : VNum) (mk : MaskX) (st : State) : exec (.vexp2 h x d a mk) st = execVexp2 h x d a mk st := rfl
theorem exec_vlog (h : Head) (x : VecX) (d a : VNum) (mk : MaskX) (st : State) : exec (.vlog h x d a mk) st = execVlog h x d a mk st := rfl
theorem exec_vlog2 (h : Head) (x : VecX) (d a : VNum) (mk : MaskX) (st : State) : exec (.vlog2 h x d a mk) st = execVlog2 h x d a mk st := rfl
theorem exec_vrcp (h : Head) (x : VecX) (d a : VNum) (mk : MaskX) (st : State) : exec (.vrcp h x d a mk) st = execVrcp h x d a mk st := rfl
theorem exec_vrsqrt (h : Head) (x : VecX) (d a : VNum) (mk : MaskX) (st : State) : exec (.vrsqrt h x d a mk) st = execVrsqrt h x d a mk st := rfl
theorem exec_vsqrt (h : Head) (x : VecX) (d a : VNum) (mk : MaskX) (st : State) : exec (.vsqrt h x d a mk) st = execVsqrt h x d a mk st := rfl
theorem exec_vdiv (h : Head) (x : VecX) (d a b : VNum) (mk : MaskX) (st : State) : exec (.vdiv h x d a b mk) st = execVdiv h x d a b mk st := rfl
theorem exec_vtanh (h : Head) (x : VecX) (d a : VNum) (mk : MaskX) (st : State) : exec (.vtanh h x d a mk) st = execVtanh h x d a mk st := rfl
theorem exec_vsigm (h : Head) (x : VecX) (d a : VNum) (mk : MaskX) (st : State) : exec (.vsigm h x d a mk) st = execVsigm h x d a mk st := rfl
theorem exec_verf (h : Head) (x : VecX) (d a : VNum) (mk : MaskX) (st : State) : exec (.verf h x d a mk) st = execVerf h x d a mk st := rfl
theorem exec_vsin (h : Head) (x : VecX) (d a : VNum) (mk : MaskX) (st : State) : exec (.vsin h x d a mk) st = execVsin h x d a mk st := rfl
theorem exec_vcos (h : Head) (x : VecX) (d a : VNum) (mk : MaskX) (st : State) : exec (.vcos h x d a mk) st = execVcos h x d a mk st := rfl
theorem exec_vperm (h : Head) (x : VecX) (d a b : VNum) (mk : MaskX) (st : State) : exec (.vperm h x d a b mk) st = execVperm h x d a b mk st := rfl
theorem exec_vbcast (h : Head) (x : VecX) (d a : VNum) (mk : MaskX) (st : State) : exec (.vbcast h x d a mk) st = execVbcast h x d a mk st := rfl
theorem exec_vbcastScalar (h : Head) (x : VecPfx) (d : VNum) (mk : MaskX) (st : State) : exec (.vbcastScalar h x d mk) st = execVbcastScalar h x d mk st := rfl
theorem exec_vrot (h : Head) (x : VecX) (d a : VNum) (mk : MaskX) (st : State) : exec (.vrot h x d a mk) st = execVrot h x d a mk st := rfl
theorem exec_viota (h : Head) (x : VecX) (d : VNum) (mk : MaskX) (st : State) : exec (.viota h x d mk) st = execViota h x d mk st := rfl
theorem exec_vsel (h : Head) (x : VecX) (d a b : VNum) (mk : MReg) (st : State) : exec (.vsel h x d a b mk) st = execVsel h x d a b mk st := rfl
theorem exec_vins (h : Head) (x : VecPfx) (d : VNum) (st : State) : exec (.vins h x d) st = execVins h x d st := rfl
theorem exec_vext (h : Head) (x : VecX) (d : GNum) (a : VNum) (st : State) : exec (.vext h x d a) st = execVext h x d a st := rfl
theorem exec_vhdrWrite (h : Head) (x : VecPfx) (d : VNum) (st : State) : exec (.vhdrWrite h x d) st = execVhdrWrite h x d st := rfl
theorem exec_vhdrRead (h : Head) (x : VecPfx) (d : GNum) (a : VNum) (st : State) : exec (.vhdrRead h x d a) st = execVhdrRead h x d a st := rfl
theorem exec_vcmpI32 (h : Head) (x : VecX) (d : MReg) (a b : VNum) (mk : MaskX) (st : State) : exec (.vcmpI32 h x d a b mk) st = execVcmpI32 h x d a b mk st := rfl
theorem exec_vcmpF32 (h : Head) (x : VecX) (d : MReg) (a b : VNum) (mk : MaskX) (st : State) : exec (.vcmpF32 h x d a b mk) st = execVcmpF32 h x d a b mk st := rfl
theorem exec_vrsumF32 (h : Head) (x : VecX) (d a : VNum) (mk : MaskX) (st : State) : exec (.vrsumF32 h x d a mk) st = execVrsumF32 h x d a mk st := rfl
theorem exec_vrsumI32 (h : Head) (x : VecX) (d a : VNum) (mk : MaskX) (st : State) : exec (.vrsumI32 h x d a mk) st = execVrsumI32 h x d a mk st := rfl
theorem exec_vrmaxF32 (h : Head) (x : VecX) (d a : VNum) (mk : MaskX) (st : State) : exec (.vrmaxF32 h x d a mk) st = execVrmaxF32 h x d a mk st := rfl
theorem exec_vrmaxI32 (h : Head) (x : VecX) (d a : VNum) (mk : MaskX) (st : State) : exec (.vrmaxI32 h x d a mk) st = execVrmaxI32 h x d a mk st := rfl
theorem exec_vdraw (h : Head) (x : VecPfx) (d a : VNum) (mk : MaskX) (st : State) : exec (.vdraw h x d a mk) st = execVdraw h x d a mk st := rfl
theorem exec_dmerge (h : Head) (x : VecX) (d a b : VNum) (st : State) : exec (.dmerge h x d a b) st = execDmerge h x d a b st := rfl
theorem exec_mmaF8f8 (h : Head) (d : ANum) (a b : SReg) (st : State) : exec (.mmaF8f8 h d a b) st = execMmaF8f8 h d a b st := rfl
theorem exec_mmaB16b16 (h : Head) (d : ANum) (a b : SReg) (st : State) : exec (.mmaB16b16 h d a b) st = execMmaB16b16 h d a b st := rfl
theorem exec_mmaF8i4 (h : Head) (d : Bool) (a b : SReg) (st : State) : exec (.mmaF8i4 h d a b) st = execMmaF8i4 h d a b st := rfl
theorem exec_mmaB16i4 (h : Head) (d : Bool) (a b : SReg) (st : State) : exec (.mmaB16i4 h d a b) st = execMmaB16i4 h d a b st := rfl
theorem exec_mmaB16l4 (h : Head) (d : Bool) (a b : SReg) (st : State) : exec (.mmaB16l4 h d a b) st = execMmaB16l4 h d a b st := rfl
theorem exec_mmaQb8 (h : Head) (d : ANum) (a b : SReg) (st : State) : exec (.mmaQb8 h d a b) st = execMmaQb8 h d a b st := rfl
theorem exec_mmaQb4 (h : Head) (d : ANum) (a b : SReg) (st : State) : exec (.mmaQb4 h d a b) st = execMmaQb4 h d a b st := rfl
theorem exec_mldw (h : Head) (a b : SReg) (st : State) : exec (.mldw h a b) st = execMldw h a b st := rfl
theorem exec_mswap (h : Head) (st : State) : exec (.mswap h) st = execMswap h st := rfl
theorem exec_mldk (h : Head) (d : ANum) (a : VNum) (st : State) : exec (.mldk h d a) st = execMldk h d a st := rfl
theorem exec_mcolq (h : Head) (d : Bool) (a b : VNum) (st : State) : exec (.mcolq h d a b) st = execMcolq h d a b st := rfl
theorem exec_mzero (h : Head) (d : ANum) (st : State) : exec (.mzero h d) st = execMzero h d st := rfl
theorem exec_mmovaToVector (h : Head) (d : VNum) (a : ANum) (g : BitVec 2) (st : State) : exec (.mmovaToVector h d a g) st = execMmovaToVector h d a g st := rfl
theorem exec_mmovaToAcc (h : Head) (d : ANum) (a : VNum) (g : BitVec 2) (st : State) : exec (.mmovaToAcc h d a g) st = execMmovaToAcc h d a g st := rfl
theorem exec_mrsum (h : Head) (d : VNum) (a : ANum) (st : State) : exec (.mrsum h d a) st = execMrsum h d a st := rfl
theorem exec_mchk (h : Head) (d : SReg) (a : ANum) (st : State) : exec (.mchk h d a) st = execMchk h d a st := rfl
theorem exec_msync (h : Head) (d : SReg) (st : State) : exec (.msync h d) st = execMsync h d st := rfl
theorem exec_mdrainF32 (h : Head) (x : VecX) (d : VNum) (a : ANum) (g : BitVec 2) (z : Bool) (st : State) : exec (.mdrainF32 h x d a g z) st = execMdrainF32 h x d a g z st := rfl
theorem exec_mdrainBf16 (h : Head) (x : VecX) (d : VNum) (a : ANum) (g : BitVec 2) (z : Bool) (st : State) : exec (.mdrainBf16 h x d a g z) st = execMdrainBf16 h x d a g z st := rfl
theorem exec_mdrainE4m3 (h : Head) (x : VecX) (d : VNum) (a : ANum) (g : BitVec 2) (z : Bool) (st : State) : exec (.mdrainE4m3 h x d a g z) st = execMdrainE4m3 h x d a g z st := rfl
theorem exec_mdrainE5m2 (h : Head) (x : VecX) (d : VNum) (a : ANum) (g : BitVec 2) (z : Bool) (st : State) : exec (.mdrainE5m2 h x d a g z) st = execMdrainE5m2 h x d a g z st := rfl
theorem exec_mdrainQb8 (h : Head) (x : VecX) (d : VNum) (a : ANum) (g : BitVec 2) (z : Bool) (st : State) : exec (.mdrainQb8 h x d a g z) st = execMdrainQb8 h x d a g z st := rfl
theorem exec_mdrainQb4 (h : Head) (x : VecX) (d : VNum) (a : ANum) (g : BitVec 2) (z : Bool) (st : State) : exec (.mdrainQb4 h x d a g z) st = execMdrainQb4 h x d a g z st := rfl
theorem exec_mdrainBa32 (h : Head) (x : VecX) (d : VNum) (a : ANum) (g : BitVec 2) (z : Bool) (st : State) : exec (.mdrainBa32 h x d a g z) st = execMdrainBa32 h x d a g z st := rfl
theorem exec_linit (h : Head) (o : OrdX) (a b : SReg) (st : State) : exec (.linit h o a b) st = execLinit h o a b st := rfl
theorem exec_larv (h : Head) (o : OrdX) (d a b : SReg) (st : State) : exec (.larv h o d a b) st = execLarv h o d a b st := rfl
theorem exec_lwait (h : Head) (o : OrdX) (d a b : SReg) (st : State) : exec (.lwait h o d a b) st = execLwait h o d a b st := rfl
theorem exec_ltest (h : Head) (o : OrdX) (d a : SReg) (st : State) : exec (.ltest h o d a) st = execLtest h o d a st := rfl
theorem exec_lreg (h : Head) (o : OrdX) (a b : SReg) (st : State) : exec (.lreg h o a b) st = execLreg h o a b st := rfl
theorem exec_ldrop (h : Head) (o : OrdX) (a b : SReg) (st : State) : exec (.ldrop h o a b) st = execLdrop h o a b st := rfl
theorem exec_lbytes (h : Head) (o : OrdX) (d a b : SReg) (st : State) : exec (.lbytes h o d a b) st = execLbytes h o d a b st := rfl
theorem exec_rngget (h : Head) (d : SReg) (st : State) : exec (.rngget h d) st = execRngget h d st := rfl
theorem exec_fadd (h : Head) (x : VecX) (d a b : SReg) (st : State) : exec (.fadd h x d a b) st = execFadd h x d a b st := rfl
theorem exec_fsub (h : Head) (x : VecX) (d a b : SReg) (st : State) : exec (.fsub h x d a b) st = execFsub h x d a b st := rfl
theorem exec_fmul (h : Head) (x : VecX) (d a b : SReg) (st : State) : exec (.fmul h x d a b) st = execFmul h x d a b st := rfl
theorem exec_fdiv (h : Head) (x : VecX) (d a b : SReg) (st : State) : exec (.fdiv h x d a b) st = execFdiv h x d a b st := rfl
theorem exec_fsqrt (h : Head) (x : VecX) (d a : SReg) (st : State) : exec (.fsqrt h x d a) st = execFsqrt h x d a st := rfl
theorem exec_fma (h : Head) (x : VecX) (d a b : SReg) (st : State) : exec (.fma h x d a b) st = execFma h x d a b st := rfl
theorem exec_fmin (h : Head) (x : VecX) (d a b : SReg) (st : State) : exec (.fmin h x d a b) st = execFmin h x d a b st := rfl
theorem exec_fmax (h : Head) (x : VecX) (d a b : SReg) (st : State) : exec (.fmax h x d a b) st = execFmax h x d a b st := rfl
theorem exec_feq (h : Head) (x : VecX) (d : PReg) (a b : SReg) (st : State) : exec (.feq h x d a b) st = execFeq h x d a b st := rfl
theorem exec_flt (h : Head) (x : VecX) (d : PReg) (a b : SReg) (st : State) : exec (.flt h x d a b) st = execFlt h x d a b st := rfl
theorem exec_fle (h : Head) (x : VecX) (d : PReg) (a b : SReg) (st : State) : exec (.fle h x d a b) st = execFle h x d a b st := rfl
theorem exec_fcvti (h : Head) (x : VecX) (d a : SReg) (st : State) : exec (.fcvti h x d a) st = execFcvti h x d a st := rfl
theorem exec_fcvtf (h : Head) (x : VecX) (d a : SReg) (st : State) : exec (.fcvtf h x d a) st = execFcvtf h x d a st := rfl
theorem exec_fabs (h : Head) (x : VecX) (d a : SReg) (st : State) : exec (.fabs h x d a) st = execFabs h x d a st := rfl
theorem exec_fneg (h : Head) (x : VecX) (d a : SReg) (st : State) : exec (.fneg h x d a) st = execFneg h x d a st := rfl
theorem exec_fclass (h : Head) (x : VecX) (d a : SReg) (st : State) : exec (.fclass h x d a) st = execFclass h x d a st := rfl

end Sys2Proof.Machine
end

