-- ==== Sys2Proof/Laws/Issue.lean ====
section
/-! SUPPORT. What a keyed list, `modCore` and the issue of an instruction do: the lemmas that proofs about instructions cite
instead of unfolding `issue` and `finish`. -/

namespace Sys2Proof.Machine

/- One thread keeps the check of the package within its memory. -/
set_option Elab.async false

/-! ## Keyed lists -/

@[simp] theorem aget_amod_same {α : Type} (c : Nat) (f : α → α) (l : List (Nat × α)) :
    aget c (amod c f l) = (aget c l).map f := by
  induction l with
  | nil => rfl
  | cons e l ih =>
    obtain ⟨i, a⟩ := e
    by_cases h : c = i
    · subst h; simp [amod, aget]
    · simp [amod, aget, h, ih]

theorem aget_amod_ne {α : Type} {c d : Nat} (f : α → α) (l : List (Nat × α)) (h : d ≠ c) :
    aget d (amod c f l) = aget d l := by
  induction l with
  | nil => rfl
  | cons e l ih =>
    obtain ⟨i, a⟩ := e
    by_cases hc : c = i
    · subst hc; simp [amod, aget, h]
    · by_cases hd : d = i
      · subst hd; simp [amod, aget, hc]
      · simp [amod, aget, hc, hd, ih]

@[simp] theorem amod_amod {α : Type} (c : Nat) (f g : α → α) (l : List (Nat × α)) :
    amod c f (amod c g l) = amod c (fun a => f (g a)) l := by
  induction l with
  | nil => rfl
  | cons e l ih =>
    obtain ⟨i, a⟩ := e
    by_cases h : c = i
    · subst h; simp [amod]
    · simp [amod, h, ih]

/-- Two changes of one key agree when they agree on the value there. -/
theorem amod_congr {α : Type} {c : Nat} {f g : α → α} {l : List (Nat × α)} (h : ∀ a, aget c l = some a → f a = g a) :
    amod c f l = amod c g l := by
  induction l with
  | nil => rfl
  | cons e l ih =>
    obtain ⟨i, a⟩ := e
    by_cases hc : c = i
    · subst hc; simp [amod]; exact h a (by simp [aget])
    · simp only [amod, hc, if_false]
      rw [ih fun b hb => h b (by simp [aget, hc, hb])]

/-! ## Cores -/

@[simp] theorem core?_modCore_same (s : State) (c : Nat) (f : Core → Core) : (s.modCore c f).core? c = (s.core? c).map f := by
  simp [State.core?]

theorem core?_modCore_ne (s : State) {c d : Nat} (f : Core → Core) (h : d ≠ c) : (s.modCore c f).core? d = s.core? d := by
  simp [State.core?, aget_amod_ne f s.cores h]

@[simp] theorem modCore_modCore (s : State) (c : Nat) (f g : Core → Core) :
    (s.modCore c g).modCore c f = s.modCore c fun k => f (g k) := by
  simp [State.modCore]

theorem modCore_congr {s : State} {c : Nat} {f g : Core → Core} (h : ∀ k, s.core? c = some k → f k = g k) :
    s.modCore c f = s.modCore c g := by
  simp only [State.modCore]; rw [amod_congr h]

@[simp] theorem amod_id {α : Type} (c : Nat) (l : List (Nat × α)) : amod c (fun a => a) l = l := by
  induction l with
  | nil => rfl
  | cons e l ih => obtain ⟨i, a⟩ := e; simp [amod, ih]

@[simp] theorem modCore_id (s : State) (c : Nat) : (s.modCore c fun k => k) = s := by simp [State.modCore]

/-! ## Slots -/

@[simp] theorem slot_modSlot_same (k : Core) (sl : Fin 8) (f : Slot → Slot) : (k.modSlot sl f).slot sl = f (k.slot sl) := by
  simp [Core.slot, Core.modSlot]

theorem slot_modSlot_ne (k : Core) {sl r : Fin 8} (f : Slot → Slot) (h : r ≠ sl) : (k.modSlot sl f).slot r = k.slot r := by
  have : sl.val ≠ r.val := fun e => h (Fin.ext e.symm)
  simp [Core.slot, Core.modSlot, Vector.getElem_set_ne, this]

@[simp] theorem modSlot_modSlot (k : Core) (sl : Fin 8) (f g : Slot → Slot) :
    (k.modSlot sl g).modSlot sl f = k.modSlot sl fun x => f (g x) := by
  simp [Core.modSlot]

@[simp] theorem slot_count (k : Core) (ev n : Nat) (sl : Fin 8) : (k.count ev n).slot sl = k.slot sl := by
  simp only [Core.count]; split <;> rfl

@[simp] theorem slot_land (k : Core) (cyc : Nat) (sl : Fin 8) : (k.land cyc).slot sl = k.slot sl := rfl

@[simp] theorem slot_correct (k : Core) (a n : Nat) (sl : Fin 8) : (k.correct a n).slot sl = k.slot sl := by
  simp only [Core.correct]; split
  · rfl
  · exact (slot_count _ _ _ sl).trans rfl

@[simp] theorem slot_injectRead (k : Core) (a n : Nat) (sl : Fin 8) : (k.injectRead a n).slot sl = k.slot sl := by
  rw [← slot_correct k a n sl]
  simp only [Core.injectRead]
  split
  · split
    · rfl
    · split
      · exact (slot_count _ _ _ sl).trans rfl
      · rfl
  · rfl

/-! ## Cycles -/

theorem cycOff_count (k : Core) (ev n : Nat) : (k.count ev n).cycOff = k.cycOff := by
  simp only [Core.count]; split <;> rfl

theorem cycOff_correct (k : Core) (a n : Nat) : (k.correct a n).cycOff = k.cycOff := by
  simp only [Core.correct]; split
  · rfl
  · exact (cycOff_count _ _ _).trans rfl

theorem cycOff_injectRead (k : Core) (a n : Nat) : (k.injectRead a n).cycOff = k.cycOff := by
  rw [← cycOff_correct k a n]
  simp only [Core.injectRead]
  split
  · split
    · rfl
    · split
      · exact (cycOff_count _ _ _).trans rfl
      · rfl
  · rfl

/-- A change of cores that keeps their cycle offsets keeps the cycle count. -/
theorem cyc_modCore (s : State) (c : Nat) {f : Core → Core} (h : ∀ k, (f k).cycOff = k.cycOff) (d : Nat) :
    (s.modCore c f).cyc d = s.cyc d := by
  simp only [State.cyc]
  by_cases hd : d = c
  · subst hd
    rw [core?_modCore_same]
    cases s.core? d with
    | none => rfl
    | some k => simp only [Option.map_some, h]; rfl
  · rw [core?_modCore_ne s f hd]; rfl

@[simp] theorem cyc_seen (s : State) (sl : Fin 8) (n f c : Nat) : (s.seen sl n f).cyc c = s.cyc c :=
  (show (s.seen sl n f).cyc c = (s.atIssue sl n).cyc c from rfl).trans
    (cyc_modCore s s.cur (fun k => by rw [cycOff_injectRead]; rfl) c)

@[simp] theorem cyc_atIssue (s : State) (sl : Fin 8) (n c : Nat) : (s.atIssue sl n).cyc c = s.cyc c :=
  cyc_modCore s s.cur (fun k => by rw [cycOff_injectRead]; rfl) c

theorem seen_self (s : State) (sl : Fin 8) (n : Nat) : s.seen sl n s.fresh = s.atIssue sl n := rfl

/-! ## What the records of issue leave -/

theorem placeless_count (k : Core) (ev n : Nat) (sl : Fin 8) : (k.count ev n).placeless sl = k.placeless sl := by
  simp only [Core.count]; split <;> rfl

/-- The records that an issue writes are not seen by `placeless`. -/
theorem placeless_issued (k : Core) (sl : Fin 8) (cyc extra : Nat) : (k.issued sl cyc extra).placeless sl = k.placeless sl := by
  simp only [Core.issued, placeless_count]
  simp [Core.placeless, Core.modSlot, Slot.placeless]

theorem slot_issued (k : Core) (sl : Fin 8) (cyc extra : Nat) :
    (k.issued sl cyc extra).slot sl = { k.slot sl with nextIssue := max (k.slot sl).nextIssue (cyc + 1) + extra } := by
  simp only [Core.issued, slot_count, slot_modSlot_same]; rfl

/-- Changes of a slot that agree but for its place agree under `placeless`. -/
theorem placeless_modSlot {k : Core} {sl : Fin 8} {f g : Slot → Slot}
    (h : (f (k.slot sl)).placeless = (g (k.slot sl)).placeless) : (k.modSlot sl f).placeless sl = (k.modSlot sl g).placeless sl := by
  have h' : (f k.regs.slots[sl]).placeless = (g k.regs.slots[sl]).placeless := h
  simp only [Core.placeless, modSlot_modSlot]
  simp only [Core.modSlot, h']

theorem placeless_modSlot_count (k : Core) (ev n : Nat) (sl : Fin 8) (f : Slot → Slot) :
    ((k.count ev n).modSlot sl f).placeless sl = (k.modSlot sl f).placeless sl := by
  simp only [Core.count]; split <;> rfl

/-- A change of the slot after the records of issue. -/
theorem placeless_modSlot_issued {k : Core} {sl : Fin 8} {cyc extra : Nat} {f g : Slot → Slot}
    (h : ∀ x e, (f { x with nextIssue := e }).placeless = (g x).placeless) :
    ((k.issued sl cyc extra).modSlot sl f).placeless sl = (k.modSlot sl g).placeless sl := by
  simp only [Core.issued, placeless_modSlot_count, modSlot_modSlot]
  refine (placeless_modSlot (g := g) ?_).trans rfl
  exact h _ _

/-- A back-edge decision changes the pc, LC and the loop levels. -/
theorem backEdge_eq (x : Slot) (last : Nat) :
    x.backEdge last = { x with pc := (x.backEdge last).pc, lc := (x.backEdge last).lc, loop := (x.backEdge last).loop } := by
  simp only [Slot.backEdge]
  split
  · split
    · split
      · split <;> rfl
      · rfl
    · rfl
  · split
    · split <;> rfl
    · rfl

@[simp] theorem placeless_backEdge (x : Slot) (last : Nat) : (x.backEdge last).placeless = x.placeless := by
  rw [backEdge_eq]; rfl

/-! ## Issue -/

section
variable {s : State} {h : Head} {n : Nat} {uses : Fin 8 → Uses} {k : Core} {sl : Fin 8} {body : Ctx → State → Res}

@[simp] theorem ctxOf_c (s : State) (n : Nat) (k : Core) (sl : Fin 8) : (ctxOf s n k sl).c = s.cur := rfl
@[simp] theorem ctxOf_sl (s : State) (n : Nat) (k : Core) (sl : Fin 8) : (ctxOf s n k sl).sl = sl := rfl
@[simp] theorem ctxOf_cyc (s : State) (n : Nat) (k : Core) (sl : Fin 8) : (ctxOf s n k sl).cyc = s.cyc s.cur := rfl
@[simp] theorem ctxOf_pc (s : State) (n : Nat) (k : Core) (sl : Fin 8) : (ctxOf s n k sl).pc = (k.slot sl).pc := rfl
@[simp] theorem ctxOf_last (s : State) (n : Nat) (k : Core) (sl : Fin 8) :
    (ctxOf s n k sl).last = (k.slot sl).pc + 4 * (n - 1) := rfl

/-- A ready instruction does its effect. -/
theorem issue_ready (r : Ready s h n uses k sl) :
    ∃ f, issue h n uses body s =
      match body (ctxOf s n k sl) (s.seen sl n f) with
      | .hold => .next (s.finish s.cur sl 0 (k.slot sl).pc ((k.slot sl).pc + 4 * (n - 1)) .hold)
      | x => .next ((s.seen sl n f).finish s.cur sl h.stall.toNat (k.slot sl).pc ((k.slot sl).pc + 4 * (n - 1)) x) := by
  obtain ⟨⟨hc, hr, hf⟩, hg, hgd, hi, hl, hb⟩ := r
  cases h0 : s.core? s.cur with
  | none => simp [h0] at hr
  | some k0 =>
    simp only [h0, Option.bind_some] at hr
    have hk : k = (k0.land (s.cyc s.cur)).injectRead (k0.slot sl).pc (4 * n) := by
      simp [State.atIssue, h0] at hc; exact hc.symm
    have hs : k.slot sl = k0.slot sl := by rw [hk]; simp
    have hs1 : (s.modCore s.cur fun k => (k.land (s.cyc s.cur)).injectRead (k0.slot sl).pc (4 * n)) = s.atIssue sl n := by
      apply modCore_congr
      intro q hq
      rw [h0] at hq; cases hq; rfl
    have hs2 : ∃ f, (if k.inflight.isEmpty && k0.stale.isEmpty then s.atIssue sl n
        else { s.atIssue sl n with fresh := (s.atIssue sl n).fresh + 1 }) = s.seen sl n f := by
      split
      · exact ⟨s.fresh, rfl⟩
      · exact ⟨s.fresh + 1, rfl⟩
    obtain ⟨f, hs2⟩ := hs2
    refine ⟨f, ?_⟩
    simp only [issue, h0, hr, hs1, hc]
    simp only [← hs, hf, GuardReads] at hg ⊢
    simp only [hs2, hg, hgd, hi, hl, hb, Bool.or_self, Bool.false_eq_true, if_false]
    simp only [ctxOf] <;> split <;> rename_i hbody <;> simp only [hbody]

/-- The outcome of a back-edge decision depends on the loop state alone. -/
theorem backEdge_congr {x y : Slot} (last : Nat) (h1 : x.lc = y.lc) (h2 : x.loop = y.loop) (h3 : x.inner = y.inner) :
    (x.backEdge last).pc = (y.backEdge last).pc ∧ (x.backEdge last).lc = (y.backEdge last).lc ∧
      (x.backEdge last).loop = (y.backEdge last).loop := by
  have hy : x.backEdge last =
      { x with pc := (y.backEdge last).pc, lc := (y.backEdge last).lc, loop := (y.backEdge last).loop } := by
    obtain ⟨⟩ := x; obtain ⟨⟩ := y
    simp only at h1 h2 h3
    subst h1 h2 h3
    simp only [Slot.backEdge]
    split
    · split
      · split
        · split <;> rfl
        · rfl
      · rfl
    · split
      · split <;> rfl
      · rfl
  rw [hy]; exact ⟨rfl, rfl, rfl⟩

/-- An effect that is done without a trapping flag: its state, the flags, the records of issue and the back-edge decision. -/
theorem finish_ok {c stall pc last : Nat} {u : State} {fl : BitVec 6} {ku : Core} (hcur : u.cur = c)
    (hu : u.core? c = some ku) (hfl : trapCause (fl &&& (ku.slot sl).ftrap) = none) :
    Reaches (s.finish c sl stall pc last (.ok u fl)) (u.modCore c fun k => k.orFlags sl fl) sl
      ((ku.slot sl).backEdge last) := by
  have hft : trapCause (fl &&& ((ku.issued sl (s.cyc c) stall).slot sl).ftrap) = none := by
    rw [slot_issued]; exact hfl
  have h1 : (u.modCore c fun k =>
      (k.issued sl (s.cyc c) stall).modSlot sl fun x => { x with fflags := x.fflags ||| fl }).core? c =
      some ((ku.issued sl (s.cyc c) stall).modSlot sl fun x => { x with fflags := x.fflags ||| fl }) := by
    simp [hu]
  have hfin : s.finish c sl stall pc last (.ok u fl) = u.modCore c fun k =>
      (k.issued sl (s.cyc c) stall).modSlot sl fun x => ({ x with fflags := x.fflags ||| fl } : Slot).backEdge last := by
    simp only [State.finish, h1, slot_modSlot_same, hft, modCore_modCore, modSlot_modSlot]
  rw [hfin]
  refine ⟨?_, ?_⟩
  · simp only [State.placeless, State.modCore_cur, hcur, modCore_modCore]
    congr 1
    refine congrArg State.cores (modCore_congr fun q _ => ?_)
    exact placeless_modSlot_issued fun x e => by rw [placeless_backEdge]; rfl
  · refine ⟨(ku.issued sl (s.cyc c) stall).modSlot sl fun x => ({ x with fflags := x.fflags ||| fl } : Slot).backEdge last,
      ?_, ?_⟩
    · simp [hcur, hu]
    · simp only [slot_modSlot_same]
      simp only [slot_issued]
      exact backEdge_congr last rfl rfl rfl

theorem seen_core (r : Ready s h n uses k sl) (f : Nat) : (s.seen sl n f).core? s.cur = some k := r.fetches.core

/-- A ready instruction whose effect is done completes: `e` is its effect with its flags, but for the records of issue. -/
theorem issue_completes (r : Ready s h n uses k sl) {e : State → State} {fl : BitVec 6}
    (hb : ∀ f, ∃ u ku, body (ctxOf s n k sl) (s.seen sl n f) = .ok u fl ∧ u.cur = s.cur ∧ u.core? s.cur = some ku ∧
      trapCause (fl &&& (ku.slot sl).ftrap) = none ∧
      ((ku.slot sl).lc = (k.slot sl).lc ∧ (ku.slot sl).loop = (k.slot sl).loop ∧ (ku.slot sl).inner = (k.slot sl).inner) ∧
      (u.modCore s.cur fun q => q.orFlags sl fl).placeless sl = (e (s.seen sl n f)).placeless sl) :
    ∃ t f, issue h n uses body s = .next t ∧
      Reaches t (e (s.seen sl n f)) sl ((k.slot sl).backEdge ((k.slot sl).pc + 4 * (n - 1))) := by
  obtain ⟨f, hf⟩ := issue_ready (body := body) r
  obtain ⟨u, ku, h1, h2, h3, h4, ⟨h5, h6, h7⟩, h8⟩ := hb f
  rw [h1] at hf
  refine ⟨_, f, hf, ?_⟩
  obtain ⟨g1, q, g2, g3, g4, g5⟩ := finish_ok (s := s.seen sl n f) (stall := h.stall.toNat) (pc := (k.slot sl).pc)
    (last := (k.slot sl).pc + 4 * (n - 1)) h2 h3 h4
  obtain ⟨e1, e2, e3⟩ := backEdge_congr ((k.slot sl).pc + 4 * (n - 1)) h5 h6 h7
  exact ⟨g1.trans h8, q, g2, g3.trans e1, g4.trans e2, g5.trans e3⟩
end

/-! ## Registers -/

@[simp] theorem modSlot_self (k : Core) (sl : Fin 8) : (k.modSlot sl fun x => x) = k := by
  simp [Core.modSlot]

@[simp] theorem orFlags_zero (k : Core) (sl : Fin 8) : k.orFlags sl 0 = k := by
  simp [Core.orFlags]

/-- A change of a slot's t and p registers. -/
theorem slot_modSlot_any (k : Core) (r sl : Fin 8) (f : Slot → Slot)
    (hf : ∀ x : Slot, ∃ t p, f x = { x with t := t, p := p }) : ∃ t p, (k.modSlot r f).slot sl = { k.slot sl with t := t, p := p } := by
  by_cases h : sl = r
  · subst h; rw [slot_modSlot_same]; exact hf _
  · rw [slot_modSlot_ne k f h]; exact ⟨_, _, rfl⟩

/-- A write of a register leaves every slot but for its t and p registers. -/
theorem slot_setReg (k : Core) (r : RegId) (v : RegVal) (sl : Fin 8) :
    ∃ t p, (k.setReg r v).slot sl = { k.slot sl with t := t, p := p } := by
  simp only [Core.setReg]
  cases r <;> cases v <;> simp only [Core.setS, Core.setP] <;> first
    | exact ⟨_, _, rfl⟩
    | (split <;> first
        | exact ⟨_, _, rfl⟩
        | exact slot_modSlot_any _ _ _ _ fun x => ⟨_, _, rfl⟩)
    | exact slot_modSlot_any _ _ _ _ fun x => ⟨_, _, rfl⟩

/-- The same of a fixed-latency write. -/
theorem slot_writeFixed (k : Core) (r : RegId) (v : RegVal) (lat cyc : Nat) (sl : Fin 8) :
    ∃ t p, (k.writeFixed r v lat cyc).slot sl = { k.slot sl with t := t, p := p } := by
  simp only [Core.writeFixed]
  split
  · exact ⟨_, _, rfl⟩
  · split
    · exact slot_setReg k r v sl
    · exact slot_setReg k r v sl

theorem placeless_writeFixed (k : Core) (r : RegId) (v : RegVal) (lat cyc : Nat) (sl : Fin 8) :
    (k.writeFixed r v lat cyc).placeless sl = (k.takes r v).placeless sl := by
  simp only [Core.writeFixed, Core.takes]
  split
  · rfl
  · split <;> rfl

/-- Changes of the current core that agree under `placeless`; the counters are the model's own. -/
theorem placeless_modCore {s : State} {sl : Fin 8} {f g : Core → Core} (fr ni : Nat)
    (h : ∀ q, s.core? s.cur = some q → (f q).placeless sl = (g q).placeless sl) :
    (({ s with fresh := fr, nextId := ni } : State).modCore s.cur f).placeless sl = (s.modCore s.cur g).placeless sl := by
  have : amod s.cur (fun q => Core.placeless sl (f q)) s.cores = amod s.cur (fun q => Core.placeless sl (g q)) s.cores :=
    amod_congr h
  simp only [State.placeless, State.modCore, amod_amod, this]

@[simp] theorem placeless_orFlags_of {k q : Core} {sl : Fin 8} (fl : BitVec 6) (h : k.placeless sl = q.placeless sl) :
    (k.orFlags sl fl).placeless sl = (q.orFlags sl fl).placeless sl := by
  have e (x : Core) : (x.orFlags sl fl).placeless sl = ((x.placeless sl).orFlags sl fl).placeless sl := by
    simp [Core.orFlags, Core.placeless, Core.modSlot, Slot.placeless]
  rw [e k, e q, h]

/-- A ready instruction whose effect is a change `F` of its core completes: `e` is that change with the flags, but for the records
of issue. -/
theorem issue_onCore {s : State} {h : Head} {n : Nat} {uses : Fin 8 → Uses} {k : Core} {sl : Fin 8} {body : Ctx → State → Res}
    (r : Ready s h n uses k sl) {e : State → State} {F G : Core → Core} {fl : BitVec 6} {ni : Nat}
    (hb : ∀ f, body (ctxOf s n k sl) (s.seen sl n f) = .ok (({ s.seen sl n f with nextId := ni } : State).modCore s.cur F) fl)
    (hs : ∃ t p, (F k).slot sl = { k.slot sl with t := t, p := p })
    (ht : trapCause (fl &&& (k.slot sl).ftrap) = none) (he : ∀ f, e (s.seen sl n f) = onCore G (s.seen sl n f))
    (hp : ((F k).orFlags sl fl).placeless sl = (G k).placeless sl) :
    ∃ t f, issue h n uses body s = .next t ∧
      Reaches t (e (s.seen sl n f)) sl ((k.slot sl).backEdge ((k.slot sl).pc + 4 * (n - 1))) := by
  obtain ⟨t, p, hs⟩ := hs
  refine issue_completes r fun f => ⟨_, F k, hb f, rfl, ?_, ?_, ?_, ?_⟩
  · refine (core?_modCore_same _ _ _).trans ?_
    show Option.map F ((s.seen sl n f).core? s.cur) = _
    rw [seen_core r]; rfl
  · rw [hs]; exact ht
  · rw [hs]; exact ⟨rfl, rfl, rfl⟩
  · rw [he, modCore_modCore]
    refine placeless_modCore (s := s.seen sl n f) f ni fun q hq => ?_
    have : q = k := Option.some.inj ((show (s.seen sl n f).core? s.cur = some q from hq).symm.trans (seen_core r f))
    rw [this]; exact hp

/-- A ready instruction that writes one register at a fixed latency completes. -/
theorem issue_put {s : State} {h : Head} {n : Nat} {uses : Fin 8 → Uses} {k : Core} {sl : Fin 8} {body : Ctx → State → Res}
    (r : Ready s h n uses k sl) {d : RegId} {v : RegVal} {lat : Nat}
    (hb : ∀ f, body (ctxOf s n k sl) (s.seen sl n f) = .ok ((s.seen sl n f).put (ctxOf s n k sl) d v lat) 0) :
    ∃ t f, issue h n uses body s = .next t ∧
      Reaches t (onCore (fun q => q.takes d v) (s.seen sl n f)) sl
        ((k.slot sl).backEdge ((k.slot sl).pc + 4 * (n - 1))) :=
  issue_onCore r (F := fun q => q.writeFixed d v lat (s.cyc s.cur)) (fl := 0) (ni := s.nextId)
    (e := onCore fun q => q.takes d v) hb (slot_writeFixed k d v lat _ sl) (by simp [trapCause]) (fun _ => rfl)
    ((congrArg _ (orFlags_zero _ _)).trans (placeless_writeFixed _ _ _ _ _ _))

end Sys2Proof.Machine
end

