-- ==== Sys2Proof/Laws/Forms.lean ====
section
/-! SUPPORT. One lemma for each form of result: what an instruction of that form does when it issues. A claim about an instruction
follows from the lemma of its form. -/

namespace Sys2Proof.Machine

/- One thread keeps the check of the package within its memory. -/
set_option Elab.async false

variable {i : Instr} {h : Head} {n : Nat} {uses : Fin 8 → Uses} {body : Ctx → State → Res}

/-! ## One register, no flag -/

/-- A meaning that writes `f` to one register computes it. -/
theorem computes_of {d : Fin 8 → RegId} {f : Ctx → RegVal} {lat : Nat} (he : ∀ s, exec i s = issue h n uses body s)
    (hb : ∀ c s, body c s = .ok (s.put c (d c.sl) (f c) lat) 0) : Computes i h n uses d f := by
  intro s k sl r
  simp only [Completes, he]
  exact issue_put r fun g => hb _ _

theorem alu_of {d a b : SReg} {lat : Nat} {f : Word → Word → Word} (he : ∀ s, exec i s = aluOp h d a b lat f s) :
    Alu i h d a b f :=
  computes_of (body := fun x s => .ok (s.putS x d (f (x.rs a) (x.rs b)) lat) 0) he fun _ _ => rfl

theorem unary_of {d a : SReg} {f : Word → Word} (he : ∀ s, exec i s = unaryOp h d a f s) : Unary i h 1 d a f :=
  computes_of (body := fun x s => .ok (s.putS x d (f (x.rs a)) 1) 0) he fun _ _ => rfl

theorem imm_of {x : ImmX} {d a : SReg} {imm : BitVec 10} {f : Word → Word → Word}
    (he : ∀ s, exec i s = immOp h x d a imm f s) : Unary i h (if x.present then 2 else 1) d a fun v => f v (immI x imm) :=
  computes_of (body := fun c s => .ok (s.putS c d (f (c.rs a) (immI x imm)) 1) 0) he fun _ _ => rfl

theorem compares_of {d : PReg} {a b : SReg} {f : Word → Word → Bool} (he : ∀ s, exec i s = cmpOp h d a b f s) :
    Compares i h d a b f :=
  computes_of (body := fun x s => .ok (s.putP x d (f (x.rs a) (x.rs b)) 1) 0) he fun _ _ => rfl

theorem compares_one_of {x : ImmX} {d : PReg} {a : SReg} {imm : BitVec 7} {f : Word → Word → Bool}
    (he : ∀ s, exec i s = cmpiOp h x d a imm f s) :
    ComparesOne i h (if x.present then 2 else 1) d a fun v => f v (immCmp x imm) :=
  computes_of (body := fun c s => .ok (s.putP c d (f (c.rs a) (immCmp x imm)) 1) 0) he fun _ _ => rfl

theorem predicate_of {d : PReg} {ps : List PReg} {f : (PReg → Bool) → Bool}
    (he : ∀ s, exec i s = predOp h d ps (fun k sl => f fun p => k.getP sl p) s) : Predicate i h d ps f :=
  computes_of (body := fun x s => .ok (s.putP x d (f fun p => x.rd.getP x.sl p) 1) 0) he fun _ _ => rfl

theorem masks_of {d : MReg} {ms : List MReg} {f : (MReg → Word) → Word}
    (he : ∀ s, exec i s = maskOp h d ms (fun k => f fun m => k.getM m) s) : Masks i h d ms f :=
  computes_of (body := fun x s => .ok (s.put x (.m d) (.word (f fun m => x.rd.getM m)) 1) 0) he fun _ _ => rfl

theorem mask_to_of {d : SReg} {a : MReg} {f : Word → Word} (he : ∀ s, exec i s = maskGet h d a f s) : MaskTo i h d a f :=
  computes_of (body := fun x s => .ok (s.putS x d (f (x.rd.getM a)) 1) 0) he fun _ _ => rfl

/-! ## One register, the generator and flags -/

/-- The pipe is taken for 2 cc by a form that needs it. -/
def pipeTaken (pipe : Bool) (c : Ctx) (s : State) : State :=
  if pipe then s.modCore c.c fun k => { k with fpFree := c.cyc + 2 } else s

@[simp] theorem slot_setRng (k : Core) (g : Rng) (sl : Fin 8) : (k.setRng g).slot sl = k.slot sl := rfl

/-- The time at which the pipe is free is a record of issue. -/
theorem placeless_takes_fpFree (k : Core) (c : Nat) (r : RegId) (v : RegVal) (sl : Fin 8) :
    (({ k with fpFree := c } : Core).takes r v).placeless sl = (k.takes r v).placeless sl := by
  simp only [Core.takes]
  split
  · rfl
  · simp only [Core.setReg]
    cases r <;> cases v <;> simp only [Core.setS, Core.setP] <;> first | rfl | (split <;> rfl)

theorem forms_of {d : Fin 8 → RegId} {pipe : Bool} {f : Former} {lat : Nat} (he : ∀ s, exec i s = issue h n uses body s)
    (hb : ∀ c s k, s.core? c.c = some k → (pipe = true → k.fpFree ≤ c.cyc) →
      body c s = .ok (((pipeTaken pipe c s).putRng c.c (f c k ⟨k.regs.rng, 0⟩).2.rng).put c (d c.sl)
        (f c k ⟨k.regs.rng, 0⟩).1 lat) (f c k ⟨k.regs.rng, 0⟩).2.flags) : Forms i h n uses d pipe f := by
  intro s k sl r hp ht
  simp only [Completes, he]
  cases pipe
  · refine issue_onCore r (ni := s.nextId) (F := fun q => (q.setRng (formed f s n k sl).2.rng).writeFixed (d sl)
      (formed f s n k sl).1 lat (s.cyc s.cur)) (fun g => ?_) (slot_writeFixed _ _ _ _ _ _) ht (fun _ => rfl) ?_
    · rw [hb _ _ k (seen_core r g) hp]
      simp only [State.put, State.putRng, pipeTaken, Bool.false_eq_true, if_false, modCore_modCore]; rfl
    · exact placeless_orFlags_of _ (placeless_writeFixed _ _ _ _ _ _)
  · refine issue_onCore r (ni := s.nextId) (F := fun q => ((({ q with fpFree := s.cyc s.cur + 2 } : Core).setRng
      (formed f s n k sl).2.rng).writeFixed (d sl) (formed f s n k sl).1 lat (s.cyc s.cur)) ) (fun g => ?_)
      (slot_writeFixed _ _ _ _ _ _) ht (fun _ => rfl) ?_
    · rw [hb _ _ k (seen_core r g) hp]
      simp only [State.put, State.putRng, pipeTaken, if_true, modCore_modCore]; rfl
    · refine placeless_orFlags_of _ ((placeless_writeFixed _ _ _ _ _ _).trans ?_)
      exact placeless_takes_fpFree (k.setRng (formed f s n k sl).2.rng) _ _ _ _

/-- A result that is written later: its record is queued, and the generator has moved on. -/
theorem forms_later_of {d : Fin 8 → RegId} {f : Former} {lat : Ctx → Nat} (he : ∀ s, exec i s = issue h n uses body s)
    (hb : ∀ c s k, s.core? c.c = some k →
      body c s = .ok ((s.putRng c.c (f c k ⟨k.regs.rng, 0⟩).2.rng).putLater c (d c.sl) (f c k ⟨k.regs.rng, 0⟩).1 (lat c)
        (f c k ⟨k.regs.rng, 0⟩).2.flags) 0) : FormsLater i h n uses d f lat := by
  intro s k sl r
  simp only [Completes, he]
  let F (q : Core) : Core :=
    { q.setRng (formed f s n k sl).2.rng with results := q.results ++ [⟨s.nextId, sl, d sl, (formed f s n k sl).1,
      s.cyc s.cur + lat (ctxOf s n k sl), s.cyc s.cur, (formed f s n k sl).2.flags, (q.slot sl).ftrap, (k.slot sl).pc, false⟩] }
  let G (q : Core) : Core :=
    { q.setRng (formed f s n k sl).2.rng with results := q.results ++ [⟨s.nextId, sl, d sl, (formed f s n k sl).1,
      s.cyc s.cur + lat (ctxOf s n k sl), s.cyc s.cur, (formed f s n k sl).2.flags, (k.slot sl).ftrap, (k.slot sl).pc, false⟩] }
  refine issue_onCore r (ni := s.nextId + 1) (F := F) (G := G) (fl := 0) (fun g => ?_) ⟨_, _, rfl⟩ (by simp [trapCause])
    (fun _ => rfl) ?_
  · rw [hb _ _ k (seen_core r g)]
    simp only [State.putLater, State.putResult, State.putRng, modCore_modCore]; rfl
  · rw [orFlags_zero]

/-- The generator that stays leaves the state. -/
theorem putRng_same {s : State} {c : Nat} {k : Core} (hk : s.core? c = some k) : s.putRng c k.regs.rng = s := by
  refine (modCore_congr fun q hq => ?_).trans (modCore_id s c)
  rw [hk] at hq; cases hq; rfl

theorem divides_of {d a b : SReg} {signed : Bool} {f : Bool → Word → Word → Word}
    (he : ∀ s, exec i s = divOp h d a b signed f s) : Divides i h d a b signed (f signed) := by
  refine forms_later_of (body := fun x s => .ok (s.putLater x (sid x.sl d) (.word (f signed (x.rs a) (x.rs b)))
    (divTime signed (x.rs a) (x.rs b)) 0) 0) he fun c s k hk => ?_
  rw [putRng_same hk]

@[simp] theorem fx_core {c : Ctx} {s : State} {k : Core} (hk : s.core? c.c = some k) : c.fx s = ⟨k.regs.rng, 0⟩ := by
  simp [Ctx.fx, hk]

@[simp] theorem vOld_core {c : Nat} {d : VNum} {s : State} {k : Core} (hk : s.core? c = some k) : s.vOld c d = k.getV d := by
  simp [State.vOld, hk]

theorem sat_of {d a b : SReg} {f : Int → Int → Int} (he : ∀ s, exec i s = satOp h d a b f s) :
    Forms i h 1 (usesRRR d a b) (fun sl => sid sl d) false fun c _ y =>
      (.word (sat64 (f (c.rs a).toInt (c.rs b).toInt)).1, ⟨y.rng, (sat64 (f (c.rs a).toInt (c.rs b).toInt)).2⟩) := by
  refine forms_of (lat := 1) he fun c s k hk _ => ?_
  simp only [pipeTaken, Bool.false_eq_true, if_false, putRng_same hk]; rfl

/-! ## Scalar floating point -/

theorem floats_of {x : VecX} {d : SReg} {f : (SReg → Nat) → RMode → Fx → Nat × Fx}
    (he : ∀ s, exec i s = issue h (vxWords x) uses (fun c s => fpDone c s d (f c.f32 (c.mode (vxRm x)) (c.fx s))) s) :
    Floats i h x d uses f := by
  refine forms_of (lat := 4) he fun c s k hk _ => ?_
  simp only [fpDone, fx_core hk]; rfl

theorem floats_later_of {x : VecX} {d : SReg} {f : (SReg → Nat) → RMode → Fx → Nat × Fx}
    (he : ∀ s, exec i s = issue h (vxWords x) uses (fun c s => fpLater c s d (f c.f32 (c.mode (vxRm x)) (c.fx s))) s) :
    FloatsLater i h x d uses f := by
  refine forms_later_of he fun c s k hk => ?_
  simp only [fpLater, fx_core hk]

/-! ## Vectors -/

theorem int_lanes_of {x : VecX} {d a b : VNum} {mk : MaskX} {w : Nat} {f : Int → Int → Int × Bool}
    (he : ∀ s, exec i s = intElem h x d a b mk w f s) : IntLanes i h x d a b mk w f := by
  refine forms_of (lat := 2) he fun c s k hk _ => ?_
  simp only [fx_core hk, vOld_core hk, vecDone, lanesBy]; rfl

theorem bit_lanes_of {x : VecX} {d a b : VNum} {mk : MaskX} {f : Lane → Lane → Lane}
    (he : ∀ s, exec i s = laneOp h x d a b mk f s) : BitLanes i h x d a b mk f := by
  refine forms_of (lat := 2) he fun c s k hk _ => ?_
  simp only [fx_core hk, vOld_core hk, vecDone, lanesBy]; rfl

/-- The pipe is free: the form goes on, and the pipe is busy for 2 cc. -/
theorem fpPipe_free {c : Ctx} {s : State} {k : Core} {r : State → Res} (hk : s.core? c.c = some k) (hf : k.fpFree ≤ c.cyc) :
    fpPipe c s r = r (s.modCore c.c fun k => { k with fpFree := c.cyc + 2 }) := by
  simp [fpPipe, hk, Nat.not_lt.mpr hf]

theorem pipe_core {c : Ctx} {s : State} {k : Core} (hk : s.core? c.c = some k) :
    (s.modCore c.c fun k => { k with fpFree := c.cyc + 2 }).core? c.c = some { k with fpFree := c.cyc + 2 } := by
  simp [hk]

theorem fp_lanes_of {x : VecX} {d a b : VNum} {mk : MaskX} {w : Nat} {rd : Bool}
    {f : Nat → Nat → Nat → RMode → Bool → Fx → Nat × Fx}
    (he : ∀ s, exec i s = fpElem h x d a b mk w rd f s) :
    FpLanes i h x d a b mk w rd fun a b d rm y => f a b d rm (vxSat x) y := by
  refine forms_of (lat := 4) he fun c s k hk hp => ?_
  simp only [fpPipe_free hk (hp rfl), fx_core (pipe_core hk), vOld_core (pipe_core hk), vecDone, lanesBy, pipeTaken]; rfl

theorem fp_sign_of {x : VecX} {d a : VNum} {mk : MaskX} {f : Nat → Nat} (he : ∀ s, exec i s = fpSign h x d a mk f s) :
    Forms i h (vxWords x) (usesV2 d a mk) (fun _ => .v d) true fun c k y =>
      lanesBy 32 (c.mask mk) (k.getV d) (fun e y => (f (vecElem 32 (c.rd.getV a).lanes e), y)) y := by
  refine forms_of (lat := 4) he fun c s k hk hp => ?_
  simp only [fpPipe_free hk (hp rfl), fx_core (pipe_core hk), vOld_core (pipe_core hk), vecDone, lanesBy, pipeTaken]; rfl

theorem moves_of {d : VNum} {mask : Ctx → Word} {f : Ctx → Nat → Lane} {lat : Nat}
    (he : ∀ s, exec i s = issue h n uses (fun c s => moveLanes c s d (mask c) lat (f c)) s) :
    Moves i h n uses d mask f := by
  refine forms_of (lat := lat) he fun c s k hk _ => ?_
  simp only [moveLanes, fx_core hk, vOld_core hk, vecDone]; rfl

theorem converts_of {x : VecX} {d a : VNum} {mk : MaskX} {sw dw : Nat} {f : RMode → Bool → Nat → Fx → Nat × Fx}
    (he : ∀ s, exec i s = convert h x d a mk sw dw f s) :
    Converts i h x d a mk sw dw fun rm v y => f rm (vxSat x) v y := by
  refine forms_later_of he fun c s k hk => ?_
  simp only [fx_core hk, vOld_core hk, vecLater, Bool.and_eq_true, decide_eq_true_eq]

theorem reduces_of {x : VecX} {d a : VNum} {mk : MaskX} {empty : Nat} {fix : Nat → Nat}
    {f : RMode → Nat → Nat → Fx → Nat × Fx} (he : ∀ s, exec i s = reduceLanes h x d a mk empty fix f s) :
    Reduces i h x d a mk empty fix f := by
  refine forms_later_of he fun c s k hk => ?_
  simp only [fx_core hk, vOld_core hk, vecLater]

theorem blocks_of {x : VecX} {d a : VNum} {f : RMode → VReg → Fx → VReg × Fx}
    (he : ∀ s, exec i s = blockOp h x d a f s) : Blocks i h x d a f := by
  refine forms_later_of he fun c s k hk => ?_
  simp only [fx_core hk, vecLater]

/-! ## Queues -/

/-- The change of a core by appending to its lists is not seen by the slots, and the effect is the model's `F` at the core. -/
theorem completes_onCore {s : State} {k : Core} {sl : Fin 8} (he : ∀ s, exec i s = issue h n uses body s)
    (r : Ready s h n uses k sl) {e : State → State} {F G : Core → Core} {ni : Nat}
    (hb : ∀ f, body (ctxOf s n k sl) (s.seen sl n f) = .ok (({ s.seen sl n f with nextId := ni } : State).modCore s.cur F) 0)
    (hs : ∃ t p, (F k).slot sl = { k.slot sl with t := t, p := p })
    (hg : ∀ f, e (s.seen sl n f) = onCore G (s.seen sl n f)) (hp : (F k).placeless sl = (G k).placeless sl) :
    Completes i s n k sl e := by
  simp only [Completes, he]
  exact issue_onCore r hb hs (by simp [trapCause]) hg ((congrArg _ (orFlags_zero _ _)).trans hp)

/-- The same where the effect is stated as the model does it. -/
theorem completes_self {s : State} {k : Core} {sl : Fin 8} (he : ∀ s, exec i s = issue h n uses body s)
    (r : Ready s h n uses k sl) {e : State → State} {ni : Nat} (F : Core → Core)
    (hb : ∀ f, body (ctxOf s n k sl) (s.seen sl n f) = .ok (({ s.seen sl n f with nextId := ni } : State).modCore s.cur F) 0)
    (hs : ∃ t p, (F k).slot sl = { k.slot sl with t := t, p := p })
    (hg : ∀ f, e (s.seen sl n f) = onCore F (s.seen sl n f)) : Completes i s n k sl e :=
  completes_onCore he r hb hs hg rfl

theorem queues_of {fn : SfuFn} {d : VNum} {ops : Ctx → Core → VReg × VReg × VReg} {mask : Ctx → Word} {rm : Rm}
    (he : ∀ s, exec i s = issue h n uses body s)
    (hb : ∀ c s k, s.core? c.c = some k →
      body c s = sfuQueue c s fn d (ops c k).1 (ops c k).2.1 (ops c k).2.2 (mask c) rm) :
    Queues i h n uses fn d ops mask rm := by
  intro s k sl r hl c
  refine completes_onCore he r (ni := s.nextId) (F := fun q => { q with sfu := q.sfu ++
      [⟨sl, fn, d, (ops c k).1, (ops c k).2.1, (ops c k).2.2, mask c, fixedRm (c.mode rm), (q.slot sl).ftrap, s.cyc s.cur,
        (k.slot sl).pc, none, 0, (ops c k).1, 0⟩] }) (fun f => ?_) ⟨_, _, rfl⟩ (fun _ => rfl) rfl
  have hc : (s.seen sl n f).core? c.c = some k := seen_core r f
  rw [hb c _ k hc]
  simp only [sfuQueue, hc, Nat.not_le.mpr hl, if_false]
  cases c.mode rm <;> rfl

theorem sfu_one_of {x : VecX} {d a : VNum} {mk : MaskX} {fn : SfuFn} (he : ∀ s, exec i s = sfuOne h x d a mk fn s) :
    Queues i h (vxWords x) (usesV2 d a mk) fn d (fun c k => (k.getV d, c.rd.getV a, VReg.reset)) (fun c => c.mask mk) (vxRm x) :=
  queues_of he fun c s k hk => by simp only [vOld_core hk]

theorem queues_matrix_of {check : Ctx → Core → Option (Cause × Word)} {snap : Bool} {cmd : Ctx → MCmd}
    (he : ∀ s, exec i s = issue h n uses (fun c s => matQueue c s (check c) snap (cmd c)) s) :
    QueuesMatrix i h n uses check snap cmd := by
  intro s k sl r hl hk hh
  refine completes_onCore he r (ni := s.nextId + 1) (F := fun q => { q with matrix := q.matrix ++
      [⟨s.nextId, sl, cmd (ctxOf s n k sl), (q.slot sl).ftrap, s.cyc s.cur, (k.slot sl).pc, false, 0,
        if snap then [q.memView sl] else [], none, 0⟩] })
    (G := fun q => { q with matrix := q.matrix ++
      [⟨s.nextId, sl, cmd (ctxOf s n k sl), (k.slot sl).ftrap, s.cyc s.cur, (k.slot sl).pc, false, 0,
        if snap then [k.memView sl] else [], none, 0⟩] }) (fun f => ?_) ⟨_, _, rfl⟩ (fun _ => rfl) rfl
  have hc : (s.seen sl n f).core? (ctxOf s n k sl).c = some k := seen_core r f
  simp only [matQueue, withCore, hc]
  rw [if_neg (Nat.not_le.mpr hl)]
  simp only [hk]
  rw [if_neg (by rw [show ((cmd (ctxOf s n k sl)).ranges.any fun e =>
    k.localHold (ctxOf s n k sl).c (ctxOf s n k sl).sl e.1 e.2 false) = false from hh]; exact Bool.false_ne_true)]
  rfl

theorem mat_op_of {cmd : Ctx → MCmd} (he : ∀ s, exec i s = matOp h n uses cmd s) :
    QueuesMatrix i h n uses (fun _ _ => none) false cmd := queues_matrix_of he

/-! ## Local memory -/

theorem slot_injectRead' (k : Core) (a m : Nat) (sl : Fin 8) : ∃ t p, (k.injectRead a m).slot sl = { k.slot sl with t := t, p := p } := by
  rw [slot_injectRead]; exact ⟨_, _, rfl⟩

theorem stores_local_of {addr : Ctx → Word} {align m lat : Nat} {data : Ctx → List Byte}
    (he : ∀ s, exec i s = issue h n uses (fun c s => withCore c s fun k =>
      match k.localCheck true (addr c) align m with
      | some f => .fault f (addr c)
      | none =>
        if k.localHold c.c c.sl (addr c).toNat m true then .hold
        else .ok (s.bufferStore c (addr c).toNat (data c) lat) 0) s) :
    StoresLocal i h n uses addr align m lat data := by
  intro s k sl r a hk hh
  refine completes_self he r (ni := s.nextId + 1) (fun q => { q with stores := q.stores ++
      [⟨s.nextId, sl, a.toNat, data (ctxOf s n k sl), q.storeDue sl (s.cyc s.cur + lat), s.cyc s.cur⟩] })
    (fun f => ?_) ⟨_, _, rfl⟩ (fun _ => rfl)
  have hc : (s.seen sl n f).core? (ctxOf s n k sl).c = some k := seen_core r f
  simp only [withCore, hc]
  rw [hk]
  simp only []
  rw [if_neg (by rw [show k.localHold (ctxOf s n k sl).c (ctxOf s n k sl).sl _ m true = false from hh]; exact Bool.false_ne_true)]
  rfl

/-- A read by FINJ leaves the buffered stores. -/
theorem readHold_injectRead (k : Core) (a m : Nat) (sl : Fin 8) (cyc : Nat) : (k.injectRead a m).readHold sl cyc = k.readHold sl cyc := by
  have count (k : Core) (ev n : Nat) : (k.count ev n).stores = k.stores := by simp only [Core.count]; split <;> rfl
  have correct (k : Core) : (k.correct a m).stores = k.stores := by
    simp only [Core.correct]; split
    · rfl
    · exact (count _ _ _).trans rfl
  have h : (k.injectRead a m).stores = k.stores := by
    rw [← correct k]
    simp only [Core.injectRead]
    split
    · split
      · rfl
      · split
        · exact (count _ _ _).trans rfl
        · rfl
    · rfl
  simp only [Core.readHold, h]

theorem loads_local_of {d : Fin 8 → RegId} {addr : Ctx → Word} {align m lat : Nat} {v : Core → List Byte → RegVal}
    (he : ∀ s, exec i s = issue h n uses body s)
    (hb : ∀ c s k, s.core? c.c = some k → body c s =
      match k.localCheck false (addr c) align m with
      | some f => .fault f (addr c)
      | none =>
        if k.localHold c.c c.sl (addr c).toNat m false then .hold
        else localRead c s (addr c).toNat m fun s bs =>
          match s.core? c.c with
          | some q => .ok (s.putLoad c (d c.sl) (v q bs) lat) 0
          | none => .hold) :
    LoadsLocal i h n uses d addr align m lat v := by
  intro s k sl r a hk hh hw hu
  refine completes_onCore he r (ni := s.nextId + 1) (F := fun q =>
      let q := q.injectRead a.toNat m
      { q with results := q.results ++ [⟨s.nextId, sl, d sl, v (k.injectRead a.toNat m)
          (((k.injectRead a.toNat m).memView sl).readN a.toNat m), s.cyc s.cur + lat, s.cyc s.cur,
          0, (q.slot sl).ftrap, (k.slot sl).pc, true⟩] })
    (G := fun q =>
      let q := q.injectRead a.toNat m
      { q with results := q.results ++ [⟨s.nextId, sl, d sl, v q ((q.memView sl).readN a.toNat m), s.cyc s.cur + lat, s.cyc s.cur,
          0, (k.slot sl).ftrap, (k.slot sl).pc, true⟩] })
    (fun f => ?_) (slot_injectRead' k a.toNat m sl) (fun _ => rfl) ?_
  · have hc : (s.seen sl n f).core? (ctxOf s n k sl).c = some k := seen_core r f
    have hc' : ((s.seen sl n f).modCore (ctxOf s n k sl).c fun k => k.injectRead a.toNat m).core? (ctxOf s n k sl).c =
        some (k.injectRead a.toNat m) := by rw [core?_modCore_same, hc]; rfl
    rw [hb _ _ k hc, hk]
    simp only []
    rw [if_neg (by rw [show k.localHold (ctxOf s n k sl).c (ctxOf s n k sl).sl _ m false = false from hh]; exact Bool.false_ne_true)]
    simp only [localRead, a, ctxOf_c, ctxOf_sl, ctxOf_cyc] at hc' hu ⊢
    simp only [hc', readHold_injectRead, hw, Bool.false_eq_true, if_false, hu, State.putLoad, State.putResult, ctxOf_c, modCore_modCore]
    rfl
  · simp only [slot_injectRead]

end Sys2Proof.Machine
end

