-- ==== Sys2Proof/Laws/Issues.lean ====
section
/-! SUPPORT. Every instruction issues in one way: its guard, its words and the registers it uses come from its syntax, and only its
effect is its own. -/

namespace Sys2Proof.Machine

/- One thread keeps the check of the package within its memory. -/
set_option Elab.async false

/-- The instruction's meaning is an issue with its own guard, words and registers. -/
def Issues (i : Instr) : Prop := ∃ body, ∀ s, exec i s = issue i.head i.words (usesOf i) body s

theorem issues_add (h : Head) (d a b : SReg) : Issues (.add h d a b) := by
  unfold Issues; simp only [exec_add]; unfold execAdd aluOp; exact ⟨_, fun _ => rfl⟩
theorem issues_sub (h : Head) (d a b : SReg) : Issues (.sub h d a b) := by
  unfold Issues; simp only [exec_sub]; unfold execSub aluOp; exact ⟨_, fun _ => rfl⟩
theorem issues_and (h : Head) (d a b : SReg) : Issues (.and h d a b) := by
  unfold Issues; simp only [exec_and]; unfold execAnd aluOp; exact ⟨_, fun _ => rfl⟩
theorem issues_or (h : Head) (d a b : SReg) : Issues (.or h d a b) := by
  unfold Issues; simp only [exec_or]; unfold execOr aluOp; exact ⟨_, fun _ => rfl⟩
theorem issues_xor (h : Head) (d a b : SReg) : Issues (.xor h d a b) := by
  unfold Issues; simp only [exec_xor]; unfold execXor aluOp; exact ⟨_, fun _ => rfl⟩
theorem issues_sll (h : Head) (d a b : SReg) : Issues (.sll h d a b) := by
  unfold Issues; simp only [exec_sll]; unfold execSll aluOp; exact ⟨_, fun _ => rfl⟩
theorem issues_srl (h : Head) (d a b : SReg) : Issues (.srl h d a b) := by
  unfold Issues; simp only [exec_srl]; unfold execSrl aluOp; exact ⟨_, fun _ => rfl⟩
theorem issues_sra (h : Head) (d a b : SReg) : Issues (.sra h d a b) := by
  unfold Issues; simp only [exec_sra]; unfold execSra aluOp; exact ⟨_, fun _ => rfl⟩
theorem issues_min (h : Head) (d a b : SReg) : Issues (.min h d a b) := by
  unfold Issues; simp only [exec_min]; unfold execMin aluOp; exact ⟨_, fun _ => rfl⟩
theorem issues_max (h : Head) (d a b : SReg) : Issues (.max h d a b) := by
  unfold Issues; simp only [exec_max]; unfold execMax aluOp; exact ⟨_, fun _ => rfl⟩
theorem issues_minu (h : Head) (d a b : SReg) : Issues (.minu h d a b) := by
  unfold Issues; simp only [exec_minu]; unfold execMinu aluOp; exact ⟨_, fun _ => rfl⟩
theorem issues_maxu (h : Head) (d a b : SReg) : Issues (.maxu h d a b) := by
  unfold Issues; simp only [exec_maxu]; unfold execMaxu aluOp; exact ⟨_, fun _ => rfl⟩
theorem issues_mul (h : Head) (d a b : SReg) : Issues (.mul h d a b) := by
  unfold Issues; simp only [exec_mul]; unfold execMul aluOp; exact ⟨_, fun _ => rfl⟩
theorem issues_mulh (h : Head) (d a b : SReg) : Issues (.mulh h d a b) := by
  unfold Issues; simp only [exec_mulh]; unfold execMulh aluOp; exact ⟨_, fun _ => rfl⟩
theorem issues_mulhu (h : Head) (d a b : SReg) : Issues (.mulhu h d a b) := by
  unfold Issues; simp only [exec_mulhu]; unfold execMulhu aluOp; exact ⟨_, fun _ => rfl⟩
theorem issues_div (h : Head) (d a b : SReg) : Issues (.div h d a b) := by
  unfold Issues; simp only [exec_div]; unfold execDiv divOp; exact ⟨_, fun _ => rfl⟩
theorem issues_divu (h : Head) (d a b : SReg) : Issues (.divu h d a b) := by
  unfold Issues; simp only [exec_divu]; unfold execDivu divOp; exact ⟨_, fun _ => rfl⟩
theorem issues_rem (h : Head) (d a b : SReg) : Issues (.rem h d a b) := by
  unfold Issues; simp only [exec_rem]; unfold execRem divOp; exact ⟨_, fun _ => rfl⟩
theorem issues_remu (h : Head) (d a b : SReg) : Issues (.remu h d a b) := by
  unfold Issues; simp only [exec_remu]; unfold execRemu divOp; exact ⟨_, fun _ => rfl⟩
theorem issues_adds (h : Head) (d a b : SReg) : Issues (.adds h d a b) := by
  unfold Issues; simp only [exec_adds]; unfold execAdds satOp; exact ⟨_, fun _ => rfl⟩
theorem issues_subs (h : Head) (d a b : SReg) : Issues (.subs h d a b) := by
  unfold Issues; simp only [exec_subs]; unfold execSubs satOp; exact ⟨_, fun _ => rfl⟩
theorem issues_clz (h : Head) (d a : SReg) : Issues (.clz h d a) := by
  unfold Issues; simp only [exec_clz]; unfold execClz unaryOp; exact ⟨_, fun _ => rfl⟩
theorem issues_popc (h : Head) (d a : SReg) : Issues (.popc h d a) := by
  unfold Issues; simp only [exec_popc]; unfold execPopc unaryOp; exact ⟨_, fun _ => rfl⟩
theorem issues_andn (h : Head) (d a b : SReg) : Issues (.andn h d a b) := by
  unfold Issues; simp only [exec_andn]; unfold execAndn aluOp; exact ⟨_, fun _ => rfl⟩
theorem issues_orn (h : Head) (d a b : SReg) : Issues (.orn h d a b) := by
  unfold Issues; simp only [exec_orn]; unfold execOrn aluOp; exact ⟨_, fun _ => rfl⟩
theorem issues_addi (h : Head) (x : ImmX) (d a : SReg) (imm : BitVec 10) : Issues (.addi h x d a imm) := by
  unfold Issues; simp only [exec_addi]; unfold execAddi immOp; exact ⟨_, fun _ => rfl⟩
theorem issues_andi (h : Head) (x : ImmX) (d a : SReg) (imm : BitVec 10) : Issues (.andi h x d a imm) := by
  unfold Issues; simp only [exec_andi]; unfold execAndi immOp; exact ⟨_, fun _ => rfl⟩
theorem issues_ori (h : Head) (x : ImmX) (d a : SReg) (imm : BitVec 10) : Issues (.ori h x d a imm) := by
  unfold Issues; simp only [exec_ori]; unfold execOri immOp; exact ⟨_, fun _ => rfl⟩
theorem issues_xori (h : Head) (x : ImmX) (d a : SReg) (imm : BitVec 10) : Issues (.xori h x d a imm) := by
  unfold Issues; simp only [exec_xori]; unfold execXori immOp; exact ⟨_, fun _ => rfl⟩
theorem issues_slli (h : Head) (d a : SReg) (sh : BitVec 6) : Issues (.slli h d a sh) := by
  unfold Issues; simp only [exec_slli]; unfold execSlli unaryOp; exact ⟨_, fun _ => rfl⟩
theorem issues_srli (h : Head) (d a : SReg) (sh : BitVec 6) : Issues (.srli h d a sh) := by
  unfold Issues; simp only [exec_srli]; unfold execSrli unaryOp; exact ⟨_, fun _ => rfl⟩
theorem issues_srai (h : Head) (d a : SReg) (sh : BitVec 6) : Issues (.srai h d a sh) := by
  unfold Issues; simp only [exec_srai]; unfold execSrai unaryOp; exact ⟨_, fun _ => rfl⟩
theorem issues_rori (h : Head) (d a : SReg) (sh : BitVec 6) : Issues (.rori h d a sh) := by
  unfold Issues; simp only [exec_rori]; unfold execRori unaryOp; exact ⟨_, fun _ => rfl⟩
theorem issues_li (h : Head) (x : ImmX) (d : SReg) (imm : BitVec 10) : Issues (.li h x d imm) := by
  unfold Issues; simp only [exec_li]; unfold execLi; exact ⟨_, fun _ => rfl⟩
theorem issues_lih (h : Head) (x : ImmX) (d a : SReg) (imm : BitVec 10) : Issues (.lih h x d a imm) := by
  unfold Issues; simp only [exec_lih]; unfold execLih immOp; exact ⟨_, fun _ => rfl⟩
theorem issues_cmpEq (h : Head) (d : PReg) (a b : SReg) : Issues (.cmpEq h d a b) := by
  unfold Issues; simp only [exec_cmpEq]; unfold execCmpEq cmpOp; exact ⟨_, fun _ => rfl⟩
theorem issues_cmpNe (h : Head) (d : PReg) (a b : SReg) : Issues (.cmpNe h d a b) := by
  unfold Issues; simp only [exec_cmpNe]; unfold execCmpNe cmpOp; exact ⟨_, fun _ => rfl⟩
theorem issues_cmpLt (h : Head) (d : PReg) (a b : SReg) : Issues (.cmpLt h d a b) := by
  unfold Issues; simp only [exec_cmpLt]; unfold execCmpLt cmpOp; exact ⟨_, fun _ => rfl⟩
theorem issues_cmpGe (h : Head) (d : PReg) (a b : SReg) : Issues (.cmpGe h d a b) := by
  unfold Issues; simp only [exec_cmpGe]; unfold execCmpGe cmpOp; exact ⟨_, fun _ => rfl⟩
theorem issues_cmpLtu (h : Head) (d : PReg) (a b : SReg) : Issues (.cmpLtu h d a b) := by
  unfold Issues; simp only [exec_cmpLtu]; unfold execCmpLtu cmpOp; exact ⟨_, fun _ => rfl⟩
theorem issues_cmpGeu (h : Head) (d : PReg) (a b : SReg) : Issues (.cmpGeu h d a b) := by
  unfold Issues; simp only [exec_cmpGeu]; unfold execCmpGeu cmpOp; exact ⟨_, fun _ => rfl⟩
theorem issues_cmpBits (h : Head) (d : PReg) (a b : SReg) : Issues (.cmpBits h d a b) := by
  unfold Issues; simp only [exec_cmpBits]; unfold execCmpBits cmpOp; exact ⟨_, fun _ => rfl⟩
theorem issues_cmpNbits (h : Head) (d : PReg) (a b : SReg) : Issues (.cmpNbits h d a b) := by
  unfold Issues; simp only [exec_cmpNbits]; unfold execCmpNbits cmpOp; exact ⟨_, fun _ => rfl⟩
theorem issues_cmpiEq (h : Head) (x : ImmX) (d : PReg) (a : SReg) (imm : BitVec 7) : Issues (.cmpiEq h x d a imm) := by
  unfold Issues; simp only [exec_cmpiEq]; unfold execCmpiEq cmpiOp; exact ⟨_, fun _ => rfl⟩
theorem issues_cmpiNe (h : Head) (x : ImmX) (d : PReg) (a : SReg) (imm : BitVec 7) : Issues (.cmpiNe h x d a imm) := by
  unfold Issues; simp only [exec_cmpiNe]; unfold execCmpiNe cmpiOp; exact ⟨_, fun _ => rfl⟩
theorem issues_cmpiLt (h : Head) (x : ImmX) (d : PReg) (a : SReg) (imm : BitVec 7) : Issues (.cmpiLt h x d a imm) := by
  unfold Issues; simp only [exec_cmpiLt]; unfold execCmpiLt cmpiOp; exact ⟨_, fun _ => rfl⟩
theorem issues_cmpiGe (h : Head) (x : ImmX) (d : PReg) (a : SReg) (imm : BitVec 7) : Issues (.cmpiGe h x d a imm) := by
  unfold Issues; simp only [exec_cmpiGe]; unfold execCmpiGe cmpiOp; exact ⟨_, fun _ => rfl⟩
theorem issues_cmpiLtu (h : Head) (x : ImmX) (d : PReg) (a : SReg) (imm : BitVec 7) : Issues (.cmpiLtu h x d a imm) := by
  unfold Issues; simp only [exec_cmpiLtu]; unfold execCmpiLtu cmpiOp; exact ⟨_, fun _ => rfl⟩
theorem issues_cmpiGeu (h : Head) (x : ImmX) (d : PReg) (a : SReg) (imm : BitVec 7) : Issues (.cmpiGeu h x d a imm) := by
  unfold Issues; simp only [exec_cmpiGeu]; unfold execCmpiGeu cmpiOp; exact ⟨_, fun _ => rfl⟩
theorem issues_cmpiBits (h : Head) (x : ImmX) (d : PReg) (a : SReg) (imm : BitVec 7) : Issues (.cmpiBits h x d a imm) := by
  unfold Issues; simp only [exec_cmpiBits]; unfold execCmpiBits cmpiOp; exact ⟨_, fun _ => rfl⟩
theorem issues_cmpiNbits (h : Head) (x : ImmX) (d : PReg) (a : SReg) (imm : BitVec 7) : Issues (.cmpiNbits h x d a imm) := by
  unfold Issues; simp only [exec_cmpiNbits]; unfold execCmpiNbits cmpiOp; exact ⟨_, fun _ => rfl⟩
theorem issues_pand (h : Head) (d a b : PReg) : Issues (.pand h d a b) := by
  unfold Issues; simp only [exec_pand]; unfold execPand predOp; exact ⟨_, fun _ => rfl⟩
theorem issues_por (h : Head) (d a b : PReg) : Issues (.por h d a b) := by
  unfold Issues; simp only [exec_por]; unfold execPor predOp; exact ⟨_, fun _ => rfl⟩
theorem issues_pxor (h : Head) (d a b : PReg) : Issues (.pxor h d a b) := by
  unfold Issues; simp only [exec_pxor]; unfold execPxor predOp; exact ⟨_, fun _ => rfl⟩
theorem issues_pandn (h : Head) (d a b : PReg) : Issues (.pandn h d a b) := by
  unfold Issues; simp only [exec_pandn]; unfold execPandn predOp; exact ⟨_, fun _ => rfl⟩
theorem issues_pnot (h : Head) (d a : PReg) : Issues (.pnot h d a) := by
  unfold Issues; simp only [exec_pnot]; unfold execPnot predOp; exact ⟨_, fun _ => rfl⟩
theorem issues_pmov (h : Head) (d a : PReg) : Issues (.pmov h d a) := by
  unfold Issues; simp only [exec_pmov]; unfold execPmov predOp; exact ⟨_, fun _ => rfl⟩
theorem issues_pset (h : Head) (d : PReg) : Issues (.pset h d) := by
  unfold Issues; simp only [exec_pset]; unfold execPset predOp; exact ⟨_, fun _ => rfl⟩
theorem issues_pclr (h : Head) (d : PReg) : Issues (.pclr h d) := by
  unfold Issues; simp only [exec_pclr]; unfold execPclr predOp; exact ⟨_, fun _ => rfl⟩
theorem issues_sext8 (h : Head) (d a : SReg) : Issues (.sext8 h d a) := by
  unfold Issues; simp only [exec_sext8]; unfold execSext8 unaryOp; exact ⟨_, fun _ => rfl⟩
theorem issues_sext16 (h : Head) (d a : SReg) : Issues (.sext16 h d a) := by
  unfold Issues; simp only [exec_sext16]; unfold execSext16 unaryOp; exact ⟨_, fun _ => rfl⟩
theorem issues_sext32 (h : Head) (d a : SReg) : Issues (.sext32 h d a) := by
  unfold Issues; simp only [exec_sext32]; unfold execSext32 unaryOp; exact ⟨_, fun _ => rfl⟩
theorem issues_zext8 (h : Head) (d a : SReg) : Issues (.zext8 h d a) := by
  unfold Issues; simp only [exec_zext8]; unfold execZext8 unaryOp; exact ⟨_, fun _ => rfl⟩
theorem issues_zext16 (h : Head) (d a : SReg) : Issues (.zext16 h d a) := by
  unfold Issues; simp only [exec_zext16]; unfold execZext16 unaryOp; exact ⟨_, fun _ => rfl⟩
theorem issues_zext32 (h : Head) (d a : SReg) : Issues (.zext32 h d a) := by
  unfold Issues; simp only [exec_zext32]; unfold execZext32 unaryOp; exact ⟨_, fun _ => rfl⟩
theorem issues_bswap (h : Head) (d a : SReg) : Issues (.bswap h d a) := by
  unfold Issues; simp only [exec_bswap]; unfold execBswap unaryOp; exact ⟨_, fun _ => rfl⟩
theorem issues_ctz (h : Head) (d a : SReg) : Issues (.ctz h d a) := by
  unfold Issues; simp only [exec_ctz]; unfold execCtz unaryOp; exact ⟨_, fun _ => rfl⟩
theorem issues_peer (h : Head) (d a b : SReg) : Issues (.peer h d a b) := by
  unfold Issues; simp only [exec_peer]; unfold execPeer aluOp; exact ⟨_, fun _ => rfl⟩
theorem issues_peero (h : Head) (d a b : SReg) : Issues (.peero h d a b) := by
  unfold Issues; simp only [exec_peero]; unfold execPeero aluOp; exact ⟨_, fun _ => rfl⟩
theorem issues_pidx (h : Head) (d a : SReg) : Issues (.pidx h d a) := by
  unfold Issues; simp only [exec_pidx]; unfold execPidx unaryOp; exact ⟨_, fun _ => rfl⟩
theorem issues_mand (h : Head) (d a b : MReg) : Issues (.mand h d a b) := by
  unfold Issues; simp only [exec_mand]; unfold execMand maskOp; exact ⟨_, fun _ => rfl⟩
theorem issues_mor (h : Head) (d a b : MReg) : Issues (.mor h d a b) := by
  unfold Issues; simp only [exec_mor]; unfold execMor maskOp; exact ⟨_, fun _ => rfl⟩
theorem issues_mxor (h : Head) (d a b : MReg) : Issues (.mxor h d a b) := by
  unfold Issues; simp only [exec_mxor]; unfold execMxor maskOp; exact ⟨_, fun _ => rfl⟩
theorem issues_mandn (h : Head) (d a b : MReg) : Issues (.mandn h d a b) := by
  unfold Issues; simp only [exec_mandn]; unfold execMandn maskOp; exact ⟨_, fun _ => rfl⟩
theorem issues_mnot (h : Head) (d a : MReg) : Issues (.mnot h d a) := by
  unfold Issues; simp only [exec_mnot]; unfold execMnot maskOp; exact ⟨_, fun _ => rfl⟩
theorem issues_mset (h : Head) (d : MReg) (a : SReg) : Issues (.mset h d a) := by
  unfold Issues; simp only [exec_mset]; unfold execMset; exact ⟨_, fun _ => rfl⟩
theorem issues_mget (h : Head) (d : SReg) (a : MReg) : Issues (.mget h d a) := by
  unfold Issues; simp only [exec_mget]; unfold execMget maskGet; exact ⟨_, fun _ => rfl⟩
theorem issues_mpop (h : Head) (d : SReg) (a : MReg) : Issues (.mpop h d a) := by
  unfold Issues; simp only [exec_mpop]; unfold execMpop maskGet; exact ⟨_, fun _ => rfl⟩
theorem issues_mfirst (h : Head) (d : SReg) (a : MReg) : Issues (.mfirst h d a) := by
  unfold Issues; simp only [exec_mfirst]; unfold execMfirst maskGet; exact ⟨_, fun _ => rfl⟩
theorem issues_b (h : Head) (off : BitVec 20) : Issues (.b h off) := by
  unfold Issues; simp only [exec_b]; unfold execB; exact ⟨_, fun _ => rfl⟩
theorem issues_call (h : Head) (off : BitVec 20) : Issues (.call h off) := by
  unfold Issues; simp only [exec_call]; unfold execCall; exact ⟨_, fun _ => rfl⟩
theorem issues_jr (h : Head) (a : SReg) : Issues (.jr h a) := by
  unfold Issues; simp only [exec_jr]; unfold execJr; exact ⟨_, fun _ => rfl⟩
theorem issues_jalr (h : Head) (d a : SReg) : Issues (.jalr h d a) := by
  unfold Issues; simp only [exec_jalr]; unfold execJalr; exact ⟨_, fun _ => rfl⟩
theorem issues_ret (h : Head) : Issues (.ret h) := by
  unfold Issues; simp only [exec_ret]; unfold execRet; exact ⟨_, fun _ => rfl⟩
theorem issues_loopReg (h : Head) (lv : Bool) (ca : SReg) (len : BitVec 13) : Issues (.loopReg h lv ca len) := by
  unfold Issues; simp only [exec_loopReg]; unfold execLoopReg; exact ⟨_, fun _ => rfl⟩
theorem issues_loopImm (h : Head) (x : ImmX) (lv : Bool) (ca : BitVec 5) (len : BitVec 13) : Issues (.loopImm h x lv ca len) := by
  unfold Issues; simp only [exec_loopImm]; unfold execLoopImm; exact ⟨_, fun _ => rfl⟩
theorem issues_wait (h : Head) (d a : SReg) : Issues (.wait h d a) := by
  unfold Issues; simp only [exec_wait]; unfold execWait; exact ⟨_, fun _ => rfl⟩
theorem issues_waita (h : Head) (o : OrdX) (d a b : SReg) : Issues (.waita h o d a b) := by
  unfold Issues; simp only [exec_waita]; unfold execWaita; exact ⟨_, fun _ => rfl⟩
theorem issues_yield (h : Head) : Issues (.yield h) := by
  unfold Issues; simp only [exec_yield]; unfold execYield; exact ⟨_, fun _ => rfl⟩
theorem issues_endTask (h : Head) : Issues (.endTask h) := by
  unfold Issues; simp only [exec_endTask]; unfold execEndTask; exact ⟨_, fun _ => rfl⟩
theorem issues_trap (h : Head) (a : SReg) : Issues (.trap h a) := by
  unfold Issues; simp only [exec_trap]; unfold execTrap; exact ⟨_, fun _ => rfl⟩
theorem issues_isync (h : Head) : Issues (.isync h) := by
  unfold Issues; simp only [exec_isync]; unfold execIsync; exact ⟨_, fun _ => rfl⟩
theorem issues_nop (h : Head) : Issues (.nop h) := by
  unfold Issues; simp only [exec_nop]; unfold execNop; exact ⟨_, fun _ => rfl⟩
theorem issues_csrw (h : Head) (d a : SReg) (csr : BitVec 10) : Issues (.csrw h d a csr) := by
  unfold Issues; simp only [exec_csrw]; unfold execCsrw csrOp; exact ⟨_, fun _ => rfl⟩
theorem issues_csrs (h : Head) (d a : SReg) (csr : BitVec 10) : Issues (.csrs h d a csr) := by
  unfold Issues; simp only [exec_csrs]; unfold execCsrs csrOp; exact ⟨_, fun _ => rfl⟩
theorem issues_csrc (h : Head) (d a : SReg) (csr : BitVec 10) : Issues (.csrc h d a csr) := by
  unfold Issues; simp only [exec_csrc]; unfold execCsrc csrOp; exact ⟨_, fun _ => rfl⟩
theorem issues_ld (h : Head) (x : ImmX) (d a : SReg) (sz : LdSize) (off : BitVec 7) : Issues (.ld h x d a sz off) := by
  unfold Issues; simp only [exec_ld]; unfold execLd; exact ⟨_, fun _ => rfl⟩
theorem issues_st (h : Head) (x : ImmX) (d a : SReg) (sz : StSize) (off : BitVec 7) : Issues (.st h x d a sz off) := by
  unfold Issues; simp only [exec_st]; unfold execSt; exact ⟨_, fun _ => rfl⟩
theorem issues_vld (h : Head) (x : ImmX) (d : VNum) (a : SReg) (off : BitVec 7) : Issues (.vld h x d a off) := by
  unfold Issues; simp only [exec_vld]; unfold execVld; exact ⟨_, fun _ => rfl⟩
theorem issues_vst (h : Head) (x : ImmX) (d : VNum) (a : SReg) (off : BitVec 7) : Issues (.vst h x d a off) := by
  unfold Issues; simp only [exec_vst]; unfold execVst; exact ⟨_, fun _ => rfl⟩
theorem issues_vgathI32 (h : Head) (d : VNum) (a : SReg) (b : VNum) (mk : MaskX) : Issues (.vgathI32 h d a b mk) := by
  unfold Issues; simp only [exec_vgathI32]; unfold execVgathI32 gather; exact ⟨_, fun _ => rfl⟩
theorem issues_vscatI32 (h : Head) (d : VNum) (a : SReg) (b : VNum) (mk : MaskX) : Issues (.vscatI32 h d a b mk) := by
  unfold Issues; simp only [exec_vscatI32]; unfold execVscatI32 scatter; exact ⟨_, fun _ => rfl⟩
theorem issues_vgathI16 (h : Head) (d : VNum) (a : SReg) (b : VNum) (mk : MaskX) : Issues (.vgathI16 h d a b mk) := by
  unfold Issues; simp only [exec_vgathI16]; unfold execVgathI16 gather; exact ⟨_, fun _ => rfl⟩
theorem issues_vscatI16 (h : Head) (d : VNum) (a : SReg) (b : VNum) (mk : MaskX) : Issues (.vscatI16 h d a b mk) := by
  unfold Issues; simp only [exec_vscatI16]; unfold execVscatI16 scatter; exact ⟨_, fun _ => rfl⟩
theorem issues_qldQb8 (h : Head) (d : VNum) (a b : SReg) : Issues (.qldQb8 h d a b) := by
  unfold Issues; simp only [exec_qldQb8]; unfold execQldQb8 qload; exact ⟨_, fun _ => rfl⟩
theorem issues_qldQb4 (h : Head) (d : VNum) (a b : SReg) : Issues (.qldQb4 h d a b) := by
  unfold Issues; simp only [exec_qldQb4]; unfold execQldQb4 qload; exact ⟨_, fun _ => rfl⟩
theorem issues_qstQb8 (h : Head) (d : VNum) (a b : SReg) : Issues (.qstQb8 h d a b) := by
  unfold Issues; simp only [exec_qstQb8]; unfold execQstQb8 qstore; exact ⟨_, fun _ => rfl⟩
theorem issues_qstQb4 (h : Head) (d : VNum) (a b : SReg) : Issues (.qstQb4 h d a b) := by
  unfold Issues; simp only [exec_qstQb4]; unfold execQstQb4 qstore; exact ⟨_, fun _ => rfl⟩
theorem issues_rld (h : Head) (x : RemX) (d a : SReg) (sz : LdSize) (off : BitVec 7) : Issues (.rld h x d a sz off) := by
  unfold Issues; simp only [exec_rld]; unfold execRld; exact ⟨_, fun _ => rfl⟩
theorem issues_rst (h : Head) (x : RemX) (d a : SReg) (sz : StSize) (off : BitVec 7) : Issues (.rst h x d a sz off) := by
  unfold Issues; simp only [exec_rst]; unfold execRst; exact ⟨_, fun _ => rfl⟩
theorem issues_atomAdd (h : Head) (o : OrdX) (d a b : SReg) (w : Bool) : Issues (.atomAdd h o d a b w) := by
  unfold Issues; simp only [exec_atomAdd]; unfold execAtomAdd atomOp; exact ⟨_, fun _ => rfl⟩
theorem issues_atomSub (h : Head) (o : OrdX) (d a b : SReg) (w : Bool) : Issues (.atomSub h o d a b w) := by
  unfold Issues; simp only [exec_atomSub]; unfold execAtomSub atomOp; exact ⟨_, fun _ => rfl⟩
theorem issues_atomAnd (h : Head) (o : OrdX) (d a b : SReg) (w : Bool) : Issues (.atomAnd h o d a b w) := by
  unfold Issues; simp only [exec_atomAnd]; unfold execAtomAnd atomOp; exact ⟨_, fun _ => rfl⟩
theorem issues_atomOr (h : Head) (o : OrdX) (d a b : SReg) (w : Bool) : Issues (.atomOr h o d a b w) := by
  unfold Issues; simp only [exec_atomOr]; unfold execAtomOr atomOp; exact ⟨_, fun _ => rfl⟩
theorem issues_atomXor (h : Head) (o : OrdX) (d a b : SReg) (w : Bool) : Issues (.atomXor h o d a b w) := by
  unfold Issues; simp only [exec_atomXor]; unfold execAtomXor atomOp; exact ⟨_, fun _ => rfl⟩
theorem issues_atomMin (h : Head) (o : OrdX) (d a b : SReg) (w : Bool) : Issues (.atomMin h o d a b w) := by
  unfold Issues; simp only [exec_atomMin]; unfold execAtomMin atomOp; exact ⟨_, fun _ => rfl⟩
theorem issues_atomMax (h : Head) (o : OrdX) (d a b : SReg) (w : Bool) : Issues (.atomMax h o d a b w) := by
  unfold Issues; simp only [exec_atomMax]; unfold execAtomMax atomOp; exact ⟨_, fun _ => rfl⟩
theorem issues_atomMinu (h : Head) (o : OrdX) (d a b : SReg) (w : Bool) : Issues (.atomMinu h o d a b w) := by
  unfold Issues; simp only [exec_atomMinu]; unfold execAtomMinu atomOp; exact ⟨_, fun _ => rfl⟩
theorem issues_atomMaxu (h : Head) (o : OrdX) (d a b : SReg) (w : Bool) : Issues (.atomMaxu h o d a b w) := by
  unfold Issues; simp only [exec_atomMaxu]; unfold execAtomMaxu atomOp; exact ⟨_, fun _ => rfl⟩
theorem issues_atomSwap (h : Head) (o : OrdX) (d a b : SReg) (w : Bool) : Issues (.atomSwap h o d a b w) := by
  unfold Issues; simp only [exec_atomSwap]; unfold execAtomSwap atomOp; exact ⟨_, fun _ => rfl⟩
theorem issues_atomCas (h : Head) (o : OrdX) (d a b : SReg) (w : Bool) : Issues (.atomCas h o d a b w) := by
  unfold Issues; simp only [exec_atomCas]; unfold execAtomCas atomOp; exact ⟨_, fun _ => rfl⟩
theorem issues_atomFaddF32 (h : Head) (o : OrdX) (d a b : SReg) : Issues (.atomFaddF32 h o d a b) := by
  unfold Issues; simp only [exec_atomFaddF32]; unfold execAtomFaddF32 atomOp; exact ⟨_, fun _ => rfl⟩
theorem issues_atomBadd (h : Head) (o : OrdX) (d a b : SReg) : Issues (.atomBadd h o d a b) := by
  unfold Issues; simp only [exec_atomBadd]; unfold execAtomBadd; exact ⟨_, fun _ => rfl⟩
theorem issues_fenceAcq (h : Head) (sc : Scope) : Issues (.fenceAcq h sc) := by
  unfold Issues; simp only [exec_fenceAcq]; unfold execFenceAcq fence; exact ⟨_, fun _ => rfl⟩
theorem issues_fenceRel (h : Head) (sc : Scope) : Issues (.fenceRel h sc) := by
  unfold Issues; simp only [exec_fenceRel]; unfold execFenceRel fence; exact ⟨_, fun _ => rfl⟩
theorem issues_fenceAr (h : Head) (sc : Scope) : Issues (.fenceAr h sc) := by
  unfold Issues; simp only [exec_fenceAr]; unfold execFenceAr fence; exact ⟨_, fun _ => rfl⟩
theorem issues_rvld (h : Head) (o : OrdX) (d : VNum) (a b : SReg) : Issues (.rvld h o d a b) := by
  unfold Issues; simp only [exec_rvld]; unfold execRvld; exact ⟨_, fun _ => rfl⟩
theorem issues_rvst (h : Head) (o : OrdX) (d : VNum) (a b : SReg) : Issues (.rvst h o d a b) := by
  unfold Issues; simp only [exec_rvst]; unfold execRvst; exact ⟨_, fun _ => rfl⟩
theorem issues_tdecl (h : Head) (a b : SReg) : Issues (.tdecl h a b) := by
  unfold Issues; simp only [exec_tdecl]; unfold execTdecl tokOp; exact ⟨_, fun _ => rfl⟩
theorem issues_tlend (h : Head) (a b : SReg) : Issues (.tlend h a b) := by
  unfold Issues; simp only [exec_tlend]; unfold execTlend tokOp; exact ⟨_, fun _ => rfl⟩
theorem issues_tret (h : Head) (a : SReg) : Issues (.tret h a) := by
  unfold Issues; simp only [exec_tret]; unfold execTret tokOp1; exact ⟨_, fun _ => rfl⟩
theorem issues_tsplit (h : Head) (a b : SReg) : Issues (.tsplit h a b) := by
  unfold Issues; simp only [exec_tsplit]; unfold execTsplit tokOp; exact ⟨_, fun _ => rfl⟩
theorem issues_tjoin (h : Head) (a : SReg) : Issues (.tjoin h a) := by
  unfold Issues; simp only [exec_tjoin]; unfold execTjoin tokOp1; exact ⟨_, fun _ => rfl⟩
theorem issues_tshare (h : Head) (a b : SReg) : Issues (.tshare h a b) := by
  unfold Issues; simp only [exec_tshare]; unfold execTshare tokOp; exact ⟨_, fun _ => rfl⟩
theorem issues_tunsh (h : Head) (a : SReg) : Issues (.tunsh h a) := by
  unfold Issues; simp only [exec_tunsh]; unfold execTunsh tokOp1; exact ⟨_, fun _ => rfl⟩
theorem issues_tqry (h : Head) (d a b : SReg) : Issues (.tqry h d a b) := by
  unfold Issues; simp only [exec_tqry]; unfold execTqry; exact ⟨_, fun _ => rfl⟩
theorem issues_trecl (h : Head) (a : SReg) : Issues (.trecl h a) := by
  unfold Issues; simp only [exec_trecl]; unfold execTrecl tokOp1; exact ⟨_, fun _ => rfl⟩
theorem issues_tclean (h : Head) (a b : SReg) : Issues (.tclean h a b) := by
  unfold Issues; simp only [exec_tclean]; unfold execTclean tokOp; exact ⟨_, fun _ => rfl⟩
theorem issues_send (h : Head) (o : OrdX) (d : BitVec 3) (a b : SReg) : Issues (.send h o d a b) := by
  unfold Issues; simp only [exec_send]; unfold execSend; exact ⟨_, fun _ => rfl⟩
theorem issues_sendr (h : Head) (o : OrdX) (a b : SReg) : Issues (.sendr h o a b) := by
  unfold Issues; simp only [exec_sendr]; unfold execSendr; exact ⟨_, fun _ => rfl⟩
theorem issues_door (h : Head) (o : OrdX) (d a b : SReg) : Issues (.door h o d a b) := by
  unfold Issues; simp only [exec_door]; unfold execDoor; exact ⟨_, fun _ => rfl⟩
theorem issues_doorq (h : Head) (o : OrdX) (d a : SReg) : Issues (.doorq h o d a) := by
  unfold Issues; simp only [exec_doorq]; unfold execDoorq; exact ⟨_, fun _ => rfl⟩
theorem issues_submit (h : Head) (o : OrdX) (a b : SReg) : Issues (.submit h o a b) := by
  unfold Issues; simp only [exec_submit]; unfold execSubmit; exact ⟨_, fun _ => rfl⟩
theorem issues_ckpt (h : Head) (o : OrdX) (a b : SReg) : Issues (.ckpt h o a b) := by
  unfold Issues; simp only [exec_ckpt]; unfold execCkpt; exact ⟨_, fun _ => rfl⟩
theorem issues_cpy (h : Head) (o : OrdX) (a b : SReg) : Issues (.cpy h o a b) := by
  unfold Issues; simp only [exec_cpy]; unfold execCpy copyInstr; exact ⟨_, fun _ => rfl⟩
theorem issues_cpyq (h : Head) (d : SReg) : Issues (.cpyq h d) := by
  unfold Issues; simp only [exec_cpyq]; unfold execCpyq; exact ⟨_, fun _ => rfl⟩
theorem issues_cpyx (h : Head) (o : OrdX) (a b : SReg) : Issues (.cpyx h o a b) := by
  unfold Issues; simp only [exec_cpyx]; unfold execCpyx copyInstr; exact ⟨_, fun _ => rfl⟩
theorem issues_vaddI32 (h : Head) (x : VecX) (d a b : VNum) (mk : MaskX) : Issues (.vaddI32 h x d a b mk) := by
  unfold Issues; simp only [exec_vaddI32]; unfold execVaddI32 intElem; exact ⟨_, fun _ => rfl⟩
theorem issues_vsubI32 (h : Head) (x : VecX) (d a b : VNum) (mk : MaskX) : Issues (.vsubI32 h x d a b mk) := by
  unfold Issues; simp only [exec_vsubI32]; unfold execVsubI32 intElem; exact ⟨_, fun _ => rfl⟩
theorem issues_vmulI32 (h : Head) (x : VecX) (d a b : VNum) (mk : MaskX) : Issues (.vmulI32 h x d a b mk) := by
  unfold Issues; simp only [exec_vmulI32]; unfold execVmulI32 intElem; exact ⟨_, fun _ => rfl⟩
theorem issues_vmulhI32 (h : Head) (x : VecX) (d a b : VNum) (mk : MaskX) : Issues (.vmulhI32 h x d a b mk) := by
  unfold Issues; simp only [exec_vmulhI32]; unfold execVmulhI32 intElem; exact ⟨_, fun _ => rfl⟩
theorem issues_vminI32 (h : Head) (x : VecX) (d a b : VNum) (mk : MaskX) : Issues (.vminI32 h x d a b mk) := by
  unfold Issues; simp only [exec_vminI32]; unfold execVminI32 intElem; exact ⟨_, fun _ => rfl⟩
theorem issues_vmaxI32 (h : Head) (x : VecX) (d a b : VNum) (mk : MaskX) : Issues (.vmaxI32 h x d a b mk) := by
  unfold Issues; simp only [exec_vmaxI32]; unfold execVmaxI32 intElem; exact ⟨_, fun _ => rfl⟩
theorem issues_vand (h : Head) (x : VecX) (d a b : VNum) (mk : MaskX) : Issues (.vand h x d a b mk) := by
  unfold Issues; simp only [exec_vand]; unfold execVand laneOp; exact ⟨_, fun _ => rfl⟩
theorem issues_vor (h : Head) (x : VecX) (d a b : VNum) (mk : MaskX) : Issues (.vor h x d a b mk) := by
  unfold Issues; simp only [exec_vor]; unfold execVor laneOp; exact ⟨_, fun _ => rfl⟩
theorem issues_vxor (h : Head) (x : VecX) (d a b : VNum) (mk : MaskX) : Issues (.vxor h x d a b mk) := by
  unfold Issues; simp only [exec_vxor]; unfold execVxor laneOp; exact ⟨_, fun _ => rfl⟩
theorem issues_vsll (h : Head) (x : VecX) (d a b : VNum) (mk : MaskX) : Issues (.vsll h x d a b mk) := by
  unfold Issues; simp only [exec_vsll]; unfold execVsll laneOp; exact ⟨_, fun _ => rfl⟩
theorem issues_vsrl (h : Head) (x : VecX) (d a b : VNum) (mk : MaskX) : Issues (.vsrl h x d a b mk) := by
  unfold Issues; simp only [exec_vsrl]; unfold execVsrl laneOp; exact ⟨_, fun _ => rfl⟩
theorem issues_vsra (h : Head) (x : VecX) (d a b : VNum) (mk : MaskX) : Issues (.vsra h x d a b mk) := by
  unfold Issues; simp only [exec_vsra]; unfold execVsra laneOp; exact ⟨_, fun _ => rfl⟩
theorem issues_vaddsI32 (h : Head) (x : VecX) (d a b : VNum) (mk : MaskX) : Issues (.vaddsI32 h x d a b mk) := by
  unfold Issues; simp only [exec_vaddsI32]; unfold execVaddsI32 intElem; exact ⟨_, fun _ => rfl⟩
theorem issues_vsubsI32 (h : Head) (x : VecX) (d a b : VNum) (mk : MaskX) : Issues (.vsubsI32 h x d a b mk) := by
  unfold Issues; simp only [exec_vsubsI32]; unfold execVsubsI32 intElem; exact ⟨_, fun _ => rfl⟩
theorem issues_vabsI32 (h : Head) (x : VecX) (d a : VNum) (mk : MaskX) : Issues (.vabsI32 h x d a mk) := by
  unfold Issues; simp only [exec_vabsI32]; unfold execVabsI32; exact ⟨_, fun _ => rfl⟩
theorem issues_vminuI32 (h : Head) (x : VecX) (d a b : VNum) (mk : MaskX) : Issues (.vminuI32 h x d a b mk) := by
  unfold Issues; simp only [exec_vminuI32]; unfold execVminuI32 laneOp; exact ⟨_, fun _ => rfl⟩
theorem issues_vaddF32 (h : Head) (x : VecX) (d a b : VNum) (mk : MaskX) : Issues (.vaddF32 h x d a b mk) := by
  unfold Issues; simp only [exec_vaddF32]; unfold execVaddF32 fpElem; exact ⟨_, fun _ => rfl⟩
theorem issues_vsubF32 (h : Head) (x : VecX) (d a b : VNum) (mk : MaskX) : Issues (.vsubF32 h x d a b mk) := by
  unfold Issues; simp only [exec_vsubF32]; unfold execVsubF32 fpElem; exact ⟨_, fun _ => rfl⟩
theorem issues_vmulF32 (h : Head) (x : VecX) (d a b : VNum) (mk : MaskX) : Issues (.vmulF32 h x d a b mk) := by
  unfold Issues; simp only [exec_vmulF32]; unfold execVmulF32 fpElem; exact ⟨_, fun _ => rfl⟩
theorem issues_vfmaF32 (h : Head) (x : VecX) (d a b : VNum) (mk : MaskX) : Issues (.vfmaF32 h x d a b mk) := by
  unfold Issues; simp only [exec_vfmaF32]; unfold execVfmaF32 fpElem; exact ⟨_, fun _ => rfl⟩
theorem issues_vfmsF32 (h : Head) (x : VecX) (d a b : VNum) (mk : MaskX) : Issues (.vfmsF32 h x d a b mk) := by
  unfold Issues; simp only [exec_vfmsF32]; unfold execVfmsF32 fpElem; exact ⟨_, fun _ => rfl⟩
theorem issues_vminF32 (h : Head) (x : VecX) (d a b : VNum) (mk : MaskX) : Issues (.vminF32 h x d a b mk) := by
  unfold Issues; simp only [exec_vminF32]; unfold execVminF32 fpElem; exact ⟨_, fun _ => rfl⟩
theorem issues_vmaxF32 (h : Head) (x : VecX) (d a b : VNum) (mk : MaskX) : Issues (.vmaxF32 h x d a b mk) := by
  unfold Issues; simp only [exec_vmaxF32]; unfold execVmaxF32 fpElem; exact ⟨_, fun _ => rfl⟩
theorem issues_vabsF32 (h : Head) (x : VecX) (d a : VNum) (mk : MaskX) : Issues (.vabsF32 h x d a mk) := by
  unfold Issues; simp only [exec_vabsF32]; unfold execVabsF32 fpSign; exact ⟨_, fun _ => rfl⟩
theorem issues_vnegF32 (h : Head) (x : VecX) (d a : VNum) (mk : MaskX) : Issues (.vnegF32 h x d a mk) := by
  unfold Issues; simp only [exec_vnegF32]; unfold execVnegF32 fpSign; exact ⟨_, fun _ => rfl⟩
theorem issues_vfnmaF32 (h : Head) (x : VecX) (d a b : VNum) (mk : MaskX) : Issues (.vfnmaF32 h x d a b mk) := by
  unfold Issues; simp only [exec_vfnmaF32]; unfold execVfnmaF32 fpElem; exact ⟨_, fun _ => rfl⟩
theorem issues_vaddI16 (h : Head) (x : VecX) (d a b : VNum) (mk : MaskX) : Issues (.vaddI16 h x d a b mk) := by
  unfold Issues; simp only [exec_vaddI16]; unfold execVaddI16 intElem; exact ⟨_, fun _ => rfl⟩
theorem issues_vsubI16 (h : Head) (x : VecX) (d a b : VNum) (mk : MaskX) : Issues (.vsubI16 h x d a b mk) := by
  unfold Issues; simp only [exec_vsubI16]; unfold execVsubI16 intElem; exact ⟨_, fun _ => rfl⟩
theorem issues_vmulI16 (h : Head) (x : VecX) (d a b : VNum) (mk : MaskX) : Issues (.vmulI16 h x d a b mk) := by
  unfold Issues; simp only [exec_vmulI16]; unfold execVmulI16 intElem; exact ⟨_, fun _ => rfl⟩
theorem issues_vaddsI16 (h : Head) (x : VecX) (d a b : VNum) (mk : MaskX) : Issues (.vaddsI16 h x d a b mk) := by
  unfold Issues; simp only [exec_vaddsI16]; unfold execVaddsI16 intElem; exact ⟨_, fun _ => rfl⟩
theorem issues_vsubsI16 (h : Head) (x : VecX) (d a b : VNum) (mk : MaskX) : Issues (.vsubsI16 h x d a b mk) := by
  unfold Issues; simp only [exec_vsubsI16]; unfold execVsubsI16 intElem; exact ⟨_, fun _ => rfl⟩
theorem issues_vminI16 (h : Head) (x : VecX) (d a b : VNum) (mk : MaskX) : Issues (.vminI16 h x d a b mk) := by
  unfold Issues; simp only [exec_vminI16]; unfold execVminI16 intElem; exact ⟨_, fun _ => rfl⟩
theorem issues_vmaxI16 (h : Head) (x : VecX) (d a b : VNum) (mk : MaskX) : Issues (.vmaxI16 h x d a b mk) := by
  unfold Issues; simp only [exec_vmaxI16]; unfold execVmaxI16 intElem; exact ⟨_, fun _ => rfl⟩
theorem issues_vaddBf16 (h : Head) (x : VecX) (d a b : VNum) (mk : MaskX) : Issues (.vaddBf16 h x d a b mk) := by
  unfold Issues; simp only [exec_vaddBf16]; unfold execVaddBf16 fpElem; exact ⟨_, fun _ => rfl⟩
theorem issues_vsubBf16 (h : Head) (x : VecX) (d a b : VNum) (mk : MaskX) : Issues (.vsubBf16 h x d a b mk) := by
  unfold Issues; simp only [exec_vsubBf16]; unfold execVsubBf16 fpElem; exact ⟨_, fun _ => rfl⟩
theorem issues_vmulBf16 (h : Head) (x : VecX) (d a b : VNum) (mk : MaskX) : Issues (.vmulBf16 h x d a b mk) := by
  unfold Issues; simp only [exec_vmulBf16]; unfold execVmulBf16 fpElem; exact ⟨_, fun _ => rfl⟩
theorem issues_vfmaBf16 (h : Head) (x : VecX) (d a b : VNum) (mk : MaskX) : Issues (.vfmaBf16 h x d a b mk) := by
  unfold Issues; simp only [exec_vfmaBf16]; unfold execVfmaBf16 fpElem; exact ⟨_, fun _ => rfl⟩
theorem issues_vminBf16 (h : Head) (x : VecX) (d a b : VNum) (mk : MaskX) : Issues (.vminBf16 h x d a b mk) := by
  unfold Issues; simp only [exec_vminBf16]; unfold execVminBf16 fpElem; exact ⟨_, fun _ => rfl⟩
theorem issues_vmaxBf16 (h : Head) (x : VecX) (d a b : VNum) (mk : MaskX) : Issues (.vmaxBf16 h x d a b mk) := by
  unfold Issues; simp only [exec_vmaxBf16]; unfold execVmaxBf16 fpElem; exact ⟨_, fun _ => rfl⟩
theorem issues_vaddI8 (h : Head) (x : VecX) (d a b : VNum) (mk : MaskX) : Issues (.vaddI8 h x d a b mk) := by
  unfold Issues; simp only [exec_vaddI8]; unfold execVaddI8 intElem; exact ⟨_, fun _ => rfl⟩
theorem issues_vsubI8 (h : Head) (x : VecX) (d a b : VNum) (mk : MaskX) : Issues (.vsubI8 h x d a b mk) := by
  unfold Issues; simp only [exec_vsubI8]; unfold execVsubI8 intElem; exact ⟨_, fun _ => rfl⟩
theorem issues_vaddsI8 (h : Head) (x : VecX) (d a b : VNum) (mk : MaskX) : Issues (.vaddsI8 h x d a b mk) := by
  unfold Issues; simp only [exec_vaddsI8]; unfold execVaddsI8 intElem; exact ⟨_, fun _ => rfl⟩
theorem issues_vsubsI8 (h : Head) (x : VecX) (d a b : VNum) (mk : MaskX) : Issues (.vsubsI8 h x d a b mk) := by
  unfold Issues; simp only [exec_vsubsI8]; unfold execVsubsI8 intElem; exact ⟨_, fun _ => rfl⟩
theorem issues_vminI8 (h : Head) (x : VecX) (d a b : VNum) (mk : MaskX) : Issues (.vminI8 h x d a b mk) := by
  unfold Issues; simp only [exec_vminI8]; unfold execVminI8 intElem; exact ⟨_, fun _ => rfl⟩
theorem issues_vmaxI8 (h : Head) (x : VecX) (d a b : VNum) (mk : MaskX) : Issues (.vmaxI8 h x d a b mk) := by
  unfold Issues; simp only [exec_vmaxI8]; unfold execVmaxI8 intElem; exact ⟨_, fun _ => rfl⟩
theorem issues_vaddE4m3 (h : Head) (x : VecX) (d a b : VNum) (mk : MaskX) : Issues (.vaddE4m3 h x d a b mk) := by
  unfold Issues; simp only [exec_vaddE4m3]; unfold execVaddE4m3 fpElem; exact ⟨_, fun _ => rfl⟩
theorem issues_vsubE4m3 (h : Head) (x : VecX) (d a b : VNum) (mk : MaskX) : Issues (.vsubE4m3 h x d a b mk) := by
  unfold Issues; simp only [exec_vsubE4m3]; unfold execVsubE4m3 fpElem; exact ⟨_, fun _ => rfl⟩
theorem issues_vmulE4m3 (h : Head) (x : VecX) (d a b : VNum) (mk : MaskX) : Issues (.vmulE4m3 h x d a b mk) := by
  unfold Issues; simp only [exec_vmulE4m3]; unfold execVmulE4m3 fpElem; exact ⟨_, fun _ => rfl⟩
theorem issues_vminE4m3 (h : Head) (x : VecX) (d a b : VNum) (mk : MaskX) : Issues (.vminE4m3 h x d a b mk) := by
  unfold Issues; simp only [exec_vminE4m3]; unfold execVminE4m3 fpElem; exact ⟨_, fun _ => rfl⟩
theorem issues_vmaxE4m3 (h : Head) (x : VecX) (d a b : VNum) (mk : MaskX) : Issues (.vmaxE4m3 h x d a b mk) := by
  unfold Issues; simp only [exec_vmaxE4m3]; unfold execVmaxE4m3 fpElem; exact ⟨_, fun _ => rfl⟩
theorem issues_vaddE5m2 (h : Head) (x : VecX) (d a b : VNum) (mk : MaskX) : Issues (.vaddE5m2 h x d a b mk) := by
  unfold Issues; simp only [exec_vaddE5m2]; unfold execVaddE5m2 fpElem; exact ⟨_, fun _ => rfl⟩
theorem issues_vsubE5m2 (h : Head) (x : VecX) (d a b : VNum) (mk : MaskX) : Issues (.vsubE5m2 h x d a b mk) := by
  unfold Issues; simp only [exec_vsubE5m2]; unfold execVsubE5m2 fpElem; exact ⟨_, fun _ => rfl⟩
theorem issues_vmulE5m2 (h : Head) (x : VecX) (d a b : VNum) (mk : MaskX) : Issues (.vmulE5m2 h x d a b mk) := by
  unfold Issues; simp only [exec_vmulE5m2]; unfold execVmulE5m2 fpElem; exact ⟨_, fun _ => rfl⟩
theorem issues_vminE5m2 (h : Head) (x : VecX) (d a b : VNum) (mk : MaskX) : Issues (.vminE5m2 h x d a b mk) := by
  unfold Issues; simp only [exec_vminE5m2]; unfold execVminE5m2 fpElem; exact ⟨_, fun _ => rfl⟩
theorem issues_vmaxE5m2 (h : Head) (x : VecX) (d a b : VNum) (mk : MaskX) : Issues (.vmaxE5m2 h x d a b mk) := by
  unfold Issues; simp only [exec_vmaxE5m2]; unfold execVmaxE5m2 fpElem; exact ⟨_, fun _ => rfl⟩
theorem issues_quantQb8 (h : Head) (x : VecX) (d a : VNum) : Issues (.quantQb8 h x d a) := by
  unfold Issues; simp only [exec_quantQb8]; unfold execQuantQb8 blockOp; exact ⟨_, fun _ => rfl⟩
theorem issues_quantQb4 (h : Head) (x : VecX) (d a : VNum) : Issues (.quantQb4 h x d a) := by
  unfold Issues; simp only [exec_quantQb4]; unfold execQuantQb4 blockOp; exact ⟨_, fun _ => rfl⟩
theorem issues_dequantQb8 (h : Head) (x : VecX) (d a : VNum) (mk : MaskX) : Issues (.dequantQb8 h x d a mk) := by
  unfold Issues; simp only [exec_dequantQb8]; unfold execDequantQb8; exact ⟨_, fun _ => rfl⟩
theorem issues_dequantQb4 (h : Head) (x : VecX) (d a : VNum) (mk : MaskX) : Issues (.dequantQb4 h x d a mk) := by
  unfold Issues; simp only [exec_dequantQb4]; unfold execDequantQb4; exact ⟨_, fun _ => rfl⟩
theorem issues_qtobaQb8 (h : Head) (x : VecX) (d a : VNum) : Issues (.qtobaQb8 h x d a) := by
  unfold Issues; simp only [exec_qtobaQb8]; unfold execQtobaQb8 blockOp; exact ⟨_, fun _ => rfl⟩
theorem issues_qtobaQb4 (h : Head) (x : VecX) (d a : VNum) : Issues (.qtobaQb4 h x d a) := by
  unfold Issues; simp only [exec_qtobaQb4]; unfold execQtobaQb4 blockOp; exact ⟨_, fun _ => rfl⟩
theorem issues_badd (h : Head) (x : VecX) (d a b : VNum) : Issues (.badd h x d a b) := by
  unfold Issues; simp only [exec_badd]; unfold execBadd; exact ⟨_, fun _ => rfl⟩
theorem issues_balign (h : Head) (x : VecX) (d a b : VNum) : Issues (.balign h x d a b) := by
  unfold Issues; simp only [exec_balign]; unfold execBalign; exact ⟨_, fun _ => rfl⟩
theorem issues_vlut (h : Head) (x : VecX) (d a : VNum) (kn : ANum) (mk : MaskX) : Issues (.vlut h x d a kn mk) := by
  unfold Issues; simp only [exec_vlut]; unfold execVlut; exact ⟨_, fun _ => rfl⟩
theorem issues_vdqw (h : Head) (x : VecX) (d a b : VNum) (mk : MaskX) : Issues (.vdqw h x d a b mk) := by
  unfold Issues; simp only [exec_vdqw]; unfold execVdqw; exact ⟨_, fun _ => rfl⟩
theorem issues_vcvtBf16F32 (h : Head) (x : VecX) (d a : VNum) (mk : MaskX) : Issues (.vcvtBf16F32 h x d a mk) := by
  unfold Issues; simp only [exec_vcvtBf16F32]; unfold execVcvtBf16F32 convert; exact ⟨_, fun _ => rfl⟩
theorem issues_vcvtF32Bf16 (h : Head) (x : VecX) (d a : VNum) (mk : MaskX) : Issues (.vcvtF32Bf16 h x d a mk) := by
  unfold Issues; simp only [exec_vcvtF32Bf16]; unfold execVcvtF32Bf16 convert; exact ⟨_, fun _ => rfl⟩
theorem issues_vcvtE4m3F32 (h : Head) (x : VecX) (d a : VNum) (mk : MaskX) : Issues (.vcvtE4m3F32 h x d a mk) := by
  unfold Issues; simp only [exec_vcvtE4m3F32]; unfold execVcvtE4m3F32 convert; exact ⟨_, fun _ => rfl⟩
theorem issues_vcvtE5m2F32 (h : Head) (x : VecX) (d a : VNum) (mk : MaskX) : Issues (.vcvtE5m2F32 h x d a mk) := by
  unfold Issues; simp only [exec_vcvtE5m2F32]; unfold execVcvtE5m2F32 convert; exact ⟨_, fun _ => rfl⟩
theorem issues_vcvtF32E4m3 (h : Head) (x : VecX) (d a : VNum) (mk : MaskX) : Issues (.vcvtF32E4m3 h x d a mk) := by
  unfold Issues; simp only [exec_vcvtF32E4m3]; unfold execVcvtF32E4m3 convert; exact ⟨_, fun _ => rfl⟩
theorem issues_vcvtF32E5m2 (h : Head) (x : VecX) (d a : VNum) (mk : MaskX) : Issues (.vcvtF32E5m2 h x d a mk) := by
  unfold Issues; simp only [exec_vcvtF32E5m2]; unfold execVcvtF32E5m2 convert; exact ⟨_, fun _ => rfl⟩
theorem issues_vcvtE4m3Bf16 (h : Head) (x : VecX) (d a : VNum) (mk : MaskX) : Issues (.vcvtE4m3Bf16 h x d a mk) := by
  unfold Issues; simp only [exec_vcvtE4m3Bf16]; unfold execVcvtE4m3Bf16 convert; exact ⟨_, fun _ => rfl⟩
theorem issues_vcvtE5m2Bf16 (h : Head) (x : VecX) (d a : VNum) (mk : MaskX) : Issues (.vcvtE5m2Bf16 h x d a mk) := by
  unfold Issues; simp only [exec_vcvtE5m2Bf16]; unfold execVcvtE5m2Bf16 convert; exact ⟨_, fun _ => rfl⟩
theorem issues_vcvtBf16E4m3 (h : Head) (x : VecX) (d a : VNum) (mk : MaskX) : Issues (.vcvtBf16E4m3 h x d a mk) := by
  unfold Issues; simp only [exec_vcvtBf16E4m3]; unfold execVcvtBf16E4m3 convert; exact ⟨_, fun _ => rfl⟩
theorem issues_vcvtBf16E5m2 (h : Head) (x : VecX) (d a : VNum) (mk : MaskX) : Issues (.vcvtBf16E5m2 h x d a mk) := by
  unfold Issues; simp only [exec_vcvtBf16E5m2]; unfold execVcvtBf16E5m2 convert; exact ⟨_, fun _ => rfl⟩
theorem issues_vcvtI32F32 (h : Head) (x : VecX) (d a : VNum) (mk : MaskX) : Issues (.vcvtI32F32 h x d a mk) := by
  unfold Issues; simp only [exec_vcvtI32F32]; unfold execVcvtI32F32 convert; exact ⟨_, fun _ => rfl⟩
theorem issues_vcvtF32I32 (h : Head) (x : VecX) (d a : VNum) (mk : MaskX) : Issues (.vcvtF32I32 h x d a mk) := by
  unfold Issues; simp only [exec_vcvtF32I32]; unfold execVcvtF32I32 convert; exact ⟨_, fun _ => rfl⟩
theorem issues_vcvtBf16Q4 (h : Head) (x : VecX) (d a : VNum) (mk : MaskX) : Issues (.vcvtBf16Q4 h x d a mk) := by
  unfold Issues; simp only [exec_vcvtBf16Q4]; unfold execVcvtBf16Q4 convert; exact ⟨_, fun _ => rfl⟩
theorem issues_vcvtI8I32 (h : Head) (x : VecX) (d a : VNum) (mk : MaskX) : Issues (.vcvtI8I32 h x d a mk) := by
  unfold Issues; simp only [exec_vcvtI8I32]; unfold execVcvtI8I32 convert; exact ⟨_, fun _ => rfl⟩
theorem issues_vcvtI32I8 (h : Head) (x : VecX) (d a : VNum) (mk : MaskX) : Issues (.vcvtI32I8 h x d a mk) := by
  unfold Issues; simp only [exec_vcvtI32I8]; unfold execVcvtI32I8 convert; exact ⟨_, fun _ => rfl⟩
theorem issues_vexp (h : Head) (x : VecX) (d a : VNum) (mk : MaskX) : Issues (.vexp h x d a mk) := by
  unfold Issues; simp only [exec_vexp]; unfold execVexp sfuOne; exact ⟨_, fun _ => rfl⟩
theorem issues_vexp2 (h : Head) (x : VecX) (d a : VNum) (mk : MaskX) : Issues (.vexp2 h x d a mk) := by
  unfold Issues; simp only [exec_vexp2]; unfold execVexp2 sfuOne; exact ⟨_, fun _ => rfl⟩
theorem issues_vlog (h : Head) (x : VecX) (d a : VNum) (mk : MaskX) : Issues (.vlog h x d a mk) := by
  unfold Issues; simp only [exec_vlog]; unfold execVlog sfuOne; exact ⟨_, fun _ => rfl⟩
theorem issues_vlog2 (h : Head) (x : VecX) (d a : VNum) (mk : MaskX) : Issues (.vlog2 h x d a mk) := by
  unfold Issues; simp only [exec_vlog2]; unfold execVlog2 sfuOne; exact ⟨_, fun _ => rfl⟩
theorem issues_vrcp (h : Head) (x : VecX) (d a : VNum) (mk : MaskX) : Issues (.vrcp h x d a mk) := by
  unfold Issues; simp only [exec_vrcp]; unfold execVrcp sfuOne; exact ⟨_, fun _ => rfl⟩
theorem issues_vrsqrt (h : Head) (x : VecX) (d a : VNum) (mk : MaskX) : Issues (.vrsqrt h x d a mk) := by
  unfold Issues; simp only [exec_vrsqrt]; unfold execVrsqrt sfuOne; exact ⟨_, fun _ => rfl⟩
theorem issues_vsqrt (h : Head) (x : VecX) (d a : VNum) (mk : MaskX) : Issues (.vsqrt h x d a mk) := by
  unfold Issues; simp only [exec_vsqrt]; unfold execVsqrt sfuOne; exact ⟨_, fun _ => rfl⟩
theorem issues_vdiv (h : Head) (x : VecX) (d a b : VNum) (mk : MaskX) : Issues (.vdiv h x d a b mk) := by
  unfold Issues; simp only [exec_vdiv]; unfold execVdiv; exact ⟨_, fun _ => rfl⟩
theorem issues_vtanh (h : Head) (x : VecX) (d a : VNum) (mk : MaskX) : Issues (.vtanh h x d a mk) := by
  unfold Issues; simp only [exec_vtanh]; unfold execVtanh sfuOne; exact ⟨_, fun _ => rfl⟩
theorem issues_vsigm (h : Head) (x : VecX) (d a : VNum) (mk : MaskX) : Issues (.vsigm h x d a mk) := by
  unfold Issues; simp only [exec_vsigm]; unfold execVsigm sfuOne; exact ⟨_, fun _ => rfl⟩
theorem issues_verf (h : Head) (x : VecX) (d a : VNum) (mk : MaskX) : Issues (.verf h x d a mk) := by
  unfold Issues; simp only [exec_verf]; unfold execVerf sfuOne; exact ⟨_, fun _ => rfl⟩
theorem issues_vsin (h : Head) (x : VecX) (d a : VNum) (mk : MaskX) : Issues (.vsin h x d a mk) := by
  unfold Issues; simp only [exec_vsin]; unfold execVsin sfuOne; exact ⟨_, fun _ => rfl⟩
theorem issues_vcos (h : Head) (x : VecX) (d a : VNum) (mk : MaskX) : Issues (.vcos h x d a mk) := by
  unfold Issues; simp only [exec_vcos]; unfold execVcos sfuOne; exact ⟨_, fun _ => rfl⟩
theorem issues_vperm (h : Head) (x : VecX) (d a b : VNum) (mk : MaskX) : Issues (.vperm h x d a b mk) := by
  unfold Issues; simp only [exec_vperm]; unfold execVperm; exact ⟨_, fun _ => rfl⟩
theorem issues_vbcast (h : Head) (x : VecX) (d a : VNum) (mk : MaskX) : Issues (.vbcast h x d a mk) := by
  unfold Issues; simp only [exec_vbcast]; unfold execVbcast; exact ⟨_, fun _ => rfl⟩
theorem issues_vbcastScalar (h : Head) (x : VecPfx) (d : VNum) (mk : MaskX) : Issues (.vbcastScalar h x d mk) := by
  unfold Issues; simp only [exec_vbcastScalar]; unfold execVbcastScalar; exact ⟨_, fun _ => rfl⟩
theorem issues_vrot (h : Head) (x : VecX) (d a : VNum) (mk : MaskX) : Issues (.vrot h x d a mk) := by
  unfold Issues; simp only [exec_vrot]; unfold execVrot; exact ⟨_, fun _ => rfl⟩
theorem issues_viota (h : Head) (x : VecX) (d : VNum) (mk : MaskX) : Issues (.viota h x d mk) := by
  unfold Issues; simp only [exec_viota]; unfold execViota; exact ⟨_, fun _ => rfl⟩
theorem issues_vsel (h : Head) (x : VecX) (d a b : VNum) (mk : MReg) : Issues (.vsel h x d a b mk) := by
  unfold Issues; simp only [exec_vsel]; unfold execVsel; exact ⟨_, fun _ => rfl⟩
theorem issues_vins (h : Head) (x : VecPfx) (d : VNum) : Issues (.vins h x d) := by
  unfold Issues; simp only [exec_vins]; unfold execVins; exact ⟨_, fun _ => rfl⟩
theorem issues_vext (h : Head) (x : VecX) (d : GNum) (a : VNum) : Issues (.vext h x d a) := by
  unfold Issues; simp only [exec_vext]; unfold execVext; exact ⟨_, fun _ => rfl⟩
theorem issues_vhdrWrite (h : Head) (x : VecPfx) (d : VNum) : Issues (.vhdrWrite h x d) := by
  unfold Issues; simp only [exec_vhdrWrite]; unfold execVhdrWrite; exact ⟨_, fun _ => rfl⟩
theorem issues_vhdrRead (h : Head) (x : VecPfx) (d : GNum) (a : VNum) : Issues (.vhdrRead h x d a) := by
  unfold Issues; simp only [exec_vhdrRead]; unfold execVhdrRead; exact ⟨_, fun _ => rfl⟩
theorem issues_vcmpI32 (h : Head) (x : VecX) (d : MReg) (a b : VNum) (mk : MaskX) : Issues (.vcmpI32 h x d a b mk) := by
  unfold Issues; simp only [exec_vcmpI32]; unfold execVcmpI32; exact ⟨_, fun _ => rfl⟩
theorem issues_vcmpF32 (h : Head) (x : VecX) (d : MReg) (a b : VNum) (mk : MaskX) : Issues (.vcmpF32 h x d a b mk) := by
  unfold Issues; simp only [exec_vcmpF32]; unfold execVcmpF32; exact ⟨_, fun _ => rfl⟩
theorem issues_vrsumF32 (h : Head) (x : VecX) (d a : VNum) (mk : MaskX) : Issues (.vrsumF32 h x d a mk) := by
  unfold Issues; simp only [exec_vrsumF32]; unfold execVrsumF32 reduceLanes; exact ⟨_, fun _ => rfl⟩
theorem issues_vrsumI32 (h : Head) (x : VecX) (d a : VNum) (mk : MaskX) : Issues (.vrsumI32 h x d a mk) := by
  unfold Issues; simp only [exec_vrsumI32]; unfold execVrsumI32 reduceLanes; exact ⟨_, fun _ => rfl⟩
theorem issues_vrmaxF32 (h : Head) (x : VecX) (d a : VNum) (mk : MaskX) : Issues (.vrmaxF32 h x d a mk) := by
  unfold Issues; simp only [exec_vrmaxF32]; unfold execVrmaxF32 reduceLanes; exact ⟨_, fun _ => rfl⟩
theorem issues_vrmaxI32 (h : Head) (x : VecX) (d a : VNum) (mk : MaskX) : Issues (.vrmaxI32 h x d a mk) := by
  unfold Issues; simp only [exec_vrmaxI32]; unfold execVrmaxI32 reduceLanes; exact ⟨_, fun _ => rfl⟩
theorem issues_vdraw (h : Head) (x : VecPfx) (d a : VNum) (mk : MaskX) : Issues (.vdraw h x d a mk) := by
  unfold Issues; simp only [exec_vdraw]; unfold execVdraw; exact ⟨_, fun _ => rfl⟩
theorem issues_dmerge (h : Head) (x : VecX) (d a b : VNum) : Issues (.dmerge h x d a b) := by
  unfold Issues; simp only [exec_dmerge]; unfold execDmerge; exact ⟨_, fun _ => rfl⟩
theorem issues_mmaF8f8 (h : Head) (d : ANum) (a b : SReg) : Issues (.mmaF8f8 h d a b) := by
  unfold Issues; simp only [exec_mmaF8f8]; unfold execMmaF8f8 mmaOp; exact ⟨_, fun _ => rfl⟩
theorem issues_mmaB16b16 (h : Head) (d : ANum) (a b : SReg) : Issues (.mmaB16b16 h d a b) := by
  unfold Issues; simp only [exec_mmaB16b16]; unfold execMmaB16b16 mmaOp; exact ⟨_, fun _ => rfl⟩
theorem issues_mmaF8i4 (h : Head) (d : Bool) (a b : SReg) : Issues (.mmaF8i4 h d a b) := by
  unfold Issues; simp only [exec_mmaF8i4]; unfold execMmaF8i4 mmaOp; exact ⟨_, fun _ => rfl⟩
theorem issues_mmaB16i4 (h : Head) (d : Bool) (a b : SReg) : Issues (.mmaB16i4 h d a b) := by
  unfold Issues; simp only [exec_mmaB16i4]; unfold execMmaB16i4 mmaOp; exact ⟨_, fun _ => rfl⟩
theorem issues_mmaB16l4 (h : Head) (d : Bool) (a b : SReg) : Issues (.mmaB16l4 h d a b) := by
  unfold Issues; simp only [exec_mmaB16l4]; unfold execMmaB16l4 mmaOp; exact ⟨_, fun _ => rfl⟩
theorem issues_mmaQb8 (h : Head) (d : ANum) (a b : SReg) : Issues (.mmaQb8 h d a b) := by
  unfold Issues; simp only [exec_mmaQb8]; unfold execMmaQb8 mmaOp; exact ⟨_, fun _ => rfl⟩
theorem issues_mmaQb4 (h : Head) (d : ANum) (a b : SReg) : Issues (.mmaQb4 h d a b) := by
  unfold Issues; simp only [exec_mmaQb4]; unfold execMmaQb4 mmaOp; exact ⟨_, fun _ => rfl⟩
theorem issues_mldw (h : Head) (a b : SReg) : Issues (.mldw h a b) := by
  unfold Issues; simp only [exec_mldw]; unfold execMldw; exact ⟨_, fun _ => rfl⟩
theorem issues_mswap (h : Head) : Issues (.mswap h) := by
  unfold Issues; simp only [exec_mswap]; unfold execMswap matOp; exact ⟨_, fun _ => rfl⟩
theorem issues_mldk (h : Head) (d : ANum) (a : VNum) : Issues (.mldk h d a) := by
  unfold Issues; simp only [exec_mldk]; unfold execMldk matOp; exact ⟨_, fun _ => rfl⟩
theorem issues_mcolq (h : Head) (d : Bool) (a b : VNum) : Issues (.mcolq h d a b) := by
  unfold Issues; simp only [exec_mcolq]; unfold execMcolq matOp; exact ⟨_, fun _ => rfl⟩
theorem issues_mzero (h : Head) (d : ANum) : Issues (.mzero h d) := by
  unfold Issues; simp only [exec_mzero]; unfold execMzero matOp; exact ⟨_, fun _ => rfl⟩
theorem issues_mmovaToVector (h : Head) (d : VNum) (a : ANum) (g : BitVec 2) : Issues (.mmovaToVector h d a g) := by
  unfold Issues; simp only [exec_mmovaToVector]; unfold execMmovaToVector matOp; exact ⟨_, fun _ => rfl⟩
theorem issues_mmovaToAcc (h : Head) (d : ANum) (a : VNum) (g : BitVec 2) : Issues (.mmovaToAcc h d a g) := by
  unfold Issues; simp only [exec_mmovaToAcc]; unfold execMmovaToAcc matOp; exact ⟨_, fun _ => rfl⟩
theorem issues_mrsum (h : Head) (d : VNum) (a : ANum) : Issues (.mrsum h d a) := by
  unfold Issues; simp only [exec_mrsum]; unfold execMrsum matOp; exact ⟨_, fun _ => rfl⟩
theorem issues_mchk (h : Head) (d : SReg) (a : ANum) : Issues (.mchk h d a) := by
  unfold Issues; simp only [exec_mchk]; unfold execMchk matOp; exact ⟨_, fun _ => rfl⟩
theorem issues_msync (h : Head) (d : SReg) : Issues (.msync h d) := by
  unfold Issues; simp only [exec_msync]; unfold execMsync matOp; exact ⟨_, fun _ => rfl⟩
theorem issues_mdrainF32 (h : Head) (x : VecX) (d : VNum) (a : ANum) (g : BitVec 2) (z : Bool) : Issues (.mdrainF32 h x d a g z) := by
  unfold Issues; simp only [exec_mdrainF32]; unfold execMdrainF32 mdrain matOp; exact ⟨_, fun _ => rfl⟩
theorem issues_mdrainBf16 (h : Head) (x : VecX) (d : VNum) (a : ANum) (g : BitVec 2) (z : Bool) : Issues (.mdrainBf16 h x d a g z) := by
  unfold Issues; simp only [exec_mdrainBf16]; unfold execMdrainBf16 mdrain matOp; exact ⟨_, fun _ => rfl⟩
theorem issues_mdrainE4m3 (h : Head) (x : VecX) (d : VNum) (a : ANum) (g : BitVec 2) (z : Bool) : Issues (.mdrainE4m3 h x d a g z) := by
  unfold Issues; simp only [exec_mdrainE4m3]; unfold execMdrainE4m3 mdrain matOp; exact ⟨_, fun _ => rfl⟩
theorem issues_mdrainE5m2 (h : Head) (x : VecX) (d : VNum) (a : ANum) (g : BitVec 2) (z : Bool) : Issues (.mdrainE5m2 h x d a g z) := by
  unfold Issues; simp only [exec_mdrainE5m2]; unfold execMdrainE5m2 mdrain matOp; exact ⟨_, fun _ => rfl⟩
theorem issues_mdrainQb8 (h : Head) (x : VecX) (d : VNum) (a : ANum) (g : BitVec 2) (z : Bool) : Issues (.mdrainQb8 h x d a g z) := by
  unfold Issues; simp only [exec_mdrainQb8]; unfold execMdrainQb8 mdrain matOp; exact ⟨_, fun _ => rfl⟩
theorem issues_mdrainQb4 (h : Head) (x : VecX) (d : VNum) (a : ANum) (g : BitVec 2) (z : Bool) : Issues (.mdrainQb4 h x d a g z) := by
  unfold Issues; simp only [exec_mdrainQb4]; unfold execMdrainQb4 mdrain matOp; exact ⟨_, fun _ => rfl⟩
theorem issues_mdrainBa32 (h : Head) (x : VecX) (d : VNum) (a : ANum) (g : BitVec 2) (z : Bool) : Issues (.mdrainBa32 h x d a g z) := by
  unfold Issues; simp only [exec_mdrainBa32]; unfold execMdrainBa32 mdrain matOp; exact ⟨_, fun _ => rfl⟩
theorem issues_linit (h : Head) (o : OrdX) (a b : SReg) : Issues (.linit h o a b) := by
  unfold Issues; simp only [exec_linit]; unfold execLinit; exact ⟨_, fun _ => rfl⟩
theorem issues_larv (h : Head) (o : OrdX) (d a b : SReg) : Issues (.larv h o d a b) := by
  unfold Issues; simp only [exec_larv]; unfold execLarv; exact ⟨_, fun _ => rfl⟩
theorem issues_lwait (h : Head) (o : OrdX) (d a b : SReg) : Issues (.lwait h o d a b) := by
  unfold Issues; simp only [exec_lwait]; unfold execLwait; exact ⟨_, fun _ => rfl⟩
theorem issues_ltest (h : Head) (o : OrdX) (d a : SReg) : Issues (.ltest h o d a) := by
  unfold Issues; simp only [exec_ltest]; unfold execLtest; exact ⟨_, fun _ => rfl⟩
theorem issues_lreg (h : Head) (o : OrdX) (a b : SReg) : Issues (.lreg h o a b) := by
  unfold Issues; simp only [exec_lreg]; unfold execLreg; exact ⟨_, fun _ => rfl⟩
theorem issues_ldrop (h : Head) (o : OrdX) (a b : SReg) : Issues (.ldrop h o a b) := by
  unfold Issues; simp only [exec_ldrop]; unfold execLdrop; exact ⟨_, fun _ => rfl⟩
theorem issues_lbytes (h : Head) (o : OrdX) (d a b : SReg) : Issues (.lbytes h o d a b) := by
  unfold Issues; simp only [exec_lbytes]; unfold execLbytes; exact ⟨_, fun _ => rfl⟩
theorem issues_rngget (h : Head) (d : SReg) : Issues (.rngget h d) := by
  unfold Issues; simp only [exec_rngget]; unfold execRngget; exact ⟨_, fun _ => rfl⟩
theorem issues_fadd (h : Head) (x : VecX) (d a b : SReg) : Issues (.fadd h x d a b) := by
  unfold Issues; simp only [exec_fadd]; unfold execFadd; exact ⟨_, fun _ => rfl⟩
theorem issues_fsub (h : Head) (x : VecX) (d a b : SReg) : Issues (.fsub h x d a b) := by
  unfold Issues; simp only [exec_fsub]; unfold execFsub; exact ⟨_, fun _ => rfl⟩
theorem issues_fmul (h : Head) (x : VecX) (d a b : SReg) : Issues (.fmul h x d a b) := by
  unfold Issues; simp only [exec_fmul]; unfold execFmul; exact ⟨_, fun _ => rfl⟩
theorem issues_fdiv (h : Head) (x : VecX) (d a b : SReg) : Issues (.fdiv h x d a b) := by
  unfold Issues; simp only [exec_fdiv]; unfold execFdiv; exact ⟨_, fun _ => rfl⟩
theorem issues_fsqrt (h : Head) (x : VecX) (d a : SReg) : Issues (.fsqrt h x d a) := by
  unfold Issues; simp only [exec_fsqrt]; unfold execFsqrt; exact ⟨_, fun _ => rfl⟩
theorem issues_fma (h : Head) (x : VecX) (d a b : SReg) : Issues (.fma h x d a b) := by
  unfold Issues; simp only [exec_fma]; unfold execFma; exact ⟨_, fun _ => rfl⟩
theorem issues_fmin (h : Head) (x : VecX) (d a b : SReg) : Issues (.fmin h x d a b) := by
  unfold Issues; simp only [exec_fmin]; unfold execFmin; exact ⟨_, fun _ => rfl⟩
theorem issues_fmax (h : Head) (x : VecX) (d a b : SReg) : Issues (.fmax h x d a b) := by
  unfold Issues; simp only [exec_fmax]; unfold execFmax; exact ⟨_, fun _ => rfl⟩
theorem issues_feq (h : Head) (x : VecX) (d : PReg) (a b : SReg) : Issues (.feq h x d a b) := by
  unfold Issues; simp only [exec_feq]; unfold execFeq fcmpOp; exact ⟨_, fun _ => rfl⟩
theorem issues_flt (h : Head) (x : VecX) (d : PReg) (a b : SReg) : Issues (.flt h x d a b) := by
  unfold Issues; simp only [exec_flt]; unfold execFlt fcmpOp; exact ⟨_, fun _ => rfl⟩
theorem issues_fle (h : Head) (x : VecX) (d : PReg) (a b : SReg) : Issues (.fle h x d a b) := by
  unfold Issues; simp only [exec_fle]; unfold execFle fcmpOp; exact ⟨_, fun _ => rfl⟩
theorem issues_fcvti (h : Head) (x : VecX) (d a : SReg) : Issues (.fcvti h x d a) := by
  unfold Issues; simp only [exec_fcvti]; unfold execFcvti; exact ⟨_, fun _ => rfl⟩
theorem issues_fcvtf (h : Head) (x : VecX) (d a : SReg) : Issues (.fcvtf h x d a) := by
  unfold Issues; simp only [exec_fcvtf]; unfold execFcvtf; exact ⟨_, fun _ => rfl⟩
theorem issues_fabs (h : Head) (x : VecX) (d a : SReg) : Issues (.fabs h x d a) := by
  unfold Issues; simp only [exec_fabs]; unfold execFabs; exact ⟨_, fun _ => rfl⟩
theorem issues_fneg (h : Head) (x : VecX) (d a : SReg) : Issues (.fneg h x d a) := by
  unfold Issues; simp only [exec_fneg]; unfold execFneg; exact ⟨_, fun _ => rfl⟩
theorem issues_fclass (h : Head) (x : VecX) (d a : SReg) : Issues (.fclass h x d a) := by
  unfold Issues; simp only [exec_fclass]; unfold execFclass; exact ⟨_, fun _ => rfl⟩

/-- Every well-formed instruction issues. -/
theorem issues_wf {i : Instr} (hw : i.wf = true) : Issues i := by
  cases i with
  | slotSelection => exact absurd hw Bool.false_ne_true
  | priorityRaise => exact absurd hw Bool.false_ne_true
  | waitLimitExpiry => exact absurd hw Bool.false_ne_true
  | resultWrite => exact absurd hw Bool.false_ne_true
  | sfuServiceStart => exact absurd hw Bool.false_ne_true
  | sfuResultWrite => exact absurd hw Bool.false_ne_true
  | matrixDispatch => exact absurd hw Bool.false_ne_true
  | matrixCompletion => exact absurd hw Bool.false_ne_true
  | drainingEnd => exact absurd hw Bool.false_ne_true
  | messageArrival => exact absurd hw Bool.false_ne_true
  | writeRequestService => exact absurd hw Bool.false_ne_true
  | readRequestService => exact absurd hw Bool.false_ne_true
  | cxlMemCompletion => exact absurd hw Bool.false_ne_true
  | hostPortCompletion => exact absurd hw Bool.false_ne_true
  | hostReadTimeout => exact absurd hw Bool.false_ne_true
  | replyArrival => exact absurd hw Bool.false_ne_true
  | retryTimerExpiry => exact absurd hw Bool.false_ne_true
  | requestAgeDiscard => exact absurd hw Bool.false_ne_true
  | replyEntryAgeing => exact absurd hw Bool.false_ne_true
  | requesterEntryAgeing => exact absurd hw Bool.false_ne_true
  | translationWalkComplete => exact absurd hw Bool.false_ne_true
  | partialArrival => exact absurd hw Bool.false_ne_true
  | routeDelivery => exact absurd hw Bool.false_ne_true
  | renormaliseNoticeArrival => exact absurd hw Bool.false_ne_true
  | grantArrival => exact absurd hw Bool.false_ne_true
  | grantOutcome => exact absurd hw Bool.false_ne_true
  | revokeNoticeArrival => exact absurd hw Bool.false_ne_true
  | deathDeclaration => exact absurd hw Bool.false_ne_true
  | deathNoticeArrival => exact absurd hw Bool.false_ne_true
  | copyActivation => exact absurd hw Bool.false_ne_true
  | copyUnitSend => exact absurd hw Bool.false_ne_true
  | copyCompletionWrite => exact absurd hw Bool.false_ne_true
  | copyDeadline => exact absurd hw Bool.false_ne_true
  | copyClassRaise => exact absurd hw Bool.false_ne_true
  | launchStore => exact absurd hw Bool.false_ne_true
  | submitService => exact absurd hw Bool.false_ne_true
  | placement => exact absurd hw Bool.false_ne_true
  | openWave => exact absurd hw Bool.false_ne_true
  | loadComplete => exact absurd hw Bool.false_ne_true
  | seedInjection => exact absurd hw Bool.false_ne_true
  | closeWave => exact absurd hw Bool.false_ne_true
  | hangMonitorSample => exact absurd hw Bool.false_ne_true
  | preempt => exact absurd hw Bool.false_ne_true
  | coreHalt => exact absurd hw Bool.false_ne_true
  | haltComplete => exact absurd hw Bool.false_ne_true
  | haltfail => exact absurd hw Bool.false_ne_true
  | resume => exact absurd hw Bool.false_ne_true
  | kill => exact absurd hw Bool.false_ne_true
  | shootdown => exact absurd hw Bool.false_ne_true
  | clearret => exact absurd hw Bool.false_ne_true
  | readbind => exact absurd hw Bool.false_ne_true
  | free => exact absurd hw Bool.false_ne_true
  | hostWindowWrite => exact absurd hw Bool.false_ne_true
  | retirementStart => exact absurd hw Bool.false_ne_true
  | retirementCopy => exact absurd hw Bool.false_ne_true
  | retirementTimeout => exact absurd hw Bool.false_ne_true
  | edgeHomeRestart => exact absurd hw Bool.false_ne_true
  | portLinkLoss => exact absurd hw Bool.false_ne_true
  | portRetrainAttempt => exact absurd hw Bool.false_ne_true
  | powerGood => exact absurd hw Bool.false_ne_true
  | bringUpStage => exact absurd hw Bool.false_ne_true
  | islandMonitorRead => exact absurd hw Bool.false_ne_true
  | islandClockChange => exact absurd hw Bool.false_ne_true
  | powerLimitStep => exact absurd hw Bool.false_ne_true
  | thermalThrottleStep => exact absurd hw Bool.false_ne_true
  | overtempShutdown => exact absurd hw Bool.false_ne_true
  | patrolScrub => exact absurd hw Bool.false_ne_true
  | flitCrcDrop => exact absurd hw Bool.false_ne_true
  | flitAgePriority => exact absurd hw Bool.false_ne_true
  | notAnInstruction => exact absurd hw Bool.false_ne_true
  | fetchPastLocalStore => exact absurd hw Bool.false_ne_true
  | softError => exact absurd hw Bool.false_ne_true
  | powerGoodLoss => exact absurd hw Bool.false_ne_true
  | hdmDecoderBaseWrite => exact absurd hw Bool.false_ne_true
  | fenceClearCommand => exact absurd hw Bool.false_ne_true
  | externalSegmentDeclaration => exact absurd hw Bool.false_ne_true
  | add h d a b => exact issues_add _ _ _ _
  | sub h d a b => exact issues_sub _ _ _ _
  | and h d a b => exact issues_and _ _ _ _
  | or h d a b => exact issues_or _ _ _ _
  | xor h d a b => exact issues_xor _ _ _ _
  | sll h d a b => exact issues_sll _ _ _ _
  | srl h d a b => exact issues_srl _ _ _ _
  | sra h d a b => exact issues_sra _ _ _ _
  | min h d a b => exact issues_min _ _ _ _
  | max h d a b => exact issues_max _ _ _ _
  | minu h d a b => exact issues_minu _ _ _ _
  | maxu h d a b => exact issues_maxu _ _ _ _
  | mul h d a b => exact issues_mul _ _ _ _
  | mulh h d a b => exact issues_mulh _ _ _ _
  | mulhu h d a b => exact issues_mulhu _ _ _ _
  | div h d a b => exact issues_div _ _ _ _
  | divu h d a b => exact issues_divu _ _ _ _
  | rem h d a b => exact issues_rem _ _ _ _
  | remu h d a b => exact issues_remu _ _ _ _
  | adds h d a b => exact issues_adds _ _ _ _
  | subs h d a b => exact issues_subs _ _ _ _
  | clz h d a => exact issues_clz _ _ _
  | popc h d a => exact issues_popc _ _ _
  | andn h d a b => exact issues_andn _ _ _ _
  | orn h d a b => exact issues_orn _ _ _ _
  | addi h x d a imm => exact issues_addi _ _ _ _ _
  | andi h x d a imm => exact issues_andi _ _ _ _ _
  | ori h x d a imm => exact issues_ori _ _ _ _ _
  | xori h x d a imm => exact issues_xori _ _ _ _ _
  | slli h d a sh => exact issues_slli _ _ _ _
  | srli h d a sh => exact issues_srli _ _ _ _
  | srai h d a sh => exact issues_srai _ _ _ _
  | rori h d a sh => exact issues_rori _ _ _ _
  | li h x d imm => exact issues_li _ _ _ _
  | lih h x d a imm => exact issues_lih _ _ _ _ _
  | cmpEq h d a b => exact issues_cmpEq _ _ _ _
  | cmpNe h d a b => exact issues_cmpNe _ _ _ _
  | cmpLt h d a b => exact issues_cmpLt _ _ _ _
  | cmpGe h d a b => exact issues_cmpGe _ _ _ _
  | cmpLtu h d a b => exact issues_cmpLtu _ _ _ _
  | cmpGeu h d a b => exact issues_cmpGeu _ _ _ _
  | cmpBits h d a b => exact issues_cmpBits _ _ _ _
  | cmpNbits h d a b => exact issues_cmpNbits _ _ _ _
  | cmpiEq h x d a imm => exact issues_cmpiEq _ _ _ _ _
  | cmpiNe h x d a imm => exact issues_cmpiNe _ _ _ _ _
  | cmpiLt h x d a imm => exact issues_cmpiLt _ _ _ _ _
  | cmpiGe h x d a imm => exact issues_cmpiGe _ _ _ _ _
  | cmpiLtu h x d a imm => exact issues_cmpiLtu _ _ _ _ _
  | cmpiGeu h x d a imm => exact issues_cmpiGeu _ _ _ _ _
  | cmpiBits h x d a imm => exact issues_cmpiBits _ _ _ _ _
  | cmpiNbits h x d a imm => exact issues_cmpiNbits _ _ _ _ _
  | pand h d a b => exact issues_pand _ _ _ _
  | por h d a b => exact issues_por _ _ _ _
  | pxor h d a b => exact issues_pxor _ _ _ _
  | pandn h d a b => exact issues_pandn _ _ _ _
  | pnot h d a => exact issues_pnot _ _ _
  | pmov h d a => exact issues_pmov _ _ _
  | pset h d => exact issues_pset _ _
  | pclr h d => exact issues_pclr _ _
  | sext8 h d a => exact issues_sext8 _ _ _
  | sext16 h d a => exact issues_sext16 _ _ _
  | sext32 h d a => exact issues_sext32 _ _ _
  | zext8 h d a => exact issues_zext8 _ _ _
  | zext16 h d a => exact issues_zext16 _ _ _
  | zext32 h d a => exact issues_zext32 _ _ _
  | bswap h d a => exact issues_bswap _ _ _
  | ctz h d a => exact issues_ctz _ _ _
  | peer h d a b => exact issues_peer _ _ _ _
  | peero h d a b => exact issues_peero _ _ _ _
  | pidx h d a => exact issues_pidx _ _ _
  | mand h d a b => exact issues_mand _ _ _ _
  | mor h d a b => exact issues_mor _ _ _ _
  | mxor h d a b => exact issues_mxor _ _ _ _
  | mandn h d a b => exact issues_mandn _ _ _ _
  | mnot h d a => exact issues_mnot _ _ _
  | mset h d a => exact issues_mset _ _ _
  | mget h d a => exact issues_mget _ _ _
  | mpop h d a => exact issues_mpop _ _ _
  | mfirst h d a => exact issues_mfirst _ _ _
  | b h off => exact issues_b _ _
  | call h off => exact issues_call _ _
  | jr h a => exact issues_jr _ _
  | jalr h d a => exact issues_jalr _ _ _
  | ret h => exact issues_ret _
  | loopReg h lv ca len => exact issues_loopReg _ _ _ _
  | loopImm h x lv ca len => exact issues_loopImm _ _ _ _ _
  | wait h d a => exact issues_wait _ _ _
  | waita h o d a b => exact issues_waita _ _ _ _ _
  | yield h => exact issues_yield _
  | endTask h => exact issues_endTask _
  | trap h a => exact issues_trap _ _
  | isync h => exact issues_isync _
  | nop h => exact issues_nop _
  | csrw h d a csr => exact issues_csrw _ _ _ _
  | csrs h d a csr => exact issues_csrs _ _ _ _
  | csrc h d a csr => exact issues_csrc _ _ _ _
  | ld h x d a sz off => exact issues_ld _ _ _ _ _ _
  | st h x d a sz off => exact issues_st _ _ _ _ _ _
  | vld h x d a off => exact issues_vld _ _ _ _ _
  | vst h x d a off => exact issues_vst _ _ _ _ _
  | vgathI32 h d a b mk => exact issues_vgathI32 _ _ _ _ _
  | vscatI32 h d a b mk => exact issues_vscatI32 _ _ _ _ _
  | vgathI16 h d a b mk => exact issues_vgathI16 _ _ _ _ _
  | vscatI16 h d a b mk => exact issues_vscatI16 _ _ _ _ _
  | qldQb8 h d a b => exact issues_qldQb8 _ _ _ _
  | qldQb4 h d a b => exact issues_qldQb4 _ _ _ _
  | qstQb8 h d a b => exact issues_qstQb8 _ _ _ _
  | qstQb4 h d a b => exact issues_qstQb4 _ _ _ _
  | rld h x d a sz off => exact issues_rld _ _ _ _ _ _
  | rst h x d a sz off => exact issues_rst _ _ _ _ _ _
  | atomAdd h o d a b w => exact issues_atomAdd _ _ _ _ _ _
  | atomSub h o d a b w => exact issues_atomSub _ _ _ _ _ _
  | atomAnd h o d a b w => exact issues_atomAnd _ _ _ _ _ _
  | atomOr h o d a b w => exact issues_atomOr _ _ _ _ _ _
  | atomXor h o d a b w => exact issues_atomXor _ _ _ _ _ _
  | atomMin h o d a b w => exact issues_atomMin _ _ _ _ _ _
  | atomMax h o d a b w => exact issues_atomMax _ _ _ _ _ _
  | atomMinu h o d a b w => exact issues_atomMinu _ _ _ _ _ _
  | atomMaxu h o d a b w => exact issues_atomMaxu _ _ _ _ _ _
  | atomSwap h o d a b w => exact issues_atomSwap _ _ _ _ _ _
  | atomCas h o d a b w => exact issues_atomCas _ _ _ _ _ _
  | atomFaddF32 h o d a b => exact issues_atomFaddF32 _ _ _ _ _
  | atomBadd h o d a b => exact issues_atomBadd _ _ _ _ _
  | fenceAcq h sc => exact issues_fenceAcq _ _
  | fenceRel h sc => exact issues_fenceRel _ _
  | fenceAr h sc => exact issues_fenceAr _ _
  | rvld h o d a b => exact issues_rvld _ _ _ _ _
  | rvst h o d a b => exact issues_rvst _ _ _ _ _
  | tdecl h a b => exact issues_tdecl _ _ _
  | tlend h a b => exact issues_tlend _ _ _
  | tret h a => exact issues_tret _ _
  | tsplit h a b => exact issues_tsplit _ _ _
  | tjoin h a => exact issues_tjoin _ _
  | tshare h a b => exact issues_tshare _ _ _
  | tunsh h a => exact issues_tunsh _ _
  | tqry h d a b => exact issues_tqry _ _ _ _
  | trecl h a => exact issues_trecl _ _
  | tclean h a b => exact issues_tclean _ _ _
  | send h o d a b => exact issues_send _ _ _ _ _
  | sendr h o a b => exact issues_sendr _ _ _ _
  | door h o d a b => exact issues_door _ _ _ _ _
  | doorq h o d a => exact issues_doorq _ _ _ _
  | submit h o a b => exact issues_submit _ _ _ _
  | ckpt h o a b => exact issues_ckpt _ _ _ _
  | cpy h o a b => exact issues_cpy _ _ _ _
  | cpyq h d => exact issues_cpyq _ _
  | cpyx h o a b => exact issues_cpyx _ _ _ _
  | vaddI32 h x d a b mk => exact issues_vaddI32 _ _ _ _ _ _
  | vsubI32 h x d a b mk => exact issues_vsubI32 _ _ _ _ _ _
  | vmulI32 h x d a b mk => exact issues_vmulI32 _ _ _ _ _ _
  | vmulhI32 h x d a b mk => exact issues_vmulhI32 _ _ _ _ _ _
  | vminI32 h x d a b mk => exact issues_vminI32 _ _ _ _ _ _
  | vmaxI32 h x d a b mk => exact issues_vmaxI32 _ _ _ _ _ _
  | vand h x d a b mk => exact issues_vand _ _ _ _ _ _
  | vor h x d a b mk => exact issues_vor _ _ _ _ _ _
  | vxor h x d a b mk => exact issues_vxor _ _ _ _ _ _
  | vsll h x d a b mk => exact issues_vsll _ _ _ _ _ _
  | vsrl h x d a b mk => exact issues_vsrl _ _ _ _ _ _
  | vsra h x d a b mk => exact issues_vsra _ _ _ _ _ _
  | vaddsI32 h x d a b mk => exact issues_vaddsI32 _ _ _ _ _ _
  | vsubsI32 h x d a b mk => exact issues_vsubsI32 _ _ _ _ _ _
  | vabsI32 h x d a mk => exact issues_vabsI32 _ _ _ _ _
  | vminuI32 h x d a b mk => exact issues_vminuI32 _ _ _ _ _ _
  | vaddF32 h x d a b mk => exact issues_vaddF32 _ _ _ _ _ _
  | vsubF32 h x d a b mk => exact issues_vsubF32 _ _ _ _ _ _
  | vmulF32 h x d a b mk => exact issues_vmulF32 _ _ _ _ _ _
  | vfmaF32 h x d a b mk => exact issues_vfmaF32 _ _ _ _ _ _
  | vfmsF32 h x d a b mk => exact issues_vfmsF32 _ _ _ _ _ _
  | vminF32 h x d a b mk => exact issues_vminF32 _ _ _ _ _ _
  | vmaxF32 h x d a b mk => exact issues_vmaxF32 _ _ _ _ _ _
  | vabsF32 h x d a mk => exact issues_vabsF32 _ _ _ _ _
  | vnegF32 h x d a mk => exact issues_vnegF32 _ _ _ _ _
  | vfnmaF32 h x d a b mk => exact issues_vfnmaF32 _ _ _ _ _ _
  | vaddI16 h x d a b mk => exact issues_vaddI16 _ _ _ _ _ _
  | vsubI16 h x d a b mk => exact issues_vsubI16 _ _ _ _ _ _
  | vmulI16 h x d a b mk => exact issues_vmulI16 _ _ _ _ _ _
  | vaddsI16 h x d a b mk => exact issues_vaddsI16 _ _ _ _ _ _
  | vsubsI16 h x d a b mk => exact issues_vsubsI16 _ _ _ _ _ _
  | vminI16 h x d a b mk => exact issues_vminI16 _ _ _ _ _ _
  | vmaxI16 h x d a b mk => exact issues_vmaxI16 _ _ _ _ _ _
  | vaddBf16 h x d a b mk => exact issues_vaddBf16 _ _ _ _ _ _
  | vsubBf16 h x d a b mk => exact issues_vsubBf16 _ _ _ _ _ _
  | vmulBf16 h x d a b mk => exact issues_vmulBf16 _ _ _ _ _ _
  | vfmaBf16 h x d a b mk => exact issues_vfmaBf16 _ _ _ _ _ _
  | vminBf16 h x d a b mk => exact issues_vminBf16 _ _ _ _ _ _
  | vmaxBf16 h x d a b mk => exact issues_vmaxBf16 _ _ _ _ _ _
  | vaddI8 h x d a b mk => exact issues_vaddI8 _ _ _ _ _ _
  | vsubI8 h x d a b mk => exact issues_vsubI8 _ _ _ _ _ _
  | vaddsI8 h x d a b mk => exact issues_vaddsI8 _ _ _ _ _ _
  | vsubsI8 h x d a b mk => exact issues_vsubsI8 _ _ _ _ _ _
  | vminI8 h x d a b mk => exact issues_vminI8 _ _ _ _ _ _
  | vmaxI8 h x d a b mk => exact issues_vmaxI8 _ _ _ _ _ _
  | vaddE4m3 h x d a b mk => exact issues_vaddE4m3 _ _ _ _ _ _
  | vsubE4m3 h x d a b mk => exact issues_vsubE4m3 _ _ _ _ _ _
  | vmulE4m3 h x d a b mk => exact issues_vmulE4m3 _ _ _ _ _ _
  | vminE4m3 h x d a b mk => exact issues_vminE4m3 _ _ _ _ _ _
  | vmaxE4m3 h x d a b mk => exact issues_vmaxE4m3 _ _ _ _ _ _
  | vaddE5m2 h x d a b mk => exact issues_vaddE5m2 _ _ _ _ _ _
  | vsubE5m2 h x d a b mk => exact issues_vsubE5m2 _ _ _ _ _ _
  | vmulE5m2 h x d a b mk => exact issues_vmulE5m2 _ _ _ _ _ _
  | vminE5m2 h x d a b mk => exact issues_vminE5m2 _ _ _ _ _ _
  | vmaxE5m2 h x d a b mk => exact issues_vmaxE5m2 _ _ _ _ _ _
  | quantQb8 h x d a => exact issues_quantQb8 _ _ _ _
  | quantQb4 h x d a => exact issues_quantQb4 _ _ _ _
  | dequantQb8 h x d a mk => exact issues_dequantQb8 _ _ _ _ _
  | dequantQb4 h x d a mk => exact issues_dequantQb4 _ _ _ _ _
  | qtobaQb8 h x d a => exact issues_qtobaQb8 _ _ _ _
  | qtobaQb4 h x d a => exact issues_qtobaQb4 _ _ _ _
  | badd h x d a b => exact issues_badd _ _ _ _ _
  | balign h x d a b => exact issues_balign _ _ _ _ _
  | vlut h x d a kn mk => exact issues_vlut _ _ _ _ _ _
  | vdqw h x d a b mk => exact issues_vdqw _ _ _ _ _ _
  | vcvtBf16F32 h x d a mk => exact issues_vcvtBf16F32 _ _ _ _ _
  | vcvtF32Bf16 h x d a mk => exact issues_vcvtF32Bf16 _ _ _ _ _
  | vcvtE4m3F32 h x d a mk => exact issues_vcvtE4m3F32 _ _ _ _ _
  | vcvtE5m2F32 h x d a mk => exact issues_vcvtE5m2F32 _ _ _ _ _
  | vcvtF32E4m3 h x d a mk => exact issues_vcvtF32E4m3 _ _ _ _ _
  | vcvtF32E5m2 h x d a mk => exact issues_vcvtF32E5m2 _ _ _ _ _
  | vcvtE4m3Bf16 h x d a mk => exact issues_vcvtE4m3Bf16 _ _ _ _ _
  | vcvtE5m2Bf16 h x d a mk => exact issues_vcvtE5m2Bf16 _ _ _ _ _
  | vcvtBf16E4m3 h x d a mk => exact issues_vcvtBf16E4m3 _ _ _ _ _
  | vcvtBf16E5m2 h x d a mk => exact issues_vcvtBf16E5m2 _ _ _ _ _
  | vcvtI32F32 h x d a mk => exact issues_vcvtI32F32 _ _ _ _ _
  | vcvtF32I32 h x d a mk => exact issues_vcvtF32I32 _ _ _ _ _
  | vcvtBf16Q4 h x d a mk => exact issues_vcvtBf16Q4 _ _ _ _ _
  | vcvtI8I32 h x d a mk => exact issues_vcvtI8I32 _ _ _ _ _
  | vcvtI32I8 h x d a mk => exact issues_vcvtI32I8 _ _ _ _ _
  | vexp h x d a mk => exact issues_vexp _ _ _ _ _
  | vexp2 h x d a mk => exact issues_vexp2 _ _ _ _ _
  | vlog h x d a mk => exact issues_vlog _ _ _ _ _
  | vlog2 h x d a mk => exact issues_vlog2 _ _ _ _ _
  | vrcp h x d a mk => exact issues_vrcp _ _ _ _ _
  | vrsqrt h x d a mk => exact issues_vrsqrt _ _ _ _ _
  | vsqrt h x d a mk => exact issues_vsqrt _ _ _ _ _
  | vdiv h x d a b mk => exact issues_vdiv _ _ _ _ _ _
  | vtanh h x d a mk => exact issues_vtanh _ _ _ _ _
  | vsigm h x d a mk => exact issues_vsigm _ _ _ _ _
  | verf h x d a mk => exact issues_verf _ _ _ _ _
  | vsin h x d a mk => exact issues_vsin _ _ _ _ _
  | vcos h x d a mk => exact issues_vcos _ _ _ _ _
  | vperm h x d a b mk => exact issues_vperm _ _ _ _ _ _
  | vbcast h x d a mk => exact issues_vbcast _ _ _ _ _
  | vbcastScalar h x d mk => exact issues_vbcastScalar _ _ _ _
  | vrot h x d a mk => exact issues_vrot _ _ _ _ _
  | viota h x d mk => exact issues_viota _ _ _ _
  | vsel h x d a b mk => exact issues_vsel _ _ _ _ _ _
  | vins h x d => exact issues_vins _ _ _
  | vext h x d a => exact issues_vext _ _ _ _
  | vhdrWrite h x d => exact issues_vhdrWrite _ _ _
  | vhdrRead h x d a => exact issues_vhdrRead _ _ _ _
  | vcmpI32 h x d a b mk => exact issues_vcmpI32 _ _ _ _ _ _
  | vcmpF32 h x d a b mk => exact issues_vcmpF32 _ _ _ _ _ _
  | vrsumF32 h x d a mk => exact issues_vrsumF32 _ _ _ _ _
  | vrsumI32 h x d a mk => exact issues_vrsumI32 _ _ _ _ _
  | vrmaxF32 h x d a mk => exact issues_vrmaxF32 _ _ _ _ _
  | vrmaxI32 h x d a mk => exact issues_vrmaxI32 _ _ _ _ _
  | vdraw h x d a mk => exact issues_vdraw _ _ _ _ _
  | dmerge h x d a b => exact issues_dmerge _ _ _ _ _
  | mmaF8f8 h d a b => exact issues_mmaF8f8 _ _ _ _
  | mmaB16b16 h d a b => exact issues_mmaB16b16 _ _ _ _
  | mmaF8i4 h d a b => exact issues_mmaF8i4 _ _ _ _
  | mmaB16i4 h d a b => exact issues_mmaB16i4 _ _ _ _
  | mmaB16l4 h d a b => exact issues_mmaB16l4 _ _ _ _
  | mmaQb8 h d a b => exact issues_mmaQb8 _ _ _ _
  | mmaQb4 h d a b => exact issues_mmaQb4 _ _ _ _
  | mldw h a b => exact issues_mldw _ _ _
  | mswap h => exact issues_mswap _
  | mldk h d a => exact issues_mldk _ _ _
  | mcolq h d a b => exact issues_mcolq _ _ _ _
  | mzero h d => exact issues_mzero _ _
  | mmovaToVector h d a g => exact issues_mmovaToVector _ _ _ _
  | mmovaToAcc h d a g => exact issues_mmovaToAcc _ _ _ _
  | mrsum h d a => exact issues_mrsum _ _ _
  | mchk h d a => exact issues_mchk _ _ _
  | msync h d => exact issues_msync _ _
  | mdrainF32 h x d a g z => exact issues_mdrainF32 _ _ _ _ _ _
  | mdrainBf16 h x d a g z => exact issues_mdrainBf16 _ _ _ _ _ _
  | mdrainE4m3 h x d a g z => exact issues_mdrainE4m3 _ _ _ _ _ _
  | mdrainE5m2 h x d a g z => exact issues_mdrainE5m2 _ _ _ _ _ _
  | mdrainQb8 h x d a g z => exact issues_mdrainQb8 _ _ _ _ _ _
  | mdrainQb4 h x d a g z => exact issues_mdrainQb4 _ _ _ _ _ _
  | mdrainBa32 h x d a g z => exact issues_mdrainBa32 _ _ _ _ _ _
  | linit h o a b => exact issues_linit _ _ _ _
  | larv h o d a b => exact issues_larv _ _ _ _ _
  | lwait h o d a b => exact issues_lwait _ _ _ _ _
  | ltest h o d a => exact issues_ltest _ _ _ _
  | lreg h o a b => exact issues_lreg _ _ _ _
  | ldrop h o a b => exact issues_ldrop _ _ _ _
  | lbytes h o d a b => exact issues_lbytes _ _ _ _ _
  | rngget h d => exact issues_rngget _ _
  | fadd h x d a b => exact issues_fadd _ _ _ _ _
  | fsub h x d a b => exact issues_fsub _ _ _ _ _
  | fmul h x d a b => exact issues_fmul _ _ _ _ _
  | fdiv h x d a b => exact issues_fdiv _ _ _ _ _
  | fsqrt h x d a => exact issues_fsqrt _ _ _ _
  | fma h x d a b => exact issues_fma _ _ _ _ _
  | fmin h x d a b => exact issues_fmin _ _ _ _ _
  | fmax h x d a b => exact issues_fmax _ _ _ _ _
  | feq h x d a b => exact issues_feq _ _ _ _ _
  | flt h x d a b => exact issues_flt _ _ _ _ _
  | fle h x d a b => exact issues_fle _ _ _ _ _
  | fcvti h x d a => exact issues_fcvti _ _ _ _
  | fcvtf h x d a => exact issues_fcvtf _ _ _ _
  | fabs h x d a => exact issues_fabs _ _ _ _
  | fneg h x d a => exact issues_fneg _ _ _ _
  | fclass h x d a => exact issues_fclass _ _ _ _

end Sys2Proof.Machine
end

