-- ==== Sys2Proof/Laws/Kept.lean ====
section
/-! SUPPORT. Effects beyond the issuing core: `Kept` says that an effect leaves the loop state of the issuing slot, so that the
instruction completes with it. One lemma for each operation that effects are built of. -/

namespace Sys2Proof.Machine

/- One thread keeps the check of the package within its memory. -/
set_option Elab.async false

/-- The slots agree on what a back-edge decision reads. -/
def SameLoops (x y : Slot) : Prop := x.lc = y.lc ∧ x.loop = y.loop ∧ x.inner = y.inner

/-- `u` has the current core of `s`, with the loop state of its slot `sl`. -/
def Kept (sl : Fin 8) (s u : State) : Prop :=
  u.cur = s.cur ∧ ∀ k, s.core? s.cur = some k → ∃ q, u.core? s.cur = some q ∧ SameLoops (q.slot sl) (k.slot sl)

theorem SameLoops.refl (x : Slot) : SameLoops x x := ⟨rfl, rfl, rfl⟩
theorem SameLoops.trans {x y z : Slot} (h : SameLoops x y) (g : SameLoops y z) : SameLoops x z :=
  ⟨h.1.trans g.1, h.2.1.trans g.2.1, h.2.2.trans g.2.2⟩

theorem Kept.refl (sl : Fin 8) (s : State) : Kept sl s s := ⟨rfl, fun k h => ⟨k, h, .refl _⟩⟩

theorem Kept.trans {sl : Fin 8} {s u t : State} (h : Kept sl s u) (g : Kept sl u t) : Kept sl s t := by
  refine ⟨g.1.trans h.1, fun k hk => ?_⟩
  obtain ⟨q, hq, l⟩ := h.2 k hk
  obtain ⟨q', hq', l'⟩ := g.2 q (by rw [h.1]; exact hq)
  rw [h.1] at hq'
  exact ⟨q', hq', l'.trans l⟩

/-- A state with the same cores and the same current core. -/
theorem Kept.same {sl : Fin 8} {s u : State} (hc : u.cores = s.cores) (h : u.cur = s.cur) : Kept sl s u :=
  ⟨h, fun k hk => ⟨k, by simpa [State.core?, hc] using hk, .refl _⟩⟩

theorem Kept.modCore {sl : Fin 8} (s : State) (c : Nat) {f : Core → Core} (h : ∀ k, SameLoops ((f k).slot sl) (k.slot sl)) :
    Kept sl s (s.modCore c f) := by
  refine ⟨rfl, fun k hk => ?_⟩
  by_cases e : s.cur = c
  · subst e; exact ⟨f k, by simp [hk], h k⟩
  · exact ⟨k, by rw [core?_modCore_ne s f e]; exact hk, .refl _⟩

/-- A ready instruction whose effect is done without a flag completes. -/
theorem completes_kept {i : Instr} {h : Head} {n : Nat} {uses : Fin 8 → Uses} {body : Ctx → State → Res} {s : State} {k : Core}
    {sl : Fin 8} (he : ∀ s, exec i s = issue h n uses body s) (r : Ready s h n uses k sl) {e : State → State}
    (hb : ∀ f, body (ctxOf s n k sl) (s.seen sl n f) = .ok (e (s.seen sl n f)) 0 ∧ Kept sl (s.seen sl n f) (e (s.seen sl n f))) :
    Completes i s n k sl e := by
  simp only [Completes, he]
  refine issue_completes r (fl := 0) fun f => ?_
  obtain ⟨h1, h2, h3⟩ := hb f
  obtain ⟨q, hq, l⟩ := h3 k (seen_core r f)
  refine ⟨_, q, h1, h2, hq, by simp [trapCause], l, ?_⟩
  simp only [orFlags_zero, modCore_id]

/-! ## Messages -/

theorem Kept.modPort (sl : Fin 8) (s : State) (p : Nat) (f : Port → Port) : Kept sl s (s.modPort p f) := .same rfl rfl

theorem Kept.modReqs (sl : Fin 8) (s : State) (n : Node) (f : List Req → List Req) : Kept sl s (s.modReqs n f) := by
  cases n with
  | core c => exact .modCore s c fun k => .refl _
  | port p => exact .modPort sl s p _
  | mgr => exact .refl sl s

theorem Kept.bumpSerial (sl : Fin 8) (s : State) (n : Node) (rid : BitVec 22) : Kept sl s (s.bumpSerial n rid) := by
  cases n with
  | core c => exact .modCore s c fun k => .refl _
  | port p => exact .modPort sl s p _
  | mgr => exact .refl sl s

theorem Kept.count (sl : Fin 8) (s : State) (c ev m : Nat) : Kept sl s (s.modCore c fun k => k.count ev m) :=
  .modCore s c fun k => by rw [slot_count]; exact .refl _

theorem Kept.finj (sl : Fin 8) (s : State) (c kind cls n : Nat) : Kept sl s (s.finj c kind cls n).2 := by
  simp only [State.finj]
  split
  · exact .refl sl s
  · exact .modCore s c fun k => .refl _

/-- A change of what is neither a core nor the current core. -/
theorem Kept.rest {sl : Fin 8} {s t u : State} (h : Kept sl s t) (hc : u.cores = t.cores) (hn : u.cur = t.cur) : Kept sl s u :=
  h.trans (.same hc hn)

theorem Kept.delayMsg (sl : Fin 8) (s : State) (id : Nat) : Kept sl s (s.delayMsg id) := .same rfl rfl

theorem Kept.contend (sl : Fin 8) : ∀ (fuel : Nat) (movers done : List Nat) (s : State), Kept sl s (State.contend fuel movers done s)
  | 0, _, _, s => .refl sl s
  | fuel + 1, movers, done, s => by
    simp only [State.contend]
    split
    · exact (Kept.delayMsg sl s _).trans (Kept.contend sl fuel _ _ _)
    · exact .refl sl s

theorem Kept.entered (sl : Fin 8) (s : State) (p : Packet) : Kept sl s (s.entered p) := by
  have h (b : Bool) : Kept sl s (if b = true then s.delayMsg p.id else s) := by
    cases b
    · exact .refl sl s
    · exact .delayMsg sl s _
  exact (h _).trans (.contend sl _ _ _ _)

theorem Kept.postAt (sl : Fin 8) (s : State) (wait : Nat) (src dst : Node) (pre nf post : Nat) (cls : BitVec 3)
    (body : Body) : Kept sl s (s.postAt wait src dst pre nf post cls body) := by
  have h : Kept sl s (match src with
      | .core c => s.finj c 2 cls.toNat nf
      | _ => (false, s)).2 := by
    cases src with
    | core c => exact .finj sl s c 2 cls.toNat nf
    | port p => exact .refl sl s
    | mgr => exact .refl sl s
  exact (h.rest (by cases src <;> rfl) (by cases src <;> rfl)).trans (.entered sl _ _)

theorem Kept.ite {sl : Fin 8} {s u t : State} {p : Prop} [Decidable p] (h : Kept sl s u) (g : Kept sl s t) :
    Kept sl s (if p then u else t) := by
  split
  · exact h
  · exact g

theorem Kept.putReq (sl : Fin 8) (s : State) (n : Node) (q : Req) : Kept sl s (s.putReq n q) := .modReqs sl s n _

theorem Kept.attempt (sl : Fin 8) (s : State) (n : Node) (q : Req) (extra : Nat) : Kept sl s (s.attempt n q extra) := by
  have h1 : Kept sl s (if (q.att = 0 && q.wr) = true then s.bumpSerial n q.rid else s) :=
    .ite (.bumpSerial sl s n _) (.refl sl s)
  cases n with
  | core c =>
    simp only [State.attempt]
    refine .ite ?_ (.trans ?_ (.postAt sl _ _ _ _ _ _ _ _ _)) <;>
    · refine .trans ?_ (.finj sl _ _ _ _ _)
      exact .ite (h1.trans (.putReq sl _ _ _)) ((h1.trans (.putReq sl _ _ _)).trans (.count sl _ _ _ _))
  | port p =>
    simp only [State.attempt]
    refine .ite ?_ (.trans ?_ (.postAt sl _ _ _ _ _ _ _ _ _)) <;> exact h1.trans (.putReq sl _ _ _)
  | mgr =>
    simp only [State.attempt]
    refine .ite ?_ (.trans ?_ (.postAt sl _ _ _ _ _ _ _ _ _)) <;> exact h1.trans (.putReq sl _ _ _)

theorem Kept.transmit (sl : Fin 8) (s : State) (n : Node) (q : Req) (extra : Nat) : Kept sl s (s.transmit n q extra) :=
  .ite (.putReq sl s n _) (.attempt sl s n _ extra)

theorem Kept.injection (sl : Fin 8) (s : State) (n : Node) (cls : BitVec 3) (nf : Nat) : Kept sl s (s.injection n cls nf).2.2 := by
  cases n with
  | core c =>
    simp only [State.injection]
    split
    · exact .finj sl s c 0 cls.toNat 1
    · exact (Kept.finj sl s c 0 cls.toNat 1).trans (.finj sl _ c 2 cls.toNat nf)
  | port p => exact .refl sl s
  | mgr => exact .refl sl s

theorem Kept.newId {sl : Fin 8} {s t : State} (h : Kept sl s t) : Kept sl s t.newId := h.rest rfl rfl

theorem Kept.sendReq (sl : Fin 8) (s : State) (n : Node) (q : Req) (extra : Nat) : Kept sl s (s.sendReq n q extra) := by
  have h1 (q : Req) : Kept sl s (s.modReqs n fun l => l ++ [q]).newId := (Kept.modReqs sl s n _).newId
  have h2 (s : State) (b : Bool) (cls : BitVec 3) (nf : Nat) :
      Kept sl s (if b = true then s.injection n cls nf else (false, false, s)).2.2 := by
    cases b
    · exact .refl sl s
    · exact .injection sl s n cls nf
  cases n with
  | core c =>
    simp only [State.sendReq]
    have h3 (q : Req) (b : Bool) : Kept sl s (if b = true then
        (s.modReqs (.core c) fun l => l ++ [q]).newId.modCore c fun k => k.count 11 1
        else (s.modReqs (.core c) fun l => l ++ [q]).newId) := .ite ((h1 q).trans (.count sl _ _ _ _)) (h1 q)
    refine .ite ?_ (.ite (h3 _ _) ((h3 _ _).trans (.transmit sl _ _ _ _)))
    exact .ite ((h3 _ _).trans (h2 _ _ _ _)) (((h3 _ _).trans (h2 _ _ _ _)).rest rfl rfl)
  | port p =>
    simp only [State.sendReq]
    refine .ite ?_ (.ite (h1 _) ((h1 _).trans (.transmit sl _ _ _ _)))
    exact .ite ((h1 _).trans (h2 _ _ _ _)) (((h1 _).trans (h2 _ _ _ _)).rest rfl rfl)
  | mgr =>
    simp only [State.sendReq]
    refine .ite ?_ (.ite (h1 _) ((h1 _).trans (.transmit sl _ _ _ _)))
    exact .ite ((h1 _).trans (h2 _ _ _ _)) (((h1 _).trans (h2 _ _ _ _)).rest rfl rfl)

theorem Kept.translated (sl : Fin 8) (s : State) (c : Nat) (t : Access) : Kept sl s (s.translated c t) := by
  simp only [State.translated]
  split
  · exact .refl sl s
  · have h : Kept sl s (s.modCore c fun k => (if t.walk.isSome = true then k else k.fillTlb ‹_›).count 17 1) :=
      .modCore s c fun k => by
        rw [slot_count]; split
        · exact .refl _
        · simp only [Core.fillTlb]; split <;> exact .refl _
    exact .ite (h.rest rfl rfl) h

theorem Kept.sends (sl : Fin 8) (t : Access) (r : Req) (s : State) : Kept sl s (sends t r s) :=
  (Kept.translated sl s s.cur t).trans (.sendReq sl _ _ _ _)

/-! ## Remote accesses -/

theorem withScope_ok {x : Ctx} {s : State} {k : Core} {sc : Scope} {r : Core → Res} (hk : s.core? x.c = some k)
    (h : k.scopeOk sc = true) : withScope x s sc r = r k := by
  simp [withScope, hk, h]

theorem requests_of {i : Instr} {h : Head} {w : Nat} {uses : Fin 8 → Uses} {addr : Ctx → Word} {n align : Nat} {noHost : Bool}
    {q : Ctx → Ask} {op : Ctx → Nat → ROp}
    (he : ∀ s, exec i s = issue h w uses (fun c s => remoteAccess c s (addr c) n align noHost (q c) (op c)) s) :
    Requests i h w uses addr n align noHost q op := by
  intro s k sl t r c hr hh
  refine completes_kept he r fun f => ⟨?_, .sends sl _ _ _⟩
  have hn : (noHost && decide (windowOf (addr c).toNat = .host)) = false := by
    cases noHost
    · rfl
    · simpa using hh rfl
  have hc : (s.seen sl w f).core? (ctxOf s w k sl).c = some k := seen_core r f
  have e1 : remAlign (addr (ctxOf s w k sl)).toNat align = none := hr.aligned
  have e2 : (s.seen sl w f).remAddr (ctxOf s w k sl).c k (addr (ctxOf s w k sl)).toNat n (q (ctxOf s w k sl)).wr = .ok (t f) :=
    hr.resolves f
  have e3 : (s.seen sl w f).remRights k (ctxOf s w k sl).sl (t f) (addr (ctxOf s w k sl)).toNat n (q (ctxOf s w k sl)).wr = none :=
    hr.rights f
  have e4 : k.remHold (ctxOf s w k sl) (t f) (q (ctxOf s w k sl)) = false := hr.free f
  have e0 : k.scopeOk (q (ctxOf s w k sl)).ord.2 = true := hr.scope
  rw [remoteAccess, withScope_ok hc e0]
  simp only [e1, e2, Resolved.orLost]
  rw [if_neg (by rw [hn]; exact Bool.false_ne_true)]
  simp only [e3, ask]
  rw [if_neg (by rw [e4]; exact Bool.false_ne_true)]
  rfl

end Sys2Proof.Machine
end

