-- ==== Sys2Proof/Laws/Memory.lean ====
section
/-! SUPPORT. Byte memories: every operation keeps the canonical form, a read after a write gives the byte written, other bytes
stay, and canonical memories that read alike are equal. -/

namespace Sys2Proof.Machine

/- One thread keeps the check of the package within its memory. -/
set_option Elab.async false

/-- An address below every listed one. -/
def Mem.below (a : Nat) : Mem → Prop
  | [] => True
  | (i, _) :: _ => a < i

theorem Mem.wf_cons {i : Nat} {b : Byte} {l : Mem} :
    Mem.wf ((i, b) :: l) = true ↔ b ≠ Mem.unlisted ∧ Mem.below i l ∧ Mem.wf l = true := by
  cases l <;> simp [Mem.wf, Mem.below, and_assoc]

theorem Mem.below_mono {a i : Nat} {m : Mem} (h : Mem.below i m) (l : a ≤ i) : Mem.below a m := by
  cases m with
  | nil => trivial
  | cons x t => exact Nat.lt_of_le_of_lt l h

theorem Mem.read_below {a : Nat} {m : Mem} (h : Mem.below a m) : m.read a = Mem.unlisted := by
  cases m with
  | nil => rfl
  | cons x l =>
    have : a < x.1 := h
    simp [Mem.read, show a ≠ x.1 by omega, this]

theorem Mem.wf_consByte {a : Nat} {b : Byte} {m : Mem} (h : Mem.below a m) (w : m.wf = true) : (Mem.cons a b m).wf = true := by
  unfold Mem.cons
  split
  · exact w
  · exact Mem.wf_cons.2 ⟨‹_›, h, w⟩

theorem Mem.below_cons {i a : Nat} {b : Byte} {m : Mem} (l : i < a) (h : Mem.below i m) : Mem.below i (Mem.cons a b m) := by
  unfold Mem.cons
  split
  · exact h
  · exact l

theorem Mem.below_write {i a : Nat} {b : Byte} {m : Mem} (w : m.wf = true) (l : i < a) (h : Mem.below i m) :
    Mem.below i (m.write a b) := by
  cases m with
  | nil => exact Mem.below_cons l h
  | cons x t =>
    have hx : i < x.1 := h
    simp only [Mem.write]
    split
    · exact Mem.below_cons l h
    · split
      · exact Mem.below_cons l (Mem.below_mono (Mem.wf_cons.1 w).2.1 (Nat.le_of_lt hx))
      · exact hx

/-- A write keeps the canonical form. -/
theorem Mem.wf_write {m : Mem} (a : Nat) (b : Byte) (w : m.wf = true) : (m.write a b).wf = true := by
  induction m with
  | nil => exact Mem.wf_consByte trivial rfl
  | cons x t ih =>
    have h := Mem.wf_cons.1 w
    simp only [Mem.write]
    split
    · exact Mem.wf_consByte ‹_› w
    · split
      · subst a; exact Mem.wf_consByte h.2.1 h.2.2
      · exact Mem.wf_cons.2 ⟨h.1, Mem.below_write h.2.2 (by omega) h.2.1, ih h.2.2⟩

theorem Mem.wf_writeN {m : Mem} (a : Nat) (l : List Byte) (w : m.wf = true) : (m.writeN a l).wf = true := by
  induction l generalizing m a with
  | nil => exact w
  | cons b l ih => exact ih (a + 1) (Mem.wf_write a b w)

theorem Mem.wf_writeLE {m : Mem} (a n v : Nat) (w : m.wf = true) : (m.writeLE a n v).wf = true := Mem.wf_writeN a _ w

theorem Mem.read_cons {a x : Nat} {b : Byte} {m : Mem} (h : Mem.below a m) :
    (Mem.cons a b m).read x = if x = a then b else m.read x := by
  unfold Mem.cons
  split
  · subst b
    split
    · subst x; exact Mem.read_below h
    · rfl
  · simp only [Mem.read]
    split
    · rfl
    · split
      · exact (Mem.read_below (Mem.below_mono h (Nat.le_of_lt ‹_›))).symm
      · rfl

/-- A read after a write of one byte. -/
theorem Mem.read_write {m : Mem} (a : Nat) (b : Byte) (w : m.wf = true) (x : Nat) :
    (m.write a b).read x = if x = a then b else m.read x := by
  induction m with
  | nil => exact Mem.read_cons trivial
  | cons y t ih =>
    have h := Mem.wf_cons.1 w
    simp only [Mem.write]
    split
    · exact Mem.read_cons ‹_›
    · split
      · subst a
        rw [Mem.read_cons h.2.1]
        split
        · rfl
        · simp only [Mem.read]
          rw [if_neg ‹_›]
          split
          · exact Mem.read_below (Mem.below_mono h.2.1 (Nat.le_of_lt ‹_›))
          · rfl
      · simp only [Mem.read, ih h.2.2]
        split
        · rw [if_neg (by omega)]
        · split
          · rw [if_neg (by omega)]
          · rfl

/-- A read after a write of bytes: those written, and every other byte as before. -/
theorem Mem.read_writeN {m : Mem} (a : Nat) (l : List Byte) (w : m.wf = true) (x : Nat) :
    (m.writeN a l).read x = if a ≤ x ∧ x < a + l.length then l.getD (x - a) 0 else m.read x := by
  induction l generalizing m a with
  | nil => simp [Mem.writeN, show ¬(a ≤ x ∧ x < a) by omega]
  | cons b l ih =>
    simp only [Mem.writeN, ih (a + 1) (Mem.wf_write a b w), Mem.read_write a b w, List.length_cons]
    by_cases e : x = a
    · subst e; rw [if_neg (by omega), if_pos rfl, if_pos (by omega), Nat.sub_self]; rfl
    · by_cases g : a + 1 ≤ x ∧ x < a + 1 + l.length
      · rw [if_pos g, if_pos (by omega), show x - a = (x - (a + 1)) + 1 by omega, List.getD_cons_succ]
      · rw [if_neg g, if_neg e, if_neg (by omega)]

/-- Canonical memories that read alike are equal. -/
theorem Mem.eq_of_read {m l : Mem} (w : m.wf = true) (v : l.wf = true) (h : ∀ x, m.read x = l.read x) : m = l := by
  induction m generalizing l with
  | nil =>
    cases l with
    | nil => rfl
    | cons y t =>
      have := h y.1
      simp [Mem.read] at this
      exact absurd this.symm (Mem.wf_cons.1 v).1
  | cons y t ih =>
    have hy := Mem.wf_cons.1 w
    cases l with
    | nil =>
      have := h y.1
      simp [Mem.read] at this
      exact absurd this hy.1
    | cons z u =>
      have hz := Mem.wf_cons.1 v
      have key : y.1 = z.1 := by
        rcases Nat.lt_trichotomy y.1 z.1 with g | g | g
        · have := h y.1
          simp [Mem.read, show y.1 ≠ z.1 by omega, g] at this
          exact absurd this hy.1
        · exact g
        · have := h z.1
          simp [Mem.read, show z.1 ≠ y.1 by omega, g] at this
          exact absurd this.symm hz.1
      have val : y.2 = z.2 := by
        have := h y.1
        simpa [Mem.read, key] using this
      have tails : t = u := ih hy.2.2 hz.2.2 fun x => by
        rcases Nat.lt_trichotomy x y.1 with g | g | g
        · rw [Mem.read_below (Mem.below_mono hy.2.1 (Nat.le_of_lt g)),
            Mem.read_below (Mem.below_mono hz.2.1 (by omega))]
        · subst g; rw [Mem.read_below hy.2.1, key, Mem.read_below hz.2.1]
        · have := h x
          simpa [Mem.read, show x ≠ y.1 by omega, show ¬ x < y.1 by omega, show x ≠ z.1 by omega, show ¬ x < z.1 by omega] using this
      rw [tails, Prod.ext key val]

/-! ## The memories of a state -/

/-- A change of one core that keeps its memory canonical. -/
theorem amod_mem {c : Nat} {f : Core → Core} {l : List (Nat × Core)} (hf : ∀ k : Core, k.mem.wf = true → (f k).mem.wf = true)
    (h : ∀ e ∈ l, e.2.mem.wf = true) : ∀ e ∈ amod c f l, e.2.mem.wf = true := by
  induction l with
  | nil => simp [amod]
  | cons x t ih =>
    obtain ⟨i, k⟩ := x
    simp only [amod]
    split
    · intro e he
      rcases List.mem_cons.1 he with g | g
      · subst g; exact hf k (h (i, k) (by simp))
      · exact h e (by simp [g])
    · intro e he
      rcases List.mem_cons.1 he with g | g
      · subst g; exact h _ (by simp)
      · exact ih (fun y hy => h y (by simp [hy])) e g

theorem memOk_modCore {s : State} (c : Nat) {f : Core → Core} (hf : ∀ k : Core, k.mem.wf = true → (f k).mem.wf = true)
    (h : s.memOk) : (s.modCore c f).memOk := ⟨amod_mem hf h.1, h.2⟩

theorem memOk_modPort {s : State} (p : Nat) {f : Port → Port} (hf : (f (s.port p)).mem.wf = true) (h : s.memOk) :
    (s.modPort p f).memOk := by
  refine ⟨h.1, h.2.1, fun q => ?_⟩
  simp only [State.modPort, Fin.getElem_fin, Vector.getElem_setIfInBounds]
  split
  · exact hf
  · exact h.2.2 q

/-- A state with the same cores, cores without a partition, and ports. -/
theorem memOk_same {s t : State} (hc : t.cores = s.cores) (hi : t.idle = s.idle) (hp : t.ports = s.ports) (h : s.memOk) : t.memOk := by
  unfold State.memOk
  rw [hc, hi, hp]
  exact h

end Sys2Proof.Machine
end

