-- ==== Sys2Proof/Laws/Outcomes.lean ====
section
/-! SUPPORT. The other outcomes of an issue: a false guard, a pending register, a read in flight, an uncorrectable register, a fault,
a branch, and an instruction that ends its task. -/

namespace Sys2Proof.Machine

/- One thread keeps the check of the package within its memory. -/
set_option Elab.async false

variable {s : State} {h : Head} {n : Nat} {uses : Fin 8 → Uses} {k : Core} {sl : Fin 8} {body : Ctx → State → Res}

/-- The fetch of an instruction: the core that issues, before and after. -/
theorem fetches_core (r : Fetches s n k sl) : ∃ k0, s.core? s.cur = some k0 ∧ k0.running = some sl ∧ k.slot sl = k0.slot sl ∧
    (s.modCore s.cur fun k => (k.land (s.cyc s.cur)).injectRead (k0.slot sl).pc (4 * n)) = s.atIssue sl n := by
  obtain ⟨hc, hr, -⟩ := r
  cases h0 : s.core? s.cur with
  | none => simp [h0] at hr
  | some k0 =>
    simp only [h0, Option.bind_some] at hr
    have hk : k = (k0.land (s.cyc s.cur)).injectRead (k0.slot sl).pc (4 * n) := by
      simp [State.atIssue, h0] at hc; exact hc.symm
    refine ⟨k0, rfl, hr, by rw [hk]; simp, ?_⟩
    apply modCore_congr
    intro q hq
    rw [h0] at hq; cases hq; rfl

/-- The state after the operands are read. -/
theorem seen_or (s : State) (sl : Fin 8) (n : Nat) (b : Bool) :
    ∃ f, (if b then s.atIssue sl n else { s.atIssue sl n with fresh := (s.atIssue sl n).fresh + 1 }) = s.seen sl n f := by
  cases b
  · exact ⟨s.fresh + 1, rfl⟩
  · exact ⟨s.fresh, rfl⟩

/-- A false guard: no effect but the issue and the back-edge decision. -/
theorem issue_false_guard (r : Fetches s n k sl) (hg : GuardReads s h k sl) (hf : ((k.view s.fresh).getP sl h.gp == h.neg) = true) :
    ∃ t f, issue h n uses body s = .next t ∧
      Reaches t (s.seen sl n f) sl ((k.slot sl).backEdge ((k.slot sl).pc + 4 * (n - 1))) := by
  obtain ⟨k0, h0, hr, hs, hm⟩ := fetches_core r
  obtain ⟨f, hs2⟩ := seen_or s sl n (k.inflight.isEmpty && k0.stale.isEmpty)
  have hc : (s.seen sl n f).core? s.cur = some k := r.core
  have key : issue h n uses body s = .next ((s.seen sl n f).finish s.cur sl h.stall.toNat (k.slot sl).pc
      ((k.slot sl).pc + 4 * (n - 1)) (.ok (s.seen sl n f) 0)) := by
    simp only [issue, h0, hr, hm, r.core]
    simp only [← hs, r.fetch, GuardReads] at hg ⊢
    simp only [hs2, hg, hf, Bool.false_eq_true, if_false, if_true]
  refine ⟨_, f, key, ?_⟩
  have := finish_ok (s := s.seen sl n f) (sl := sl) (stall := h.stall.toNat) (pc := (k.slot sl).pc)
    (last := (k.slot sl).pc + 4 * (n - 1)) (u := s.seen sl n f) (fl := 0) rfl hc (by simp [trapCause])
  simp only [orFlags_zero, modCore_id] at this
  exact this

/-- An instruction that names a pending register is held. -/
theorem issue_pending (r : Fetches s n k sl) (hg : GuardReads s h k sl) (hf : ((k.view s.fresh).getP sl h.gp == h.neg) = false)
    (hp : (((uses sl).reads ++ (uses sl).writes).any fun r => k.isPending r) = true) :
    issue h n uses body s = .next (s.modCore s.cur fun q => { q with held := some (s.now + 1, true) }) := by
  obtain ⟨k0, h0, hr, hs, hm⟩ := fetches_core r
  simp only [issue, h0, hr, hm, r.core]
  simp only [← hs, r.fetch, GuardReads] at hg ⊢
  simp only [hg, hf, hp, Bool.false_eq_true, if_false, if_true]
  rfl

/-- A fault of the issue itself, at the instruction's own address. -/
def faultedAt (s : State) (n : Nat) (k : Core) (sl : Fin 8) (cause : Cause) : State :=
  ((s.seen sl n s.fresh).modCore s.cur fun q => q.issued sl (s.cyc s.cur) 0).faultSlot s.cur sl cause
    (FaultInfo.here (BitVec.ofNat 64 (k.slot sl).pc) (k.slot sl).pc)

/-- A guard that is false is read: in flight with SCHK.EN it faults. -/
theorem issue_guard_stall (r : Fetches s n k sl) (hg : ¬ GuardReads s h k sl) (hf : ((k.view s.fresh).getP sl h.gp == h.neg) = true) :
    issue h n uses body s = .next (faultedAt s n k sl .stall) := by
  obtain ⟨k0, h0, hr, hs, hm⟩ := fetches_core r
  have hg : ((k.slot sl).schk && !(RegId.p sl h.gp).hardwired && k.inFlight (.p sl h.gp) (s.cyc s.cur)) = true := by
    rw [GuardReads] at hg; exact eq_true_of_ne_false hg
  simp only [issue, h0, hr, hm, r.core]
  simp only [← hs, r.fetch] at hg ⊢
  simp only [hg, hf, if_true, State.finish, cyc_atIssue, faultedAt, seen_self]

/-- What an instruction comes to whose guard is true and whose registers are not pending: its own hold comes first, then the checks
of its reads. -/
theorem issue_effect (r : Fetches s n k sl) (hf : ((k.view s.fresh).getP sl h.gp == h.neg) = false)
    (hi : (((uses sl).reads ++ (uses sl).writes).any fun r => k.isPending r) = false) :
    ∃ f, issue h n uses body s =
      match body (ctxOf s n k sl) (s.seen sl n f) with
      | .hold => .next (s.finish s.cur sl 0 (k.slot sl).pc ((k.slot sl).pc + 4 * (n - 1)) .hold)
      | x =>
        if ((k.slot sl).schk && !(RegId.p sl h.gp).hardwired && k.inFlight (.p sl h.gp) (s.cyc s.cur))
            || ((k.slot sl).schk && (uses sl).reads.any fun r => k.inFlight r (s.cyc s.cur)) then .next (faultedAt s n k sl .stall)
        else if (uses sl).reads.any fun r => k.regs.badRegs.contains r then .next (faultedAt s n k sl .uereg)
        else .next ((s.seen sl n f).finish s.cur sl h.stall.toNat (k.slot sl).pc ((k.slot sl).pc + 4 * (n - 1)) x) := by
  obtain ⟨k0, h0, hr, hs, hm⟩ := fetches_core r
  obtain ⟨f, hs2⟩ := seen_or s sl n (k.inflight.isEmpty && k0.stale.isEmpty)
  refine ⟨f, ?_⟩
  simp only [issue, h0, hr, hm, r.core]
  simp only [← hs, r.fetch, hs2, hf, hi, Bool.false_eq_true, if_false, State.finish, cyc_atIssue, faultedAt, seen_self]
  simp only [ctxOf] <;> split <;> rename_i hbody <;> simp only [hbody]

/-- With SCHK.EN, a read in flight in the cycle of issue faults with STALL. -/
theorem issue_stall (r : Fetches s n k sl) (hf : ((k.view s.fresh).getP sl h.gp == h.neg) = false)
    (hi : (((uses sl).reads ++ (uses sl).writes).any fun r => k.isPending r) = false)
    (hl : (((k.slot sl).schk && !(RegId.p sl h.gp).hardwired && k.inFlight (.p sl h.gp) (s.cyc s.cur))
      || ((k.slot sl).schk && (uses sl).reads.any fun r => k.inFlight r (s.cyc s.cur))) = true)
    (hb : ∀ f, body (ctxOf s n k sl) (s.seen sl n f) ≠ .hold) : issue h n uses body s = .next (faultedAt s n k sl .stall) := by
  obtain ⟨f, h1⟩ := issue_effect (body := body) r hf hi
  rw [h1]
  split
  · exact absurd ‹_› (hb f)
  · rw [if_pos hl]

/-- An uncorrectable operand register faults with UEREG. -/
theorem issue_uereg (r : Fetches s n k sl) (hg : GuardReads s h k sl) (hf : ((k.view s.fresh).getP sl h.gp == h.neg) = false)
    (hi : (((uses sl).reads ++ (uses sl).writes).any fun r => k.isPending r) = false)
    (hl : ((k.slot sl).schk && (uses sl).reads.any fun r => k.inFlight r (s.cyc s.cur)) = false)
    (hu : ((uses sl).reads.any fun r => k.regs.badRegs.contains r) = true)
    (hb : ∀ f, body (ctxOf s n k sl) (s.seen sl n f) ≠ .hold) : issue h n uses body s = .next (faultedAt s n k sl .uereg) := by
  obtain ⟨f, h1⟩ := issue_effect (body := body) r hf hi
  rw [GuardReads] at hg
  rw [h1]
  split
  · exact absurd ‹_› (hb f)
  · rw [if_neg (by rw [hg, hl]; exact Bool.false_ne_true), if_pos hu]

/-- A fetch fault comes first. -/
theorem issue_fetch_fault {cause : Cause} {a : Nat} (hc : (s.atIssue sl n).core? s.cur = some k)
    (hr : (s.core? s.cur).bind Core.running = some sl) (hf : k.fetchFault (k.slot sl).pc n = some (cause, a)) :
    issue h n uses body s = .next (((s.seen sl n s.fresh).modCore s.cur fun q => q.issued sl (s.cyc s.cur) 0).faultSlot s.cur sl cause
      (FaultInfo.here (BitVec.ofNat 64 a) (k.slot sl).pc)) := by
  cases h0 : s.core? s.cur with
  | none => simp [h0] at hr
  | some k0 =>
    simp only [h0, Option.bind_some] at hr
    have hk : k = (k0.land (s.cyc s.cur)).injectRead (k0.slot sl).pc (4 * n) := by
      simp [State.atIssue, h0] at hc; exact hc.symm
    have hs : k.slot sl = k0.slot sl := by rw [hk]; simp
    have hm : (s.modCore s.cur fun k => (k.land (s.cyc s.cur)).injectRead (k0.slot sl).pc (4 * n)) = s.atIssue sl n := by
      apply modCore_congr; intro q hq; rw [h0] at hq; cases hq; rfl
    simp only [issue, h0, hr, hm, hc]
    simp only [← hs, hf, State.finish, cyc_atIssue, seen_self]

/-- A ready instruction whose checks fail faults at its own address. -/
theorem faults_of {i : Instr} {cause : Cause} {faddr : Word} (he : ∀ s, exec i s = issue h n uses body s) (r : Ready s h n uses k sl)
    (hb : ∀ f, body (ctxOf s n k sl) (s.seen sl n f) = .fault cause faddr) : Faults i s n k sl cause faddr := by
  obtain ⟨f, hf⟩ := issue_ready (body := body) r
  refine ⟨f, ?_⟩
  rw [he, hf, hb]
  simp only [State.finish, cyc_seen]

/-- A ready instruction that must wait changes nothing but that the core looks again. -/
theorem holds_back_of {i : Instr} (he : ∀ s, exec i s = issue h n uses body s) (r : Ready s h n uses k sl)
    (hb : ∀ f, body (ctxOf s n k sl) (s.seen sl n f) = .hold) : HoldsBack i s false := by
  obtain ⟨f, hf⟩ := issue_ready (body := body) r
  rw [HoldsBack, he, hf, hb]
  rfl

theorem inflight_issued (k : Core) (cyc extra : Nat) : (k.issued sl cyc extra).inflight = k.inflight := by
  simp only [Core.issued, Core.count]; split <;> rfl

theorem fpFree_issued (k : Core) (cyc extra : Nat) : (k.issued sl cyc extra).fpFree = k.fpFree := by
  simp only [Core.issued, Core.count]; split <;> rfl

/-- What an issue records (R71, R363). -/
theorem issuedAt_issued {k q : Core} {cyc gap : Nat} (h : (q.slot sl).nextIssue = (k.slot sl).nextIssue)
    (hr : q.regs.pmc = k.regs.pmc ∧ q.regs.pmsel = k.regs.pmsel) : IssuedAt k (q.issued sl cyc gap) sl cyc gap := by
  refine ⟨?_, ?_, by rw [slot_issued, h], ?_⟩
  · simp only [Core.issued, Core.count]; split <;> rfl
  · simp only [Core.issued, Core.count]; split <;> rfl
  · simp only [Core.issued, Core.count, Core.modSlot, hr.1, hr.2]
    split <;> simp_all

/-- What a ready instruction that completes without a trap records: its effect is a change `F` of its core. -/
theorem issue_times {F : Core → Core} {fl : BitVec 6} {ni : Nat} (r : Ready s h n uses k sl)
    (hb : ∀ f, body (ctxOf s n k sl) (s.seen sl n f) = .ok (({ s.seen sl n f with nextId := ni } : State).modCore s.cur F) fl)
    (ht : trapCause (fl &&& ((F k).slot sl).ftrap) = none)
    (hk : ((F k).slot sl).nextIssue = (k.slot sl).nextIssue ∧ (F k).regs.pmc = k.regs.pmc ∧ (F k).regs.pmsel = k.regs.pmsel) :
    ∃ t q, issue h n uses body s = .next t ∧ t.core? s.cur = some q ∧ IssuedAt k q sl (s.cyc s.cur) h.stall.toNat ∧
      q.fpFree = (F k).fpFree ∧ q.inflight = (F k).inflight := by
  obtain ⟨f, hf⟩ := issue_ready (body := body) r
  rw [hb f] at hf
  let y : Core := ((F k).issued sl (s.cyc s.cur) h.stall.toNat).modSlot sl fun x => { x with fflags := x.fflags ||| fl }
  have hy : (({ s.seen sl n f with nextId := ni } : State).modCore s.cur fun q =>
      ((F q).issued sl (s.cyc s.cur) h.stall.toNat).modSlot sl fun x => { x with fflags := x.fflags ||| fl }).core? s.cur = some y := by
    refine (core?_modCore_same _ _ _).trans ?_
    rw [show ({ s.seen sl n f with nextId := ni } : State).core? s.cur = some k from seen_core r f]; rfl
  have hft : trapCause (fl &&& (y.slot sl).ftrap) = none := by
    simp only [y, slot_modSlot_same, slot_issued]; exact ht
  refine ⟨_, y.modSlot sl fun x => x.backEdge ((k.slot sl).pc + 4 * (n - 1)), hf, ?_, ?_, ?_, ?_⟩
  · simp only [State.finish, modCore_modCore, cyc_seen, hy, hft]
    refine (core?_modCore_same _ _ _).trans ?_
    rw [show ({ s.seen sl n f with nextId := ni } : State).core? s.cur = some k from seen_core r f]; rfl
  · obtain ⟨a1, a2, a3, a4⟩ := issuedAt_issued (k := k) (q := F k) (sl := sl) (cyc := s.cyc s.cur) (gap := h.stall.toNat) hk.1 hk.2
    refine ⟨a1, a2, ?_, a4⟩
    rw [slot_modSlot_same, backEdge_eq]
    simp only [y, slot_modSlot_same]; exact a3
  · exact fpFree_issued (F k) _ _
  · exact inflight_issued (F k) _ _

/-- What a fixed-latency write leaves in flight (R72, R73). -/
theorem inflight_writeFixed (k : Core) (r : RegId) (v : RegVal) (lat cyc : Nat) :
    (k.writeFixed r v lat cyc).inflight = k.inflight ++ if lat ≤ 1 then [] else
      ([r].filter fun r => !r.hardwired).map fun r => ⟨r, cyc + lat, k.getReg r⟩ := by
  have set (k : Core) (r : RegId) (v : RegVal) : (k.setReg r v).inflight = k.inflight := by
    simp only [Core.setReg]
    cases r <;> cases v <;> simp only [Core.setS, Core.setP] <;> first | rfl | (split <;> rfl)
  simp only [Core.writeFixed]
  split <;> rename_i hw
  · simp [hw]
  · split <;> simp [set, hw, *]

/-- A ready branch jumps: `F` is what it changes in its core. -/
theorem jumps_of {i : Instr} {target : Nat} {taken : Bool} {e : State → State} {F : Core → Core} {x : Slot}
    (he : ∀ s, exec i s = issue h n uses body s) (r : Ready s h n uses k sl)
    (hb : ∀ f, body (ctxOf s n k sl) (s.seen sl n f) = .goto ((s.seen sl n f).modCore s.cur F) target taken)
    (hx : x.lc = ((F k).slot sl).lc ∧ x.loop = ((F k).slot sl).loop) (hh : i.head = h)
    (hk : ((F k).slot sl).nextIssue = (k.slot sl).nextIssue ∧ (F k).regs.pmc = k.regs.pmc ∧ (F k).regs.pmsel = k.regs.pmsel ∧
      (F k).inflight = k.inflight ∧ (F k).fpFree = k.fpFree) {G : Core → Core}
    (hg : ∀ f, e (s.seen sl n f) = onCore G (s.seen sl n f)) (hp : (F k).placeless sl = (G k).placeless sl) :
    Jumps i s n k sl e x target taken := by
  obtain ⟨f, hf⟩ := issue_ready (body := body) r
  rw [hb f] at hf
  have hc : ((s.seen sl n f).finish s.cur sl h.stall.toNat (k.slot sl).pc ((k.slot sl).pc + 4 * (n - 1))
      (.goto ((s.seen sl n f).modCore s.cur F) target taken)).core? s.cur =
      some ((((F k).issued sl (s.cyc s.cur) (if taken then h.stall.toNat + 1 else h.stall.toNat)).modSlot sl fun x =>
        { x with pc := target })) := by
    simp only [State.finish, modCore_modCore, cyc_seen]
    refine (core?_modCore_same _ _ _).trans ?_
    rw [show (s.seen sl n f).core? s.cur = some k from seen_core r f]; rfl
  refine ⟨_, f, (he s).trans hf, ?_, _, hc, ?_, ?_, ?_⟩
  rotate_left
  · exact (inflight_issued (F k) _ _).trans hk.2.2.2.1
  · exact (fpFree_issued (F k) _ _).trans hk.2.2.2.2
  · have e : (if taken = true then h.stall.toNat + 1 else h.stall.toNat) = i.head.stall.toNat + if taken = true then 1 else 0 := by
      rw [hh]; split <;> rfl
    rw [e]
    obtain ⟨a1, a2, a3, a4⟩ := issuedAt_issued (k := k) (q := F k) (sl := sl) (cyc := s.cyc s.cur)
      (gap := i.head.stall.toNat + if taken = true then 1 else 0) hk.1 ⟨hk.2.1, hk.2.2.1⟩
    exact ⟨a1, a2, by rw [slot_modSlot_same]; exact a3, a4⟩
  simp only [State.finish, modCore_modCore, cyc_seen]
  refine ⟨?_, ((((F k).issued sl (s.cyc s.cur) (if taken then h.stall.toNat + 1 else h.stall.toNat)).modSlot sl fun x =>
    { x with pc := target })), ?_, ?_⟩
  · rw [hg, onCore]
    refine placeless_modCore (s := s.seen sl n f) f _ fun q hq => ?_
    have : q = k := Option.some.inj ((show (s.seen sl n f).core? s.cur = some q from hq).symm.trans (seen_core r f))
    subst this
    refine .trans ?_ hp
    refine (placeless_modSlot_issued (g := fun x => x) fun x e => ?_).trans (by rw [modSlot_self])
    rfl
  · refine (core?_modCore_same _ _ _).trans ?_
    rw [show (s.seen sl n f).core? s.cur = some k from seen_core r f]; rfl
  · simp only [slot_modSlot_same, slot_issued]
    exact ⟨trivial, hx.1.symm, hx.2.symm⟩

end Sys2Proof.Machine
end

