-- ==== Sys2Proof/Tests/Slice0.lean ====
section
/-! SUPPORT. Tests of the model: ill-formed terms that `Instr.wf` refuses, words written from the encodings of the specification, one step
of some instructions with results from the specification, and for each statement with hypotheses a state that meets them. -/

namespace Sys2Proof.Tests

/- One thread keeps the check of the package within its memory. -/
set_option Elab.async false

open Sys2Proof Sys2Proof.Machine


/-! ## Well-formedness: a term that each check refuses -/

def v0 : VecPfx := ⟨.i8, .rne, false, false, .g 0, 0⟩

theorem test_wf_vecPFmt_fmt : Instr.wf (.mdrainF32 .default (.vec { v0 with fmt2 := .i16 }) 1 0 0 false) = false := by decide
theorem test_wf_vecPFmt_imm8 : Instr.wf (.vbcast .default (.vec { v0 with imm8 := 64 }) 1 2 .all) = false := by decide
theorem test_wf_vecPFmt_noSb : Instr.wf (.vabsI32 .default (.vec { v0 with sb := true }) 1 2 .all) = false := by decide
theorem test_wf_vecPFmt_needsSb : Instr.wf (.vins .default v0 1) = false := by decide
theorem test_wf_vecPRsv_fmt : Instr.wf (.vaddI32 .default (.vec { v0 with fmt2 := .f32 }) 1 2 3 .all) = false := by decide
theorem test_wf_vecPRsv_rm : Instr.wf (.vaddI32 .default (.vec { v0 with rm := .rtz }) 1 2 3 .all) = false := by decide
theorem test_wf_vecPRsv_sat : Instr.wf (.vaddF32 .default (.vec { v0 with sat := true }) 1 2 3 .all) = false := by decide
theorem test_wf_vecPRsv_imm8 : Instr.wf (.vaddI32 .default (.vec { v0 with imm8 := 1 }) 1 2 3 .all) = false := by decide
theorem test_wf_vecPRsv_vb : Instr.wf (.vaddI32 .default (.vec { v0 with sb := true }) 1 2 3 .all) = false := by decide
theorem test_wf_vecPRsv_xb : Instr.wf (.vaddI32 .default (.vec { v0 with xb := .g 1 }) 1 2 3 .all) = false := by decide
theorem test_wf_vecRsv_reserved : Instr.wf (.mdrainF32 .default (.vec { v0 with fmt2 := .f32, sb := true }) 1 0 0 false) = false := by decide
theorem test_wf_ordIn : Instr.wf (.linit .default (.ord ⟨.acq, .part, 0⟩) (.g 1) (.g 2)) = false := by decide
theorem test_wf_ordNoOfx : Instr.wf (.linit .default (.ord ⟨.rel, .part, 1⟩) (.g 1) (.g 2)) = false := by decide
theorem test_wf_remIn : Instr.wf (.rld .default (.ord ⟨.rel, .part, 0⟩) (.g 1) (.g 2) .i64 0) = false := by decide
theorem test_wf_csrAssigned : Instr.wf (.csrw .default (.g 1) (.g 2) 0x00B) = false := by decide
theorem test_wf_loopLength : Instr.wf (.loopImm .default .none false 3 0) = false := by decide
theorem test_wf_drainGroup : Instr.wf (.mdrainBf16 .default .none 1 0 2 false) = false := by decide
theorem test_wf_drainGroup8 : Instr.wf (.mdrainE4m3 .default .none 1 0 1 false) = false := by decide
theorem test_wf_vhdrRead : Instr.wf (.vhdrRead .default v0 1 2) = false := by decide
theorem test_wf_event : Instr.wf .powerGood = false := by decide
theorem test_wf_good : Instr.wf (.vaddI32 .default (.vec { v0 with sb := true, xb := .g 1 }) 1 2 0 .all) = true := by decide


/-! ## Decoding -/

/-- The words decode to the instructions beside them, whatever stands next and outside any loop body. -/
noncomputable def decodesAll (l : List (Nat × Instr)) : Bool :=
  l.all fun p =>
    match decode p.1 none false with
    | .ok i => decide (i = p.2)
    | .error _ => false

/-- S 2, GN 1, GP 3 (R60). -/
def h : Head := ⟨2, true, 3⟩

/-! Each word is written from the fields of its row of the opcode table (R60 to R64): S 2 at [31:30], GN 1 at [23], GP 3 at [22:20], the OP
at [29:24] and the operands at their places; one theorem for each OP. -/

theorem test_decode_op_01 : decodesAll [
    (0x81B55E20, .add h (.g 10) (.t 7) (.t 1)),
    (0x81B8F381, .sub h (.t 1) (.t 12) (.t 12)),
    (0x81BC04E2, .and h (.t 8) (.g 1) (.g 7)),
    (0x81BF9A43, .or h (.t 15) (.g 6) (.t 2)),
    (0x81B32FA4, .xor h (.g 6) (.g 11) (.t 13)),
    (0x81B6C105, .sll h (.g 13) (.t 0) (.g 8)),
    (0x81BA5666, .srl h (.t 4) (.t 5) (.t 3)),
    (0x81BDEBC7, .sra h (.t 11) (.t 10) (.t 14)),
    (0x81B17D28, .min h (.g 2) (.t 15) (.g 9)),
    (0x81B49289, .max h (.g 9) (.g 4) (.t 4)),
    (0x81B827EA, .minu h (.t 0) (.g 9) (.t 15)),
    (0x81BBB94B, .maxu h (.t 7) (.g 14) (.g 10)),
    (0x81BF4EAC, .mul h (.t 14) (.t 3) (.t 5)),
    (0x81B2E00D, .mulh h (.g 5) (.t 8) (.g 0)),
    (0x81B6756E, .mulhu h (.g 12) (.t 13) (.g 11)),
    (0x81B98ACF, .div h (.t 3) (.g 2) (.t 6)),
    (0x81BD1C30, .divu h (.t 10) (.g 7) (.g 1)),
    (0x81B0B191, .rem h (.g 1) (.g 12) (.g 12)),
    (0x81B446F2, .remu h (.g 8) (.t 1) (.t 7)),
    (0x81B7D853, .adds h (.g 15) (.t 6) (.g 2)),
    (0x81BB6DB4, .subs h (.t 6) (.t 11) (.g 13)),
    (0x81BE8015, .clz h (.t 13) (.g 0)),
    (0x81B21416, .popc h (.g 4) (.g 5)),
    (0x81B5A9D7, .andn h (.g 11) (.g 10) (.g 14)),
    (0x81B93F38, .orn h (.t 2) (.g 15) (.t 9))] = true := by decide +kernel

theorem test_decode_op_02 : decodesAll [
    (0x82BCD3D7, .addi h .none (.t 9) (.t 4) 983)] = true := by decide +kernel

theorem test_decode_op_03 : decodesAll [
    (0x83B067FC, .andi h .none (.g 0) (.t 9) 1020)] = true := by decide +kernel

theorem test_decode_op_04 : decodesAll [
    (0x84B3F821, .ori h .none (.g 7) (.t 14) 33)] = true := by decide +kernel

theorem test_decode_op_05 : decodesAll [
    (0x85B70C46, .xori h .none (.g 14) (.g 3) 70)] = true := by decide +kernel

theorem test_decode_op_06 : decodesAll [
    (0x86BAA00F, .slli h (.t 5) (.g 8) 15),
    (0x86BE345C, .srli h (.t 12) (.g 13) 28),
    (0x86B1C8A9, .srai h (.g 3) (.t 2) 41),
    (0x86B55CF6, .rori h (.g 10) (.t 7) 54)] = true := by decide +kernel

theorem test_decode_op_07 : decodesAll [
    (0x87B880FF, .li h .none (.t 1) 255)] = true := by decide +kernel

theorem test_decode_op_08 : decodesAll [
    (0x88BC0524, .lih h .none (.t 8) (.g 1) 292)] = true := by decide +kernel

theorem test_decode_op_09 : decodesAll [
    (0x89B39A40, .cmpEq h 7 (.g 6) (.t 2)),
    (0x89B32FA1, .cmpNe h 6 (.g 11) (.t 13)),
    (0x89B2C102, .cmpLt h 5 (.t 0) (.g 8)),
    (0x89B25663, .cmpGe h 4 (.t 5) (.t 3)),
    (0x89B1EBC4, .cmpLtu h 3 (.t 10) (.t 14)),
    (0x89B17D25, .cmpGeu h 2 (.t 15) (.g 9)),
    (0x89B09286, .cmpBits h 1 (.g 4) (.t 4)),
    (0x89B027E7, .cmpNbits h 0 (.g 9) (.t 15))] = true := by decide +kernel

theorem test_decode_op_0A : decodesAll [
    (0x8AB3B871, .cmpiEq h .none 7 (.g 14) 113),
    (0x8AB34C96, .cmpiNe h .none 6 (.t 3) 22),
    (0x8AB2E13B, .cmpiLt h .none 5 (.t 8) 59),
    (0x8AB275E0, .cmpiGe h .none 4 (.t 13) 96),
    (0x8AB18A05, .cmpiLtu h .none 3 (.g 2) 5),
    (0x8AB11EAA, .cmpiGeu h .none 2 (.g 7) 42),
    (0x8AB0B34F, .cmpiBits h .none 1 (.g 12) 79),
    (0x8AB047F4, .cmpiNbits h .none 0 (.t 1) 116)] = true := by decide +kernel

theorem test_decode_op_0B : decodesAll [
    (0x8BB39840, .pand h 7 6 2),
    (0x8BB30CA1, .por h 6 3 5),
    (0x8BB28002, .pxor h 5 0 0),
    (0x8BB21463, .pandn h 4 5 3),
    (0x8BB18804, .pnot h 3 2),
    (0x8BB11C05, .pmov h 2 7),
    (0x8BB08006, .pset h 1),
    (0x8BB00007, .pclr h 0)] = true := by decide +kernel

theorem test_decode_op_0C : decodesAll [
    (0x8CB3F800, .sext8 h (.g 7) (.t 14)),
    (0x8CB70C01, .sext16 h (.g 14) (.g 3)),
    (0x8CBAA002, .sext32 h (.t 5) (.g 8)),
    (0x8CBE3403, .zext8 h (.t 12) (.g 13)),
    (0x8CB1C804, .zext16 h (.g 3) (.t 2)),
    (0x8CB55C05, .zext32 h (.g 10) (.t 7)),
    (0x8CB8F006, .bswap h (.t 1) (.t 12)),
    (0x8CBC0407, .ctz h (.t 8) (.g 1))] = true := by decide +kernel

theorem test_decode_op_0D : decodesAll [
    (0x8DBF9A40, .peer h (.t 15) (.g 6) (.t 2)),
    (0x8DB32FA1, .peero h (.g 6) (.g 11) (.t 13)),
    (0x8DB6C002, .pidx h (.g 13) (.t 0))] = true := by decide +kernel

theorem test_decode_op_0E : decodesAll [
    (0x8EB21460, .mand h 4 5 3),
    (0x8EB188C1, .mor h 3 2 6),
    (0x8EB11C22, .mxor h 2 7 1),
    (0x8EB09083, .mandn h 1 4 4),
    (0x8EB00404, .mnot h 0 1),
    (0x8EB3B805, .mset h 7 (.g 14)),
    (0x8EBF0C06, .mget h (.t 14) 3),
    (0x8EB28007, .mpop h (.g 5) 0),
    (0x8EB61408, .mfirst h (.g 12) 5)] = true := by decide +kernel

theorem test_decode_op_10 : decodesAll [
    (0x90B019F5, .b h 6645)] = true := by decide +kernel

theorem test_decode_op_11 : decodesAll [
    (0x91B01A48, .call h 6728)] = true := by decide +kernel

theorem test_decode_op_12 : decodesAll [
    (0x92B03000, .jr h (.g 12)),
    (0x92B44401, .jalr h (.g 8) (.t 1)),
    (0x92B00002, .ret h)] = true := by decide +kernel

theorem test_decode_op_13 : decodesAll [
    (0x93B85B94, .loopReg h true (.g 2) 7060),
    (0x93BD7BE7, .loopImm h .none true 11 7143)] = true := by decide +kernel

theorem test_decode_op_14 : decodesAll [
    (0x94B21400, .wait h (.g 4) (.g 5)),
    (0x94B5A9C1, .waita h .none (.g 11) (.g 10) (.g 14)),
    (0x94B00002, .yield h),
    (0x94B00003, .endTask h),
    (0x94B06404, .trap h (.t 9)),
    (0x94B00005, .isync h),
    (0x94B00006, .nop h)] = true := by decide +kernel

theorem test_decode_op_15 : decodesAll [
    (0x95BAA020, .csrw h (.t 5) (.g 8) 32)] = true := by decide +kernel

theorem test_decode_op_16 : decodesAll [
    (0x96BE3456, .csrs h (.t 12) (.g 13) 86)] = true := by decide +kernel

theorem test_decode_op_17 : decodesAll [
    (0x97B1C802, .csrc h (.g 3) (.t 2) 2)] = true := by decide +kernel

theorem test_decode_op_18 : decodesAll [
    (0x98B55F78, .ld h .none (.g 10) (.t 7) .i64 120)] = true := by decide +kernel

theorem test_decode_op_19 : decodesAll [
    (0x99B8F24B, .st h .none (.t 1) (.t 12) .b32 75)] = true := by decide +kernel

theorem test_decode_op_1A : decodesAll [
    (0x9AB4061E, .vld h .none 8 (.g 1) 30)] = true := by decide +kernel

theorem test_decode_op_1B : decodesAll [
    (0x9BB79A71, .vst h .none 15 (.g 6) 113)] = true := by decide +kernel

theorem test_decode_op_1C : decodesAll [
    (0x9CB62F60, .vgathI32 h 6 (.g 11) 13 (.by 0)),
    (0x9CBD422D, .vscatI32 h 13 (.t 0) 8 (.by 3)),
    (0x9CB454FA, .vgathI16 h 4 (.t 5) 3 (.by 6)),
    (0x9CBB6BA7, .vscatI16 h 11 (.t 10) 14 (.by 1))] = true := by decide +kernel

theorem test_decode_op_1D : decodesAll [
    (0x9DB17D20, .qldQb8 h 2 (.t 15) (.g 9)),
    (0x9DB49281, .qldQb4 h 9 (.g 4) (.t 4)),
    (0x9DB027E2, .qstQb8 h 0 (.g 9) (.t 15)),
    (0x9DB3B943, .qstQb4 h 7 (.g 14) (.g 10))] = true := by decide +kernel

theorem test_decode_op_20 : decodesAll [
    (0xA0BF4E5C, .rld h .none (.t 14) (.t 3) .i32 92)] = true := by decide +kernel

theorem test_decode_op_21 : decodesAll [
    (0xA1B2E22F, .rst h .none (.g 5) (.t 8) .b32 47)] = true := by decide +kernel

theorem test_decode_op_22 : decodesAll [
    (0xA2B67570, .atomAdd h .none (.g 12) (.t 13) (.g 11) true),
    (0xA2B98AD1, .atomSub h .none (.t 3) (.g 2) (.t 6) true),
    (0xA2BD1C32, .atomAnd h .none (.t 10) (.g 7) (.g 1) true),
    (0xA2B0B193, .atomOr h .none (.g 1) (.g 12) (.g 12) true),
    (0xA2B446F4, .atomXor h .none (.g 8) (.t 1) (.t 7) true),
    (0xA2B7D855, .atomMin h .none (.g 15) (.t 6) (.g 2) true),
    (0xA2BB6DB6, .atomMax h .none (.t 6) (.t 11) (.g 13) true),
    (0xA2BE8317, .atomMinu h .none (.t 13) (.g 0) (.t 8) true),
    (0xA2B21478, .atomMaxu h .none (.g 4) (.g 5) (.g 3) true),
    (0xA2B5A9D9, .atomSwap h .none (.g 11) (.g 10) (.g 14) true),
    (0xA2B93F3A, .atomCas h .none (.t 2) (.g 15) (.t 9) true),
    (0xA2BCD09B, .atomFaddF32 h .none (.t 9) (.t 4) (.g 4)),
    (0xA2B065EC, .atomBadd h .none (.g 0) (.t 9) (.g 15))] = true := by decide +kernel

theorem test_decode_op_23 : decodesAll [
    (0xA3B50100, .fenceAcq h (.grp 1)),
    (0xA3B92600, .fenceRel h (.grp 38)),
    (0xA3BD4B00, .fenceAr h (.grp 75))] = true := by decide +kernel

theorem test_decode_op_24 : decodesAll [
    (0xA4B63760, .rvld h .none 12 (.g 13) (.t 11))] = true := by decide +kernel

theorem test_decode_op_25 : decodesAll [
    (0xA5B1C8C0, .rvst h .none 3 (.t 2) (.g 6))] = true := by decide +kernel

theorem test_decode_op_28 : decodesAll [
    (0xA8B05E20, .tdecl h (.t 7) (.t 1)),
    (0xA8B07381, .tlend h (.t 12) (.t 12)),
    (0xA8B00402, .tret h (.g 1)),
    (0xA8B01A43, .tsplit h (.g 6) (.t 2)),
    (0xA8B02C04, .tjoin h (.g 11)),
    (0xA8B04105, .tshare h (.t 0) (.g 8)),
    (0xA8B05406, .tunsh h (.t 5)),
    (0xA8BDEBC7, .tqry h (.t 11) (.t 10) (.t 14)),
    (0xA8B07C08, .trecl h (.t 15)),
    (0xA8B01289, .tclean h (.g 4) (.t 4))] = true := by decide +kernel

theorem test_decode_op_2C : decodesAll [
    (0xACB027E0, .send h .none 0 (.g 9) (.t 15)),
    (0xACB03941, .sendr h .none (.g 14) (.g 10)),
    (0xACBF4EA2, .door h .none (.t 14) (.t 3) (.t 5)),
    (0xACB2E003, .doorq h .none (.g 5) (.t 8)),
    (0xACB07564, .submit h .none (.t 13) (.g 11)),
    (0xACB00AC5, .ckpt h .none (.g 2) (.t 6))] = true := by decide +kernel

theorem test_decode_op_2D : decodesAll [
    (0xADB01C20, .cpy h .none (.g 7) (.g 1)),
    (0xADB08001, .cpyq h (.g 1)),
    (0xADB046E2, .cpyx h .none (.t 1) (.t 7))] = true := by decide +kernel

theorem test_decode_op_30 : decodesAll [
    (0xB0BF62D0, .vaddI32 h .none 15 6 2 (.by 5)),
    (0xB0B6BD81, .vsubI32 h .none 6 11 13 (.by 0)),
    (0xB0BD08B2, .vmulI32 h .none 13 0 8 (.by 3)),
    (0xB0B453E3, .vmulhI32 h .none 4 5 3 (.by 6)),
    (0xB0BBAE94, .vminI32 h .none 11 10 14 (.by 1)),
    (0xB0B2F9C5, .vmaxI32 h .none 2 15 9 (.by 4)),
    (0xB0B944F6, .vand h .none 9 4 4 (.by 7)),
    (0xB0B09FA7, .vor h .none 0 9 15 (.by 2)),
    (0xB0B7EAD8, .vxor h .none 7 14 10 (.by 5)),
    (0xB0BE3589, .vsll h .none 14 3 5 (.by 0)),
    (0xB0B580BA, .vsrl h .none 5 8 0 (.by 3)),
    (0xB0BCDBEB, .vsra h .none 12 13 11 (.by 6)),
    (0xB0B3269C, .vaddsI32 h .none 3 2 6 (.by 1)),
    (0xB0BA71CD, .vsubsI32 h .none 10 7 1 (.by 4)),
    (0xB0B1C0FE, .vabsI32 h .none 1 12 (.by 7)),
    (0xB0B817AF, .vminuI32 h .none 8 1 7 (.by 2))] = true := by decide +kernel

theorem test_decode_op_31 : decodesAll [
    (0xB1BF62D0, .vaddF32 h .none 15 6 2 (.by 5)),
    (0xB1B6BD81, .vsubF32 h .none 6 11 13 (.by 0)),
    (0xB1BD08B2, .vmulF32 h .none 13 0 8 (.by 3)),
    (0xB1B453E3, .vfmaF32 h .none 4 5 3 (.by 6)),
    (0xB1BBAE94, .vfmsF32 h .none 11 10 14 (.by 1)),
    (0xB1B2F9C5, .vminF32 h .none 2 15 9 (.by 4)),
    (0xB1B944F6, .vmaxF32 h .none 9 4 4 (.by 7)),
    (0xB1B090A7, .vabsF32 h .none 0 9 (.by 2)),
    (0xB1B7E0D8, .vnegF32 h .none 7 14 (.by 5)),
    (0xB1BE3589, .vfnmaF32 h .none 14 3 5 (.by 0))] = true := by decide +kernel

theorem test_decode_op_32 : decodesAll [
    (0xB2B580B0, .vaddI16 h .none 5 8 0 (.by 3)),
    (0xB2BCDBE1, .vsubI16 h .none 12 13 11 (.by 6)),
    (0xB2B32692, .vmulI16 h .none 3 2 6 (.by 1)),
    (0xB2BA71C3, .vaddsI16 h .none 10 7 1 (.by 4)),
    (0xB2B1CCF4, .vsubsI16 h .none 1 12 12 (.by 7)),
    (0xB2B817A5, .vminI16 h .none 8 1 7 (.by 2)),
    (0xB2BF62D6, .vmaxI16 h .none 15 6 2 (.by 5)),
    (0xB2B6BD88, .vaddBf16 h .none 6 11 13 (.by 0)),
    (0xB2BD08B9, .vsubBf16 h .none 13 0 8 (.by 3)),
    (0xB2B453EA, .vmulBf16 h .none 4 5 3 (.by 6)),
    (0xB2BBAE9B, .vfmaBf16 h .none 11 10 14 (.by 1)),
    (0xB2B2F9CC, .vminBf16 h .none 2 15 9 (.by 4)),
    (0xB2B944FD, .vmaxBf16 h .none 9 4 4 (.by 7))] = true := by decide +kernel

theorem test_decode_op_33 : decodesAll [
    (0xB3B09FA0, .vaddI8 h .none 0 9 15 (.by 2)),
    (0xB3B7EAD1, .vsubI8 h .none 7 14 10 (.by 5)),
    (0xB3BE3582, .vaddsI8 h .none 14 3 5 (.by 0)),
    (0xB3B580B3, .vsubsI8 h .none 5 8 0 (.by 3)),
    (0xB3BCDBE4, .vminI8 h .none 12 13 11 (.by 6)),
    (0xB3B32695, .vmaxI8 h .none 3 2 6 (.by 1)),
    (0xB3BA71C6, .vaddE4m3 h .none 10 7 1 (.by 4)),
    (0xB3B1CCF7, .vsubE4m3 h .none 1 12 12 (.by 7)),
    (0xB3B817A8, .vmulE4m3 h .none 8 1 7 (.by 2)),
    (0xB3BF62D9, .vminE4m3 h .none 15 6 2 (.by 5)),
    (0xB3B6BD8A, .vmaxE4m3 h .none 6 11 13 (.by 0)),
    (0xB3BD08BB, .vaddE5m2 h .none 13 0 8 (.by 3)),
    (0xB3B453EC, .vsubE5m2 h .none 4 5 3 (.by 6)),
    (0xB3BBAE9D, .vmulE5m2 h .none 11 10 14 (.by 1)),
    (0xB3B2F9CE, .vminE5m2 h .none 2 15 9 (.by 4)),
    (0xB3B944FF, .vmaxE5m2 h .none 9 4 4 (.by 7))] = true := by decide +kernel

theorem test_decode_op_34 : decodesAll [
    (0xB4B09000, .quantQb8 h .none 0 9),
    (0xB4B7E001, .quantQb4 h .none 7 14),
    (0xB4BE3082, .dequantQb8 h .none 14 3 (.by 0)),
    (0xB4B580B3, .dequantQb4 h .none 5 8 (.by 3)),
    (0xB4BCD004, .qtobaQb8 h .none 12 13),
    (0xB4B32005, .qtobaQb4 h .none 3 2),
    (0xB4BA7106, .badd h .none 10 7 1),
    (0xB4B1CC07, .balign h .none 1 12 12),
    (0xB4B813A8, .vlut h .none 8 1 3 (.by 2)),
    (0xB4BF62D9, .vdqw h .none 15 6 2 (.by 5))] = true := by decide +kernel

theorem test_decode_op_35 : decodesAll [
    (0xB5B6B080, .vcvtBf16F32 h .none 6 11 (.by 0)),
    (0xB5BD00B1, .vcvtF32Bf16 h .none 13 0 (.by 3)),
    (0xB5B450E2, .vcvtE4m3F32 h .none 4 5 (.by 6)),
    (0xB5BBA093, .vcvtE5m2F32 h .none 11 10 (.by 1)),
    (0xB5B2F0C4, .vcvtF32E4m3 h .none 2 15 (.by 4)),
    (0xB5B940F5, .vcvtF32E5m2 h .none 9 4 (.by 7)),
    (0xB5B090A6, .vcvtE4m3Bf16 h .none 0 9 (.by 2)),
    (0xB5B7E0D7, .vcvtE5m2Bf16 h .none 7 14 (.by 5)),
    (0xB5BE3088, .vcvtBf16E4m3 h .none 14 3 (.by 0)),
    (0xB5B580B9, .vcvtBf16E5m2 h .none 5 8 (.by 3)),
    (0xB5BCD0EA, .vcvtI32F32 h .none 12 13 (.by 6)),
    (0xB5B3209B, .vcvtF32I32 h .none 3 2 (.by 1)),
    (0xB5BA70CC, .vcvtBf16Q4 h .none 10 7 (.by 4)),
    (0xB5B1C0FD, .vcvtI8I32 h .none 1 12 (.by 7)),
    (0xB5B810AE, .vcvtI32I8 h .none 8 1 (.by 2))] = true := by decide +kernel

theorem test_decode_op_36 : decodesAll [
    (0xB6BF60D0, .vexp h .none 15 6 (.by 5)),
    (0xB6B6B081, .vexp2 h .none 6 11 (.by 0)),
    (0xB6BD00B2, .vlog h .none 13 0 (.by 3)),
    (0xB6B450E3, .vlog2 h .none 4 5 (.by 6)),
    (0xB6BBA094, .vrcp h .none 11 10 (.by 1)),
    (0xB6B2F0C5, .vrsqrt h .none 2 15 (.by 4)),
    (0xB6B940F6, .vsqrt h .none 9 4 (.by 7)),
    (0xB6B09FA7, .vdiv h .none 0 9 15 (.by 2)),
    (0xB6B7E0D8, .vtanh h .none 7 14 (.by 5)),
    (0xB6BE3089, .vsigm h .none 14 3 (.by 0)),
    (0xB6B580BA, .verf h .none 5 8 (.by 3)),
    (0xB6BCD0EB, .vsin h .none 12 13 (.by 6)),
    (0xB6B3209C, .vcos h .none 3 2 (.by 1))] = true := by decide +kernel

theorem test_decode_op_37 : decodesAll [
    (0xB7BA71C0, .vperm h .none 10 7 1 (.by 4)),
    (0xB7B1C0F1, .vbcast h .none 1 12 (.by 7)),
    (0xB7BF60D2, .vrot h .none 15 6 (.by 5)),
    (0xB7B60083, .viota h .none 6 (.by 0)),
    (0xB7BD08B4, .vsel h .none 13 0 8 3),
    (0xB7BBA006, .vext h .none 11 10),
    (0xB7B09FA8, .vcmpI32 h .none 0 9 15 (.by 2)),
    (0xB7B7EAD9, .vcmpF32 h .none 7 14 10 (.by 5)),
    (0xB7BE308A, .vrsumF32 h .none 14 3 (.by 0)),
    (0xB7B580BB, .vrsumI32 h .none 5 8 (.by 3)),
    (0xB7BCD0EC, .vrmaxF32 h .none 12 13 (.by 6)),
    (0xB7B3209D, .vrmaxI32 h .none 3 2 (.by 1)),
    (0xB7B1CC0F, .dmerge h .none 1 12 12)] = true := by decide +kernel

theorem test_decode_op_38 : decodesAll [
    (0xB8B004E0, .mmaF8f8 h 0 (.g 1) (.g 7)),
    (0xB8B19A41, .mmaB16b16 h 3 (.g 6) (.t 2)),
    (0xB8B02FA2, .mmaF8i4 h false (.g 11) (.t 13)),
    (0xB8B14103, .mmaB16i4 h true (.t 0) (.g 8)),
    (0xB8B05664, .mmaB16l4 h false (.t 5) (.t 3)),
    (0xB8B1EBC5, .mmaQb8 h 3 (.t 10) (.t 14)),
    (0xB8B17D26, .mmaQb4 h 2 (.t 15) (.g 9))] = true := by decide +kernel

theorem test_decode_op_39 : decodesAll [
    (0xB9B01280, .mldw h (.g 4) (.t 4)),
    (0xB9B00001, .mswap h),
    (0xB9B1B802, .mldk h 3 14),
    (0xB9B00CA3, .mcolq h false 3 5),
    (0xB9B08004, .mzero h 1),
    (0xB9B60465, .mmovaToVector h 12 1 3),
    (0xB9B18885, .mmovaToAcc h 3 2 0),
    (0xB9B50C06, .mrsum h 10 3),
    (0xB9B08007, .mchk h (.g 1) 0),
    (0xB9B40008, .msync h (.g 8))] = true := by decide +kernel

theorem test_decode_op_3A : decodesAll [
    (0xBAB788C4, .mdrainF32 h .none 15 2 2 true),
    (0xBAB30C25, .mdrainBf16 h .none 6 3 1 false),
    (0xBAB68086, .mdrainE4m3 h .none 13 0 0 true),
    (0xBAB20407, .mdrainE5m2 h .none 4 1 0 false),
    (0xBAB58848, .mdrainQb8 h .none 11 2 2 false),
    (0xBAB10CC9, .mdrainQb4 h .none 2 3 2 true),
    (0xBAB4804C, .mdrainBa32 h .none 9 0 2 false)] = true := by decide +kernel

theorem test_decode_op_3C : decodesAll [
    (0xBCB065E0, .linit h .none (.t 9) (.g 15)),
    (0xBCB3FB41, .larv h .none (.g 7) (.t 14) (.t 10)),
    (0xBCB70CA2, .lwait h .none (.g 14) (.g 3) (.g 5)),
    (0xBCBAA003, .ltest h .none (.t 5) (.g 8)),
    (0xBCB03764, .lreg h .none (.g 13) (.t 11)),
    (0xBCB048C5, .ldrop h .none (.t 2) (.g 6)),
    (0xBCB55E26, .lbytes h .none (.g 10) (.t 7) (.t 1))] = true := by decide +kernel

theorem test_decode_op_3D : decodesAll [
    (0xBDB88000, .rngget h (.t 1))] = true := by decide +kernel

theorem test_decode_op_3E : decodesAll [
    (0xBEBC04E0, .fadd h .none (.t 8) (.g 1) (.g 7)),
    (0xBEBF9A41, .fsub h .none (.t 15) (.g 6) (.t 2)),
    (0xBEB32FA2, .fmul h .none (.g 6) (.g 11) (.t 13)),
    (0xBEB6C103, .fdiv h .none (.g 13) (.t 0) (.g 8)),
    (0xBEBA5404, .fsqrt h .none (.t 4) (.t 5)),
    (0xBEBDEBC5, .fma h .none (.t 11) (.t 10) (.t 14)),
    (0xBEB17D26, .fmin h .none (.g 2) (.t 15) (.g 9)),
    (0xBEB49287, .fmax h .none (.g 9) (.g 4) (.t 4)),
    (0xBEB027E8, .feq h .none 0 (.g 9) (.t 15)),
    (0xBEB3B949, .flt h .none 7 (.g 14) (.g 10)),
    (0xBEB34EAA, .fle h .none 6 (.t 3) (.t 5)),
    (0xBEB2E00B, .fcvti h .none (.g 5) (.t 8)),
    (0xBEB6740C, .fcvtf h .none (.g 12) (.t 13)),
    (0xBEB9880D, .fabs h .none (.t 3) (.g 2)),
    (0xBEBD1C0E, .fneg h .none (.t 10) (.g 7)),
    (0xBEB0B00F, .fclass h .none (.g 1) (.g 12))] = true := by decide +kernel


/-- The answer of the decoder, to compare. -/
noncomputable def reads (w : Nat) (next : Option Nat) (i : Instr) : Bool :=
  match decode w next false with
  | .ok j => decide (j = i)
  | .error _ => false

/-- Two-word forms of R141, R142 and R154 from the layouts of R64 and R65, and the NONSAT drain of R178: PK 10 in [23:22], FMT2 in [21:18], RM in [17:15], SAT in
[14], SB in [13], XB in [12:8], IMM8 in [7:0]. -/
theorem test_decode_two_words :
    reads 0x3F803100 (some 0x37040001) (.vbcastScalar .default ⟨.i8, .rne, false, true, .t 1, 0⟩ 4 .all) = true ∧
    reads 0x3F80313F (some 0x37040005) (.vins .default ⟨.i8, .rne, false, true, .t 1, 63⟩ 4) = true ∧
    reads 0x3F803100 (some 0x37040007) (.vhdrWrite .default ⟨.i8, .rne, false, true, .t 1, 0⟩ 4) = true ∧
    reads 0x3F800001 (some 0x37042007) (.vhdrRead .default ⟨.i8, .rne, false, false, .g 0, 1⟩ 4 2) = true ∧
    reads 0x3F803100 (some 0x3704200E) (.vdraw .default ⟨.i8, .rne, false, true, .t 1, 0⟩ 4 2 .all) = true ∧
    reads 0x3F938000 (some 0x3A040406) (.mdrainE4m3 .default (.vec ⟨.f32, .dyn, false, false, .g 0, 0⟩) 8 1 0 false) = true := by
  decide +kernel

/-- The words of the worked examples of R220, R244 and R361. -/
theorem test_decode_worked :
    reads 0x28000440 none (.tdecl .default (.g 1) (.g 2)) = true ∧ reads 0x28000C81 none (.tlend .default (.g 3) (.g 4)) = true ∧
    reads 0x230A0000 none (.fenceRel .default .part) = true ∧ reads 0x3C0010A0 none (.linit .default .none (.g 4) (.g 5)) = true ∧
    reads 0x3C0010C4 none (.lreg .default .none (.g 4) (.g 6)) = true ∧
    reads 0x3C0B90C2 none (.lwait .default .none (.t 7) (.g 4) (.g 6)) = true := by
  decide +kernel

/-- The host's two questions, asked of `add g4, g3, g3`, a worked example of the encodings (spec/03). -/
theorem test_tableWord : (decodeTableWord 32 0x01020C60 == some (.add .default (.g 4) (.g 3) (.g 3))) = true := by decide +kernel

theorem test_firstStep :
    (match step (State.reset.withFetchWord 32 0x01020C60) with
      | .next t => (t.core? 0).any fun k => decide ((k.slot 0).pc = 4)
      | _ => false) = true := by decide +kernel


/-! ## A small machine -/

/-- Slot 0 of a core RUNNING at pc 0 and the other slots FREE, in the partition of the field (0, 0). -/
def spotCore : Core :=
  { Core.reset with
    regs := { Regs.reset with
      slots := Regs.reset.slots.set 0 { Slot.reset with st := .running }
      part := BitVec.ofNat 36 (72 * 2 ^ 27 + 59 * 2 ^ 18) } }

/-- A RUNNING partition of the field (0, 0). -/
def spotEntry : PartEntry := { PartEntry.reset with st := .running, seq := 1 }

/-- Port 0 with a trained memory device of 1 GiB, and port 2 with a trained host. -/
def spotPorts : Vector Port 64 :=
  (State.reset.ports.set 0 { Port.reset 0 with up := true, cap := 1 }).set 2 { Port.reset 2 with up := true }

def spotMgr : Manager :=
  { Manager.reset with
    power := true, stage := 6, ready := true, jseq := 1, hangNs := 1000000000
    table := Manager.reset.table.set 0 spotEntry }

/-- The module 2 µs after power-good with these cores; core 0 is the current one. -/
def world (ks : List (Nat × Core)) : State := { State.reset with now := 2600, cores := ks, ports := spotPorts, mgr := spotMgr }

/-- The module with core 0 alone. -/
def spot (k : Core) : State := world [(0, k)]

/-- Registers g1, g2 and g3 of slot 0. -/
def with3 (k : Core) (a b c : Word) : Core :=
  { k with regs := { k.regs with g := ((k.regs.g.set 1 a).set 2 b).set 3 c } }

/-- No write in flight lands, no error is corrected and nothing is injected when slot 0 issues. -/
def quiet (k : Core) (cyc : Nat) : Bool :=
  k.inflight.all (fun x => decide (cyc < x.lands)) && k.soft.isEmpty && !k.regs.finj.getLsbD 0

theorem quiet_land {k : Core} {c : Nat} (h : quiet k c = true) : k.land c = k := by
  simp only [quiet, Bool.and_eq_true] at h
  have : (k.inflight.filter fun x => decide (c < x.lands)) = k.inflight := List.filter_eq_self.mpr (List.all_eq_true.mp h.1.1)
  unfold Core.land
  rw [this]

theorem quiet_injectRead {k : Core} {c : Nat} (h : quiet k c = true) (a n : Nat) : k.injectRead a n = k := by
  simp only [quiet, Bool.and_eq_true, List.isEmpty_iff, Bool.not_eq_true'] at h
  simp only [Core.injectRead, Core.correct, h.1.2, h.2, List.isEmpty_nil, if_true, Bool.false_and, Bool.false_eq_true, if_false]

theorem quiet_atIssue {s : State} {k : Core} (hk : quiet k (s.cyc s.cur) = true) (hc : s.core? s.cur = some k) (sl : Fin 8) (n : Nat) :
    (s.atIssue sl n).core? s.cur = some k := by
  have : ∀ l : List (Nat × Core), aget s.cur l = some k →
      aget s.cur (amod s.cur (fun q => (q.land (s.cyc s.cur)).injectRead (q.slot sl).pc (4 * n)) l) = some k := by
    intro l
    induction l with
    | nil => intro h; exact h
    | cons e l ih =>
      intro he
      simp only [aget, amod] at he ⊢
      split at he
      · rename_i hi
        simp only [Option.some.injEq] at he
        have hf : (k.land (s.cyc s.cur)).injectRead (k.slot sl).pc (4 * n) = k := by rw [quiet_land hk, quiet_injectRead hk]
        rw [if_pos hi]
        simp only [aget, if_pos hi, he, hf]
      · rename_i hi
        simp [aget, hi, ih he]
  exact this s.cores hc

/-- What `Fetches` says of slot 0, as a computation. -/
def fetchB (s : State) (n : Nat) (k : Core) : Bool :=
  quiet k (s.cyc s.cur) && decide (k.running = some 0) && (k.fetchFault (k.slot 0).pc n).isNone

/-- What `Ready` says of slot 0, as a computation. -/
def readyB (s : State) (h : Head) (n : Nat) (uses : Fin 8 → Uses) (k : Core) : Bool :=
  fetchB s n k && !((k.slot 0).schk && !(RegId.p 0 h.gp).hardwired && k.inFlight (.p 0 h.gp) (s.cyc s.cur)) && !((k.view s.fresh).getP 0 h.gp == h.neg)
    && !(((uses 0).reads ++ (uses 0).writes).any fun r => k.isPending r)
    && !((k.slot 0).schk && (uses 0).reads.any fun r => k.inFlight r (s.cyc s.cur))
    && !((uses 0).reads.any fun r => k.regs.badRegs.contains r)

theorem fetches_of {s : State} {n : Nat} {k : Core} (hc : s.core? s.cur = some k) (h : fetchB s n k = true) : Fetches s n k 0 := by
  simp only [fetchB, Bool.and_eq_true, decide_eq_true_eq, Option.isNone_iff_eq_none] at h
  exact ⟨quiet_atIssue h.1.1 hc 0 n, by simp [hc, h.1.2], h.2⟩

theorem ready_of {s : State} {hd : Head} {n : Nat} {uses : Fin 8 → Uses} {k : Core} (hc : s.core? s.cur = some k)
    (h : readyB s hd n uses k = true) : Ready s hd n uses k 0 := by
  simp only [readyB, Bool.and_eq_true, Bool.not_eq_true'] at h
  obtain ⟨⟨⟨⟨⟨h1, h2⟩, h3⟩, h4⟩, h5⟩, h6⟩ := h
  exact ⟨fetches_of hc h1, h2, h3, h4, h5, h6⟩

/-- An instruction whose guard is p0 is ready at a core that stands alone. -/
abbrev ReadyAt (k : Core) (n : Nat) (uses : Fin 8 → Uses) : Prop := Ready (spot k) Head.default n uses k 0

theorem readyAt {k : Core} {n : Nat} {uses : Fin 8 → Uses} (h : readyB (spot k) Head.default n uses k = true) : ReadyAt k n uses :=
  ready_of rfl h

/-- On any state whose current core runs slot 0 at pc 0 with nothing pending, in flight or in error, every instruction of at most two
words is ready whose guard is p0. -/
theorem witness_readyAtSpot (n : Nat) (hn : n ≤ 2) (uses : Fin 8 → Uses) : ReadyAt spotCore n uses := by
  refine ⟨⟨quiet_atIssue (k := spotCore) (by decide +kernel) rfl 0 n, by decide +kernel, ?_⟩, ?_, by decide +kernel, ?_, ?_, ?_⟩
  · have : ∀ m : Fin 3, spotCore.fetchFault (spotCore.slot 0).pc m.val = none := by decide +kernel
    exact this ⟨n, by omega⟩
  · unfold GuardReads; decide +kernel
  · have : spotCore.pendingRegs = [] := by decide +kernel
    simp [Core.isPending, this]
  · have : (spotCore.slot 0).schk = false := by decide +kernel
    simp [this]
  · have : spotCore.regs.badRegs = [] := by decide +kernel
    simp [this]

/-- The forms with flags (SaturatingSumsClamp, ScalarFloatIsRight, IntegerLanesAreRight, FloatingPointLanesAreRight, ConversionsAreRight,
BlockInstructionsAreRight, ComparesMovesAndReductionsAreRight): FTRAP enables nothing, and the floating-point pipe is free. -/
theorem witness_forms (f : Former) (n : Nat) (hn : n ≤ 2) (uses : Fin 8 → Uses) :
    Ready (spot spotCore) Head.default n uses spotCore 0 ∧ spotCore.fpFree ≤ (spot spotCore).cyc (spot spotCore).cur ∧
      trapCause ((formed f (spot spotCore) n spotCore 0).2.flags &&& (spotCore.slot 0).ftrap) = none :=
  ⟨witness_readyAtSpot n hn uses, Nat.zero_le _, by
    have : (spotCore.slot 0).ftrap = 0 := by decide +kernel
    simp [this, trapCause]⟩

/-! ## What meets the hypotheses of the statements -/

/-- A result of slot 0 that is pending for register `r`. -/
def resultFor (r : RegId) : Result := ⟨7, 0, r, .word 0, 99999, 0, 0, 0, 0, false⟩

/-- A store of slot 0 that is buffered for these bytes. -/
def storeAt (a : Nat) (bs : List Byte) : StoreBuf := ⟨8, 0, a, bs, 99999, 0⟩

def atPc (k : Core) (pc : Nat) : Core := k.modSlot 0 fun x => { x with pc := pc }

/-- DivisionIsRight: quotients of 1 and 64 significant bits, and the two corners. -/
theorem witness_division : ReadyAt spotCore 1 (usesRRR (.g 1) (.g 2) (.g 3)) ∧
    ((0x8000000000000000#64).toInt = -2 ^ 63 ∧ (-1#64).toInt = -1) ∧
    ((5#64) ≠ 0 ∧ (4#64).toNat < (5#64).toNat ∧ (-4#64).toInt.tdiv (5#64).toInt = 0) ∧
    ((3#64) ≠ 0 ∧ 2 ^ 0 ≤ (4#64).toNat / (3#64).toNat ∧ (4#64).toNat / (3#64).toNat < 2 ^ (0 + 1)) ∧
    ((1#64) ≠ 0 ∧ 2 ^ 63 ≤ (BitVec.allOnes 64).toNat / (1#64).toNat ∧ (BitVec.allOnes 64).toNat / (1#64).toNat < 2 ^ (63 + 1)) ∧
    ((1#64) ≠ 0 ∧ ¬ ((0x8000000000000000#64).toInt = -2 ^ 63 ∧ (1#64).toInt = -1) ∧
      2 ^ 63 ≤ ((0x8000000000000000#64).toInt.tdiv (1#64).toInt).natAbs ∧
      ((0x8000000000000000#64).toInt.tdiv (1#64).toInt).natAbs < 2 ^ (63 + 1)) :=
  ⟨readyAt (by decide +kernel), by decide, by decide, by decide, by decide, by decide⟩

/-- BranchesGoToTheirTarget: the last word of the local store is a target, the next one a range fault, an odd one an alignment fault. -/
theorem witness_branches :
    ((ReadyAt spotCore 1 usesNone ∧ BitVec.ofInt 64 (((spotCore.slot 0).pc : Int) + 4 * (0xBFFF#20).toInt) = 0x2FFFC) ∧
      (ReadyAt spotCore 1 (usesD (.t 15)) ∧ BitVec.ofInt 64 (((spotCore.slot 0).pc : Int) + 4 * (0xC000#20).toInt) = 0x30000)) ∧
    (∀ v ∈ [0x2FFFC#64, 0x2FFFD#64, 0x30000#64], let k := with3 spotCore v 0 0;
      ReadyAt k 1 (usesA (.g 1)) ∧ ReadyAt k 1 (usesRR (.g 2) (.g 1)) ∧ (ctxOf (spot k) 1 k 0).rs (.g 1) = v) ∧
    (let k := spotCore.setS 0 (.t 15) 0x30001; ReadyAt k 1 (usesA (.t 15)) ∧ (ctxOf (spot k) 1 k 0).rs (.t 15) = 0x30001) ∧
    ((0x2FFFC#64).toNat % 4 = 0 ∧ (0x2FFFC#64).toNat < 0x30000 ∧ (0x2FFFD#64).toNat % 4 ≠ 0 ∧ (0x30001#64).toNat % 4 ≠ 0 ∧
      (0x30000#64).toNat % 4 = 0 ∧ 0x30000 ≤ (0x30000#64).toNat) := by
  refine ⟨⟨⟨readyAt (by decide +kernel), by decide +kernel⟩, ⟨readyAt (by decide +kernel), by decide +kernel⟩⟩, ?_,
    ⟨readyAt (by decide +kernel), by decide +kernel⟩, by decide⟩
  intro v hv
  simp only [List.mem_cons, List.not_mem_nil, or_false] at hv
  rcases hv with rfl | rfl | rfl <;> exact ⟨readyAt (by decide +kernel), readyAt (by decide +kernel), by decide +kernel⟩

def activeLoop (start last : Nat) : LoopLevel := ⟨true, start, last⟩

/-- A slot with these levels and counts, level `i` the inner one. -/
def loopSlot (i : Fin 2) (l0 l1 : LoopLevel) (c0 c1 : BitVec 32) : Slot :=
  { Slot.reset with inner := i, loop := (Slot.reset.loop.set 0 l0).set 1 l1, lc := (Slot.reset.lc.set 0 c0).set 1 c1 }

/-- LoopsAreRight: entries that end at and past the last word, that do not nest, with counts 0 and 1; and the seven back-edge cases. -/
theorem witness_loops :
    (let k := atPc (with3 spotCore 1 0 0) 0x2FFF4;
      ReadyAt k 1 (usesA (.g 1)) ∧ ReadyAt k 1 (usesA (.g 2)) ∧ ReadyAt k 2 usesNone ∧ min ((ctxOf (spot k) 1 k 0).rs (.g 1)).toNat 0xFFFFFFFF = 1 ∧
        min ((ctxOf (spot k) 1 k 0).rs (.g 2)).toNat 0xFFFFFFFF = 0 ∧ loopCount (.imm 0) 0 = 0 ∧
        0x2FFF4 + 4 + 4 * ((2#13).toNat - 1) ≤ 0x2FFFC ∧ 0x2FFFC < 0x2FFF4 + 4 + 4 * ((3#13).toNat - 1) ∧
        ((k.slot 0).loop[(1 : Fin 2)]).active = false ∧ ((k.slot 0).loop[(0 : Fin 2)]).active = false) ∧
    (let k := spotCore.modSlot 0 fun x => { x with loop := x.loop.set 0 (activeLoop 4 8) };
      ReadyAt k 1 (usesA (.g 1)) ∧ ((k.slot 0).loop[(0 : Fin 2)]).active = true ∧ ((k.slot 0).loop[(1 : Fin 2)]).active = false ∧
        ((k.slot 0).loop[(0 : Fin 2)]).start ≤ 4 ∧ 8 ≤ ((k.slot 0).loop[(0 : Fin 2)]).last ∧ ¬ 12 ≤ ((k.slot 0).loop[(0 : Fin 2)]).last) ∧
    (∀ i : Fin 2, let a := activeLoop 0 8; let z := LoopLevel.reset;
      ((∀ x ∈ [loopSlot i a a 2 2], x.loop[i].active = true ∧ x.loop[i].last = 8 ∧ 1 < (x.lc[i]).toNat) ∧
        (∀ x ∈ [loopSlot i a a (if i = 0 then 1 else 2) (if i = 0 then 2 else 1)], x.loop[i].active = true ∧ x.loop[i].last = 8 ∧
          (x.lc[i]).toNat ≤ 1 ∧ x.loop[1 - i].active = true ∧ x.loop[1 - i].last = 8 ∧ 1 < (x.lc[1 - i]).toNat) ∧
        (∀ x ∈ [loopSlot i a a 1 1], x.loop[i].active = true ∧ x.loop[i].last = 8 ∧ (x.lc[i]).toNat ≤ 1 ∧ x.loop[1 - i].active = true ∧
          x.loop[1 - i].last = 8 ∧ (x.lc[1 - i]).toNat ≤ 1) ∧
        (∀ x ∈ [loopSlot i (if i = 0 then a else z) (if i = 0 then z else a) 1 1], x.loop[i].active = true ∧ x.loop[i].last = 8 ∧
          (x.lc[i]).toNat ≤ 1 ∧ x.loop[1 - i].active = false) ∧
        (∀ x ∈ [loopSlot i (if i = 0 then z else a) (if i = 0 then a else z) 2 2], x.loop[i].active = false ∧
          x.loop[1 - i].active = true ∧ x.loop[1 - i].last = 8 ∧ 1 < (x.lc[1 - i]).toNat) ∧
        (∀ x ∈ [loopSlot i (if i = 0 then z else a) (if i = 0 then a else z) 1 1], x.loop[i].active = false ∧
          x.loop[1 - i].active = true ∧ x.loop[1 - i].last = 8 ∧ (x.lc[1 - i]).toNat ≤ 1) ∧
        (∀ x ∈ [loopSlot i z z 1 1], x.loop[i].active = false ∧ x.loop[1 - i].active = false))) :=
  ⟨⟨readyAt (by decide +kernel), readyAt (by decide +kernel), readyAt (by decide +kernel), by decide +kernel⟩,
    ⟨readyAt (by decide +kernel), by decide +kernel⟩, by decide +kernel⟩

/-- FalseGuardDoesNothing: NOP with the guard !p0. -/
theorem witness_falseGuard : (Instr.nop ⟨0, true, 0⟩).wf = true ∧ Fetches (spot spotCore) 1 spotCore 0 ∧
    GuardReads (spot spotCore) ⟨0, true, 0⟩ spotCore 0 ∧ ((spotCore.view (spot spotCore).fresh).getP 0 0 == true) = true :=
  ⟨by decide, fetches_of rfl (by decide +kernel), by unfold GuardReads; decide +kernel, by decide +kernel⟩

/-- A core with SCHK.EN whose write of register `r` lands one cycle from now. -/
def schkCore (r : RegId) (old : RegVal) : Core :=
  { spotCore.modSlot 0 (fun x => { x with schk := true }) with inflight := [⟨r, 2601, old⟩] }

/-- BusyRegistersHoldOrStall: ADD g1, g2, g3 with a result pending for its destination and for an operand; with SCHK.EN, a write of
p1 in flight that guards it, and one of g2 that it reads. -/
theorem witness_busyRegisters :
    (∀ r ∈ [RegId.g 1, RegId.g 3], let k := { spotCore with results := [resultFor r] };
      Fetches (spot k) 1 k 0 ∧ r ∈ (usesOf (.add Head.default (.g 1) (.g 2) (.g 3)) 0).reads ++ (usesOf (.add Head.default (.g 1) (.g 2) (.g 3)) 0).writes ∧
        k.isPending r = true ∧ GuardReads (spot k) Head.default k 0) ∧
    (let k := schkCore (.p 0 1) (.pred true);
      Fetches (spot k) 1 k 0 ∧ (k.slot 0).schk = true ∧ k.inFlight (.p 0 1) ((spot k).cyc 0) = true ∧
        ((k.view 0).getP 0 1 == false) = true ∧ ((k.view 0).getP 0 1 == true) = false) ∧
    (let k := schkCore (.g 2) (.word 5);
      Fetches (spot k) 1 k 0 ∧ (k.slot 0).schk = true ∧ k.inFlight (.g 2) ((spot k).cyc 0) = true ∧ GuardReads (spot k) Head.default k 0 ∧
        ((k.view 0).getP 0 0 == false) = false ∧
        ∀ q ∈ (usesOf (.add Head.default (.g 1) (.g 2) (.g 3)) 0).reads ++ (usesOf (.add Head.default (.g 1) (.g 2) (.g 3)) 0).writes,
          k.isPending q = false) := by
  refine ⟨?_, ⟨fetches_of rfl (by decide +kernel), by decide +kernel, by decide +kernel⟩,
    ⟨fetches_of rfl (by decide +kernel), by decide +kernel, by decide +kernel, by unfold GuardReads; decide +kernel, ?_, by decide +kernel⟩⟩
  · intro r hr
    simp only [List.mem_cons, List.not_mem_nil, or_false] at hr
    rcases hr with rfl | rfl <;> exact ⟨fetches_of rfl (by decide +kernel), by decide +kernel, by decide +kernel, by unfold GuardReads; decide +kernel⟩
  · simp [Core.getP]

/-- A home region of 256-byte units [lo, hi) in this state. -/
def region (st : TokState) (lo hi : Nat) : HomeTok := ⟨st, lo, hi, none, 0, 0, Vector.replicate 4 none, 0, false, 0, false, 0, 0, false, false, false⟩

def withHome (k : Core) (l : List (Nat × HomeTok)) : Core := { k with tables := { k.tables with home := l } }

/-- BadFetchesFault: a first and a second word in a LENT region, a first and a second word uncorrectable, an uncorrectable register; and
words that are no instruction at 0 and past the end of the store. -/
theorem witness_badFetches :
    (let k := withHome spotCore [(0, region .lent 0 1)];
      quiet k ((spot k).cyc 0) = true ∧ k.tables.byteAllowed false 0 = false) ∧
    (let k := withHome (atPc spotCore 0xFC) [(0, region .lent 1 2)];
      quiet k ((spot k).cyc 0) = true ∧ k.tables.byteAllowed false 0xFC = true ∧ k.tables.byteAllowed false 0x100 = false) ∧
    (let k := { atPc spotCore 4 with badWords := [1] };
      quiet k ((spot k).cyc 0) = true ∧ ¬ (4 + 4 * 0) / 8 ∈ k.badWords ∧ (4 + 4 * 1) / 8 ∈ k.badWords) ∧
    (let k := { spotCore with regs := { spotCore.regs with badRegs := [.g 2] } };
      Fetches (spot k) 1 k 0 ∧ RegId.g 2 ∈ k.regs.badRegs ∧ RegId.g 2 ∈ (usesOf (.add Head.default (.g 1) (.g 2) (.g 3)) 0).reads ∧
        GuardReads (spot k) Head.default k 0 ∧ (k.slot 0).schk = false) ∧
    (spotCore.running = some 0 ∧ spotCore.fetchFault 0 1 = none) ∧
    ((atPc spotCore 0x30000).running = some 0 ∧ 0x30000 ≤ ((atPc spotCore 0x30000).slot 0).pc) :=
  ⟨by decide +kernel, by decide +kernel, by decide +kernel,
    ⟨fetches_of rfl (by decide +kernel), by decide +kernel, by decide +kernel, by unfold GuardReads; decide +kernel, by decide +kernel⟩,
    by decide +kernel, by decide +kernel⟩

/-- WaitsEndOrSuspend: work outstanding and not; WAITA at a misaligned, a last and a past address, on a bad word, on a satisfying and a
lesser word; ISYNC with and without a store. -/
theorem witness_waits :
    (ReadyAt spotCore 1 (usesRR (.g 1) (.g 2)) ∧ spotCore.outstanding 0 = false) ∧
    (let k := { spotCore with results := [resultFor (.g 9)] };
      ReadyAt k 1 (usesRR (.g 1) (.g 2)) ∧ k.outstanding 0 = true) ∧
    (let k := { spotCore with stores := [{ storeAt 64 [1] with due := 2602 }] };
      ReadyAt k 1 (usesRR (.g 1) (.g 2)) ∧ ∃ b ∈ k.stores, b.slot = 0 ∧ (spot k).cyc 0 + 1 < b.due) ∧
    (let k := with3 spotCore 0x2FFF9 0 0;
      ReadyAt k 1 (usesRRRd (.g 3) (.g 1) (.g 2)) ∧ k.scopeOk (ordOf .none).2 = true ∧ ((ctxOf (spot k) 1 k 0).rs (.g 1)).toNat % 8 ≠ 0) ∧
    (let k := with3 spotCore 0x30000 0 0;
      ReadyAt k 1 (usesRRRd (.g 3) (.g 1) (.g 2)) ∧ ((ctxOf (spot k) 1 k 0).rs (.g 1)).toNat = 0x30000) ∧
    (∀ bound ∈ [0#64, 1#64], let k := with3 spotCore 0x2FFF8 bound 0;
      ReadyAt k 1 (usesRRRd (.g 3) (.g 1) (.g 2)) ∧ ((ctxOf (spot k) 1 k 0).rs (.g 1)).toNat = 0x2FFF8 ∧ (ctxOf (spot k) 1 k 0).rs (.g 2) = bound ∧
        k.localHold 0 0 0x2FFF8 8 false = false ∧ k.readHold 0 ((spot k).cyc 0) = false ∧ (k.injectRead 0x2FFF8 8).badView 0 0x2FFF8 8 = none ∧
        ((k.injectRead 0x2FFF8 8).memView 0).readLE 0x2FFF8 8 = 0) ∧
    (let k := { with3 spotCore 0x2FFF8 0 0 with badWords := [0x5FFF] };
      ReadyAt k 1 (usesRRRd (.g 3) (.g 1) (.g 2)) ∧ (k.injectRead 0x2FFF8 8).badView 0 0x2FFF8 8 ≠ none ∧ k.localHold 0 0 0x2FFF8 8 false = false ∧ k.readHold 0 ((spot k).cyc 0) = false) ∧
    (let k := { spotCore with stores := [storeAt 64 [1]] };
      ReadyAt k 1 usesNone ∧ (∃ b ∈ k.stores, b.slot = 0) ∧ ∀ b ∈ spotCore.stores, b.slot ≠ 0) := by
  refine ⟨⟨readyAt (by decide +kernel), by decide +kernel⟩, ⟨readyAt (by decide +kernel), by decide +kernel⟩,
    ⟨readyAt (by decide +kernel), by decide +kernel⟩, ⟨readyAt (by decide +kernel), by decide +kernel⟩,
    ⟨readyAt (by decide +kernel), by decide +kernel⟩, ?_,
    ⟨readyAt (by decide +kernel), by decide +kernel⟩, ⟨readyAt (by decide +kernel), by decide +kernel⟩⟩
  intro v hv
  simp only [List.mem_cons, List.not_mem_nil, or_false] at hv
  rcases hv with rfl | rfl <;> exact ⟨readyAt (by decide +kernel), by decide +kernel⟩

/-- EndDrainsOrFrees: a slot without memberships, with work and without. -/
theorem witness_end :
    (ReadyAt spotCore 1 usesNone ∧ (∀ e ∈ spotCore.tables.members, e.2.slot ≠ 0) ∧ spotCore.working 0 = false ∧
      (∀ e ∈ spotCore.tables.held, e.2.slot ≠ 0) ∧ (∀ e ∈ spotCore.tables.home, e.2.rel = false) ∧ spotCore.tables.msgs = []) ∧
    (let k := { spotCore with stores := [storeAt 64 [1]] };
      ReadyAt k 1 usesNone ∧ (∀ e ∈ k.tables.members, e.2.slot ≠ 0) ∧ k.working 0 = true) :=
  ⟨⟨readyAt (by decide +kernel), by decide +kernel⟩, ⟨readyAt (by decide +kernel), by decide +kernel⟩⟩

/-- ControlRegistersAreRight: the three forms of change; FFLAGS with a flag-raising result pending and without, another register. -/
theorem witness_controlRegisters :
    (∃ form : Word → Word → Word, ∀ x y, form x y = y) ∧ (∃ form : Word → Word → Word, ∀ x y, form x y = x ||| y) ∧
    (∃ form : Word → Word → Word, ∀ x y, form x y = x &&& ~~~y) ∧
    (ReadyAt spotCore 1 (usesRR (.g 1) (.g 2)) ∧ spotCore.flagsBusy 0 = false) ∧ (0x056#10 ≠ 0) ∧
    (let k := { spotCore with results := [resultFor (.g 9)] };
      ReadyAt k 1 (usesRR (.g 1) (.g 2)) ∧ k.flagsBusy 0 = true) :=
  ⟨⟨fun _ y => y, fun _ _ => rfl⟩, ⟨fun x y => x ||| y, fun _ _ => rfl⟩, ⟨fun x y => x &&& ~~~y, fun _ _ => rfl⟩,
    ⟨readyAt (by decide +kernel), by decide +kernel⟩, by decide, ⟨readyAt (by decide +kernel), by decide +kernel⟩⟩

/-- FaultReportFieldsAreRight: the last code, core and resume address. -/
theorem witness_faultReport : Cause.code .uecore < 256 ∧ 2 ^ 18 - 1 < 2 ^ 18 ∧ (FaultInfo.here 0 (2 ^ 18 - 1)).rpc < 2 ^ 18 := by decide

/-- A core whose slot 0 has changed by `f`, with door 31 dispatchable at 0x100. -/
def trapCore (f : Slot → Slot) : Core :=
  { spotCore.modSlot 0 f with tables := { spotCore.tables with doors := spotCore.tables.doors.set 31 0x08000040 } }

/-- FaultsTrapOrKill: a slot that traps, in each live state; a fault in a trap and with door 31 closed; a DRAINING slot; work issued before
the latest trap entry. -/
theorem witness_faults :
    (∀ st ∈ [SlotState.ready, .running, .waiting], let k := trapCore fun x => { x with st := st };
      (spot k).core? 0 = some k ∧ (k.slot 0).st ∈ [SlotState.ready, .running, .waiting] ∧ (k.slot 0).intrap = false ∧
        doorOpen (vat k.tables.doors 31 0) = true ∧ (FaultInfo.here 0 0).issued = none ∧ (k.slot 0).killed = false) ∧
    ((trapCore fun x => { x with intrap := true }).slot 0).intrap = true ∧ doorOpen (vat spotCore.tables.doors 31 0) = false ∧
    ((trapCore fun x => { x with st := .draining }).slot 0).st = .draining ∧ Cause.code .nvtrap / 16 = 4 ∧ Cause.code .lalign / 16 ≠ 4 ∧
    (∃ i t, ({ FaultInfo.here 0 0 with issued := some 4 } : FaultInfo).issued = some i ∧
      ((trapCore fun x => { x with trapAt := some 5 }).slot 0).trapAt = some t ∧ i < t) := by
  refine ⟨?_, by decide +kernel, by decide +kernel, by decide +kernel, by decide, by decide, ⟨4, 5, rfl, by decide +kernel, by decide⟩⟩
  intro st hst
  simp only [List.mem_cons, List.not_mem_nil, or_false] at hst
  rcases hst with rfl | rfl | rfl <;> exact ⟨rfl, by decide +kernel⟩

/-- EnabledFlagsTrap: sums and products that saturate or overflow with every flag enabled. -/
theorem witness_enabledFlags :
    let on (k : Core) : Core := k.modSlot 0 fun x => { x with ftrap := 0x3F };
    let sat (v : Int) (y : Fx) : RegVal × Fx := (.word (sat64 v).1, ⟨y.rng, (sat64 v).2⟩)
    (let k := on (with3 spotCore 0x7FFFFFFFFFFFFFFF 1 0);
      ReadyAt k 1 (usesRRR (.g 3) (.g 1) (.g 2)) ∧
      trapCause ((formed (fun c _ y => sat ((c.rs (.g 1)).toInt + (c.rs (.g 2)).toInt) y) (spot k) 1 k 0).2.flags &&& (k.slot 0).ftrap) = some .sattrap) ∧
    (let k := on (with3 spotCore 0x8000000000000000 1 0);
      ReadyAt k 1 (usesRRR (.g 3) (.g 1) (.g 2)) ∧
      trapCause ((formed (fun c _ y => sat ((c.rs (.g 1)).toInt - (c.rs (.g 2)).toInt) y) (spot k) 1 k 0).2.flags &&& (k.slot 0).ftrap) = some .sattrap) ∧
    (let k := on (with3 spotCore 0x7F800000 0xFF800000 0);
      ReadyAt k 1 (usesRRR (.g 3) (.g 1) (.g 2)) ∧
      trapCause ((fpAdd fp32 0x7F800000 0xFF800000 .rne false ⟨k.regs.rng, 0⟩).2.flags &&& (k.slot 0).ftrap) = some .nvtrap) ∧
    (let k := on (with3 spotCore 0x7F7FFFFF 0x7F7FFFFF 0);
      ReadyAt k 1 (usesRRR (.g 3) (.g 1) (.g 2)) ∧
      trapCause ((fpMul fp32 0x7F7FFFFF 0x7F7FFFFF .rne false ⟨k.regs.rng, 0⟩).2.flags &&& (k.slot 0).ftrap) = some .oftrap) ∧
    (let k := ((on spotCore).setV 1 { VReg.reset with lanes := VReg.reset.lanes.set 63 0x7F800000 }).setV 2
        { VReg.reset with lanes := VReg.reset.lanes.set 63 0xFF800000 };
      ReadyAt k 1 (usesV .none 0 1 2 .all false) ∧ k.fpFree ≤ (spot k).cyc 0 ∧
      trapCause ((formed (fun c k y => lanesBy 32 (c.mask .all) (k.getV 0) (fun e y =>
        fpAdd fp32 (vecElem 32 (c.rd.getV 1).lanes e) (vecElem 32 (c.vb .none 2).lanes e) (c.mode (vxRm .none)) (vxSat .none) y) y)
        (spot k) 1 k 0).2.flags &&& (k.slot 0).ftrap) = some .nvtrap) :=
  ⟨⟨readyAt (by decide +kernel), by decide +kernel⟩, ⟨readyAt (by decide +kernel), by decide +kernel⟩,
    ⟨readyAt (by decide +kernel), by decide +kernel⟩, ⟨readyAt (by decide +kernel), by decide +kernel⟩,
    ⟨readyAt (by decide +kernel), by decide +kernel⟩⟩

/-- The value of a register as an instruction of one word reads it. -/
abbrev val (k : Core) (r : SReg) : Word := (ctxOf (spot k) 1 k 0).rs r

/-- LocalLoadsReturnTheirBytes: LD of the last word, VLD and VGATH of the last 256 bytes, QLD of the last block. -/
theorem witness_localLoads :
    (let k := with3 spotCore 0x2FFF8 0 0;
      ReadyAt k 1 (usesRR (.g 3) (.g 1)) ∧ k.localCheck false (val k (.g 1) + offM .none 0 * 8) 8 8 = none ∧
        k.localHold 0 0 0x2FFF8 8 false = false ∧ k.readHold 0 ((spot k).cyc 0) = false ∧ (k.injectRead 0x2FFF8 8).badView 0 0x2FFF8 8 = none) ∧
    (let k := with3 spotCore 0x2FF00 0 0;
      ReadyAt k 1 (fun sl => ⟨[sid sl (.g 1)], [.v 1]⟩) ∧ k.localCheck false (val k (.g 1) + offM .none 0 * 256) 16 256 = none ∧
        k.localHold 0 0 0x2FF00 256 false = false ∧ k.readHold 0 ((spot k).cyc 0) = false ∧ (k.injectRead 0x2FF00 256).badView 0 0x2FF00 256 = none) ∧
    (let k := (with3 spotCore 0x2FF00 0 0).setM 1 0x8000000000000001;
      let addr (e : Nat) : Word := val k (.g 1) + (vat (k.getV 2).lanes e 0).signExtend 64;
      ReadyAt k 1 (fun sl => ⟨[sid sl (.g 1), .v 2] ++ maskRegs (.by 1), [.v 1]⟩) ∧
        ∀ e ∈ (List.range 64).filter fun e => ((ctxOf (spot k) 1 k 0).mask (.by 1)).getLsbD e,
          k.localCheck false (addr e) 4 4 = none ∧ k.localHold 0 0 (addr e).toNat 4 false = false ∧ k.readHold 0 ((spot k).cyc 0) = false ∧
            (((List.range 64).filter fun e => ((ctxOf (spot k) 1 k 0).mask (.by 1)).getLsbD e).foldl
              (fun q e => q.injectRead (addr e).toNat 4) k).badView 0 (addr e).toNat 4 = none) ∧
    (let k := with3 spotCore 0x2FFC0 0x2FFB8 0;
      ReadyAt k 1 (fun sl => ⟨[sid sl (.g 1), sid sl (.g 2)], [.v 1]⟩) ∧ k.planeCheck false (val k (.g 1)) (val k (.g 2)) 64 = none ∧
        k.localHold 0 0 0x2FFC0 64 false = false ∧ k.readHold 0 ((spot k).cyc 0) = false ∧ k.localHold 0 0 0x2FFB8 8 false = false ∧ k.readHold 0 ((spot k).cyc 0) = false ∧
        (k.injectRead 0x2FFC0 64).badView 0 0x2FFC0 64 = none ∧ ((k.injectRead 0x2FFC0 64).injectRead 0x2FFB8 8).badView 0 0x2FFB8 8 = none) :=
  ⟨⟨readyAt (by decide +kernel), by decide +kernel⟩, ⟨readyAt (by decide +kernel), by decide +kernel⟩,
    ⟨readyAt (by decide +kernel), by decide +kernel⟩, ⟨readyAt (by decide +kernel), by decide +kernel⟩⟩

/-- LocalStoresAreBuffered: the same addresses, written. -/
theorem witness_localStores :
    (let k := with3 spotCore 0x2FFF8 0 0;
      ReadyAt k 1 (usesAB (.g 3) (.g 1)) ∧ k.localCheck true (val k (.g 1) + offM .none 0 * 8) 8 8 = none ∧ k.localHold 0 0 0x2FFF8 8 true = false) ∧
    (let k := with3 spotCore 0x2FF00 0 0;
      ReadyAt k 1 (fun sl => ⟨[sid sl (.g 1), .v 1], []⟩) ∧ k.localCheck true (val k (.g 1) + offM .none 0 * 256) 16 256 = none ∧
        k.localHold 0 0 0x2FF00 256 true = false) ∧
    (let k := (with3 spotCore 0x2FF00 0 0).setM 1 0x8000000000000001;
      let addr (e : Nat) : Word := val k (.g 1) + (vat (k.getV 2).lanes e 0).signExtend 64;
      ReadyAt k 1 (fun sl => ⟨[sid sl (.g 1), .v 2, .v 1] ++ maskRegs (.by 1), []⟩) ∧
        ∀ e ∈ (List.range 64).filter fun e => ((ctxOf (spot k) 1 k 0).mask (.by 1)).getLsbD e,
          k.localCheck true (addr e) 4 4 = none ∧ k.localHold 0 0 (addr e).toNat 4 true = false) ∧
    (let k := with3 spotCore 0x2FFC0 0x2FFB8 0;
      ReadyAt k 1 (fun sl => ⟨[sid sl (.g 1), sid sl (.g 2), .v 1], []⟩) ∧ k.planeCheck true (val k (.g 1)) (val k (.g 2)) 64 = none ∧
        k.localHold 0 0 0x2FFC0 64 true = false ∧ k.localHold 0 0 0x2FFB8 8 true = false) :=
  ⟨⟨readyAt (by decide +kernel), by decide +kernel⟩, ⟨readyAt (by decide +kernel), by decide +kernel⟩,
    ⟨readyAt (by decide +kernel), by decide +kernel⟩, ⟨readyAt (by decide +kernel), by decide +kernel⟩⟩

/-- ResultWritesAreRight: a due store of the last byte, one of a whole word, and a due result. -/
theorem witness_resultWrites :
    (∀ b ∈ [(⟨8, 0, 0x2FFFF, [1], 2600, 0⟩ : StoreBuf), ⟨8, 0, 0x2FFF8, [1, 2, 3, 4, 5, 6, 7, 8], 2600, 0⟩],
      let k := { spotCore with stores := [b] };
      k.mem.wf = true ∧ (k.results.all fun r => decide (r.id ≠ b.id)) = true ∧
        (k.stores.find? fun e => decide (e.id = b.id) && decide (e.due ≤ (spot k).cyc 0)) = some b ∧
        (b.addr % 8 = 0 ∧ b.data.length % 8 = 0 ∨ k.regs.finj = 0 ∧ k.badPartial b.addr b.data.length = none)) ∧
    (let r : Result := { resultFor (.g 9) with due := 2600 }; let k := { spotCore with results := [r] };
      (k.results.find? fun e => decide (e.id = r.id) && decide (e.due ≤ (spot k).cyc 0)) = some r ∧ trapCause (r.flags &&& r.trapEn) = none) := by
  decide +kernel

/-- LocalAccessesAreChecked: for LD, VGATH and QLD an address that fails each check, at the end of the store. -/
theorem witness_localChecks :
    (∀ v ∈ [0x2FFF9#64, 0x30000#64, 0x2FFF8#64], let k := withHome (with3 spotCore v 0 0) [(0, region .lent 767 768)];
      ReadyAt k 1 (usesRR (.g 3) (.g 1)) ∧ ReadyAt k 1 (usesAB (.g 3) (.g 1)) ∧ val k (.g 1) + offM .none 0 * 8 = v ∧
        (v = 0x2FFF9 → v.toNat % 8 ≠ 0) ∧ (v = 0x30000 → v.toNat % 8 = 0 ∧ 0x30000 < v.toNat + 8) ∧
        (v = 0x2FFF8 → v.toNat % 8 = 0 ∧ v.toNat + 8 ≤ 0x30000 ∧ k.allowed false v.toNat 8 = false)) ∧
    (∀ v ∈ [0x2FF01#64, 0x30000#64, 0x2FF00#64], let k := withHome (with3 spotCore v 0 0) [(0, region .lent 767 768)];
      ReadyAt k 1 (fun sl => ⟨[sid sl (.g 1), .v 2] ++ maskRegs .all, [.v 1]⟩) ∧
        val k (.g 1) + (vat ((ctxOf (spot k) 1 k 0).rd.getV 2).lanes 0 0).signExtend 64 = v ∧
        (v = 0x2FF01 → v.toNat % 4 ≠ 0) ∧ (v = 0x30000 → v.toNat % 4 = 0 ∧ 0x30000 ≤ v.toNat) ∧
        (v = 0x2FF00 → v.toNat % 4 = 0 ∧ v.toNat < 0x30000 ∧ k.allowed false v.toNat 4 = false)) ∧
    (∀ e ∈ [(0x2FFC1#64, 0#64), (0x2FFC0, 4), (0x2FFD0, 0), (0, 0x30000), (0x2FFC0, 0), (0, 0x2FFF8)],
      let k := withHome (with3 spotCore e.1 e.2 0) [(0, region .lent 767 768)];
      ReadyAt k 1 (fun sl => ⟨[sid sl (.g 1), sid sl (.g 2)], [.v 1]⟩) ∧ val k (.g 1) = e.1 ∧ val k (.g 2) = e.2 ∧
        (e.1 = 0x2FFC1 ∧ e.1.toNat % 16 ≠ 0 ∨ e.2 = 4 ∧ e.1.toNat % 16 = 0 ∧ e.2.toNat % 8 ≠ 0 ∨
          e.1.toNat % 16 = 0 ∧ e.2.toNat % 8 = 0 ∧ (0x30000 < e.1.toNat + 64 ∨ e.1.toNat + 64 ≤ 0x30000 ∧
            (0x30000 < e.2.toNat + 8 ∨ e.2.toNat + 8 ≤ 0x30000 ∧ (k.allowed false e.1.toNat 64 = false ∨
              k.allowed false e.1.toNat 64 = true ∧ k.allowed false e.2.toNat 8 = false))))) := by
  refine ⟨?_, ?_, ?_⟩ <;> intro v hv <;> simp only [List.mem_cons, List.not_mem_nil, or_false] at hv
  · rcases hv with rfl | rfl | rfl <;> exact ⟨readyAt (by decide +kernel), readyAt (by decide +kernel), by decide +kernel⟩
  · rcases hv with rfl | rfl | rfl <;> exact ⟨readyAt (by decide +kernel), by decide +kernel⟩
  · rcases hv with rfl | rfl | rfl | rfl | rfl | rfl <;> exact ⟨readyAt (by decide +kernel), by decide +kernel⟩

/-- A held entry of slot 0 over 256-byte units [base, base + size). -/
def heldTok (base size : Nat) (kind : BitVec 2) (lost : Bool) : HeldTok := ⟨base, size, 5, 0, kind, lost, none, false⟩

def withHeld (k : Core) (l : List (Nat × HeldTok)) : Core := { k with tables := { k.tables with held := l } }

/-- The first page of the CXL window at port 0, and of the host window at port 2. -/
def cxlPage : Xlate := ⟨0x100000000000, 0x100000001000, 0, 0, true, true, 0x100000000000, 0x100000001000⟩
def hostPage : Xlate := ⟨0x400000000000, 0x400000001000, 2, 0, true, true, 0x400000000000, 0x400000001000⟩

/-- The module whose field (0, 0) translates the first page of the CXL window to port 0 and of the host window to port 2, and allows
nothing in the second page of the CXL window. -/
def mapped (k : Core) : State :=
  { spot k with fields := (spot k).fields.set 0 ⟨[cxlPage, hostPage, ⟨0x100000001000, 0x100000002000, 0, 0x1000, false, false, 0x100000001000, 0x100000002000⟩], [], false⟩ }

theorem seen_peerCheck (s : State) (sl : Fin 8) (n f : Nat) (k : Core) (i b m : Nat) :
    (s.seen sl n f).peerCheck k i b m = s.peerCheck k i b m := rfl

theorem remAddr_peer {s : State} {sl : Fin 8} {w f c : Nat} {k : Core} {a n i b : Nat} {wr : Bool} (h : windowOf a = .peer i b)
    (hp : s.peerCheck k i b n = none) : (s.seen sl w f).remAddr c k a n wr = .ok ⟨.core i, b, false, a, none, none, 0⟩ := by
  simp only [State.remAddr, h, seen_peerCheck, hp]

/-- Core 0 is 67 hops from the centre of its field. -/
theorem seen_centre (k : Core) (sl : Fin 8) (n f : Nat) : centreHops (((mapped k).seen sl n f).physOf 0) = 67 :=
  (show centreHops (((mapped k).seen sl n f).physOf 0) = centreHops ((spot spotCore).physOf 0) from rfl).trans (by decide +kernel)

/-- RemoteAccessesAreSent: the last word of the own window; a word of core 1 that a held entry covers; one of the CXL window, found in the
field's cache 67 hops away; one of the host window, found in the TLB. -/
theorem witness_remoteSent :
    (let k := with3 spotCore 0x2FFF8 0 0; let q : Ask := ⟨false, .scalar (.g 3) .i64, 5, ordRem .none, 8⟩;
      Ready (mapped k) Head.default 1 (usesRR (.g 3) (.g 1)) k 0 ∧
        Reachable (mapped k) k 0 1 0x2FFF8 8 8 q (fun _ => ⟨.core 0, 0x2FFF8, true, peerBase 0 + 0x2FFF8, none, none, 0⟩)) ∧
    (let k := withHeld (with3 spotCore 0x100006FFF8 0 0) [(0, heldTok 0x100006FF 1 0 false)]; let q : Ask := ⟨true, .quiet, 5, ordRem .none, 8⟩;
      Ready (mapped k) Head.default 1 (usesAB (.g 3) (.g 1)) k 0 ∧
        Reachable (mapped k) k 0 1 0x100006FFF8 8 8 q (fun _ => ⟨.core 1, 0x2FFF8, false, 0x100006FFF8, none, none, 0⟩)) ∧
    (let k := with3 spotCore 0x100000000FF8 0 0; let q : Ask := ⟨false, .scalar (.g 3) .i64, 5, ordRem .none, 8⟩;
      Ready (mapped k) Head.default 1 (usesRR (.g 3) (.g 1)) k 0 ∧
        Reachable (mapped k) k 0 1 0x100000000FF8 8 8 q (fun _ => ⟨.port 0, 0xFF8, false, 0x100000000FF8, none, some cxlPage, 79⟩)) ∧
    (let k := { with3 spotCore 0x400000000F00 0 0 with tlb := [hostPage] }; let q : Ask := ⟨true, .quiet, 5, ordOf .none, 256⟩;
      Ready (mapped k) Head.default 1 (fun sl => ⟨[sid sl (.g 1), sid sl (.g 2), .v 1], []⟩) k 0 ∧
        Reachable (mapped k) k 0 1 0x400000000F00 256 16 q (fun _ => ⟨.port 2, 0xF00, false, 0x400000000F00, none, none, 0⟩)) := by
  refine ⟨⟨ready_of rfl (by decide +kernel), ⟨by decide +kernel, by decide +kernel, fun f => ?_, fun f => ?_, fun f => ?_⟩⟩,
    ⟨ready_of rfl (by decide +kernel), ⟨by decide +kernel, by decide +kernel,
      fun f => remAddr_peer (by decide +kernel) (by decide +kernel), fun f => ?_, fun f => ?_⟩⟩,
    ⟨ready_of rfl (by decide +kernel), ⟨by decide +kernel, by decide +kernel, fun f => ?_, fun f => ?_, fun f => ?_⟩⟩,
    ⟨ready_of rfl (by decide +kernel), ⟨by decide +kernel, by decide +kernel, fun f => ?_, fun f => ?_, fun f => ?_⟩⟩⟩ <;> first
    | rfl
    | exact congrArg (fun l => Resolved.ok ⟨.port 0, 0xFF8, false, 0x100000000FF8, none, some cxlPage, 12 + l⟩) (seen_centre _ 0 1 f)

theorem peer_fault {s : State} {sl : Fin 8} {w : Nat} {k : Core} {i b m : Nat} {e : Cause} (h : s.peerCheck k i b m = some e) (f : Nat) :
    (s.seen sl w f).peerCheck k i b m = some e := h

/-- RemoteAccessesAreChecked, with LD-sized and 256-byte accesses: a scope of an unknown group; the own window misaligned, past its end
and LENT; no window; a peer's address misaligned, outside its store, outside the partition, held by nobody and lost; the CXL window
misaligned, not translated, past its end, held by nobody, and under an entry of a dead home; an atomic in a host window. -/
theorem witness_remoteChecks :
    (let p : OrdPfx := ⟨.rlx, .grp 5, 0⟩; ReadyAt spotCore 2 (usesRR (.g 3) (.g 1)) ∧ spotCore.scopeOk (ordRem (.ord p)).2 = false) ∧
    (let k := with3 spotCore 0x2FFF9 0 0;
      ReadyAt k 1 (usesRR (.g 3) (.g 1)) ∧ k.scopeOk (ordRem .none).2 = true ∧ windowOf 0x2FFF9 = .own 0x2FFF9 ∧ 0x2FFF9 % 8 ≠ 0) ∧
    (let k := with3 spotCore 0x2FF10 0 0;
      ReadyAt k 1 (fun sl => ⟨[sid sl (.g 1), sid sl (.g 2)], [.v 1]⟩) ∧ windowOf 0x2FF10 = .own 0x2FF10 ∧ 0x2FF10 % 16 = 0 ∧
        0x30000 < 0x2FF10 + 256) ∧
    (let k := withHome (with3 spotCore 0x2FFF8 0 0) [(0, region .lent 767 768)];
      ReadyAt k 1 (usesRR (.g 3) (.g 1)) ∧ windowOf 0x2FFF8 = .own 0x2FFF8 ∧ k.allowed false 0x2FFF8 8 = false) ∧
    (ReadyAt (with3 spotCore 0x30000 0 0) 1 (usesRR (.g 3) (.g 1)) ∧ windowOf 0x30000 = .bad ∧ windowOf 0x800000000000 = .bad) ∧
    (ReadyAt (with3 spotCore 0x1000040001 0 0) 1 (usesRR (.g 3) (.g 1)) ∧ windowOf 0x1000040001 = .peer 1 1 ∧ 0x1000040001 % 8 ≠ 0) ∧
    (let k := with3 spotCore 0x1000070000 0 0;
      ReadyAt k 1 (usesRR (.g 3) (.g 1)) ∧ windowOf 0x1000070000 = .peer 1 0x30000 ∧
        ∀ f, ((spot k).seen 0 1 f).peerCheck k 1 0x30000 8 = some .raddr) ∧
    (let k := with3 spotCore 0x1000F00000 0 0;
      ReadyAt k 1 (usesRR (.g 3) (.g 1)) ∧ windowOf 0x1000F00000 = .peer 60 0 ∧ ∀ f, ((spot k).seen 0 1 f).peerCheck k 60 0 8 = some .rpart) ∧
    (let k := with3 spotCore 0x1000040000 0 0;
      ReadyAt k 1 (usesRR (.g 3) (.g 1)) ∧ (∀ f, ((spot k).seen 0 1 f).peerCheck k 1 0 8 = none) ∧
        k.heldCheck 0 false false (fun _ => false) 0x1000040000 8 = some .tnone) ∧
    (let k := withHeld (with3 spotCore 0x1000040000 0 0) [(0, heldTok 0x10000400 1 0 true)];
      ReadyAt k 1 (usesRR (.g 3) (.g 1)) ∧ (∀ f, ((spot k).seen 0 1 f).peerCheck k 1 0 8 = none) ∧
        k.heldCheck 0 false false (fun _ => false) 0x1000040000 8 = some .tlost) ∧
    (ReadyAt (with3 spotCore 0x100000000001 0 0) 1 (usesRR (.g 3) (.g 1)) ∧ windowOf 0x100000000001 = .cxl ∧ 0x100000000001 % 8 ≠ 0) ∧
    (let k := with3 spotCore 0x100000001000 0 0;
      Ready (mapped k) Head.default 1 (usesRR (.g 3) (.g 1)) k 0 ∧ windowOf 0x100000001000 = .cxl ∧
        (windowOf (0x100000001000 + 8 - 1) = windowOf 0x100000001000 ∧ k.tables.heldOver 0 0x100000001000 = []) ∧
        ∀ f, ((mapped k).seen 0 1 f).translate 0 k 0x100000001000 false = .fault .xlate) ∧
    (let k := withHeld (with3 spotCore 0x100000001000 0 0) [(0, { heldTok 0x1000000010 1 0 true with port := some 0 })];
      Ready (mapped k) Head.default 1 (usesRR (.g 3) (.g 1)) k 0 ∧
        (!(k.tables.heldOver 0 0x100000001000).isEmpty && (k.tables.heldOver 0 0x100000001000).all fun e => e.lost && e.port.isSome) = true ∧
        ∀ f, ((mapped k).seen 0 1 f).translate 0 k 0x100000001000 false = .fault .xlate) ∧
    (let k := with3 spotCore 0x2FFFFFFFFFF0 0 0;
      ReadyAt k 1 (fun sl => ⟨[sid sl (.g 1), sid sl (.g 2)], [.v 1]⟩) ∧ windowOf 0x2FFFFFFFFFF0 = .cxl ∧ 0x2FFFFFFFFFF0 % 16 = 0 ∧
        windowOf (0x2FFFFFFFFFF0 + 256 - 1) ≠ .cxl) ∧
    (let k := with3 spotCore 0x100000000000 0 0; let t : Access := ⟨.port 0, 0, false, 0x100000000000, none, some cxlPage, 79⟩;
      Ready (mapped k) Head.default 1 (usesAB (.g 3) (.g 1)) k 0 ∧
        (∀ f, ((mapped k).seen 0 1 f).translate 0 k 0x100000000000 true = .ok t) ∧
        ∀ f, ((mapped k).seen 0 1 f).remRights k 0 t 0x100000000000 8 true = some .tnone) ∧
    (let k := with3 spotCore 0x400000000000 0 0;
      Ready (mapped k) Head.default 1 (usesRRR (.g 3) (.g 1) (.g 2)) k 0 ∧ windowOf 0x400000000000 = .host ∧
        ∀ f, ∃ t, ((mapped k).seen 0 1 f).translate 0 k 0x400000000000 true = .ok t) :=
  ⟨⟨readyAt (by decide +kernel), by decide +kernel⟩, ⟨readyAt (by decide +kernel), by decide +kernel⟩,
    ⟨readyAt (by decide +kernel), by decide +kernel⟩, ⟨readyAt (by decide +kernel), by decide +kernel⟩,
    ⟨readyAt (by decide +kernel), by decide +kernel⟩, ⟨readyAt (by decide +kernel), by decide +kernel⟩,
    ⟨readyAt (by decide +kernel), by decide +kernel, peer_fault (by decide +kernel)⟩,
    ⟨readyAt (by decide +kernel), by decide +kernel, peer_fault (by decide +kernel)⟩,
    ⟨readyAt (by decide +kernel), fun f => (seen_peerCheck _ _ _ f _ _ _ _).trans (by decide +kernel), by decide +kernel⟩,
    ⟨readyAt (by decide +kernel), fun f => (seen_peerCheck _ _ _ f _ _ _ _).trans (by decide +kernel), by decide +kernel⟩,
    ⟨readyAt (by decide +kernel), by decide +kernel⟩, ⟨ready_of rfl (by decide +kernel), by decide +kernel, by decide +kernel, fun _ => rfl⟩,
    ⟨ready_of rfl (by decide +kernel), by decide +kernel, fun _ => rfl⟩, ⟨readyAt (by decide +kernel), by decide +kernel⟩,
    ⟨ready_of rfl (by decide +kernel),
      fun f => congrArg (fun l => Resolved.ok ⟨.port 0, 0, false, 0x100000000000, none, some cxlPage, 12 + l⟩) (seen_centre _ 0 1 f), fun _ => rfl⟩,
    ⟨ready_of rfl (by decide +kernel), by decide +kernel, fun _ => ⟨_, rfl⟩⟩⟩

/-- AtomicOperationsAreRight: a CAS that writes and one that does not, of either width. -/
theorem witness_atomics : (5#32 = 5#32 ∧ 5#32 ≠ 6#32) ∧ (5#64 = 5#64 ∧ 5#64 ≠ 6#64) := by decide

/-- BlockAtomicsAndFences: ATOM.BADD of the last block of the store onto block 0x100; fences in an unknown group, with a store, with a
load, and with neither. -/
theorem witness_blockAtomics :
    (let k := with3 spotCore 0x100 0x2FEF0 0; let t : Access := ⟨.core 0, 0x100, true, peerBase 0 + 0x100, none, none, 0⟩;
      let q : Ask := ⟨true, .data (.g 3) false, 3, ordOf .none, 272⟩;
      ReadyAt k 1 (usesRRR (.g 3) (.g 1) (.g 2)) ∧
        (k.scopeOk (ordOf .none).2 = true ∧ remAlign 0x100 16 = none ∧ 0x2FEF0 % 16 = 0 ∧ windowOf 0x100 ≠ .cxl ∧ windowOf 0x100 ≠ .host ∧
          0x2FEF0 + 272 ≤ 0x30000 ∧ k.allowed false 0x2FEF0 272 = true ∧ k.remHold (ctxOf (spot k) 1 k 0) t q = false ∧
          k.localHold 0 0 0x2FEF0 272 false = false ∧ k.readHold 0 ((spot k).cyc 0) = false ∧ (k.injectRead 0x2FEF0 272).badView 0 0x2FEF0 272 = none) ∧
        (∀ f, ((spot k).seen 0 1 f).remAddr 0 k 0x100 272 true = .ok t) ∧ ∀ f, ((spot k).seen 0 1 f).remRights k 0 t 0x100 272 true = none) ∧
    (ReadyAt spotCore 1 usesNone ∧ spotCore.scopeOk (.grp 5) = false ∧ spotCore.scopeOk .part = true) ∧
    (let k := { spotCore with stores := [storeAt 0 [1]] };
      ReadyAt k 1 usesNone ∧ k.scopeOk .part = true ∧ ∃ b ∈ k.stores, b.slot = 0) ∧
    (let k := { spotCore with results := [{ resultFor (.g 9) with isLoad := true }] };
      ReadyAt k 1 usesNone ∧ k.scopeOk .part = true ∧ ∃ r ∈ k.results, r.slot = 0 ∧ r.isLoad = true) ∧
    spotCore.stores = [] ∧ spotCore.results = [] ∧ spotCore.slotReqs 0 = [] :=
  ⟨⟨readyAt (by decide +kernel), by decide +kernel, fun _ => rfl, fun _ => rfl⟩, ⟨readyAt (by decide +kernel), by decide +kernel⟩,
    ⟨readyAt (by decide +kernel), by decide +kernel⟩, ⟨readyAt (by decide +kernel), by decide +kernel⟩, by decide +kernel⟩

/-- What a home knows of core 0 is the same whatever the counter of free choices is. -/
theorem tokEnv_seen {k : Core} (hk : quiet k ((spot k).cyc 0) = true) (n : Node) (f : Nat) :
    ((spot k).seen 0 1 f).tokEnv n (ident 0 0) = (spot k).tokEnv n (ident 0 0) := by
  have h0 : identCore (ident 0 0) = 0 := by decide
  have h1 : ((spot k).seen 0 1 f).core? 0 = some k := quiet_atIssue (s := spot k) hk rfl 0 1
  have h2 : (spot k).core? 0 = some k := rfl
  have h3 (c : Nat) : ((spot k).seen 0 1 f).coreOk c = (spot k).coreOk c := rfl
  cases n <;> simp only [State.tokEnv, State.samePart, State.declared, h0, h1, h2, h3]

/-- TokenRequestsAreSent: requests about a region of core 1, with a held entry where the instruction returns or passes one on; TDECL and
TLEND at the edge home of port 0; a LOST entry that is returned. -/
theorem witness_tokenRequests :
    (∀ e ∈ [(TokOp.decl, 0#2), (.ret, 0), (.unsh, 1), (.lend, 0)], let b : Word := if e.1 = .decl then 0x100 else 1;
      let k := withHeld (with3 spotCore 0x1000040100 b 0) (if e.1 = .decl then [] else [(0, heldTok 0x10000401 1 e.2 false)]);
      let t : Access := ⟨.core 1, 0x100, false, 0x1000040100, none, none, 0⟩;
      let bv : Word := if e.1 = .decl ∨ e.1 = .lend then b else 0;
      let held := if e.1 = .lend ∨ e.1 = .ret ∨ e.1 = .unsh then k.tables.heldBase 0 t.lo (e.1 = .unsh) else none;
      (ReadyAt k 1 (usesAB (.g 1) (.g 2)) ∧ ReadyAt k 1 (usesA (.g 1)) ∧ val k (.g 2) = b) ∧
        (t.home ≠ .core (spot k).cur ∧ k.acqHold 0 0 t.home = false ∧ k.serialsFull (slotRid 0 0) = false ∧ k.reqFree = true ∧
          held.any (fun e => e.2.lost) = false ∧ (held.isSome ∨ e.1 ≠ .ret ∧ e.1 ≠ .unsh ∧ e.1 ≠ .lend)) ∧
        (∀ lo hi, k.flushHold 0 0 lo hi = false) ∧
        (∀ f, ((spot k).seen 0 1 f).tokAddr 0 k 0x1000040100 true = .ok t) ∧
        ∀ f, tokArgs (((spot k).seen 0 1 f).tokEnv (.core 1) (ident 0 0)) e.1 0x100 bv (splitPoint (.core 1) 0 0x100 t.lo bv) = none) ∧
    (let k := with3 spotCore 0x100000000000 0x1000 0; let t : Access := ⟨.port 0, 0, false, 0x100000000000, none, some cxlPage, 79⟩;
      Ready (mapped k) Head.default 1 (usesAB (.g 1) (.g 2)) k 0 ∧
        (t.home ≠ .core 0 ∧ k.acqHold 0 0 t.home = false ∧ k.reqFree = true ∧ afree 32 k.tables.held = some 0 ∧ ∃ p, t.home = .port p) ∧
        ∀ f, ((mapped k).seen 0 1 f).tokAddr 0 k 0x100000000000 true = .ok t) ∧
    (let k := withHeld (with3 spotCore 0x1000040100 0 0) [(0, heldTok 0x10000401 1 0 true)];
      ReadyAt k 1 (usesA (.g 1)) ∧ k.tables.heldBase 0 (ownPeer 0 0x1000040100) false = some (0, heldTok 0x10000401 1 0 true)) := by
  refine ⟨?_, ⟨ready_of rfl (by decide +kernel), ⟨by decide, by decide +kernel, by decide +kernel, by decide +kernel, 0, rfl⟩,
    fun f => congrArg (fun l => Resolved.ok ⟨.port 0, 0, false, 0x100000000000, none, some cxlPage, 12 + l⟩) (seen_centre _ 0 1 f)⟩,
    readyAt (by decide +kernel), by decide +kernel⟩
  intro e he
  simp only [List.mem_cons, List.not_mem_nil, or_false] at he
  rcases he with rfl | rfl | rfl | rfl <;>
    exact ⟨⟨readyAt (by decide +kernel), readyAt (by decide +kernel), by decide +kernel⟩, by decide +kernel, fun _ _ => rfl, fun f => by
      simp only [State.tokAddr]
      rw [if_neg (by decide +kernel), remAddr_peer (i := 1) (b := 0x100) (by decide +kernel) (by decide +kernel)],
      fun f => by rw [tokEnv_seen (by decide +kernel)]; decide +kernel⟩

/-- A home that anyone may use. -/
def freeEnv : TokEnv := ⟨false, 256, 64, 0, 0, fun _ => true, true, fun _ => none⟩

theorem tokDecl_grant (v : TokEnv) (a : Nat) (b : Word) (l : List (Nat × HomeTok)) :
    (tokDecl v a b l).grant = none ∧ (tokDecl v a b l).data = 0 := by
  simp only [tokDecl]
  repeat' split
  all_goals exact ⟨rfl, rfl⟩

theorem tokDecl_env (u : State) (a : Nat) (b : Word) (l : List (Nat × HomeTok)) :
    tokDecl (u.tokEnv (.core 0) (ident 0 0)) a b l = tokDecl freeEnv a b l := by
  have h1 : decide (identCore 0 = 0) = true := by decide
  have h2 : ident 0 0 = 0 := by decide
  simp only [tokDecl, State.tokEnv, freeEnv, h1, h2]
  rfl

theorem tokArgs_decl (u : State) (a : Nat) (b : Word) (p : Option Nat) :
    tokArgs (u.tokEnv (.core 0) (ident 0 0)) .decl a b p = tokArgs freeEnv .decl a b none := rfl

/-- What TDECL at the own home ends with, whatever the counter of free choices is. -/
theorem tokRun_decl {u : State} {q : Core} (hq : u.core? 0 = some q) (a va : Nat) (b : Word) (h0 : tokArgs freeEnv .decl a b none = none) :
    (u.tokRun (.core 0) (ident 0 0) .decl a va b none 0 false 0 0).2 = .done (tokDecl freeEnv a b q.tables.home).cause 0 := by
  obtain ⟨h1, h2⟩ := tokDecl_grant freeEnv a b q.tables.home
  simp only [State.tokRun, Bool.false_eq_true, if_false, tokApply, tokArgs_decl, h0, State.toks, hq, tokDecl_env]
  cases h : (tokDecl freeEnv a b q.tables.home).cause with
  | some e => rfl
  | none => simp only [h1, h2]

theorem decl_at {k : Core} (hk : quiet k ((spot k).cyc 0) = true) (f a va : Nat) (b : Word) (h0 : tokArgs freeEnv .decl a b none = none) :
    (((spot k).seen 0 1 f).tokRun (.core 0) (ident 0 0) .decl a va b none 0 false 0 0).2 = .done (tokDecl freeEnv a b k.tables.home).cause 0 :=
  tokRun_decl (show ((spot k).seen 0 1 f).core? 0 = some k from quiet_atIssue (s := spot k) hk rfl 0 1) a va b h0

/-- TokenInstructionsAtHome: TDECL of the last page of the store, free and overlapping another, and of no bytes; TRET of what is not held and of
what is; TQRY of an own byte, of a byte of the CXL window, of a byte of a host window and, asking, of a byte of core 1. -/
theorem witness_tokensAtHome :
    (∀ l ∈ [[], [(0, region .home 767 768)]], let k := withHome (with3 spotCore 0x2FF00 0x100 0) l;
      ReadyAt k 1 (usesAB (.g 1) (.g 2)) ∧
        (windowOf 0x2FF00 = .own 0x2FF00 ∧ k.acqHold 0 0 (.core 0) = false ∧ k.reqFree = true ∧ grantWaits k.tables.home 256 0x2FF00 = false) ∧
        (∀ f, tokArgs (((spot k).seen 0 1 f).tokEnv (.core 0) (ident 0 0)) .decl 0x2FF00 0x100
          (splitPoint (.core 0) 0 0x2FF00 (peerBase 0 + 0x2FF00) 0x100) = none) ∧
        ∀ f, (((spot k).seen 0 1 f).tokRun (.core 0) (ident 0 0) .decl 0x2FF00 (peerBase 0 + 0x2FF00) 0x100 none 0 false 0 0).2 =
          .done (if l.isEmpty then none else some .toverlap) 0) ∧
    (let k := with3 spotCore 0x2FF00 0 0;
      ReadyAt k 1 (usesAB (.g 1) (.g 2)) ∧ ∀ f, tokArgs (((spot k).seen 0 1 f).tokEnv (.core 0) (ident 0 0)) .decl 0x2FF00 0
        (splitPoint (.core 0) 0 0x2FF00 (peerBase 0 + 0x2FF00) 0) = some .targs) ∧
    (∀ l ∈ [[], [(0, heldTok (peerBase 0 / 256 + 767) 1 0 false)]], let k := withHeld (with3 spotCore 0x2FF00 0 0) l;
      ReadyAt k 1 (usesA (.g 1)) ∧ (k.tables.heldBase 0 (peerBase 0 + 0x2FF00) false).isSome = !l.isEmpty ∧
        (k.tables.heldBase 0 (peerBase 0 + 0x2FF00) false).any (fun e => e.2.lost) = false ∧ ∀ lo hi, k.flushHold 0 0 lo hi = false) ∧
    (let k := with3 spotCore 0x2FFFF 1 0;
      ReadyAt k 1 (usesRRR (.g 3) (.g 1) (.g 2)) ∧ (val k (.g 2)).toNat < 2 ∧ windowOf 0x2FFFF = .own 0x2FFFF ∧
        k.acqHold 0 0 (.core 0) = false ∧ grantWaits k.tables.home 256 0x2FFFF = false) ∧
    (ReadyAt (with3 spotCore 0x100000000000 0 0) 1 (usesRRR (.g 3) (.g 1) (.g 2)) ∧ windowOf 0x100000000000 = .cxl ∧ windowOf 0x400000000000 = .host) ∧
    (let k := with3 spotCore 0x1000040000 1 0;
      ReadyAt k 1 (usesRRR (.g 3) (.g 1) (.g 2)) ∧ (val k (.g 2) = 1 ∧ windowOf 0x1000040000 = .peer 1 0 ∧ k.acqHold 0 0 (.core 1) = false ∧
        k.reqFree = true ∧ ¬ (peerBase 0 ≤ 0x1000040000 ∧ 0x1000040000 < peerBase 0 + 0x30000) ∧ ownPeer 0 0x1000040000 = 0x1000040000) ∧
        ∀ f, ((spot k).seen 0 1 f).peerCheck k 1 0 1 = none) := by
  refine ⟨?_, ⟨readyAt (by decide +kernel), fun _ => (tokArgs_decl _ _ _ _).trans (by decide +kernel)⟩, ?_,
    ⟨readyAt (by decide +kernel), by decide +kernel⟩, ⟨readyAt (by decide +kernel), by decide +kernel⟩,
    ⟨readyAt (by decide +kernel), by decide +kernel, fun f => (seen_peerCheck _ _ _ f _ _ _ _).trans (by decide +kernel)⟩⟩ <;>
    intro l hl <;> simp only [List.mem_cons, List.not_mem_nil, or_false] at hl
  · rcases hl with rfl | rfl <;>
      exact ⟨readyAt (by decide +kernel), by decide +kernel, fun _ => (tokArgs_decl _ _ _ _).trans (by decide +kernel),
        fun f => (decl_at (by decide +kernel) f 0x2FF00 (peerBase 0 + 0x2FF00) 0x100 (by decide +kernel)).trans (by decide +kernel)⟩
  · rcases hl with rfl | rfl <;> exact ⟨readyAt (by decide +kernel), by decide +kernel, by decide +kernel, fun _ _ => rfl⟩

/-- TokenTableChangesAreRight: a region that TDECL adds at the end of the store; a HOME region that is lent and split; a LENT one that
its holder returns, another does not, and TRECL takes back. -/
theorem witness_tokenTable :
    (freeEnv.edge = false ∧ freeEnv.mayDeclare = true ∧ bits (0x100#64) 48 15 = 0 ∧ 0x2FF00 % freeEnv.unit = 0 ∧ bits (0x100#64) 0 48 ≠ 0 ∧
      0x2FF00 + bits (0x100#64) 0 48 ≤ 0x30000 ∧ (∀ e ∈ [(0, region .home 1 767)], (0x2FF00 + bits (0x100#64) 0 48) / 256 ≤ e.2.base ∨ e.2.limit ≤ 0x2FF00 / 256) ∧
      afree 64 [(0, region .home 1 767)] = some 1) ∧
    (let e := region .home 1 4; leafBase [(3, e)] 256 0x100 = some (3, e) ∧ e.st = .home ∧ freeEnv.entitled e = true ∧ (1#64).toNat < 2 ^ 21 ∧
      freeEnv.target 1 = none ∧ 0x200 % 256 = 0 ∧ e.base < 0x200 / 256 ∧ 0x200 / 256 < e.limit ∧ afree 64 [(3, e)] = some 0 ∧
      afree 64 (aset 0 (region .home 1 2) [(3, e)]) = some 1 ∧ e.withdraw = false ∧ aget 3 [(3, e)] = some e) ∧
    (let e := region .lent 1 4; leafBase [(3, e)] 256 0x100 = some (3, e) ∧ e.st = .lent ∧ e.holder = freeEnv.ident ∧ some (0 : Byte) = some e.epoch ∧
      some (1 : Byte) ≠ some e.epoch ∧ freeEnv.entitled e = true) := by decide +kernel

/-- ORD.rel in the partition, and a store that it waits for. -/
def relPart : OrdX := .ord ⟨.rel, .part, 0⟩

def storing (k : Core) : Core := { k with stores := [storeAt 0x8000 [1]] }

def usesSend (d : BitVec 3) (a b : SReg) (sl : Fin 8) : Uses := ⟨(sendRegs d).map (sid sl) ++ [sid sl a, sid sl b], []⟩

/-- SendSendsItsMessage: an address that is no core's base, a core outside the partition, a descriptor of 33 bytes and one with bit 11 set,
the longest message to the last door, and one that a store holds. -/
theorem witness_send :
    (let k := with3 spotCore 0x1000040008 0 0; ReadyAt k 1 (usesSend 7 (.g 1) (.g 2)) ∧ windowOf 0x1000040008 = .peer 1 8) ∧
    (let k := with3 spotCore 0x1000F00000 0 0;
      ReadyAt k 1 (usesSend 7 (.g 1) (.g 2)) ∧ windowOf 0x1000F00000 = .peer 60 0 ∧ ∀ f, ((spot k).seen 0 1 f).peerCheck k 60 0 1 = some .rpart) ∧
    (∀ v ∈ [0x420#64, 0x800#64, 0x41F#64], let k := with3 spotCore 0x1000040000 v 0;
      ReadyAt k 1 (usesSend 7 (.g 1) (.g 2)) ∧ windowOf 0x1000040000 = .peer 1 0 ∧ (∀ f, ((spot k).seen 0 1 f).peerCheck k 1 0 1 = none) ∧
        (v = 0x420 → 32 < bits v 5 6) ∧ (v = 0x800 → 2 ^ 11 ≤ v.toNat) ∧
        (v = 0x41F → bits v 5 6 ≤ 32 ∧ v.toNat < 2 ^ 11 ∧ k.msgHold (ctxOf (spot k) 1 k 0) (.core 1) true (ordOf .none) = false)) ∧
    (let k := storing (with3 spotCore 0x1000040000 0 0);
      ReadyAt k 2 (usesSend 7 (.g 1) (.g 2)) ∧ k.scopeOk (ordOf relPart).2 = true ∧
        k.msgHold (ctxOf (spot k) 2 k 0) (.core 1) true (ordOf relPart) = true) := by
  refine ⟨⟨readyAt (by decide +kernel), by decide +kernel⟩, ⟨readyAt (by decide +kernel), by decide +kernel, peer_fault (by decide +kernel)⟩, ?_,
    ⟨readyAt (by decide +kernel), by decide +kernel⟩⟩
  intro v hv
  simp only [List.mem_cons, List.not_mem_nil, or_false] at hv
  rcases hv with rfl | rfl | rfl <;> exact ⟨readyAt (by decide +kernel), by decide +kernel,
    fun f => (seen_peerCheck _ _ _ f _ _ _ _).trans (by decide +kernel), by decide +kernel⟩

/-- A core with this entry of route 0. -/
def withRoute (k : Core) (e : Word) : Core := { k with tables := { k.tables with routes := k.tables.routes.set 0 e } }

/-- PartialsAndRecordsAreSent: SENDR with the route off; misaligned, past the end, with a bad descriptor, in a LENT region, held, and of
272 bytes at the end of the store; to the own store with a destination that does not fit, and one that does. SUBMIT with each address misaligned, past the end, LENT, and the last record and word. -/
theorem witness_sendr :
    ReadyAt spotCore 1 (usesAB (.g 1) (.g 2)) ∧ (spotCore.tables.routes[(0 : Fin 64)]).getLsbD 0 = false ∧
    (∀ e ∈ [(0x2FEF1#64, 0x11000000#64), (0x2FF00, 0x11000000), (0x2FEF0, 0x11000040), (0x2FEF0, 0x11000000), (0x100, 0x1000000)],
      let k := withHome (withRoute (with3 spotCore e.1 e.2 0) 0x10000001) [(0, region .lent 1 2)];
      let p := e.1.toNat; let n := bits e.2 20 9;
      ReadyAt k 1 (usesAB (.g 1) (.g 2)) ∧ (k.tables.routes[(0 : Fin 64)]).getLsbD 0 = true ∧ (k.tables.routes[(0 : Fin 64)]).getLsbD 28 = true ∧
        bits (k.tables.routes[(0 : Fin 64)]) 21 3 = 0 ∧ (k.tables.routes[(0 : Fin 64)]).getLsbD 33 = false ∧
        (e.1 = 0x2FEF1 → p % 16 ≠ 0) ∧ (e.1 = 0x2FF00 → p % 16 = 0 ∧ 1 ≤ n ∧ 0x30000 < p + n) ∧
        (e.2 = 0x11000040 → p % 16 = 0 ∧ p + n ≤ 0x30000 ∧ e.2 &&& 0xFFFFFFFFE00000C0 ≠ 0) ∧
        (e.1 = 0x100 → p % 16 = 0 ∧ e.2 &&& 0xFFFFFFFFE00000C0 = 0 ∧ 1 ≤ n ∧ n ≤ 272 ∧ k.allowed false p n = false) ∧
        (e.1 = 0x2FEF0 ∧ e.2 = 0x11000000 → p + n ≤ 0x30000 ∧ e.2 &&& 0xFFFFFFFFE00000C0 = 0 ∧ 1 ≤ n ∧ n ≤ 272 ∧ k.allowed false p n = true ∧
          k.msgHold (ctxOf (spot k) 1 k 0) (.core 0) false (ordOf .none) = false ∧ k.localHold 0 0 p n false = false ∧ k.readHold 0 ((spot k).cyc 0) = false ∧
          (k.injectRead p n).badView 0 p n = none)) ∧
    (∀ e ∈ [0x3000000210000001#64, 0x2FEF000210000001], let k := withRoute (with3 spotCore 0x100 0x11000000 0) e;
      ReadyAt k 1 (usesAB (.g 1) (.g 2)) ∧ e.getLsbD 0 = true ∧ e.getLsbD 28 = true ∧ bits e 21 3 = 0 ∧ e.getLsbD 33 = true ∧ e.getLsbD 39 = false ∧
        (bits e 48 14 * 16 + bits (0x11000000#64) 8 12 * 16 + 272 ≤ 0x30000 ↔ e = 0x2FEF000210000001)) ∧
    (let k := storing (withRoute (with3 spotCore 0x2FEF0 0x11000000 0) 0x10000001);
      ReadyAt k 2 (usesAB (.g 1) (.g 2)) ∧ k.scopeOk (ordOf relPart).2 = true ∧ k.msgHold (ctxOf (spot k) 2 k 0) (.core 0) false (ordOf relPart) = true) ∧
    (∀ e ∈ [(0x2FFC8#64, 0x2FFF8#64), (0x2FFC0, 0x2FFF9), (0x30000, 0x2FFF8), (0x2FFC0, 0x30000), (0x100, 0x2FFF8), (0x2FFC0, 0x2FFF8)],
      let k := withHome (with3 spotCore e.1 e.2 0) [(0, region .lent 1 2)];
      let p := e.1.toNat; let q := e.2.toNat;
      ReadyAt k 1 (usesAB (.g 1) (.g 2)) ∧
        (p % 64 ≠ 0 ∨ p % 64 = 0 ∧ q % 8 ≠ 0 ∨ p % 64 = 0 ∧ q % 8 = 0 ∧ (0x30000 < p + 64 ∨ p + 64 ≤ 0x30000 ∧ (0x30000 < q + 8 ∨ q + 8 ≤ 0x30000 ∧
          (k.allowed false p 64 = false ∨ k.allowed false p 64 = true ∧ k.msgHold (ctxOf (spot k) 1 k 0) .mgr true (ordOf .none) = false ∧
            k.localHold 0 0 p 64 false = false ∧ k.readHold 0 ((spot k).cyc 0) = false ∧ (k.injectRead p 64).badView 0 p 64 = none))))) := by
  refine ⟨readyAt (by decide +kernel), by decide +kernel, ?_, ?_, ⟨readyAt (by decide +kernel), by decide +kernel⟩, ?_⟩ <;> intro v hv <;>
    simp only [List.mem_cons, List.not_mem_nil, or_false] at hv
  · rcases hv with rfl | rfl | rfl | rfl | rfl <;> exact ⟨readyAt (by decide +kernel), by decide +kernel⟩
  · rcases hv with rfl | rfl <;> exact ⟨readyAt (by decide +kernel), by decide +kernel⟩
  · rcases hv with rfl | rfl | rfl | rfl | rfl | rfl <;> exact ⟨readyAt (by decide +kernel), by decide +kernel⟩

def withMem (k : Core) (a : Nat) (bs : List Byte) : Core := { k with mem := k.mem.writeN a bs }

/-- DoorsAndCheckpointsAreRight: DOOR and DOORQ with operands in and out of range; CKPT with KEEP in and out of range and held; a misaligned
table, one past the end, one with 65 ranges, one in a LENT region, an empty one at the end of the store and one whose range ends there. -/
theorem witness_doors :
    (∀ v ∈ [0x80#64, 0x60#64, 0x5F#64, 0x1F#64, 0x20#64], let k := with3 spotCore v 0 0;
      ReadyAt k 1 (usesRRR (.g 3) (.g 1) (.g 2)) ∧ ReadyAt k 1 (usesRR (.g 3) (.g 1)) ∧ val k (.g 1) = v ∧
        k.tables.msgs.length ≤ 56) ∧
    (2 ^ 7 ≤ (0x80#64).toNat ∧ bits (0x60#64) 5 2 = 3 ∧ (0x5F#64).toNat < 2 ^ 7 ∧ bits (0x5F#64) 5 2 ≠ 3 ∧ (0x1F#64).toNat < 2 ^ 5 ∧
      2 ^ 5 ≤ (0x20#64).toNat) ∧
    (∀ v ∈ [0x20000#64, 0x1FFFF#64], let k := with3 spotCore 0 v 0; ReadyAt k 1 (usesAB (.g 1) (.g 2)) ∧ v.getLsbD 16 = (v == 0x1FFFF)) ∧
    (let k := storing (with3 spotCore 0 0x30000 0); ReadyAt k 2 (usesAB (.g 1) (.g 2)) ∧ (0x30000#64).getLsbD 16 = true ∧ 2 ^ 17 ≤ (0x30000#64).toNat ∧
      (ordReleases (ordOf relPart).1 && k.relHold 0 0 (ordOf relPart).2) = true) ∧
    (∀ p ∈ [0x2FFF8#64, 0x30000#64, 0x2FFF0#64], let k := with3 spotCore p 0xFFFF 0;
      ReadyAt k 1 (usesAB (.g 1) (.g 2)) ∧ (0xFFFF#64).getLsbD 16 = false ∧ (0xFFFF#64).toNat < 2 ^ 17 ∧ (k.memView 0).readLE 0x2FFF0 8 = 0 ∧
        (p = 0x2FFF8 → p.toNat % 16 ≠ 0) ∧ (p = 0x30000 → p.toNat % 16 = 0 ∧ 0x30000 < p.toNat + 8 + 8 * ((k.memView 0).readLE p.toNat 8 % 128)) ∧
        (p = 0x2FFF0 → p.toNat % 16 = 0 ∧ p.toNat + 8 + 8 * 0 ≤ 0x30000 ∧ k.allowed false p.toNat 8 = true ∧
          k.localHold 0 0 p.toNat 8 false = false ∧ k.readHold 0 ((spot k).cyc 0) = false ∧ (k.injectRead p.toNat 8).badView 0 p.toNat 8 = none)) ∧
    (let k := withMem (with3 spotCore 0x100 0 0) 0x100 [65];
      ReadyAt k 1 (usesAB (.g 1) (.g 2)) ∧ 0x100 + 8 + 8 * ((k.memView 0).readLE 0x100 8 % 128) ≤ 0x30000 ∧ 64 < (k.memView 0).readLE 0x100 8) ∧
    (let k := withHome (withMem (with3 spotCore 0x100 0 0) 0x100 [1, 0, 0, 0, 0, 0, 0, 0, 0xF0, 0xFF, 0x42]) [(0, region .lent 1 2)];
      let e : Word := BitVec.ofNat 64 ((k.memView 0).readLE 0x108 8);
      ReadyAt k 1 (usesAB (.g 1) (.g 2)) ∧ (k.memView 0).readLE 0x100 8 = 1 ∧ e.toNat < 2 ^ 36 ∧ bits e 0 18 % 16 = 0 ∧ bits e 18 18 % 16 = 0 ∧
        16 ≤ bits e 18 18 ∧ bits e 0 18 + bits e 18 18 ≤ 0x30000 ∧ k.allowed false 0x100 16 = false) := by
  refine ⟨?_, by decide, ?_, ⟨readyAt (by decide +kernel), by decide +kernel⟩, ?_, ⟨readyAt (by decide +kernel), by decide +kernel⟩,
    ⟨readyAt (by decide +kernel), by decide +kernel⟩⟩ <;> intro v hv <;> simp only [List.mem_cons, List.not_mem_nil, or_false] at hv
  · rcases hv with rfl | rfl | rfl | rfl | rfl <;> exact ⟨readyAt (by decide +kernel), readyAt (by decide +kernel), by decide +kernel⟩
  · rcases hv with rfl | rfl <;> exact ⟨readyAt (by decide +kernel), by decide +kernel⟩
  · rcases hv with rfl | rfl | rfl <;> exact ⟨readyAt (by decide +kernel), by decide +kernel⟩

/-- A copy descriptor: source, destination, completion word and control. -/
def descriptor (src dst cw ctl : Nat) : List Byte := bytesLE 8 src ++ bytesLE 8 dst ++ bytesLE 8 cw ++ bytesLE 8 ctl

/-- The ranges of the descriptor of a copy within the own store. -/
def ownSpans (src dst cw len : Nat) : List (Nat × Nat × Bool) := [(src, len, false), (dst, len, true), (cw, 8, true)]

theorem copyCheck_own (s : State) {k : Core} (h : k.tables.home = []) :
    s.copyCheck 0 k 0 (ownSpans 0x2FF00 0x200 0x100 256) = some (.ok [.core 0]) := by
  have hall : ∀ w a n, k.allowed w a n = true := by simp [Core.allowed, Tables.byteAllowed, Tables.leafAt, h]
  simp [State.copyCheck, ownSpans, Resolved.orLost, State.remAddr, windowOf, State.remRights, hall]
  decide

/-- CopiesAreQueued: a descriptor misaligned, past the end, LENT; a control word with a reserved bit, one that keeps the rules, a range past
the store, a full queue; CPYQ. -/
theorem witness_copies :
    (∀ v ∈ [0x108#64, 0x2FFF0#64, 0x200#64], let k := withHome (with3 spotCore v 0 0) [(0, region .lent 2 3)];
      ReadyAt k 1 (usesAB (.g 1) (.g 2)) ∧ k.scopeOk (ordOf .none).2 = true ∧ (v = 0x108 → v.toNat % 16 ≠ 0) ∧
        (v = 0x2FFF0 → v.toNat % 16 = 0 ∧ 0x30000 < v.toNat + 32) ∧ (v = 0x200 → v.toNat + 32 ≤ 0x30000 ∧ k.allowed false v.toNat 32 = false)) ∧
    (∀ ctl ∈ [2 ^ 60 + 256, 256], let k := withMem (with3 spotCore 0x2FFE0 7 0) 0x2FFE0 (descriptor 0x2FF00 0x200 0x100 ctl);
      let word (j : Nat) : Word := BitVec.ofNat 64 ((k.memView 0).readLE (0x2FFE0 + 8 * j) 8);
      ReadyAt k 1 (usesAB (.g 1) (.g 2)) ∧ (k.allowed false 0x2FFE0 32 = true ∧ k.localHold 0 0 0x2FFE0 32 false = false ∧ k.readHold 0 ((spot k).cyc 0) = false ∧
        (k.injectRead 0x2FFE0 32).badView 0 0x2FFE0 32 = none ∧ word 0 = 0x2FF00 ∧ bits (word 3) 28 4 = 0 ∧ bits (word 3) 0 25 = 256 ∧
        (bits (word 3) 56 8 = 0 ↔ ctl = 256) ∧ (word 3).getLsbD 26 = false ∧ (word 2).toNat % 8 = 0 ∧ k.copies.length < 64 ∧
        (ordReleases (ordOf .none).1 && k.relHold 0 0 (ordOf .none).2) = false ∧ k.acqHold 0 0 (.core 0) = false) ∧
        ∀ f, (onCore (fun q => q.injectRead 0x2FFE0 32) ((spot k).seen 0 1 f)).copyCheck 0 k 0 (ownSpans 0x2FF00 0x200 0x100 256) = some (.ok [.core 0])) ∧
    (let k := withMem (with3 spotCore 0x2FFE0 7 0) 0x2FFE0 (descriptor 0x2FF01 0x200 0x100 256);
      ReadyAt k 1 (usesAB (.g 1) (.g 2)) ∧ ∀ f, (onCore (fun q => q.injectRead 0x2FFE0 32) ((spot k).seen 0 1 f)).copyCheck 0 k 0
        (ownSpans 0x2FF01 0x200 0x100 256) = some (.error (.lrange, 0x2FF01))) ∧
    ReadyAt spotCore 1 (usesD (.g 3)) ∧ spotCore.copies.length ≤ 64 := by
  refine ⟨?_, ?_, ⟨readyAt (by decide +kernel), fun _ => rfl⟩, readyAt (by decide +kernel), by decide +kernel⟩ <;> intro v hv <;>
    simp only [List.mem_cons, List.not_mem_nil, or_false] at hv
  · rcases hv with rfl | rfl | rfl <;> exact ⟨readyAt (by decide +kernel), by decide +kernel⟩
  · have free : spotCore.tables.home = [] := rfl
    rcases hv with rfl | rfl <;> exact ⟨readyAt (by decide +kernel), by decide +kernel, fun _ => copyCheck_own _ free⟩

/-- CopiesAreQueued, its last clause: the queue is full. -/
theorem witness_copiesFull :
    let y : Copy := ⟨1, 0, 0, 0, 0, 0, true, false, false, 16, 1, 0, 0, 0, 0, 0, true, 0, 0, 0, [], false, false, false, [], none⟩;
    64 ≤ ({ spotCore with copies := List.replicate 64 y } : Core).copies.length := by decide

/-- A latch word at 0x100 of the own store. -/
def withLatch (k : Core) (l : LatchVal) : Core := withMem k 0x100 (bytesLE 16 l.toBits.toNat)

/-- LatchInstructionsAreRight: the windows without latches, misaligned addresses, a refused core, an own and a peer latch, bad operands,
a refusal by the token, a membership that is missing and one that fits; LWAIT on each kind of latch. -/
theorem witness_latchInstructions :
    (∀ v ∈ [0x100000000000#64, 0x400000000000#64, 0x30000#64, 0x108#64, 0x1000040008#64, 0x1000F00000#64, 0x100#64, 0x1000040100#64],
      let k := with3 spotCore v 0x30001 0;
      ReadyAt k 1 (usesAB (.g 1) (.g 2)) ∧ ReadyAt k 1 (usesRRR (.g 3) (.g 1) (.g 2)) ∧ k.scopeOk (ordOf .none).2 = true ∧ val k (.g 1) = v) ∧
    (windowOf 0x100000000000 = .cxl ∧ windowOf 0x400000000000 = .host ∧ windowOf 0x30000 = .bad ∧ windowOf 0x108 = .own 0x108 ∧ 0x108 % 16 ≠ 0 ∧
      windowOf 0x1000040008 = .peer 1 8 ∧ 0x1000040008 % 16 ≠ 0 ∧ windowOf 0x1000F00000 = .peer 60 0 ∧ windowOf 0x100 = .own 0x100 ∧ 0x100 % 16 = 0 ∧
      windowOf 0x1000040100 = .peer 1 0x100 ∧ 0x1000040100 % 16 = 0) ∧
    (∀ f, ((spot spotCore).seen 0 1 f).peerCheck spotCore 60 0 16 = some .rpart) ∧ (∀ f, ((spot spotCore).seen 0 1 f).peerCheck spotCore 1 0x100 16 = none) ∧
    (let t : Access := ⟨.core 0, 0x100, true, peerBase 0 + 0x100, none, none, 0⟩; let u : Access := ⟨.core 1, 0x100, false, 0x1000040100, none, none, 0⟩;
      let c := ctxOf (spot spotCore) 1 spotCore 0;
      (∀ f, ((spot spotCore).seen 0 1 f).latchRights c spotCore t 0x100 true = none) ∧
        (∀ f, ((spot spotCore).seen 0 1 f).latchRights c spotCore u 0x1000040100 false = some .tnone) ∧
        (spotCore.latchHold c t ⟨true, .quiet, 3, ordOf .none, 16⟩ true = false ∧
          (storing spotCore).latchHold c t ⟨true, .quiet, 3, ordOf relPart, 16⟩ true = true ∧
          spotCore.tables.member 0 t.lo = none ∧ spotCore.membersFull 0 t.lo = false ∧
          ({ spotCore with tables := { spotCore.tables with members := [(0, ⟨t.lo, 0, 65535⟩)] } } : Core).tables.member 0 t.lo =
            some (0, ⟨t.lo, 0, 65535⟩))) ∧
    ((0x30001#64).getLsbD 16 = true ∧ 2 ^ 17 ≤ (0x30001#64).toNat ∧ (0x10001#64).getLsbD 16 = true ∧ (0x10001#64).toNat < 2 ^ 17 ∧ bits (0x10001#64) 0 16 ≠ 0 ∧
      (1#64).getLsbD 16 = false ∧ bits (0#64) 0 16 = 0 ∧ 2 ^ 21 ≤ (0x200001#64).toNat ∧ 2 ^ 30 ≤ (0x40000000#64).toNat ∧ (0x20000#64).getLsbD 17 = true ∧
      spotCore.scopeOk (.grp ((0x20000#64).extractLsb' 18 8)) = false) ∧
    (∀ v ∈ [(0x108#64, 0#64), (0x30000, 0), (0x100, 16), (0x200, 0), (0x100, 0), (0x100, 15)],
      let k := withHome (withLatch (with3 spotCore v.1 v.2 0) ⟨0, 0, 0, 1, false, false, false, false, 15⟩) [(0, region .lent 2 3)];
      ReadyAt k 1 (usesRRRd (.g 3) (.g 1) (.g 2)) ∧ (v.1 = 0x108 → v.1.toNat % 16 ≠ 0) ∧ (v.1 = 0x30000 → 0x30000 ≤ v.1.toNat) ∧
        (v.2 = 16 → 16 ≤ v.2.toNat) ∧ (v.1 = 0x200 → k.allowed false v.1.toNat 16 = false) ∧
        (v.1 = 0x100 → k.allowed false v.1.toNat 16 = true ∧ k.localHold 0 0 0x100 16 false = false ∧ k.readHold 0 ((spot k).cyc 0) = false ∧ (k.injectRead 0x100 16).badView 0 0x100 16 = none ∧
          (BitVec.ofNat 64 ((k.memView 0).readLE 0x100 8)).getLsbD 4 = false ∧ (k.memView 0).readLE 0x100 8 % 16 = 15)) ∧
    (let k := withLatch (with3 spotCore 0x100 0 0) ⟨0, 0, 0, 1, false, false, false, true, 0⟩;
      ReadyAt k 1 (usesRRRd (.g 3) (.g 1) (.g 2)) ∧ (BitVec.ofNat 64 ((k.memView 0).readLE 0x100 8)).getLsbD 4 = true) := by
  refine ⟨?_, by decide +kernel, peer_fault (by decide +kernel), fun f => (seen_peerCheck _ _ _ f _ _ _ _).trans (by decide +kernel),
    ⟨fun _ => rfl, fun _ => rfl, by decide +kernel⟩, by decide +kernel, ?_, ⟨readyAt (by decide +kernel), by decide +kernel⟩⟩ <;> intro v hv <;>
    simp only [List.mem_cons, List.not_mem_nil, or_false] at hv
  · rcases hv with rfl | rfl | rfl | rfl | rfl | rfl | rfl | rfl <;>
      exact ⟨readyAt (by decide +kernel), readyAt (by decide +kernel), by decide +kernel⟩
  · rcases hv with rfl | rfl | rfl | rfl | rfl | rfl <;> exact ⟨readyAt (by decide +kernel), by decide +kernel⟩

/-- LatchOperationsAreRight: INIT with a known and an unknown group; a broken latch, one of another group, a sound one; arrivals that fit, that
are too many and for another phase; drops that fit and not; bytes to 0 and below, to the last value and past it; and the latch of a
sound operation in a store. -/
theorem witness_latchOperations :
    let l : LatchVal := ⟨0, 5, 1, 2, false, false, false, false, 3⟩;
    (((0#64).getLsbD 17 = false) ∧ (0x20000#64).getLsbD 17 = true ∧ spotCore.scopeOk (.grp ((0x20000#64).extractLsb' 18 8)) = false) ∧
    (({ l with broken := true } : LatchVal).broken = true ∧ ({ l with g := true } : LatchVal).g = true ∧ spotCore.groupCovers 0 0 = false ∧
      l.broken = false ∧ l.g = false) ∧
    (l.arr + bits (1#64) 0 16 ≤ l.exp ∧ (1#64).getLsbD 20 = false ∧ l.exp < l.arr + bits (2#64) 0 16 ∧ (0x100001#64).getLsbD 20 = true ∧
      l.phase ≠ (0x100001#64).extractLsb' 16 4 ∧ l.phase = (0x130001#64).extractLsb' 16 4) ∧
    (((0 : Nat) : Int) = l.pend + (-5#64).toInt ∧ (l.pend : Int) + (-6#64).toInt < 0 ∧ ((2 ^ 48 - 1 : Nat) : Int) = l.pend + (0xFFFFFFFFFFFA#64).toInt ∧
      2 ^ 48 ≤ (l.pend : Int) + (0xFFFFFFFFFFFB#64).toInt) ∧
    (let k := withLatch spotCore l; (spot k).core? 0 = some k ∧ k.mem.wf = true ∧ (k.injectRead 0x100 16).badIn 0x100 16 = none ∧
      l = .ofBits (BitVec.ofNat 128 (k.mem.readLE 0x100 16)) ∧
      k.viaDenied .ownPeer 0 false 0x100 16 = none ∧ ∃ m, latchStep k (ridCore (slotRid 0 0)) .arv 1 l = (some m, none)) :=
  ⟨by decide +kernel, by decide +kernel, by decide +kernel, by decide +kernel, rfl, by decide +kernel, by decide +kernel, by decide +kernel, by decide +kernel, ⟨_, rfl⟩⟩

/-- A request of the special-function unit. -/
def sfuReq : SfuReq := ⟨0, .exp, 3, VReg.reset, VReg.reset, VReg.reset, 0, .rne, 0, 0, 0, none, 0, VReg.reset, 0⟩

/-- SpecialFunctionsAreQueued: 7 and 8 requests queued. -/
theorem witness_specialFunctions : ∀ n ∈ [7, 8], let k := { spotCore with sfu := List.replicate n sfuReq };
    ReadyAt k 1 (usesV2 1 2 .all) ∧ (n = 7 → k.sfu.length < 8) ∧ (n = 8 → 8 ≤ k.sfu.length) := by
  intro n hn
  simp only [List.mem_cons, List.not_mem_nil, or_false] at hn
  rcases hn with rfl | rfl <;> exact ⟨readyAt (by decide +kernel), by decide +kernel⟩

/-- A matrix command of slot 0 issued at cycle `t`. -/
def entry (id : Nat) (cmd : MCmd) (t : Nat) (dispatched : Bool) (at_ : Nat) : MEntry := ⟨id, 0, cmd, 0, t, 0, dispatched, at_, [], none, 0⟩

/-- MatrixCommandsAreQueued: 15 and 16 commands in the queue; an MMA of one row and an MLDW of 32 columns at the end of the store. -/
theorem witness_matrixQueue :
    (∀ n ∈ [15, 16], let k := { with3 spotCore 0x2FF00 1 0 with matrix := List.replicate n (entry 1 .mswap 0 false 0) };
      ReadyAt k 1 (usesAB (.g 1) (.g 2)) ∧ (n = 15 → k.matrix.countP (fun m => !m.dispatched) < 16) ∧
        (n = 16 → 16 ≤ k.matrix.countP (fun m => !m.dispatched)) ∧
        ∀ m ∈ [MmaMode.f8f8, .b16b16, .f8i4, .b16i4, .b16l4, .qb8, .qb4], k.mmaCheck (ctxOf (spot k) 1 k 0).pc m (val k (.g 1)) (val k (.g 2)) = none ∧
          ((MCmd.mma m 0 0x2FF00 1).ranges.any fun e => k.localHold 0 0 e.1 e.2 false) = false) ∧
    (let k := with3 spotCore 0x2F000 0x804 0;
      k.ldwCheck (ctxOf (spot k) 1 k 0).pc (val k (.g 1)) (val k (.g 2)) = none ∧
        ((MCmd.mldw 0x2F000 0x804).ranges.any fun e => k.localHold 0 0 e.1 e.2 false) = false) := by
  refine ⟨?_, by decide +kernel⟩
  intro n hn
  simp only [List.mem_cons, List.not_mem_nil, or_false] at hn
  rcases hn with rfl | rfl <;> exact ⟨readyAt (by decide +kernel), by decide +kernel⟩

/-- MatrixOperandsAreChecked: row counts 0, 17, 1 and 16; a and the stride misaligned; a at 2^18; a row past the store; a LENT row; and the
layouts that MLDW refuses with one of 32,768 bits that it takes. -/
theorem witness_matrixOperands :
    (ReadyAt spotCore 1 (usesAB (.g 1) (.g 2)) ∧ spotCore.matrix.countP (fun m => !m.dispatched) < 16) ∧
    (bits (0#64) 0 5 = 0 ∧ 16 < bits (17#64) 0 5 ∧ bits (1#64) 0 5 = 1 ∧ bits (16#64) 0 5 = 16) ∧
    (0x108 % 16 ≠ 0 ∧ bits (0x80001#64) 16 16 % 16 ≠ 0 ∧ 2 ^ 18 ≤ 0x40000 ∧ 0x40000 % 16 = 0) ∧
    (let l := (List.range 1).map fun r => (0x2FF10 + r * 0, 256);
      (∃ e ∈ l, e.1 ≤ 0x30000 ∧ 0x30000 < e.1 + e.2) ∧ ∀ e ∈ l, 0 < e.2) ∧
    (let k := withHome (with3 spotCore 0x2FF00 1 0) [(0, region .lent 767 768)];
      ReadyAt k 1 (usesAB (.g 1) (.g 2)) ∧ ((List.range 1).map fun r => (0x2FF00 + r * 0, 256)) = [] ++ (0x2FF00, 256) :: [] ∧
        k.allowed false 0x2FF00 256 = false) ∧
    (bits (0x103#64) 0 2 = 3 ∧ bits (0x130#64) 4 2 = 3 ∧ bits (0#64) 6 6 = 0 ∧ 32 < bits (0x840#64) 6 6 ∧ bits (0x800#64) 6 6 = 32 ∧
      32 * (128 * 2 ^ bits (0x800#64) 4 2) * 8 = 32768 ∧ 32768 < 32 * (128 * 2 ^ bits (0x801#64) 4 2) * 16 ∧ (0x144#64).getLsbD 2 = true ∧ bits (0x144#64) 6 6 = 5) := by
  refine ⟨⟨readyAt (by decide +kernel), by decide +kernel⟩, by decide, by decide, ⟨⟨(0x2FF10, 256), by decide, by decide⟩, by decide⟩,
    ⟨readyAt (by decide +kernel), by decide, by decide +kernel⟩, by decide⟩

/-- MatrixEventsAreRight: a command issued in this cycle and one issued before, the queue's only one; and due commands of each kind. -/
theorem witness_matrixEvents :
    (∀ t ∈ [2599, 2600], let x := entry 1 (.mzero 2) t false 0; let k := { spotCore with matrix := [x] };
      (spot k).core? 0 = some k ∧ k.matrix = [] ++ x :: [] ∧ x.dispatched = false ∧ (x.issued < (spot k).cyc 0 ↔ t = 2599) ∧
        k.lastDispatch < (spot k).cyc 0 ∧ k.computeFree ≤ (spot k).cyc 0 ∧ k.loadFree ≤ (spot k).cyc 0) ∧
    (let x := entry 1 (.msync (.g 3)) 0 false 0; x.cmd.isSync = true ∧ (entry 1 (.mzero 2) 0 false 0).cmd.isSync = false) ∧
    (∀ cmd ∈ [MCmd.mzero 2, .mswap, .mldk 1 VReg.reset, .toVector 5 3 2, .toAcc 1 VReg.reset 3, .mrsum 4 1, .msync (.g 3)],
      let x := entry 1 cmd 0 true 2600; let k := { spotCore with matrix := [x] };
      (spot k).core? 0 = some k ∧ (k.matrix.find? fun m => m.dispatched && decide (m.completeAt ≤ (spot k).cyc 0) && decide (m.id = x.id)) = some x ∧
        ((x.cmd.ranges.foldl (fun q e => q.injectRead e.1 e.2) k).amaxApply ((spot k).cyc 0)).badRanges x.cmd.ranges = none) ∧
    (MatReg.acc 1 ∉ (MCmd.mzero 2).writes ∧ MatReg.wa ∉ (MCmd.mzero 2).writes ∧ MatReg.ws ∉ (MCmd.mzero 2).writes ∧ MatReg.kb 0 ∉ (MCmd.mldk 1 VReg.reset).writes) ∧
    SReg.g 3 ≠ .g 0 := by
  refine ⟨?_, by decide, ?_, by decide, by decide⟩ <;> intro v hv <;> simp only [List.mem_cons, List.not_mem_nil, or_false] at hv
  · rcases hv with rfl | rfl <;> exact ⟨rfl, rfl, by decide +kernel⟩
  · rcases hv with rfl | rfl | rfl | rfl | rfl | rfl | rfl <;> exact ⟨rfl, by decide +kernel⟩

/-- An address that resolves. -/
def resolves (x : Resolved) : Bool :=
  match x with
  | .ok _ => true
  | _ => false

/-- SlotEventsAreRight: a lone READY slot; the raise at 65,536 cycles; the three waits at their limits, and two whose word has an error; a
request that starts, at each service, and one that is written; a DRAINING slot, one with a membership of a latch of its own core, and one
whose only held entry is LOST. -/
theorem witness_slotEvents :
    (let k := spotCore.modSlot 0 fun x => { x with st := .ready, readyAt := 2600 };
      (spot k).core? 0 = some k ∧ k.running = none ∧ ((k.slot 0).st = .ready ∧ (k.slot 0).readyAt ≤ (spot k).cyc 0 ∧ (k.slot 0).stopped = false) ∧
        ∀ r, ((k.slot r).st = .ready ∧ (k.slot r).readyAt ≤ (spot k).cyc 0 ∧ (k.slot r).stopped = false) →
          (k.slot 0).prio.toNat < (k.slot r).prio.toNat ∨ (k.slot 0).prio = (k.slot r).prio ∧
            ((k.slot 0).readyAt < (k.slot r).readyAt ∨ (k.slot 0).readyAt = (k.slot r).readyAt ∧ (0 : Fin 8) ≤ r)) ∧
    (let k := spotCore.modSlot 0 fun x => { x with st := .ready, prio := 1 }; let s : State := { spot k with now := 65536 };
      s.core? 0 = some k ∧ (k.slot 0).st = .ready ∧ (k.slot 0).ageFrom + 65536 ≤ s.cyc 0 ∧ (k.slot 0).prio ≠ 0) ∧
    (∀ w ∈ [Wait.all (.g 1) (some 2000), .word (.g 1) (some 2000) 0x2FFF8 9, .latch (.g 1) (some 2000) 0x2FFF0 0],
      let k := spotCore.modSlot 0 fun x => { x with st := .waiting, wait := some w };
      (spot k).core? 0 = some k ∧ (k.slot 0).st = .waiting ∧ k.halted = false ∧ k.frozen = false ∧ 2000 ≤ (spot k).timeNs ∧ (k.slot 0).wait = some w ∧
        (k.injectRead 0x2FFF8 8).badIn 0x2FFF8 8 = none ∧ (k.injectRead 0x2FFF0 16).badIn 0x2FFF0 16 = none ∧
        let b := { k with badWords := [0x5FFF] }; (b.injectRead 0x2FFF8 8).badIn 0x2FFF8 8 ≠ none ∧ (b.injectRead 0x2FFF0 16).badIn 0x2FFF0 16 ≠ none) ∧
    (∀ fn ∈ [SfuFn.exp, .draw, .dmerge], let p := { sfuReq with start := some 5 }; let q := { sfuReq with fn := fn, issued := 2599 };
      let k := { spotCore with sfu := [p] ++ q :: [], sfuNext := 2600 };
      (spot k).core? 0 = some k ∧ k.sfu = [p] ++ q :: [] ∧ (∀ e ∈ [p], e.start.isSome) ∧ q.start = none ∧ q.issued < (spot k).cyc 0 ∧
        k.sfuNext ≤ (spot k).cyc 0) ∧
    (let q := { sfuReq with start := some 5, writeAt := 2600 }; let k := { spotCore with sfu := q :: [], sfuWrite := 2600 };
      (spot k).core? 0 = some k ∧ k.sfu = q :: [] ∧ q.start.isSome ∧ q.writeAt ≤ (spot k).cyc 0 ∧ k.sfuWrite ≤ (spot k).cyc 0 ∧
        trapCause (q.flags &&& q.trapEn) = none) ∧
    (let k := spotCore.modSlot 0 fun x => { x with st := .draining };
      (spot k).core? 0 = some k ∧ (k.slot 0).st = .draining ∧ k.working 0 = false ∧ (∀ e ∈ k.tables.held, e.2.slot ≠ 0) ∧
        (∀ e ∈ k.tables.home, e.2.rel = false) ∧ (∀ e ∈ k.tables.members, e.2.slot ≠ 0) ∧ k.tables.msgs = [] ∧ ((spot k).partOf k).killing = none) ∧
    (let m : Member := ⟨peerBase 0 + 0x100, 0, 2⟩
      let k := spotCore.modSlot 0 fun x => { x with st := .draining }; let q := { k with tables := { k.tables with members := [(3, m)] } };
      (spot q).core? 0 = some q ∧ (q.slot 0).st = .draining ∧ (q.slot 0).killed = false ∧
        (q.tables.members.find? fun e => decide (e.2.slot = 0)) = some (3, m) ∧ q.overlapHold 0 m.addr 16 true = false ∧ q.reqFree = true ∧
        resolves (((spot q).modCore 0 fun z => { z with tables := { z.tables with members := adel 3 z.tables.members } }).remAddr 0 q m.addr 1 true) = true) ∧
    (let k := withHeld (spotCore.modSlot 0 fun x => { x with st := .draining }) [(4, heldTok 0x100 1 0 true)];
      (spot k).core? 0 = some k ∧ (k.slot 0).st = .draining ∧ k.working 0 = false ∧ (∀ e ∈ k.tables.members, e.2.slot ≠ 0) ∧
        (k.tables.held.filter fun e => decide (e.2.slot = 0)) = (4, heldTok 0x100 1 0 true) :: [] ∧ (heldTok 0x100 1 0 true).lost = true) := by
  refine ⟨⟨rfl, by decide +kernel, by decide +kernel, by decide +kernel⟩, ⟨rfl, by decide +kernel⟩, ?_, ?_, ⟨rfl, by decide +kernel⟩,
    ⟨rfl, by decide +kernel⟩, ⟨rfl, by decide +kernel⟩, ⟨rfl, by decide +kernel⟩⟩ <;> intro v hv <;> simp only [List.mem_cons, List.not_mem_nil, or_false] at hv
  · rcases hv with rfl | rfl | rfl <;> exact ⟨rfl, by decide +kernel⟩
  · rcases hv with rfl | rfl | rfl <;> exact ⟨rfl, rfl, by decide +kernel⟩

/-- A copy of 16 bytes from 0 to 0x2FFF0 with its completion word at 0x100. -/
def someCopy : Copy :=
  ⟨7, 0, 0, 0x2FFF0, 0x100, 0, false, false, false, 16, 1, 0, 0, 5, 0, 0, true, 0, 0, 0, [], false, false, false, [spotCore.mem], none⟩

def withCopy (x : Copy) : Core := { spotCore with copies := [x], copyNext := 2600 }

/-- CopyEventsAreRight: a waiting copy behind 47 active ones; a unit within the own store, of whole words and of odd bytes, and one whose
source is at core 1; an ended copy, with and without a completion word, with one at core 1, and an abandoned one; a deadline that abandons
and one that does not; an offload copy at three quarters of its deadline. -/
theorem witness_copyEvents :
    (let x := { someCopy with active := false }; let y := { someCopy with id := 8 }; let k := { spotCore with copies := List.replicate 47 y ++ x :: [] };
      (spot k).core? 0 = some k ∧ k.copies = List.replicate 47 y ++ x :: [] ∧ (∀ z ∈ List.replicate 47 y, z.active = true) ∧ x.active = false ∧
        (k.copies.filter fun z => z.active).length < 48) ∧
    (∀ w ∈ [(0x2FFF0, 16), (0x2FFF4, 3)], let x := { someCopy with dst := w.1, len := w.2 }; let k := withCopy x;
      (spot k).core? 0 = some k ∧ k.copyNext ≤ (spot k).now ∧ k.copyNextUnit ((spot k).cyc 0) = some x ∧ x.unit x.begun = (0, w.1, w.2) ∧
        k.mem.wf = true ∧ x.snap = [k.mem] ∧ x ∈ k.copies ∧ (∀ y ∈ k.copies, y.id = x.id → y = x) ∧ x.sent = x.begun ∧ x.ready = [] ∧
        (∀ r ∈ k.reqs, r.unsent x.id = false) ∧ (k.injectRead 0 w.2).badIn 0 w.2 = none ∧
        ((if w.1 % 8 ≠ 0 ∨ w.2 % 8 ≠ 0 then (k.injectRead 0 w.2).injectRead w.1 w.2 else k.injectRead 0 w.2).badPartial w.1 w.2 = none)) ∧
    (let x := { someCopy with src := peerBase 1 }; let k := withCopy x;
      k.copyNextUnit ((spot k).cyc 0) = some x ∧ 0x30000 ≤ (x.unit x.begun).1 ∧ resolves ((spot k).remAddr 0 k (x.unit x.begun).1 16 false) = true) ∧
    (∀ x ∈ [{ someCopy with ended := 1 }, { someCopy with ended := 1, ncw := true }, { someCopy with abandoned := true },
        { someCopy with ended := 1, cw := peerBase 1 }],
      let k := withCopy x;
      (spot k).core? 0 = some k ∧ x ∈ k.copies ∧ (∀ y ∈ k.copies, y.id = x.id → y = x) ∧ x.completing = false ∧ x.ready = [] ∧
        x.ended = (if x.abandoned then x.sent else x.total) ∧ k.mem.wf = true ∧
        (x.cw < 0x30000 ∨ resolves ((spot k).remAddr 0 k x.cw 8 true) = true)) ∧
    (∀ x ∈ [{ someCopy with dl := 2, dla := true }, { someCopy with dl := 2 }], x.late = false ∧ x.deadline = some 2000 ∧ 2000 ≤ (spot spotCore).timeNs ∧
      (x.dla = true → x.completing = false ∧ x.sent - ((withCopy x).reqs.filter fun r => r.unsent x.id).length < x.total)) ∧
    (let x := { someCopy with dl := 2, offload := true }; x.offload = true ∧ x.dl ≠ 0 ∧ x.issuedNs + (x.dl - x.dl / 4) * 1000 ≤ (spot spotCore).timeNs) := by
  refine ⟨⟨rfl, rfl, by decide +kernel⟩, ?_, by decide +kernel, ?_, by decide +kernel, by decide +kernel⟩ <;> intro v hv <;>
    simp only [List.mem_cons, List.not_mem_nil, or_false] at hv
  · rcases hv with rfl | rfl <;> exact ⟨rfl, by decide +kernel⟩
  · rcases hv with rfl | rfl | rfl | rfl <;> exact ⟨rfl, by decide +kernel⟩

/-- A message that arrives now. -/
def pkt (src dst : Node) (body : Body) : Packet := ⟨9, src, dst, 2500, 2600, 2600, body, false, [], 5, false, 2500, 1, 1500⟩

/-- The module with core 0 and one message. -/
def withPkt (k : Core) (p : Packet) : State := { spot k with net := [p] }

/-- A write-like request of slot 0 of core 1 with serial 3, first sent 2 µs after power-good. -/
def writeReq (op : ROp) : Body := .request (slotRid 1 0) 3 0 0 2 2 (ident 1 0) true 4 op
def readReq (op : ROp) : Body := .request (slotRid 1 0) 0 0 0 2 2 (ident 1 0) false 4 op

/-- A region at 0x100 that is LENT to slot 0 of core 1. -/
def lentCore : Core := withHome spotCore [(0, { region .lent 1 2 with holder := ident 1 0 })]

/-- A request entry of slot 0 of core 0 with this sink. -/
def request (sink : Sink) (wr : Bool) : Req :=
  ⟨4, slotRid 0 0, 0, 3, .load 0 8 4, .core 1, wr, 0, sink, 1, 2, 2600, 0, 0, 0, 8, none, none, false, false, 0, 5⟩

def withReq (k : Core) (q : Req) : Core := { k with reqs := [q] }

/-- A walk of a request to 0x100000000000 that has found a page, and is due. -/
def someWalk (again : Bool) : Walk := ⟨some 2600, 0x100000000000, false, cxlPage, again⟩

/-- The port table entry that maps the first 16 pages of the CXL window to 0x10000 of port 0 lies at 0x2000 of port 0. -/
def rangeMem : Mem := Mem.writeN [] 0x2000 (bytesLE 8 0x100000000000 ++ bytesLE 8 0x100000010000 ++ bytesLE 8 0x10000 ++ bytesLE 8 9)

def rangePorts : Vector Port 64 := spotPorts.set 0 { Port.reset 0 with up := true, cap := 1, mem := rangeMem }

def ranged (k : Core) : State :=
  { mapped k with ports := rangePorts, mgr := { spotMgr with table := spotMgr.table.set 0 { spotEntry with rtab := 0x2000, nrange := 1 } } }

/-- A walk of the tables finds a page that allows the access. -/
def walks (s : State) (e : PartEntry) (va : Nat) (write : Bool) : Bool :=
  match s.walk e va with
  | .ok x => match s.targetOf x va write with
    | .ok _ => true
    | .error _ => false
  | _ => false

/-- MessageEventsAreRight: a first store, a retransmission and a load that come to a LENT region; a store at a memory whose two lines are
performed one by one, loads and stores at a memory and a host port; a host read at its limit; a request of more than 64 µs; replies to a load and
to an atomic; a request's seventh and last timer; entries of age; a walk that ends, and one whose page is looked up again. -/
theorem witness_messageEvents :
    (let p := pkt (.core 1) (.core 0) (writeReq (.store 0x100 [1, 2, 3, 4, 5, 6, 7, 8] 4)); let s := withPkt lentCore p;
      p ∈ s.net ∧ (∀ x ∈ s.net, x.id = p.id → x = p) ∧ s.serviceReady p = true ∧ s.core? 0 = some lentCore ∧ lentCore.frozen = false ∧
        s.isLocal p.src 4 = false ∧ s.isDead p.src = false ∧
        s.isDead p.dst = false ∧ (∀ e ∈ lentCore.tables.once.cache, ¬ (e.2.rid = slotRid 1 0 ∧ e.2.ser = 3)) ∧
        (∀ e ∈ lentCore.tables.once.reqs, e.2.rid ≠ slotRid 1 0) ∧ afree 16 lentCore.tables.once.reqs = some 0 ∧
        afree 64 lentCore.tables.once.cache = some 0 ∧ lentCore.homeCheck (ident 1 0) true 0x100 8 = none ∧ lentCore.badPartial 0x100 8 = none ∧
        lentCore.mem.wf = true) ∧
    (let k := { lentCore with tables := { lentCore.tables with once := ⟨[(0, ⟨slotRid 1 0, 3, true, 0, 0, 2, 2000⟩)], [], 0⟩ } };
      let p := pkt (.core 1) (.core 0) (writeReq (.store 0x100 [1] 4)); let s := withPkt k p;
      s.serviceReady p = true ∧ ∃ e ∈ k.tables.once.cache, e.2.rid = slotRid 1 0 ∧ e.2.ser = 3) ∧
    (let p := pkt (.core 1) (.core 0) (readReq (.load 0x100 8 4)); let s := withPkt lentCore p;
      s.serviceReady p = true ∧ lentCore.homeCheck (ident 1 0) false 0x100 8 = none ∧ (lentCore.injectRead 0x100 8).badIn 0x100 8 = none) ∧
    (∀ l ∈ [[], [some []]], let p := { pkt (.core 1) (.port 0) (writeReq (.store 0x3FFFFF7F [1, 2] 4)) with atDevice := true, lines := l };
      let s := withPkt spotCore p; let j := 0x3FFFFF7F / 64 + p.lines.length
      p.atDevice = true ∧ p.arrive ≤ s.now ∧ (s.port 0).mem.wf = true ∧ (s.port 0).kind = 1 ∧ 64 * j < 0x3FFFFF7F + 2 ∧
        min (0x3FFFFF7F + 2) (64 * (j + 1)) ≤ (s.port 0).cap.toNat * 2 ^ 30 ∧ (l = [] ↔ 64 * (j + 1) < 0x3FFFFF7F + 2) ∧
        (∀ x ∈ p.lines, x.isSome) ∧ s.isLocal p.src 4 = false) ∧
    (∀ n ∈ [(0 : Nat), 2], let p := { pkt (.core 1) (.port n) (readReq (.load 0x40 8 4)) with atDevice := true }; let s := withPkt spotCore p;
      p.arrive ≤ s.now ∧ p.base ≤ s.now ∧ (s.port n).kind = n / 2 + 1 ∧ (s.port n).mem.wf = true ∧ s.isLocal p.src 4 = false ∧
        (s.port n).poisoned 0x40 8 = false ∧ 0x40 / 64 = (0x40 + 8 - 1) / 64 ∧ p.lines = [] ∧ (n = 0 → 0x40 + 8 ≤ (s.port n).cap.toNat * 2 ^ 30)) ∧
    (let s : State := { withPkt spotCore (pkt (.core 1) (.core 0) (writeReq (.tqry 0))) with now := 87100 };
      s.isLocal (.core 1) 4 = false ∧ s.tooOld 2 = true) ∧
    (∀ q ∈ [request (.scalar (.g 3) .i64) false, request (.data (.g 3) false) true],
      let k := withReq spotCore q; let p := pkt (.core 1) (.core 0) (.reply (slotRid 0 0) 3 4 0 0 7 [1, 2, 3, 4, 5, 6, 7, 8]); let s := withPkt k p;
      s.core? 0 = some k ∧ p.arrive ≤ s.now ∧ s.isFrozen p.dst = false ∧ s.findReq p.dst 4 = some q ∧ k.regs.finj.getLsbD 0 = false ∧ q.ser = 3 ∧
        (k.slot q.slot).killed = false) ∧
    (∀ n ∈ [7, 8], let q := { request .quiet true with att := n }; let s := spot (withReq spotCore q);
      s.findReq (.core 0) 4 = some q ∧ 0 < q.att ∧ q.due ≤ s.now ∧ q.localWait = false ∧ q.walk = none) ∧
    (let o : Once := ⟨[(0, ⟨slotRid 1 0, 3, true, 0, 0, 2, 0⟩)], [(0, ⟨slotRid 1 0, 4, 2, 0⟩)], 0⟩;
      let s : State := { spot { spotCore with tables := { spotCore.tables with once := o } } with now := 1414400 };
      (∃ e, aget 0 (s.once (.core 0)).cache = some e ∧ e.done = true ∧ e.timeNs + 1088000 ≤ s.timeNs) ∧
        ∃ e, aget 0 (s.once (.core 0)).reqs = some e ∧ e.lastNs + 64000 ≤ s.timeNs) ∧
    (∀ again ∈ [false, true], let w := someWalk again
      let q := { request (.scalar (.g 3) .i64) false with walk := some w, home := .port 0 }; let k := withReq spotCore q; let s := ranged k;
      s.core? 0 = some k ∧ s.findReq (.core 0) 4 = some q ∧ q.walk = some w ∧ w.again = again ∧ k.copies = [] ∧ fieldOf 0 < 48 ∧
        walks s (s.partOf k) w.va w.write = true) := by
  refine ⟨⟨List.mem_singleton.mpr rfl, fun x hx _ => List.mem_singleton.mp hx, by decide +kernel, rfl, by decide +kernel⟩, by decide +kernel,
    by decide +kernel, by decide +kernel, by decide +kernel, by decide +kernel, ?_, ?_, ⟨⟨_, rfl, by decide +kernel⟩, ⟨_, rfl, by decide +kernel⟩⟩,
    ?_⟩ <;> intro v hv <;> simp only [List.mem_cons, List.not_mem_nil, or_false] at hv
  · rcases hv with rfl | rfl <;> exact ⟨rfl, by decide +kernel⟩
  · rcases hv with rfl | rfl <;> exact by decide +kernel
  · rcases hv with rfl | rfl <;> exact ⟨rfl, by decide +kernel⟩

/-- Messages of slot 0 of core 1 to doors 5 and 31, and a core whose door 5 is this one. -/
def toDoor5 : BitVec 320 := mkMsg 0 (slotRid 1 0) 0 32 5 0
def toDoor31 : BitVec 320 := mkMsg 0 (slotRid 1 0) 0 32 31 0
def opened (d : BitVec 32) : Core := { spotCore with tables := { spotCore.tables with doors := spotCore.tables.doors.set 5 d } }

/-- The module with core 0 and this state of its partition. -/
def inState (k : Core) (p : PartEntry) : State := { spot k with mgr := { spotMgr with table := spotMgr.table.set 0 p } }

/-- RouteAndDoorEventsAreRight: a partial that no request of its core stands behind, and one of SENDR, at a route that does not take its port, at one
that passes it on, at one whose round opens, goes on, and ends; a notice at a route that is off, one that changes no floor, and one that does; a
due delivery to the store, of each operation, to a door, and one that faults; messages for a closed door, for a full one, for one that
holds, for one that places, and for a killed partition. -/
theorem witness_routeEvents :
    (∀ here ∈ [true, false], ∀ e ∈ [(0x10000001#64, []), (0x20010000001, []), (0x20010200001, []), (0x30010200001, [(⟨0, 0, some [1], 1, 0⟩ : Round)]),
        (0x20010200001, [⟨0, 0, some [1], 1, 0⟩])],
      let q := { request .quiet true with localWait := true, ser := 0 }
      let k := { withRoute (if here then withReq spotCore q else spotCore) e.1 with rounds := e.2 }
      let port := if e.1 = 0x10000001 then 0 else 4
      let p := pkt (if here then .core 0 else .core 1) (.core 0) (writeReq (.partialTo 0 0 [1] port)); let s : State := { withPkt k p with nextId := 10 };
      p ∈ s.net ∧ (∀ x ∈ s.net, x.id = p.id → x = p) ∧ p.arrive ≤ s.now ∧ s.core? 0 = some k ∧
        (here = true → s.isLocal p.src 4 = true ∧ 4 < s.nextId) ∧
        (here = false → s.isLocal p.src 4 = false ∧ s.tooOld 2 = false ∧ k.frozen = false ∧ s.isDead p.dst = false ∧
          (∀ e ∈ k.tables.once.cache, ¬ (e.2.rid = slotRid 1 0 ∧ e.2.ser = 3)) ∧ (∀ e ∈ k.tables.once.reqs, e.2.rid ≠ slotRid 1 0) ∧
          afree 16 k.tables.once.reqs = some 0 ∧ afree 64 k.tables.once.cache = some 0) ∧
        ((k.tables.routes[(0 : Fin 64)]).getLsbD 0 = true ∧ ((k.tables.routes[(0 : Fin 64)]).getLsbD (24 + port) = true ↔ e.1 ≠ 0x10000001)) ∧
        ((bits (k.tables.routes[(0 : Fin 64)]) 21 3 ≠ 0 ∧ 2 ≤ bits (k.tables.routes[(0 : Fin 64)]) 40 8) ↔ e.1 ∈ [0x20010200001#64, 0x30010200001]) ∧
        (k.rounds.filter fun r => decide (r.rt = 0)).length < 4 ∧ (e.1 = 0x30010200001 → 1 + 1 < bits (k.tables.routes[(0 : Fin 64)]) 40 8)) ∧
    (∀ e ∈ [(0#64, []), (0x20010200001, [(⟨0, 0, 7⟩ : Floor)]), (0x20010200001, [⟨0, 0, 3⟩])],
      let k := { withRoute spotCore e.1 with floors := e.2 }; let p := pkt (.core 1) (.core 0) (.renorm 0 0 5); let s := withPkt k p;
      p.arrive ≤ s.now ∧ s.core? 0 = some k ∧ ((k.tables.routes[(0 : Fin 64)]).getLsbD 0 = true ↔ e.1 ≠ 0) ∧
        ((k.floors.any fun f => decide (f.rt = 0) && decide (f.ofs = 0) && decide ((5#16).toInt ≤ f.x.toInt)) = (e.2 == [⟨0, 0, 7⟩]))) ∧
    (∀ e ∈ [(0x0000000200000001#64, 8), (0x0000000200200001, 272), (0x0000000200400001, 256), (0x0000008000000001, 8), (0x0000008000000001, 33),
        (0x0000000200000001, 17)],
      let d : Delivery := ⟨3, 2600, 0, if e.2 = 272 then 0x2FEF else if e.2 = 256 then 0x2FF0 else 0x2FFF, List.replicate e.2 1, none⟩;
      let k := { withRoute spotCore e.1 with deliveries := [d] }; let a := bits (k.tables.routes[d.rt]) 48 14 * 16 + d.ofs * 16
      (spot k).core? 0 = some k ∧ d ∈ k.deliveries ∧ (∀ y ∈ k.deliveries, y.id = d.id → y = d) ∧ k.deliveryDue (spot k).now d = true ∧
        ((k.tables.routes[d.rt]).getLsbD 39 = (e.1 == 0x0000008000000001#64)) ∧
        bits (k.tables.routes[d.rt]) 21 3 = (if e.2 = 272 then 1 else if e.2 = 256 then 2 else 0) ∧
        (e.2 = 17 → 0x30000 < a + d.payload.length) ∧ (e.2 ≠ 17 → (k.tables.routes[d.rt]).getLsbD 39 = false → a + d.payload.length ≤ 0x30000 ∧
          k.deliveryOk a d.payload.length = true ∧ (k.injectRead a d.payload.length).badPartial a d.payload.length = none ∧
          k.badPartial a d.payload.length = none ∧ (k.injectRead a d.payload.length).badIn a d.payload.length = none ∧ k.mem.wf = true)) ∧
    (withHome spotCore [(0, region .lent 1 2)]).deliveryOk 0x100 8 = false ∧
    (bits toDoor5 29 5 = 5 ∧ bits toDoor5 40 2 = 0 ∧ bits toDoor31 29 5 = 31 ∧ bits toDoor31 40 2 ≠ 3 ∧ doorOpen (vat spotCore.tables.doors 5 0) = false) ∧
    (doorOpen (vat (opened 0x08FF0001).tables.doors 5 0) = true ∧ ¬ bits (vat (opened 0x08FF0001).tables.doors 5 0) 16 8 < 255 ∧
      bits (vat (opened 0x08FE0001).tables.doors 5 0) 16 8 < 255) ∧
    (let t := { (opened 0x08FE0001).tables with msgs := [toDoor5] }; t.msgs.length < 56 ∧ ∃ e ∈ t.msgs, bits e 29 5 = bits toDoor5 29 5) ∧
    (let k := { opened 0x08000001 with doorIn := [toDoor5] }; let s := inState k { spotEntry with killing := some 0x11 };
      (spot k).core? 0 = some k ∧ (spot k).placing k = true ∧ ((spot k).partOf k).killing = none ∧ (k.slot 1).st = .free ∧ k.tables.msgs = [] ∧
        toDoor5 ∈ k.doorIn ∧ s.core? 0 = some k ∧ s.placing k = true ∧ (s.partOf k).killing.isSome) := by
  refine ⟨?_, ?_, ?_, by decide +kernel, by decide +kernel, by decide +kernel, ⟨by decide, toDoor5, List.mem_singleton.mpr rfl, rfl⟩,
    rfl, by decide +kernel⟩ <;> intro v hv
  · intro w hw
    simp only [List.mem_cons, List.not_mem_nil, or_false] at hv hw
    rcases hv with rfl | rfl <;> rcases hw with rfl | rfl | rfl | rfl | rfl <;>
      exact ⟨List.mem_singleton.mpr rfl, fun x hx _ => List.mem_singleton.mp hx, by decide +kernel, rfl, by decide +kernel⟩
  · simp only [List.mem_cons, List.not_mem_nil, or_false] at hv
    rcases hv with rfl | rfl | rfl <;> exact ⟨by decide +kernel, rfl, by decide +kernel⟩
  · simp only [List.mem_cons, List.not_mem_nil, or_false] at hv
    rcases hv with rfl | rfl | rfl | rfl | rfl | rfl <;> exact ⟨rfl, by decide +kernel⟩

/-- A request entry whose grant of entry 3 of the home table awaits its reply. -/
def granting (named : Option (Fin 4)) (kind : BitVec 2) : Req := request (.grantFor 3 named kind 7) true

/-- Held entries: none, one over unit 0x100, and 32 others. -/
def heldTables : List (List (Nat × HeldTok)) :=
  [[], [(0, heldTok 0x100 1 0 false)], (List.range 32).map fun i => (i, heldTok (2 * i) 1 0 false)]

/-- TokenAndDeathEventsAreRight: a grant to a slot that is not live, to one that is, with a full held table, an overlap, and none; the outcome of
a grant of a lent entry and of a named share; a revoke; notices of the deaths of a core and of a port, with entries at and lent to the dead
node; a bad CRC; a flit of age; nodes that are dead, and ones that are not, with a partition and another core in it. -/
theorem witness_tokenEvents :
    (∀ l ∈ heldTables, ∀ sl ∈ [(0 : Fin 8), 1],
      let k := withHeld spotCore l; let p := pkt (.core 1) (.core 0) (writeReq (.grant sl 0x100 1 5 0)); let s := withPkt k p;
      p ∈ s.net ∧ (∀ x ∈ s.net, x.id = p.id → x = p) ∧ s.core? 0 = some k ∧ s.serviceReady p = true ∧ k.frozen = false ∧
        s.isLocal p.src 4 = false ∧ s.isDead p.src = false ∧ s.isDead p.dst = false ∧
        (∀ e ∈ k.tables.once.cache, ¬ (e.2.rid = slotRid 1 0 ∧ e.2.ser = 3)) ∧ (∀ e ∈ k.tables.once.reqs, e.2.rid ≠ slotRid 1 0) ∧
        afree 16 k.tables.once.reqs = some 0 ∧ afree 64 k.tables.once.cache = some 0) ∧
    ((spotCore.slot 0).st = .running ∧ (spotCore.slot 1).st = .free ∧ heldTables.map (fun l => (afree 32 l).isSome) = [true, true, false] ∧
      heldTables.map (fun l => l.any fun e => decide (e.2.slot = 0 ∧ e.2.reserved = false ∧ e.2.base < 0x100 + 1 ∧ 0x100 < e.2.base + e.2.size)) =
        [false, true, false]) ∧
    (∀ v ∈ [(none, (0 : BitVec 2), TokState.lent), (some 1, 1, .shared)],
      let q := granting v.1 v.2.1; let e : HomeTok := { region v.2.2 1 2 with granting := true, holder := ident 1 0 }
      let k := withHome (withReq spotCore q) [(3, e)]
      let p := pkt (.core 1) (.core 0) (.reply (slotRid 0 0) 3 4 0 0 0 []); let s := withPkt k p;
      s.core? 0 = some k ∧ s.findReq p.dst 4 = some q ∧ aget 3 (s.toks p.dst) = some e ∧ (p.arrive ≤ s.now ∧ p.atDevice = false ∧
        p.crcBad = false ∧ s.isFrozen p.dst = false ∧ e.withdraw = false ∧ q.ser = 3 ∧ k.regs.finj.getLsbD 0 = false ∧
        (v.2.1 = 0 → e.st = .lent) ∧ (v.2.1 ≠ 0 → e.st = .shared ∧ v.1 = some 1))) ∧
    (let p := pkt (.core 1) (.core 0) (.revoke (ident 0 0) 0x100 1); p.arrive ≤ (withPkt spotCore p).now ∧ (withPkt spotCore p).isFrozen p.dst = false) ∧
    (∀ n ∈ [Node.core 2, .port 0],
      let h := { heldTok 0x10000801 1 0 false with port := if n = .port 0 then some 0 else none }
      let k := withHeld (withHome { spotCore with reqs := [request .quiet true] } [(0, { region .lent 1 2 with holder := ident 2 0 }),
        (1, { region .uncertain 2 3 with holder := ident 1 0 }), (2, { region .shared 3 4 with anon := 1, named := #v[some (ident 2 1), none, none, none] })])
        [(0, h)];
      let p := pkt .mgr (.core 0) (.death n 0); let s := withPkt k p
      s.core? 0 = some k ∧ (∀ q ∈ s.reqsOf p.dst, q.home ≠ n) ∧ (∀ e ∈ k.tables.home, aget e.1 (s.toks p.dst) = some e.2) ∧
        aget 0 k.tables.held = some h ∧ (n = .core 2 → peerBase 2 ≤ h.base * 256 ∧ h.base * 256 < peerBase 2 + 2 ^ 18)) ∧
    (let p := { pkt (.core 1) (.core 0) (.revoke (ident 0 0) 0x100 1) with crcBad := true }; p.crcBad = true ∧ p.sentAt < (withPkt spotCore p).now ∧
      p.src = .core 1 ∧ p.dst = .core 0 ∧ (withPkt spotCore p).cores ≠ []) ∧
    (let p := { pkt (.core 1) (.core 0) (.revoke (ident 0 0) 0x100 1) with since := 1576, arrive := 2601 };
      p.atDevice = false ∧ p.since + 1024 ≤ (withPkt spotCore p).now ∧ (withPkt spotCore p).now < p.arrive) ∧
    (let s : State := { withPkt spotCore (pkt (.core 1) (.core 0) (.revoke 0 0 1)) with cores := [(0, spotCore), (1, spotCore)] };
      Node.core 0 ∉ s.mgr.dead ∧ Node.port 0 ∉ s.mgr.dead ∧ s.core? 0 = some spotCore ∧ s.core? 1 = some spotCore ∧
      (s.part spotCore.entry).st.active = true ∧ Node.port 0 ∈ [Node.port 0]) := by
  refine ⟨fun l hl sl hs => ?_, by decide +kernel, fun v hv => ?_, by decide +kernel, fun n hn => ?_, by decide +kernel, by decide +kernel,
    ⟨by decide +kernel, by decide +kernel, rfl, rfl, by decide +kernel⟩⟩
  · simp only [heldTables, List.mem_cons, List.not_mem_nil, or_false] at hl hs
    rcases hl with rfl | rfl | rfl <;> rcases hs with rfl | rfl <;>
      exact ⟨List.mem_singleton.mpr rfl, fun x hx _ => List.mem_singleton.mp hx, rfl, by decide +kernel⟩
  · simp only [List.mem_cons, List.not_mem_nil, or_false] at hv
    rcases hv with rfl | rfl <;> exact ⟨rfl, rfl, rfl, by decide +kernel⟩
  · simp only [List.mem_cons, List.not_mem_nil, or_false] at hn
    rcases hn with rfl | rfl <;> exact ⟨rfl, by decide +kernel⟩

/-! ## Launches -/

/-- A launch of one field whose image of 64 bytes lies at 0x100000008000 and whose group table and seed list at 0x100000000000. -/
def someRecord : Vector Word 8 := #v[0x100000008000, 0x100000000000, 0x100000000000, 0x700000000, 0, 0x2000, 0x80C0, 0]

/-- The module whose port 0 holds at 0x2000 a range descriptor for the first 16 pages of the CXL window, and at 0x18000 the header of an image
without records. -/
def launchMem : Mem := (rangeMem.writeN 0x18000 (bytesLE 4 0x4D495751 ++ bytesLE 4 1)).writeN 0x18030 [64]

def launching : State := { world [] with ports := spotPorts.set 0 { (State.reset.ports.set 0 { Port.reset 0 with up := true, cap := 1 })[0] with mem := launchMem } }

/-- The entry of that launch at field (1, 0). -/
def placedEntry : PartEntry := recEntry someRecord 2 1 0

def withEntry (s : State) (p : PartEntry) : State := { s with mgr := { s.mgr with table := s.mgr.table.set 1 p } }

def queued (r : Vector Word 8) : State := { launching with mgr := { launching.mgr with queue := [⟨2, r⟩] } }

/-- LaunchEventsAreRight, the queue: a store that is accepted, one of a bad record, one without its image, one before READY, one to a full queue,
one at a port that is down; a SUBMIT, also above its priority; a placement, one whose page table is not there, and one at a field that is fenced. -/
theorem witness_launchQueue :
    ((launching.port 2).kind = 2 ∧ (launching.port 2).up = true ∧ launching.launchCode someRecord none = 1 ∧
      launching.badRecord (someRecord.set 7 1) = true ∧ launching.mgr.ready = true ∧ State.reset.mgr.ready = false ∧ (launching.port 4).up = false ∧
      launching.badRecord (someRecord.set 0 0x100000008100) = false ∧
      launching.imageHeader (recEntry (someRecord.set 0 0x100000008100) 0 0 0) = none ∧
      ({ launching with mgr := { launching.mgr with queue := List.replicate 64 ⟨2, someRecord⟩ } } : State).launchCode someRecord none = 2) ∧
    (let p := pkt (.core 1) .mgr (writeReq (.submit someRecord 2)); let s := withPkt spotCore p; let o := s.mgr.once
      s.serviceReady p = true ∧ s.isLocal p.src 4 = false ∧ s.isDead .mgr = false ∧ (∀ e ∈ o.cache, ¬ (e.2.rid = slotRid 1 0 ∧ e.2.ser = 3)) ∧
        (∀ e ∈ o.reqs, e.2.rid ≠ slotRid 1 0) ∧ afree 256 o.reqs = some 0 ∧ afree 1024 o.cache = some 0 ∧ recPrio someRecord = 0) ∧
    (queued someRecord).placeFor = some (⟨2, someRecord⟩, 1, 1, 0) ∧
    (let s := queued someRecord; let t : State := { s with mgr := { s.mgr with fence := 2 } };
      t.placeFor = some (⟨2, someRecord⟩, 1, 1, 0) ∧ ∃ f ∈ (recEntry someRecord 2 1 0).fieldList, t.fenced f = true) := by decide +kernel

/-- LaunchEventsAreRight, the partition: an open wave, one without its image, and one whose range table is poisoned; a loaded partition; a seed; a
partition that is quiescent; one that makes progress, and one that hangs. -/
theorem witness_launchedPartition :
    (let s := withEntry launching placedEntry; let p := s.part 1;
      p.st = .placed ∧ (p.killing = none ∧ p.waitUntil ≤ s.now) ∧ (s.imageBytes p).isSome ∧ (match s.readRanges p with | .ok _ => true | _ => false) = true) ∧
    (let s := withEntry { world [] with ports := rangePorts } placedEntry; (s.part 1).st = .placed ∧ s.imageBytes (s.part 1) = none ∧
      (match s.readRanges (s.part 1) with | .ok _ => true | _ => false) = true) ∧
    (let p : PartEntry := { placedEntry with rtab := 0x2000, nrange := 2 }; let s := withEntry launching p;
      let t : State := s.modPort 0 fun q => { q with poison := [0x2000] };
      (match t.readRanges p with | .ok _ => true | _ => false) = false) ∧
    (let s := withEntry launching { placedEntry with st := .loading }; (s.part 1).st = .loading ∧ (s.part 1).killing = none ∧ (s.part 1).waitUntil ≤ s.now) ∧
    (let x : Seed := ⟨60, 8, 5⟩; let s := withEntry { launching with cores := [(60, { Core.reset with entry := 1 })] } { placedEntry with st := .running, seeds := [x] };
      (s.part 1).st = .running ∧ (s.part 1).seeds = [x] ∧ s.core? 60 = some { Core.reset with entry := 1 } ∧ s.seedRoom x.core = true) ∧
    (let s := withEntry { launching with cores := [(60, { Core.reset with entry := 1 })] } { placedEntry with st := .running, asker := some (2, 7) };
      s.closeDue 1 = true ∧ (s.part 1).asker = some (2, 7)) ∧
    (∀ issued ∈ [none, some 199999000], let k := { Core.reset with entry := 1, lastIssue := issued }
      let s := withEntry { launching with cores := [(60, k)] } { placedEntry with st := .running, hang := 1 }; let t : State := { s with now := 200000000 };
      (t.part 1).st = .running ∧ (∀ x ∈ t.cores, x.2.entry = 1 ∧ t.progressed x.1 x.2 = issued.isSome) ∧ hangLimit (t.part 1).hang = some 100000000 ∧
        (t.part 1).progressNs + 100000000 ≤ t.timeNs ∧ t.mgr.hangNs ≤ 1000000000) := by
  refine ⟨by decide +kernel, by decide +kernel, by decide +kernel, by decide +kernel, ⟨by decide +kernel, by decide +kernel, rfl, by decide +kernel⟩, ?_, ?_⟩
  · decide +kernel
  · decide +kernel

/-! ## The mailbox, halts and the module -/

/-- A mailbox command at port 2 about entry 0 with a spill area at port 0. -/
def command : MailCmd := ⟨2, 7, 0, 0, 0x1000, none⟩

/-- A saved context of entry 0. -/
def spotShadow : Context := ⟨spotCore.regs, spotCore.tables, 0, [], false⟩

/-- MailboxAndHaltEventsAreRight: a port that is no host; a BUSY manager; entries in each state, with and without PRE, and 48; spill areas; physical
cores that are RETIRED, SPARE and outside; the last binding entry and the first index past it; a PREEMPT that names an entry SAVED on the same
fields, and one beside a SAVED partition that it does not name; a kill during a PREEMPT; a core that halts, all cores halted, also where another
partition is resumed, a HALTING partition after 10 ms; a write that is neither a record nor a command, and a command of no kind. -/
theorem witness_mailboxEvents :
    (let s := spot spotCore;
      ((s.port 2).kind = 2 ∧ (s.port 2).up = true) ∧ (s.port 0).kind ≠ 2 ∧ s.mgrBusy = false ∧
        (inState spotCore { spotEntry with asker := some (2, 7) }).mgrBusy = true ∧ 47 < (48#64).toNat ∧
        (bits (0#64) 0 58 % 2 ^ 18 = 0 ∧ (s.port (bits (0#64) 58 6)).isMem = true) ∧ ¬ bits (1#64) 0 58 % 2 ^ 18 = 0) ∧
    (∀ pre ∈ [true, false], let s := inState spotCore { spotEntry with pre := pre };
      (s.part 0).st = .running ∧ (s.part 0).killing = none ∧ s.mgrBusy = false ∧ (∀ f ∈ (s.part 0).fieldList, s.savedOn f none = false) ∧
        (s.part 0).pre = pre) ∧
    (let s := inState Core.reset { spotEntry with st := .saved }; let t : State := { s with cores := [], idle := [(0, { Core.reset with shadow := some spotShadow })] };
      (t.part 0).st = .saved ∧ (∀ f ∈ (t.part 0).fieldList, t.fieldFree f = true) ∧ t.mgrBusy = false ∧
        (t.idleCore 0).shadow.isSome ∧ (t.idleCore 1).shadow.isNone ∧ spotShadow.bad = false) ∧
    (let s := inState spotCore spotEntry; let t := withEntry s { spotEntry with st := .saved };
      (s.part 0).pre = false ∧ (t.part 1).fieldList = (t.part 0).fieldList ∧ (t.part 1).st = .saved ∧ t.mgrBusy = false ∧
        (∀ f ∈ (t.part 0).fieldList, ∀ e, e < 48 → (t.part e).st = .saved → e = 1) ∧ ∃ f ∈ (t.part 0).fieldList, f ∈ (t.part 1).fieldList) ∧
    (let s := inState spotCore { spotEntry with st := .halting, asker := some (2, 7) };
      s.mgr.shoot = none ∧ (s.part 0).st = .halting ∧ (s.part 0).killing = none ∧ (s.part 0).asker = some (2, 7)) ∧
    (PartState.active .running = true ∧ PartState.active .closed = false ∧ PartState.free ≠ .saved) ∧
    (∀ st ∈ [PartState.loading, .free, .closed, .failed], let s := inState spotCore { spotEntry with st := st };
      (s.part 0).st = st ∧ s.mgrBusy = false) ∧
    (let s := spot spotCore; let t : State := { s with mgr := { s.mgr with phys := [(physKey (479, 449), 2)] } };
      physSt (t.physRec (479, 449)) = 2 ∧ physSt (s.physRec (479, 449)) ≠ 2 ∧ 480 ≤ (480#64).toNat ∧ (0x3FFFF#64).toNat < 2 ^ 18 ∧
        2 ^ 18 ≤ (0x40000#64).toNat) ∧
    (let k := spotCore.modSlot 0 fun x => { x with st := .waiting, wait := some (.all (.g 1) none) }; let s := inState k { spotEntry with st := .halting };
      s.core? 0 = some k ∧ s.haltDue k = true) ∧
    (∀ step ∈ [SwapStep.none, .spill, .refill, .swap],
      (let s := inState { spotCore with halted := true } { spotEntry with st := .halting, swapStep := step };
        s.haltDone 0 = true ∧ (s.part 0).waitUntil ≤ s.now ∧ (s.part 0).swapStep = step ∧ (s.part 0).resumeEntry = none ∧
          (s.cores.map fun k => k.1).Nodup) ∧
      (let k := { spotCore with halted := true, shadow := some { spotShadow with entry := 1 } }
        let s := inState k { spotEntry with st := .halting, swapStep := step, resumeEntry := some 1 };
        s.haltDone 0 = true ∧ (s.part 0).resumeEntry = some 1 ∧ s.core? 0 = some k ∧ k.entry = 0 ∧ ({ spotShadow with entry := 1 } : Context).bad = false) ∧
      (let k := { spotCore with halted := true, shadow := some spotShadow }; let s := inState k { spotEntry with st := .resuming, swapStep := step };
        s.haltDone 0 = true ∧ (s.part 0).st = .resuming ∧ s.core? 0 = some k ∧ k.shadow = some spotShadow ∧ spotShadow.entry = 0)) ∧
    (let s : State := { inState spotCore { spotEntry with st := .halting, asker := some (2, 7) } with now := 13000000 };
      (s.part 0).st = .halting ∧ (s.part 0).killing = none ∧ (s.part 0).swapStep = .none ∧ (s.part 0).haltNs + 10000000 ≤ s.timeNs ∧ ∃ k ∈ s.cores, k.2.entry = 0 ∧ k.2.haltKept = false) ∧
    (¬ ((List.replicate 8 (0 : Byte)).length = 64 ∧ (0x40 = 0 ∨ 0x40 = 0x100)) ∧ (List.replicate 64 (8 : Byte)).length = 64 ∧
      8 ≤ ((List.replicate 64 (8 : Byte)).getD 0 0).toNat ∧ (List.replicate 64 (7 : Byte)).getD 0 0 ≠ 0 ∧
      ((List.replicate 64 (7 : Byte)).getD 0 0).toNat < 8) := by
  refine ⟨by decide +kernel, fun v hv => ?_, by decide +kernel, by decide +kernel, by decide +kernel, by decide, fun v hv => ?_, by decide +kernel,
    ⟨rfl, by decide +kernel⟩, fun v hv => ?_,
    ⟨by decide +kernel, by decide +kernel, by decide +kernel, by decide +kernel, ⟨_, List.mem_singleton.mpr rfl, by decide +kernel⟩⟩, by decide +kernel⟩ <;>
    simp only [List.mem_cons, List.not_mem_nil, or_false] at hv
  · rcases hv with rfl | rfl <;> exact by decide +kernel
  · rcases hv with rfl | rfl | rfl | rfl <;> exact by decide +kernel
  · rcases hv with rfl | rfl | rfl | rfl <;>
      exact ⟨by decide +kernel, ⟨by decide +kernel, rfl, rfl, rfl, rfl⟩, ⟨by decide +kernel, rfl, rfl, rfl, rfl⟩⟩

/-- A spare of a field makes a choice of it. -/
theorem spareIn_some {s : State} {c fld : Nat} {p : Nat × Nat} (hp : p ∈ fieldPositions fld) (h0 : physSt (s.physRec p) = 0)
    (hr : s.reserved p = false) (hl : s.linksReach c p = true) : (s.spareIn c fld).isSome = true := by
  have keep : ∀ (l : List (Nat × Nat)) (f : Option (Nat × Nat) → Nat × Nat → Option (Nat × Nat)),
      (∀ b q, b.isSome = true → (f b q).isSome = true) → ∀ b, b.isSome = true → (l.foldl f b).isSome = true := by
    intro l f hf
    induction l with
    | nil => exact fun b h => h
    | cons q l ih => exact fun b h => ih _ (hf b q h)
  have meet : ∀ (l : List (Nat × Nat)) (f : Option (Nat × Nat) → Nat × Nat → Option (Nat × Nat)),
      (∀ b q, b.isSome = true → (f b q).isSome = true) → (∀ b, (f b p).isSome = true) → p ∈ l → ∀ b, (l.foldl f b).isSome = true := by
    intro l f hf hq
    induction l with
    | nil => exact fun h => nomatch h
    | cons q l ih =>
      intro hm b
      rcases List.mem_cons.mp hm with rfl | hm
      · exact keep l f hf _ (hq b)
      · exact ih hm _
  unfold State.spareIn
  refine meet _ _ (fun b q h => ?_) (fun b => ?_) hp none
  · cases b with
    | none => exact nomatch h
    | some b => dsimp only; split <;> rfl
  · cases b with
    | none => simp [h0, hl, hr]
    | some b =>
      simp only [h0, hl, hr, decide_true, Bool.and_true, Bool.not_false]
      split <;> rfl

/-- The module whose core 0 has a spare beside it. -/
def farCore : State := { spot spotCore with mgr := { spotMgr with phys := [(physKey (1, 1), 0)] } }

theorem farCore_spare : (farCore.chooseSpare 0).isSome = true := by
  have hp : (1, 1) ∈ fieldPositions 0 := by
    simp only [fieldPositions, List.mem_flatMap, List.mem_map, List.mem_range]
    exact ⟨1, by decide, 1, by decide, rfl⟩
  have h := spareIn_some (s := farCore) (c := 0) hp (by decide +kernel) (by decide +kernel) (by decide +kernel)
  have hf : spareFields 0 = 0 :: (spareFields 0).tail := by decide +kernel
  have first : ∀ (f : Nat → Option (Nat × Nat)) (l : List Nat), (f 0).isSome = true → ((0 :: l).findSome? f).isSome = true := by
    intro f l h
    rw [List.findSome?_cons]
    cases hf : f 0 with
    | some q => rfl
    | none => rw [hf] at h; exact nomatch h
  unfold State.chooseSpare
  rw [hf]
  exact first _ _ h

/-- The module whose only good field is (0, 0), all of whose 120 spares are RETIRED, with these retirements in progress. -/
def noSpare (r : List (Nat × Nat × Nat)) : State :=
  { spot { spotCore with frozen := !r.isEmpty } with
    mgr := { spotMgr with
      fence := BitVec.ofNat 48 (2 ^ 48 - 2), retiring := r
      phys := (List.range 2).flatMap fun y => (List.range 60).map fun x => (physKey (x, 73 + y), 2) } }

theorem aget_all {α : Type} {x : α} : ∀ {l : List (Nat × α)}, (∀ e ∈ l, e.2 = x) → ∀ {k : Nat} {y : α}, aget k l = some y → y = x := by
  intro l hl k y h
  induction l with
  | nil => exact nomatch h
  | cons e l ih =>
    simp only [aget] at h
    split at h
    · simp only [Option.some.injEq] at h
      exact h ▸ hl e (List.mem_cons_self ..)
    · exact ih (fun z hz => hl z (List.mem_cons_of_mem _ hz)) h

/-- No position of it is SPARE. -/
theorem noSpare_rec (r : List (Nat × Nat × Nat)) {fld : Nat} (hf : fld < 48) : ∀ p ∈ fieldPositions fld, physSt ((noSpare r).physRec p) ≠ 0 := by
  intro p hp
  simp only [fieldPositions, List.mem_flatMap, List.mem_map, List.mem_range] at hp
  obtain ⟨y, hy, x, hx, rfl⟩ := hp
  have h1 : physField (60 * (fld % 8) + x, 75 * (fld / 8) + y) = fld := by simp only [physField]; omega
  have h2 : ∀ g : Fin 48, (noSpare []).fenced g.val = decide (g.val ≠ 0) := by decide +kernel
  have h3 : (noSpare r).fenced fld = decide (fld ≠ 0) := h2 ⟨fld, hf⟩
  by_cases h0 : fld = 0
  · subst h0
    by_cases hs : y < 73
    · have h4 : ∀ e ∈ (noSpare []).mgr.phys, e.2 = 2 := by decide +kernel
      simp only [State.physRec, h1, h3, ne_eq, not_true_eq_false, decide_false, Bool.false_eq_true, if_false]
      split
      · rename_i b hb
        rw [aget_all h4 hb]
        decide
      · have h5 : (noSpare r).mgr.cols = 480 := rfl
        have h6 : fieldRows 0 = 73 := rfl
        have h7 : (75 * (0 / 8) + y) % 75 = y := by omega
        have h8 : (75 * (0 / 8) + y) / 75 = 0 := by omega
        have h9 : 60 * (0 % 8) + x < 480 := by omega
        simp only [h5, h6, h7, h8, h9, hs, decide_true, Bool.and_self, if_true]
        decide
    · have h4 : ∀ (x : Fin 60) (y : Fin 2), physSt ((noSpare []).physRec (x.val, 73 + y.val)) ≠ 0 := by decide +kernel
      have h5 : (60 * (0 % 8) + x, 75 * (0 / 8) + y) = (x, 73 + (y - 73)) := Prod.ext (by simp) (by simp; omega)
      rw [h5]
      exact h4 ⟨x, hx⟩ ⟨y - 73, by omega⟩
  · simp only [State.physRec, h1, h3, ne_eq, h0, not_false_eq_true, decide_true, if_true]
    decide

theorem noSpare_none (r : List (Nat × Nat × Nat)) : (noSpare r).chooseSpare 0 = none := by
  have stay : ∀ (l : List (Nat × Nat)) (f : Option (Nat × Nat) → Nat × Nat → Option (Nat × Nat)), (∀ p ∈ l, f none p = none) →
      l.foldl f none = none := by
    intro l f hf
    induction l with
    | nil => rfl
    | cons q l ih => rw [List.foldl_cons, hf q (List.mem_cons_self ..)]; exact ih fun p hp => hf p (List.mem_cons_of_mem _ hp)
  have good : ∀ g ∈ spareFields 0, g < 48 := by decide +kernel
  unfold State.chooseSpare
  rw [List.findSome?_eq_none_iff]
  intro f hf
  unfold State.spareIn
  refine stay _ _ fun p hp => ?_
  simp [noSpare_rec r (good f hf) p hp]

/-- A frozen core 0 whose state goes to the physical core (1, 1), with this record. -/
def retiringState (r : Byte) : State :=
  { spot { spotCore with frozen := true } with mgr := { spotMgr with retiring := [(0, physKey (1, 1), 0)], phys := [(physKey (1, 1), r)] } }

/-- A training that an attempt of firmware finds. -/
def trained (w : BitVec 5) (rate : BitVec 2) (same : Bool) : Training := ⟨true, w, rate, 1, same⟩

/-- RetirementAndPortEventsAreRight: a core with a spare, and one without; a copy that is ready, with its spare still there; one whose spare has
gone, in a module without another; a retirement of more than 100 µs; a memory port and a host port that are up, and ones that are down, at
1.3 s, with trainings at each width and rate, at others, and at another device; segments that are well-formed, misaligned, and overlap. -/
theorem witness_retirementEvents :
    (farCore.retirable 0 = true ∧ (farCore.chooseSpare 0).isSome = true ∧ farCore.core? 0 = some spotCore) ∧
    (let k := { spotCore with frozen := true }; let s := retiringState 0;
      s.core? 0 = some k ∧ k.frozen = true ∧ (s.retiringOf 0 = some ((1, 1), 0) ∧ s.retireReady k = true ∧ s.spareFor 0 (1, 1) = some (1, 1) ∧
        s.fenced (fieldOf 0) = false)) ∧
    (let s : State := { retiringState 0 with now := 130000 }; s.retiringOf 0 = some ((1, 1), 0) ∧ 0 + 100000 ≤ s.timeNs) ∧
    (let s := spot spotCore; ∀ p ∈ [0, 2], p < 64 ∧ (s.port p).up = true ∧ (s.port p).failed = false) ∧
    (((spot spotCore).port 0).isMem = true ∧ ((spot spotCore).port 0).kind = 1 ∧ Node.port 0 ∉ (spot spotCore).mgr.dead ∧
      (spot spotCore).heldAtPort 2 = [] ∧ (State.reset.port 2).kind = 2 ∧ (State.reset.port 0).kind = 1) ∧
    (let s : State := { spot spotCore with ports := State.reset.ports.map fun p => { p with lastWidth := 8 } };
      ∀ p ∈ [0, 2], (s.port p).up = false ∧ (s.port p).failed = false ∧ (s.port p).changed = false ∧ (s.port p).retryAt ≤ s.now ∧ s.mgr.power = true ∧
        (s.port p).lastWidth = 8) ∧
    ((∀ w ∈ [(16 : BitVec 5), 8, 4], ∀ rate ∈ [(1 : BitVec 2), 2], let r := trained w rate true;
        r.up = true ∧ (r.width = 16 ∨ r.width = 8 ∨ r.width = 4) ∧ (r.rate = 1 ∨ r.rate = 2)) ∧
      (trained 7 1 true).width ∉ [16, 8, 4] ∧ (trained 8 3 true).rate ∉ [1, 2] ∧ (trained 8 1 false).sameDevice = false) ∧
    (let lo := (0x1000#64).toNat / 4096; let hi := (0x3000#64).toNat / 4096;
      ((0x1000#64).toNat % 4096 = 0 ∧ (0x3000#64).toNat % 4096 = 0 ∧ lo < hi ∧ hi < 2 ^ 33 ∧ (0x1001#64).toNat % 4096 ≠ 0) ∧
        afree (tokCap (.port 0)) ((spot spotCore).port 0).toks = some 0 ∧
        ((region .home 2 5).base < hi ∧ lo < (region .home 2 5).limit)) := by
  refine ⟨⟨by decide +kernel, farCore_spare, rfl⟩, ⟨rfl, rfl, by decide +kernel⟩, by decide +kernel, by decide +kernel, by decide +kernel, ?_, ?_⟩
  · decide +kernel
  · decide +kernel

/-- RetirementAndPortEventsAreRight, where no spare is left: a core that is to retire, and one whose spare has been lost. -/
theorem witness_noSpare :
    ((noSpare []).retirable 0 = true ∧ (noSpare []).chooseSpare 0 = none) ∧
    (let r := [(0, physKey (5, 74), 0)]; let k := { spotCore with frozen := true }; let s := noSpare r;
      s.core? 0 = some k ∧ s.retiringOf 0 = some ((5, 74), 0) ∧ s.retireReady k = true ∧ s.spareFor 0 (5, 74) = none) := by
  refine ⟨⟨by decide +kernel, noSpare_none []⟩, rfl, by decide +kernel, by decide +kernel, ?_⟩
  have h : physSt ((noSpare [(0, physKey (5, 74), 0)]).physRec (5, 74)) = 2 := by decide +kernel
  simp only [State.spareFor, h, noSpare_none]
  rfl

/-- ModuleEventsAreRight: the power off, with a port map and its domains down, and on; the first, the third and the last bring-up stage; an island in a
good field, at a 1 ms boundary, lowered by a step, and one whose supply has room for 5 mV; readings at each limit; 10 ms above the limit; a
fenced field; a good word of a store, two bits of it, and a memory port. -/
theorem witness_moduleEvents :
    (State.reset.mgr.power = false ∧ (spot spotCore).mgr.power = true) ∧
    (∀ n ∈ [0, 2, 5], let s : State := { spot spotCore with mgr := { spotMgr with ready := false, stage := n } };
      s.mgr.power = true ∧ s.mgr.ready = false ∧ s.mgr.stage = n ∧ s.mgr.rails = [] ∧ s.mgr.portMap.toList.countP (· = 2) ≤ 8) ∧
    ((spot spotCore).fenced (95 / 2) = false ∧ ((spot spotCore).islandAt 95).vplan + 5 ≤ 880) ∧
    (25 ≤ (25#16).toInt ∧ (24#16).toInt < 25 ∧ 40 ≤ (40#16).toInt ∧ 1000 ≤ (1000#16).toInt ∧ (949#16).toInt < 950 ∧ 1100 ≤ (1100#16).toInt) ∧
    (let s : State := ({ spot spotCore with now := 1300000 } : State).modIsland 95 fun x => { x with lowered := 1 };
      s.now % 1300000 = 0 ∧ s.fenced (95 / 2) = false ∧
        (s.islandAt 95).fmhz ≠ (s.islandAt 95).planned - 13 * max (s.islandAt 95).lowered (s.islandAt 95).cooled) ∧
    (let s : State := { spot spotCore with now := 13000000, mgr := { spotMgr with overNs := some 0 } };
      s.mgr.overNs = some 0 ∧ 0 + 10000000 ≤ s.timeNs ∧ 39000 < (39001#32).toNat ∧ (spot spotCore).mgr.overNs = none ∧
        s.now % 1300000 = 0 ∧ s.mgr.stepMs < s.now / 1300000 ∧ (s.islandAt 95).stepMs < s.now / 1300000) ∧
    (let s : State := { spot spotCore with mgr := { spotMgr with fence := 1 }, now := 1300000 };
      s.fenced 0 = true ∧ s.mgr.dead = [] ∧ s.now % 1300000 = 0 ∧ (s.islandAt 1).fmhz ≠ 0) ∧
    (let x := Island.reset; let y : Island := { x with fmhz := 1287, baseAt := 1300000, baseCyc := x.cycles 1300000 };
      y.baseAt = 1300000 ∧ y.baseCyc = x.cycles 1300000 ∧ 0 < x.fmhz ∧ 0 < y.fmhz ∧ y.fmhz ≤ 1300 ∧ 1300000 < 1300032) ∧
    ((spot spotCore).core? 0 = some spotCore ∧ 24575 < 24576 ∧ 24575 ∉ spotCore.badWords ∧ (∀ e ∈ spotCore.soft, e.1 ≠ 24575) ∧
      spotCore.regs.finj.getLsbD 0 = false) ∧
    ((spot spotCore).port 0).isMem = true := by
  have held : (spot spotCore).core? 0 = some spotCore ∧ 24575 < 24576 ∧ 24575 ∉ spotCore.badWords ∧ (∀ e ∈ spotCore.soft, e.1 ≠ 24575) ∧
      spotCore.regs.finj.getLsbD 0 = false := ⟨rfl, by decide +kernel⟩
  refine ⟨by decide +kernel, ?_, by decide +kernel, by decide, by decide +kernel, by decide, by decide +kernel, by decide +kernel, held, by decide +kernel⟩
  decide +kernel

/-- What a schedule names, in a form to compare. -/
def actIs (a b : Act) : Bool :=
  match a, b with
  | .issue c, .issue d => decide (c = d)
  | .tick, .tick => true
  | .event i, .event j => decide (i = j)
  | _, _ => false

theorem act_eq {a b : Act} (h : actIs a b = true) : a = b := by
  cases a <;> cases b <;> simp_all [actIs]

/-- StepRunsTheDecodedInstruction: a core that issues at 0 and at the end of the store, an event that is due, and states in which nothing is. -/
theorem witness_step :
    ((spot spotCore).nextAct = .issue 0 ∧ spotCore.running = some 0 ∧ (spotCore.slot 0).pc < 0x30000 ∧ spotCore.stale = []) ∧
    (let k := spotCore.modSlot 0 fun x => { x with pc := 0x30000 }; (spot k).nextAct = .issue 0 ∧ k.running = some 0) ∧
    (spot (spotCore.modSlot 0 fun x => { x with st := .ready, readyAt := 2600 })).nextAct = .event (.slotSelection 0) ∧
    (spot (spotCore.modSlot 0 fun x => { x with st := .waiting, wait := some (.all (.g 1) none) })).nextAct = .tick ∧
    State.reset.nextAct = .tick :=
  ⟨⟨act_eq (by decide +kernel), by decide +kernel⟩, ⟨act_eq (by decide +kernel), by decide +kernel⟩, act_eq (by decide +kernel),
    act_eq (by decide +kernel), act_eq (by decide +kernel)⟩

/-- StoredInstructionsDecodeAsThemselves: an instruction of one word at the last word of the store, and one of two below it. -/
theorem witness_stored :
    (let i : Instr := .nop Head.default; i.wf = true ∧ spotCore.mem.wf = true ∧ spotCore.stale = [] ∧ 0x2FFFC + 4 * (encode i).length ≤ 0x30000) ∧
    (let i : Instr := .addi Head.default (.imm 0) (.g 1) (.g 1) 0x200; i.wf = true ∧ 0x2FFF8 + 4 * (encode i).length ≤ 0x30000) := by decide +kernel

/-- EveryStepKeepsTheMemoriesCanonical, ResetIsRight: the step of the state after power-on is a step of time, and an image may have no segments. -/
theorem witness_invariant : State.reset.memOk ∧ step State.reset = .next State.reset.tick ∧ (parseImage []).segs = [] := by
  refine ⟨⟨?_, ?_, by decide +kernel⟩, ?_, by decide +kernel⟩
  · intro e he; exact nomatch he
  · intro e he; exact nomatch he
  · have h : State.reset.nextAct = .tick := act_eq (by decide +kernel)
    rw [step, h]

/-- IssueTimesAreRight: an instruction of each kind with FTRAP 0 and the pipe free, and with the pipe taken; a control register that is not FLAGS;
registers with a write in flight and without; a message that its door holds; a translation that the TLB missed; a request that is new. -/
theorem witness_issueTimes :
    (∀ i ∈ [Instr.add Head.default (.g 3) (.g 1) (.g 2), .adds Head.default (.g 3) (.g 1) (.g 2), .mul Head.default (.g 3) (.g 1) (.g 2), .vaddI32 Head.default .none 1 2 3 .all,
        .vaddF32 Head.default .none 1 2 3 .all], ReadyAt spotCore i.words (usesOf i) ∧ i.head = Head.default) ∧
    ((spotCore.slot 0).ftrap = 0 ∧ spotCore.fpFree ≤ (spot spotCore).cyc 0 ∧ (0x040#10) ≠ 0 ∧ (0x040#10).toNat < 0x050) ∧
    (let k := { spotCore with fpFree := 2601 }; ReadyAt k 1 (usesOf (.vaddF32 Head.default .none 1 2 3 .all)) ∧ (spot k).cyc 0 < k.fpFree) ∧
    (let l : List Inflight := [⟨.g 5, 2601, .word 1⟩]; (∀ e ∈ l, e.reg = .g 6 → e.lands ≤ 2600) ∧ ∃ e ∈ l, e.reg = .g 5 ∧ 2600 < e.lands) ∧
    (let k := { opened 0x08000001 with regs := { spotCore.regs with slots := Vector.replicate 8 { Slot.reset with st := .waiting } } };
      (match (spot k).doorArrive 0 toDoor5 with
        | (_, none) => true
        | _ => false) = true ∧ k.freeSlot = none) ∧
    (let t : Access := ⟨.port 0, 0, false, 0x100000000000, none, some cxlPage, 79⟩; t.missed = some cxlPage) ∧
    (let r := { request .quiet true with att := 0 }; r.att = 0 ∧ r.takesEntry = true) := by
  refine ⟨fun i hi => ?_, by decide +kernel, ⟨readyAt (by decide +kernel), by decide +kernel⟩, by decide +kernel, by decide +kernel, rfl, by decide +kernel⟩
  simp only [List.mem_cons, List.not_mem_nil, or_false] at hi
  rcases hi with rfl | rfl | rfl | rfl | rfl <;> exact ⟨readyAt (by decide +kernel), rfl⟩

/-- A core whose slot 0 has this membership and holds these entries. -/
def ending (ms : List (Nat × Member)) (hs : List (Nat × HeldTok)) : Core := { withHeld spotCore hs with
  tables := { (withHeld spotCore hs).tables with members := ms } }

/-- EndDrainsOrFrees: a slot with a membership of a latch of its own core, with an entry held at core 1, plain and shared, with a LOST one, and
with a HOME region that it declared with REL. -/
theorem witness_endDrains :
    (let m : Member := ⟨peerBase 0 + 0x100, 0, 2⟩; let k := ending [(3, m)] [];
      ReadyAt k 1 usesNone ∧ ((k.slot 0).killed = false ∧ (k.tables.members.filter fun e => decide (e.2.slot = 0)) = [(3, m)] ∧
        k.overlapHold 0 m.addr 16 true = false ∧ k.acqHold 0 0 (.core (peerCore m.addr)) = false ∧ k.reqFree = true) ∧
        windowOf m.addr = .peer 0 0x100 ∧ (spot k).peerCheck k 0 0x100 1 = none) ∧
    (∀ kind ∈ [(0 : BitVec 2), 1], let x := heldTok 0x10000401 1 kind false; let k := ending [] [(3, x)];
      ReadyAt k 1 usesNone ∧ (k.tables.held.filter fun e => decide (e.2.slot = 0)) = [(3, x)] ∧ x.lost = false ∧ x.reserved = false ∧
        k.working 0 = false ∧ k.reqFree = true ∧ peerBase 0 + 0x30000 ≤ x.base * 256 ∧ windowOf (x.base * 256) = .peer 1 0x100 ∧
        (spot k).peerCheck k 1 0x100 1 = none) ∧
    (let x := heldTok 0x10000401 1 0 true; let k := ending [] [(3, x)];
      ReadyAt k 1 usesNone ∧ (k.tables.held.filter fun e => decide (e.2.slot = 0)) = [(3, x)] ∧ x.lost = true ∧ k.tables.msgs = []) ∧
    (let e := { region .home 1 2 with rel := true }; let k := withHome spotCore [(3, e)];
      ReadyAt k 1 usesNone ∧ k.tables.home = [(3, e)] ∧ e.rel = true ∧ e.dslot = 0 ∧ e.st = .home ∧ e.parent = none ∧ e.granting = false ∧
        e.holders = []) := by
  refine ⟨⟨readyAt (by decide +kernel), by decide +kernel⟩, fun v hv => ?_, ⟨readyAt (by decide +kernel), by decide +kernel⟩,
    ⟨readyAt (by decide +kernel), by decide +kernel⟩⟩
  simp only [List.mem_cons, List.not_mem_nil, or_false] at hv
  rcases hv with rfl | rfl <;> exact ⟨readyAt (by decide +kernel), by decide +kernel⟩

/-- EnabledFlagsTrap, the later results: a pending result, one of the special-function unit, and a drain, each with an enabled flag. -/
theorem witness_laterTraps :
    (let r : Result := { resultFor (.g 9) with due := 2600, flags := 0x10, trapEn := 0x3F }; let k := { spotCore with results := [r] };
      (k.results.find? fun e => decide (e.id = r.id) && decide (e.due ≤ (spot k).cyc 0)) = some r ∧ trapCause (r.flags &&& r.trapEn) = some .nvtrap) ∧
    (let q := { sfuReq with start := some 5, writeAt := 2600, flags := 0x08, trapEn := 0x3F }; let k := { spotCore with sfu := q :: [], sfuWrite := 2600 };
      k.sfu = q :: [] ∧ q.start.isSome ∧ q.writeAt ≤ (spot k).cyc 0 ∧ k.sfuWrite ≤ (spot k).cyc 0 ∧ trapCause (q.flags &&& q.trapEn) = some .dztrap) ∧
    (let m := { entry 1 (.mdrain .f32 0 5 0 false false .rne false) 0 true 2600 with trapEn := 0x3F, result := some VReg.reset, flags := 4 }
      let k := { spotCore with matrix := [m] };
      (k.matrix.find? fun e => e.dispatched && decide (e.completeAt ≤ (spot k).cyc 0) && decide (e.id = m.id)) = some m ∧
        trapCause (((m.cmd.ranges.foldl (fun q e => q.injectRead e.1 e.2) k).amaxApply ((spot k).cyc 0)).matrixWrite 0 m).2 = some .oftrap) := by
  decide +kernel

/-- BlockAtomicsAndFences, the faults of ATOM.BADD: an unknown group; targets misaligned, in the CXL and a host window, in no window and held by
nobody; addends misaligned, past the end and LENT; and a scatter that it waits for. -/
theorem witness_baddFaults :
    (let p : OrdPfx := ⟨.rlx, .grp 5, 0⟩; ReadyAt spotCore 2 (usesRRR (.g 3) (.g 1) (.g 2)) ∧ spotCore.scopeOk (ordOf (.ord p)).2 = false) ∧
    (∀ v ∈ [(0x108#64, 0#64), (0x1000040008, 0), (0x100, 8), (0x100000000000, 0), (0x400000000000, 0), (0x30000, 0), (0x100, 0x2FF00),
        (0x100, 0x8000), (0x8000, 0)],
      let k := withHome (with3 spotCore v.1 v.2 0) [(0, region .lent 128 129)];
      ReadyAt k 1 (usesRRR (.g 3) (.g 1) (.g 2)) ∧ k.scopeOk (ordOf .none).2 = true ∧ val k (.g 1) = v.1 ∧ val k (.g 2) = v.2 ∧
        (v.1 = 0x108 → remAlign 0x108 16 = some .lalign) ∧ (v.1 = 0x1000040008 → remAlign 0x1000040008 16 = some .ralign) ∧
        (v.2 = 8 → remAlign 0x100 16 = none ∧ v.2.toNat % 16 ≠ 0) ∧ windowOf 0x100000000000 = .cxl ∧ windowOf 0x400000000000 = .host ∧
        (v.1 = 0x30000 → windowOf 0x30000 = .bad) ∧ (v.2 = 0x2FF00 → 0x30000 < v.2.toNat + 272) ∧ (v.2 = 0x8000 → k.allowed false 0x8000 272 = false) ∧
        (v.1 = 0x8000 → k.allowed true 0x8000 272 = false)) ∧
    (∀ k f, ((spot k).seen 0 1 f).remAddr 0 k 0x30000 272 true = .fault .raddr) ∧
    (let k := { with3 spotCore 0x100 0 0 with stores := [{ storeAt 0x9000 [1] with due := 2603 }] };
      ReadyAt k 1 (usesRRR (.g 3) (.g 1) (.g 2)) ∧ k.readHold 0 ((spot k).cyc 0) = true) := by
  refine ⟨⟨readyAt (by decide +kernel), by decide +kernel⟩, fun v hv => ?_, fun _ _ => rfl, ⟨readyAt (by decide +kernel), by decide +kernel⟩⟩
  simp only [List.mem_cons, List.not_mem_nil, or_false] at hv
  rcases hv with rfl | rfl | rfl | rfl | rfl | rfl | rfl | rfl | rfl <;> exact ⟨readyAt (by decide +kernel), by decide +kernel⟩

/-- TokenRequestsAreSent, its first clause: a LOST entry that is returned while a store to its region is buffered. -/
theorem witness_lostFlush :
    let e := heldTok (peerBase 0 / 256 + 1) 1 0 true; let k := { withHeld (with3 spotCore 0x100 0 0) [(0, e)] with stores := [storeAt 0x1F8 [1]] };
    ReadyAt k 1 (usesA (.g 1)) ∧ k.tables.heldBase 0 (ownPeer 0 0x100) false = some (0, e) ∧
      k.flushHold 0 0 (e.base * 256) ((e.base + e.size) * 256) = true :=
  ⟨readyAt (by decide +kernel), by decide +kernel⟩

/-- An edge home that anyone may use. -/
def edgeEnv : TokEnv := ⟨true, 4096, 4096, 7, 0, fun _ => true, true, fun _ => none⟩

/-- A part of the region of entry 3, at this index. -/
def partOf (st : TokState) (i : Nat) : Nat × HomeTok := (i, { region st (i + 1) (i + 2) with parent := some 3 })

/-- A split region with a HOME part and a part in this state. -/
def splitIn (st : TokState) : List (Nat × HomeTok) := (3, region .split 1 3) :: partOf .home 0 :: partOf st 1 :: []

/-- TokenTableChangesAreRight: TDECL at an edge home, where another overlaps and where the table is full; TJOIN of two HOME parts and of a part that is
LENT; TSHARE with a named position, without one, and with no count left; TUNSH of a named and of an anonymous share, and of none; TRECL and TCLEAN of each state. -/
theorem witness_tokenTable2 :
    (edgeEnv.edge = true ∧ bits (0x1000#64) 48 16 = 0 ∧ (0 + bits (0x1000#64) 0 48) / edgeEnv.unit < 2 ^ 33 ∧ edgeEnv.mayDeclare = true ∧
      0 % edgeEnv.unit = 0 ∧ bits (0x1000#64) 0 48 ≠ 0 ∧ bits (0x1000#64) 0 48 % edgeEnv.unit = 0 ∧
      (∀ e ∈ [(0, region .home 1 2)], 1 ≤ e.2.base ∨ e.2.limit ≤ 0) ∧ ¬ (∀ e ∈ [(0, region .home 0 2)], 1 ≤ e.2.base ∨ e.2.limit ≤ 0) ∧
      afree 4096 [(0, region .home 1 2)] = some 1 ∧ afree 64 ((List.range 64).map fun i => (i, region .home (i + 1) (i + 2))) = none) ∧
    (∀ st ∈ [TokState.home, .lent],
      ((splitIn st).filter fun x => decide (x.2.st = .split) && decide (x.2.base * 256 = 0x100)) = [(3, region .split 1 3)] ∧
        ((splitIn st).filter fun x => decide (x.2.parent = some 3)) = [partOf .home 0, partOf st 1] ∧ (st ≠ .home → ∃ z ∈ [partOf .home 0, partOf st 1], z.2.st ≠ .home)) ∧
    (∀ v ∈ [(#v[some (1 : BitVec 21), none, none, none], 5, false), (#v[some 1, some 2, some 3, some 4], 5, false), (#v[none, none, none, none], 4095, true)],
      let e := { region .shared 1 2 with named := v.1, anon := v.2.1 }; let b : Word := if v.2.2 then 0x200001 else 1;
      leafBase [(3, e)] 256 0x100 = some (3, e) ∧ e.st = .shared ∧ freeEnv.entitled e = true ∧ b.toNat < 2 ^ 22 ∧
        (v.2.2 = true → b.getLsbD 21 = true ∧ 4095 ≤ e.anon) ∧ (v.1[1] = some 2 → ∀ m : Fin 4, e.named[m] ≠ none) ∧
        (v.1[0] = some 1 → v.1[1] = none → e.named[(1 : Fin 4)] = none ∧ ∀ m : Fin 4, m < 1 → e.named[m] ≠ none)) ∧
    (let e := { region .shared 1 2 with named := #v[some 9, some freeEnv.ident, none, none], anon := 1 };
      e.st = .shared ∧ e.named[(1 : Fin 4)] = some freeEnv.ident ∧ (∀ m : Fin 4, m < 1 → e.named[m] ≠ some freeEnv.ident) ∧ 0 < e.anon ∧
        (∀ n : Fin 4, (region .shared 1 2).named[n] ≠ some freeEnv.ident) ∧ (region .shared 1 2).anon = 0 ∧ (2 : BitVec 2) ≠ 1) ∧
    (∀ st ∈ [TokState.home, .lent, .shared, .tainted, .lost, .uncertain], ∀ parent ∈ [none, some 7], let e := { region st 1 4 with parent := parent };
      leafBase [(3, e)] 256 0x100 = some (3, e) ∧ e.st = st ∧ freeEnv.entitled e = true ∧ e.parent = parent) ∧
    ((0#64).toNat < 2 ∧ (1#64).toNat < 2) := by
  refine ⟨⟨rfl, by decide, by decide, rfl, by decide, by decide, by decide, by decide +kernel, by decide +kernel, by decide +kernel, rfl⟩, by decide +kernel, by decide +kernel, by decide +kernel, by decide +kernel, by decide +kernel⟩

/-- DoorsAndCheckpointsAreRight, the tables of CKPT: one behind a scatter, and ones whose header and whose range are uncorrectable. -/
theorem witness_ckptTables :
    (let k := { with3 spotCore 0x100 0 0 with stores := [{ storeAt 0x9000 [1] with due := 2603 }] };
      ReadyAt k 1 (usesAB (.g 1) (.g 2)) ∧ k.readHold 0 ((spot k).cyc 0) = true) ∧
    (let k := { with3 spotCore 0x100 0 0 with badWords := [0x20] };
      ReadyAt k 1 (usesAB (.g 1) (.g 2)) ∧ (k.injectRead 0x100 8).badView 0 0x100 8 = some 0x100 ∧ k.allowed false 0x100 8 = true) ∧
    (let k := { withMem (with3 spotCore 0x100 0 0) 0x100 [1] with badWords := [0x21] };
      ReadyAt k 1 (usesAB (.g 1) (.g 2)) ∧ (k.injectRead 0x100 8).badView 0 0x100 8 = none ∧ (k.memView 0).readLE 0x100 8 = 1 ∧
        (k.injectRead 0x100 16).badView 0 0x100 16 = some 0x108) :=
  ⟨⟨readyAt (by decide +kernel), by decide +kernel⟩, ⟨readyAt (by decide +kernel), by decide +kernel⟩, ⟨readyAt (by decide +kernel), by decide +kernel⟩⟩

/-- LatchInstructionsAreRight: LINIT of a group that the own home does not know; LREG of one too many while an LDROP UNREG of the latch is outstanding,
and with nothing outstanding. -/
theorem witness_latchWaits :
    (ReadyAt (with3 spotCore 0x100 0x20000 0) 1 (usesAB (.g 1) (.g 2)) ∧ ownHome 0 0x100 = true ∧ (0x20000#64).getLsbD 17 = true ∧
      spotCore.scopeOk (.grp ((0x20000#64).extractLsb' 18 8)) = false) ∧
    (∀ l ∈ [[], [{ request .quiet true with lo := peerBase 0 + 0x100, hi := peerBase 0 + 0x110 }]],
      let m : Member := ⟨peerBase 0 + 0x100, 0, 65535⟩
      let k := { with3 spotCore 0x100 0x10001 0 with reqs := l, tables := { spotCore.tables with members := [(0, m)] } };
      ReadyAt k 1 (usesAB (.g 1) (.g 2)) ∧ k.tables.member 0 (peerBase 0 + 0x100) = some (0, m) ∧ 65535 < m.count + bits (0x10001#64) 0 16 ∧
        k.overlapHold 0 (peerBase 0 + 0x100) 16 true = !l.isEmpty) := by
  refine ⟨⟨readyAt (by decide +kernel), by decide +kernel⟩, fun v hv => ?_⟩
  simp only [List.mem_cons, List.not_mem_nil, or_false] at hv
  rcases hv with rfl | rfl <;> exact ⟨readyAt (by decide +kernel), by decide +kernel⟩

/-- SlotEventsAreRight, its first and last clauses: of two slots that became READY at once the one that has not yielded is first; a held entry at
core 1 goes back. -/
theorem witness_selection :
    (let ready (x : Slot) : Slot := { x with st := .ready, readyAt := 2600 }
      let k := { (spotCore.modSlot 0 ready).modSlot 1 ready with yielded := some 0 };
      (spot k).core? 0 = some k ∧ k.running = none ∧ ((k.slot 1).st = .ready ∧ (k.slot 1).readyAt ≤ (spot k).cyc 0 ∧ (k.slot 1).stopped = false) ∧
        ∀ r, (k.slot r).st = .ready → (k.slot 1).prio = (k.slot r).prio ∧ (k.slot 1).readyAt = (k.slot r).readyAt ∧
          (r = 1 ∨ k.yielded = some r ∨ 1 < r ∧ k.yielded ≠ some 1)) ∧
    (let h := heldTok 0x10000401 1 0 false; let k := withHeld (spotCore.modSlot 0 fun x => { x with st := .draining }) [(4, h)];
      (spot k).core? 0 = some k ∧ (k.slot 0).st = .draining ∧ k.working 0 = false ∧ (∀ e ∈ k.tables.members, e.2.slot ≠ 0) ∧
        (k.tables.held.filter fun e => decide (e.2.slot = 0)) = [(4, h)] ∧ h.lost = false ∧ h.reserved = false ∧ (k.slot 0).killed = false ∧
        k.reqFree = true ∧ peerBase 0 + 0x30000 ≤ h.base * 256 ∧
        resolves (((spot k).modCore 0 fun q => q.dropHeld 4).remAddr 0 k (h.base * 256) 1 true) = true) :=
  ⟨⟨rfl, by decide +kernel⟩, ⟨rfl, by decide +kernel⟩⟩

/-- LaunchEventsAreRight, the close wave: a port whose entries keep the rules of the statement, declared by the partition and by none. -/
theorem witness_closedToks :
    let e := { region .home 1 2 with part := 1, parent := some 9 }
    let l := [(9, { region .split 1 3 with part := 1 }), (3, e), (4, { region .lost 3 4 with part := 1 }), (5, { region .lent 5 6 with part := 2 })];
    (l.map fun x => x.1).Nodup ∧ (∀ x ∈ l, ∀ y ∈ l, x.2.parent = some y.1 → y.2.st = .split ∧ y.2.part = x.2.part ∧ y.2.ext = x.2.ext) ∧
      ∃ x ∈ l, x.2.ext = false ∧ x.2.part = 1 ∧ x.2.st ≠ .home ∧ x.2.st ≠ .shared ∧ x.2.st ≠ .split := by
  decide +kernel

/-! ## One instruction on a small state -/

/-- Core 0 after an instruction that slot 0 issues at pc 0. -/
def after (i : Instr) (k : Core) : Option Core :=
  match exec i (spot k) with
  | .next t => t.core? 0
  | _ => none

/-- What holds of core 0 after it. -/
def holds (i : Instr) (k : Core) (p : Core → Bool) : Bool := (after i k).any p

def hd : Head := Head.default
def maxInt : Word := 0x7FFFFFFFFFFFFFFF

/-- R102: the sum is taken modulo 2^64, and the pc goes on by 4. -/
theorem test_add_wraps :
    holds (.add hd (.g 3) (.g 1) (.g 2)) (with3 spotCore (BitVec.allOnes 64) 1 7) (fun k => decide (k.regs.g[3] = 0 ∧ (k.slot 0).pc = 4)) = true := by
  decide +kernel

/-- R62: g0 reads 0 and discards writes. -/
theorem test_g0_discards :
    holds (.add hd (.g 0) (.g 1) (.g 2)) (with3 spotCore 5 6 7) (fun k => decide (k.getS 0 (.g 0) = 0 ∧ (k.slot 0).pc = 4)) = true := by decide +kernel

/-- R102: shift amounts are taken modulo 64. -/
theorem test_sra_by_65 :
    holds (.sra hd (.g 3) (.g 1) (.g 2)) (with3 spotCore 0x8000000000000000 65 0) (fun k => decide (k.regs.g[3] = 0xC000000000000000)) = true := by
  decide +kernel

/-- R102: ADDS clamps at the largest integer and raises SAT, bit 5 of FFLAGS (R42). -/
theorem test_adds_clamps :
    holds (.adds hd (.g 3) (.g 1) (.g 2)) (with3 spotCore maxInt 1 0) (fun k => decide (k.regs.g[3] = maxInt ∧ (k.slot 0).fflags = 0x20)) = true := by
  decide +kernel

/-- R103: x / 0 is all ones, and x mod 0 is x. -/
theorem test_div_by_zero :
    holds (.div hd (.g 3) (.g 1) (.g 2)) (with3 spotCore 9 0 0) (fun k =>
      (k.results.map fun r => (r.reg, r.val)) == [(.g 3, .word (BitVec.allOnes 64))]) = true ∧
    holds (.remu hd (.g 3) (.g 1) (.g 2)) (with3 spotCore 9 0 0) (fun k => (k.results.map fun r => (r.reg, r.val)) == [(.g 3, .word 9)]) = true := by
  decide +kernel

/-- R107: LT compares as signed. -/
theorem test_cmp_signed :
    holds (.cmpLt hd 2 (.g 1) (.g 2)) (with3 spotCore (BitVec.allOnes 64) 0 0) (fun k => k.getP 0 2) = true ∧
    holds (.cmpLtu hd 2 (.g 1) (.g 2)) (with3 spotCore (BitVec.allOnes 64) 0 0) (fun k => !k.getP 0 2) = true := by decide +kernel

/-- R112: a branch goes to the word's own address and the offset in words; a negative target is LRANGE, here of a slot without a
trap handler, which is killed. -/
theorem test_branch :
    holds (.call hd 5) spotCore (fun k => decide ((k.slot 0).pc = 20 ∧ k.getS 0 (.t 15) = 4)) = true ∧
    holds (.b hd 0xFFFFF) spotCore (fun k => decide ((k.slot 0).st ≠ .running)) = true := by decide +kernel

/-- R61: a guard that does not hold makes the instruction one that only takes its place. -/
theorem test_guard :
    holds (.add ⟨0, false, 1⟩ (.g 3) (.g 1) (.g 2)) (with3 spotCore 1 2 7) (fun k => decide (k.regs.g[3] = 7 ∧ (k.slot 0).pc = 4)) = true := by
  decide +kernel

/-- R115: a count of zero skips the body. -/
theorem test_loop_zero :
    holds (.loopReg hd false (.g 1) 3) (with3 spotCore 0 0 0) (fun k => decide ((k.slot 0).pc = 16)) = true := by decide +kernel

/-- R196: a load of a byte extends its sign. -/
theorem test_load_byte :
    holds (.ld hd .none (.g 3) (.g 1) .i8 3) { with3 spotCore 0x100 0 0 with mem := Mem.writeN [] 0x103 [0x80] }
      (fun k => (k.results.map fun r => r.val) == [.word 0xFFFFFFFFFFFFFF80]) = true := by decide +kernel

/-- R196, R374: a misaligned access is a fault, and nothing is stored. -/
theorem test_store_misaligned :
    holds (.st hd .none (.g 3) (.g 1) .b64 0) (with3 spotCore 0x104 0 5) (fun k => k.stores.isEmpty && decide ((k.slot 0).st ≠ .running)) = true := by
  decide +kernel

/-- A vector register with this word in every lane. -/
def lanesOf (w : BitVec 32) : VReg := ⟨Vector.replicate 64 w, 0x0000010000000000⟩
def with2v (a b : VReg) : Core := { spotCore with regs := { spotCore.regs with v := (spotCore.regs.v.set 1 a).set 2 b } }

/-- R42: eight-bit elements of a lane saturate one by one: 100 + 100, −100 − 100, 1 + 2 and −1 + 1. -/
theorem test_vadds_i8 :
    holds (.vaddsI8 hd .none 3 1 2 .all) (with2v (lanesOf 0xFF019C64) (lanesOf 0x01029C64))
      (fun k => decide (k.regs.v[3].lanes[63] = 0x0003807F ∧ (k.slot 0).fflags = 0x20)) = true := by decide +kernel

/-- R38: 1.0 + 2.0 is 3.0 in FP32, without a flag; ∞ − ∞ is NaN and raises NV, bit 4. -/
theorem test_vadd_f32 :
    holds (.vaddF32 hd .none 3 1 2 .all) (with2v (lanesOf 0x3F800000) (lanesOf 0x40000000))
      (fun k => decide (k.regs.v[3].lanes[0] = 0x40400000 ∧ (k.slot 0).fflags = 0)) = true ∧
    holds (.vsubF32 hd .none 3 1 2 .all) (with2v (lanesOf 0x7F800000) (lanesOf 0x7F800000))
      (fun k => decide (k.regs.v[3].lanes[0] = 0x7FC00000 ∧ (k.slot 0).fflags = 0x10)) = true := by decide +kernel

/-- R132: a lane that the mask leaves out keeps its value. -/
theorem test_masked :
    holds (.vaddI32 hd .none 3 1 2 (.by 1)) { with2v (lanesOf 1) (lanesOf 2) with regs := { (with2v (lanesOf 1) (lanesOf 2)).regs with m := spotCore.regs.m.set 1 2 } }
      (fun k => decide (k.regs.v[3].lanes[0] = 0 ∧ k.regs.v[3].lanes[1] = 3)) = true := by decide +kernel

/-- R124: END of a slot with nothing outstanding makes it FREE. -/
theorem test_end : holds (.endTask hd) spotCore (fun k => decide ((k.slot 0).st = .free)) = true := by decide +kernel

/-- R99: CSRS sets bits and returns the old value: FTRAP |= 0x21. -/
theorem test_csrs :
    holds (.csrs hd (.g 3) (.g 1) 2) (with3 spotCore 0x21 0 7) (fun k => decide ((k.slot 0).ftrap = 0x21 ∧ k.regs.g[3] = 0)) = true := by decide +kernel

/-- R317: the lone READY slot is selected. -/
theorem test_selection :
    holds (.slotSelection 0) (spotCore.modSlot 0 fun x => { x with st := .ready, readyAt := 2600 }) (fun k => decide (k.running = some 0)) = true := by
  decide +kernel

/-- R393: power-good starts bring-up, and the module is not READY. -/
theorem test_powerGood :
    (match exec .powerGood State.reset with
      | .next t => t.mgr.power && !t.mgr.ready && decide (t.now = 0)
      | _ => false) = true := by decide +kernel

end Sys2Proof.Tests
end

namespace Sys2Proof.Laws.Encoding

/-! ## Every instruction -/

/-- Every well-formed instruction is coded by its words; an event is not well formed (R60 to R68). -/
theorem coded_encode (i : Instr) : Statement i := by
  cases i with
  | add => exact add _ _ _ _ | sub => exact sub _ _ _ _ | and => exact and _ _ _ _ | or => exact or _ _ _ _ | xor => exact xor _ _ _ _
  | sll => exact sll _ _ _ _ | srl => exact srl _ _ _ _ | sra => exact sra _ _ _ _ | min => exact min _ _ _ _ | max => exact max _ _ _ _
  | minu => exact minu _ _ _ _ | maxu => exact maxu _ _ _ _ | mul => exact mul _ _ _ _ | mulh => exact mulh _ _ _ _
  | mulhu => exact mulhu _ _ _ _ | div => exact div _ _ _ _ | divu => exact divu _ _ _ _ | rem => exact rem _ _ _ _
  | remu => exact remu _ _ _ _ | adds => exact adds _ _ _ _ | subs => exact subs _ _ _ _ | clz => exact clz _ _ _
  | popc => exact popc _ _ _ | andn => exact andn _ _ _ _ | orn => exact orn _ _ _ _ | addi => exact addi _ _ _ _ _
  | andi => exact andi _ _ _ _ _ | ori => exact ori _ _ _ _ _ | xori => exact xori _ _ _ _ _ | slli => exact slli _ _ _ _
  | srli => exact srli _ _ _ _ | srai => exact srai _ _ _ _ | rori => exact rori _ _ _ _ | li => exact li _ _ _ _
  | lih => exact lih _ _ _ _ _ | cmpEq => exact cmpEq _ _ _ _ | cmpNe => exact cmpNe _ _ _ _ | cmpLt => exact cmpLt _ _ _ _
  | cmpGe => exact cmpGe _ _ _ _ | cmpLtu => exact cmpLtu _ _ _ _ | cmpGeu => exact cmpGeu _ _ _ _ | cmpBits => exact cmpBits _ _ _ _
  | cmpNbits => exact cmpNbits _ _ _ _ | cmpiEq => exact cmpiEq _ _ _ _ _ | cmpiNe => exact cmpiNe _ _ _ _ _
  | cmpiLt => exact cmpiLt _ _ _ _ _ | cmpiGe => exact cmpiGe _ _ _ _ _ | cmpiLtu => exact cmpiLtu _ _ _ _ _
  | cmpiGeu => exact cmpiGeu _ _ _ _ _ | cmpiBits => exact cmpiBits _ _ _ _ _ | cmpiNbits => exact cmpiNbits _ _ _ _ _
  | pand => exact pand _ _ _ _ | por => exact por _ _ _ _ | pxor => exact pxor _ _ _ _ | pandn => exact pandn _ _ _ _
  | pnot => exact pnot _ _ _ | pmov => exact pmov _ _ _ | pset => exact pset _ _ | pclr => exact pclr _ _ | sext8 => exact sext8 _ _ _
  | sext16 => exact sext16 _ _ _ | sext32 => exact sext32 _ _ _ | zext8 => exact zext8 _ _ _ | zext16 => exact zext16 _ _ _
  | zext32 => exact zext32 _ _ _ | bswap => exact bswap _ _ _ | ctz => exact ctz _ _ _ | peer => exact peer _ _ _ _
  | peero => exact peero _ _ _ _ | pidx => exact pidx _ _ _ | mand => exact mand _ _ _ _ | mor => exact mor _ _ _ _
  | mxor => exact mxor _ _ _ _ | mandn => exact mandn _ _ _ _ | mnot => exact mnot _ _ _ | mset => exact mset _ _ _
  | mget => exact mget _ _ _ | mpop => exact mpop _ _ _ | mfirst => exact mfirst _ _ _ | b => exact b _ _ | call => exact call _ _
  | jr => exact jr _ _ | jalr => exact jalr _ _ _ | ret => exact ret _ | loopReg => exact loopReg _ _ _ _
  | loopImm => exact loopImm _ _ _ _ _ | wait => exact wait _ _ _ | waita => exact waita _ _ _ _ _ | yield => exact yield _
  | endTask => exact endTask _ | trap => exact trap _ _ | isync => exact isync _ | nop => exact nop _ | csrw => exact csrw _ _ _ _
  | csrs => exact csrs _ _ _ _ | csrc => exact csrc _ _ _ _ | ld => exact ld _ _ _ _ _ _ | st => exact st _ _ _ _ _ _
  | vld => exact vld _ _ _ _ _ | vst => exact vst _ _ _ _ _ | vgathI32 => exact vgathI32 _ _ _ _ _ | vscatI32 => exact vscatI32 _ _ _ _ _
  | vgathI16 => exact vgathI16 _ _ _ _ _ | vscatI16 => exact vscatI16 _ _ _ _ _ | qldQb8 => exact qldQb8 _ _ _ _
  | qldQb4 => exact qldQb4 _ _ _ _ | qstQb8 => exact qstQb8 _ _ _ _ | qstQb4 => exact qstQb4 _ _ _ _ | rld => exact rld _ _ _ _ _ _
  | rst => exact rst _ _ _ _ _ _ | atomAdd => exact atomAdd _ _ _ _ _ _ | atomSub => exact atomSub _ _ _ _ _ _
  | atomAnd => exact atomAnd _ _ _ _ _ _ | atomOr => exact atomOr _ _ _ _ _ _ | atomXor => exact atomXor _ _ _ _ _ _
  | atomMin => exact atomMin _ _ _ _ _ _ | atomMax => exact atomMax _ _ _ _ _ _ | atomMinu => exact atomMinu _ _ _ _ _ _
  | atomMaxu => exact atomMaxu _ _ _ _ _ _ | atomSwap => exact atomSwap _ _ _ _ _ _ | atomCas => exact atomCas _ _ _ _ _ _
  | atomFaddF32 => exact atomFaddF32 _ _ _ _ _ | atomBadd => exact atomBadd _ _ _ _ _ | fenceAcq => exact fenceAcq _ _
  | fenceRel => exact fenceRel _ _ | fenceAr => exact fenceAr _ _ | rvld => exact rvld _ _ _ _ _ | rvst => exact rvst _ _ _ _ _
  | tdecl => exact tdecl _ _ _ | tlend => exact tlend _ _ _ | tret => exact tret _ _ | tsplit => exact tsplit _ _ _
  | tjoin => exact tjoin _ _ | tshare => exact tshare _ _ _ | tunsh => exact tunsh _ _ | tqry => exact tqry _ _ _ _
  | trecl => exact trecl _ _ | tclean => exact tclean _ _ _ | send => exact send _ _ _ _ _ | sendr => exact sendr _ _ _ _
  | door => exact door _ _ _ _ _ | doorq => exact doorq _ _ _ _ | submit => exact submit _ _ _ _ | ckpt => exact ckpt _ _ _ _
  | cpy => exact cpy _ _ _ _ | cpyq => exact cpyq _ _ | cpyx => exact cpyx _ _ _ _ | vaddI32 => exact vaddI32 _ _ _ _ _ _
  | vsubI32 => exact vsubI32 _ _ _ _ _ _ | vmulI32 => exact vmulI32 _ _ _ _ _ _ | vmulhI32 => exact vmulhI32 _ _ _ _ _ _
  | vminI32 => exact vminI32 _ _ _ _ _ _ | vmaxI32 => exact vmaxI32 _ _ _ _ _ _ | vand => exact vand _ _ _ _ _ _
  | vor => exact vor _ _ _ _ _ _ | vxor => exact vxor _ _ _ _ _ _ | vsll => exact vsll _ _ _ _ _ _ | vsrl => exact vsrl _ _ _ _ _ _
  | vsra => exact vsra _ _ _ _ _ _ | vaddsI32 => exact vaddsI32 _ _ _ _ _ _ | vsubsI32 => exact vsubsI32 _ _ _ _ _ _
  | vabsI32 => exact vabsI32 _ _ _ _ _ | vminuI32 => exact vminuI32 _ _ _ _ _ _ | vaddF32 => exact vaddF32 _ _ _ _ _ _
  | vsubF32 => exact vsubF32 _ _ _ _ _ _ | vmulF32 => exact vmulF32 _ _ _ _ _ _ | vfmaF32 => exact vfmaF32 _ _ _ _ _ _
  | vfmsF32 => exact vfmsF32 _ _ _ _ _ _ | vminF32 => exact vminF32 _ _ _ _ _ _ | vmaxF32 => exact vmaxF32 _ _ _ _ _ _
  | vabsF32 => exact vabsF32 _ _ _ _ _ | vnegF32 => exact vnegF32 _ _ _ _ _ | vfnmaF32 => exact vfnmaF32 _ _ _ _ _ _
  | vaddI16 => exact vaddI16 _ _ _ _ _ _ | vsubI16 => exact vsubI16 _ _ _ _ _ _ | vmulI16 => exact vmulI16 _ _ _ _ _ _
  | vaddsI16 => exact vaddsI16 _ _ _ _ _ _ | vsubsI16 => exact vsubsI16 _ _ _ _ _ _ | vminI16 => exact vminI16 _ _ _ _ _ _
  | vmaxI16 => exact vmaxI16 _ _ _ _ _ _ | vaddBf16 => exact vaddBf16 _ _ _ _ _ _ | vsubBf16 => exact vsubBf16 _ _ _ _ _ _
  | vmulBf16 => exact vmulBf16 _ _ _ _ _ _ | vfmaBf16 => exact vfmaBf16 _ _ _ _ _ _ | vminBf16 => exact vminBf16 _ _ _ _ _ _
  | vmaxBf16 => exact vmaxBf16 _ _ _ _ _ _ | vaddI8 => exact vaddI8 _ _ _ _ _ _ | vsubI8 => exact vsubI8 _ _ _ _ _ _
  | vaddsI8 => exact vaddsI8 _ _ _ _ _ _ | vsubsI8 => exact vsubsI8 _ _ _ _ _ _ | vminI8 => exact vminI8 _ _ _ _ _ _
  | vmaxI8 => exact vmaxI8 _ _ _ _ _ _ | vaddE4m3 => exact vaddE4m3 _ _ _ _ _ _ | vsubE4m3 => exact vsubE4m3 _ _ _ _ _ _
  | vmulE4m3 => exact vmulE4m3 _ _ _ _ _ _ | vminE4m3 => exact vminE4m3 _ _ _ _ _ _ | vmaxE4m3 => exact vmaxE4m3 _ _ _ _ _ _
  | vaddE5m2 => exact vaddE5m2 _ _ _ _ _ _ | vsubE5m2 => exact vsubE5m2 _ _ _ _ _ _ | vmulE5m2 => exact vmulE5m2 _ _ _ _ _ _
  | vminE5m2 => exact vminE5m2 _ _ _ _ _ _ | vmaxE5m2 => exact vmaxE5m2 _ _ _ _ _ _ | quantQb8 => exact quantQb8 _ _ _ _
  | quantQb4 => exact quantQb4 _ _ _ _ | dequantQb8 => exact dequantQb8 _ _ _ _ _ | dequantQb4 => exact dequantQb4 _ _ _ _ _
  | qtobaQb8 => exact qtobaQb8 _ _ _ _ | qtobaQb4 => exact qtobaQb4 _ _ _ _ | badd => exact badd _ _ _ _ _
  | balign => exact balign _ _ _ _ _ | vlut => exact vlut _ _ _ _ _ _ | vdqw => exact vdqw _ _ _ _ _ _
  | vcvtBf16F32 => exact vcvtBf16F32 _ _ _ _ _ | vcvtF32Bf16 => exact vcvtF32Bf16 _ _ _ _ _ | vcvtE4m3F32 => exact vcvtE4m3F32 _ _ _ _ _
  | vcvtE5m2F32 => exact vcvtE5m2F32 _ _ _ _ _ | vcvtF32E4m3 => exact vcvtF32E4m3 _ _ _ _ _ | vcvtF32E5m2 => exact vcvtF32E5m2 _ _ _ _ _
  | vcvtE4m3Bf16 => exact vcvtE4m3Bf16 _ _ _ _ _ | vcvtE5m2Bf16 => exact vcvtE5m2Bf16 _ _ _ _ _
  | vcvtBf16E4m3 => exact vcvtBf16E4m3 _ _ _ _ _ | vcvtBf16E5m2 => exact vcvtBf16E5m2 _ _ _ _ _
  | vcvtI32F32 => exact vcvtI32F32 _ _ _ _ _ | vcvtF32I32 => exact vcvtF32I32 _ _ _ _ _ | vcvtBf16Q4 => exact vcvtBf16Q4 _ _ _ _ _
  | vcvtI8I32 => exact vcvtI8I32 _ _ _ _ _ | vcvtI32I8 => exact vcvtI32I8 _ _ _ _ _ | vexp => exact vexp _ _ _ _ _
  | vexp2 => exact vexp2 _ _ _ _ _ | vlog => exact vlog _ _ _ _ _ | vlog2 => exact vlog2 _ _ _ _ _ | vrcp => exact vrcp _ _ _ _ _
  | vrsqrt => exact vrsqrt _ _ _ _ _ | vsqrt => exact vsqrt _ _ _ _ _ | vdiv => exact vdiv _ _ _ _ _ _ | vtanh => exact vtanh _ _ _ _ _
  | vsigm => exact vsigm _ _ _ _ _ | verf => exact verf _ _ _ _ _ | vsin => exact vsin _ _ _ _ _ | vcos => exact vcos _ _ _ _ _
  | vperm => exact vperm _ _ _ _ _ _ | vbcast => exact vbcast _ _ _ _ _ | vbcastScalar => exact vbcastScalar _ _ _ _
  | vrot => exact vrot _ _ _ _ _ | viota => exact viota _ _ _ _ | vsel => exact vsel _ _ _ _ _ _ | vins => exact vins _ _ _
  | vext => exact vext _ _ _ _ | vhdrWrite => exact vhdrWrite _ _ _ | vhdrRead => exact vhdrRead _ _ _ _
  | vcmpI32 => exact vcmpI32 _ _ _ _ _ _ | vcmpF32 => exact vcmpF32 _ _ _ _ _ _ | vrsumF32 => exact vrsumF32 _ _ _ _ _
  | vrsumI32 => exact vrsumI32 _ _ _ _ _ | vrmaxF32 => exact vrmaxF32 _ _ _ _ _ | vrmaxI32 => exact vrmaxI32 _ _ _ _ _
  | vdraw => exact vdraw _ _ _ _ _ | dmerge => exact dmerge _ _ _ _ _ | mmaF8f8 => exact mmaF8f8 _ _ _ _
  | mmaB16b16 => exact mmaB16b16 _ _ _ _ | mmaF8i4 => exact mmaF8i4 _ _ _ _ | mmaB16i4 => exact mmaB16i4 _ _ _ _
  | mmaB16l4 => exact mmaB16l4 _ _ _ _ | mmaQb8 => exact mmaQb8 _ _ _ _ | mmaQb4 => exact mmaQb4 _ _ _ _ | mldw => exact mldw _ _ _
  | mswap => exact mswap _ | mldk => exact mldk _ _ _ | mcolq => exact mcolq _ _ _ _ | mzero => exact mzero _ _
  | mmovaToVector => exact mmovaToVector _ _ _ _ | mmovaToAcc => exact mmovaToAcc _ _ _ _ | mrsum => exact mrsum _ _ _
  | mchk => exact mchk _ _ _ | msync => exact msync _ _ | mdrainF32 => exact mdrainF32 _ _ _ _ _ _
  | mdrainBf16 => exact mdrainBf16 _ _ _ _ _ _ | mdrainE4m3 => exact mdrainE4m3 _ _ _ _ _ _ | mdrainE5m2 => exact mdrainE5m2 _ _ _ _ _ _
  | mdrainQb8 => exact mdrainQb8 _ _ _ _ _ _ | mdrainQb4 => exact mdrainQb4 _ _ _ _ _ _ | mdrainBa32 => exact mdrainBa32 _ _ _ _ _ _
  | linit => exact linit _ _ _ _ | larv => exact larv _ _ _ _ _ | lwait => exact lwait _ _ _ _ _ | ltest => exact ltest _ _ _ _
  | lreg => exact lreg _ _ _ _ | ldrop => exact ldrop _ _ _ _ | lbytes => exact lbytes _ _ _ _ _ | rngget => exact rngget _ _
  | fadd => exact fadd _ _ _ _ _ | fsub => exact fsub _ _ _ _ _ | fmul => exact fmul _ _ _ _ _ | fdiv => exact fdiv _ _ _ _ _
  | fsqrt => exact fsqrt _ _ _ _ | fma => exact fma _ _ _ _ _ | fmin => exact fmin _ _ _ _ _ | fmax => exact fmax _ _ _ _ _
  | feq => exact feq _ _ _ _ _ | flt => exact flt _ _ _ _ _ | fle => exact fle _ _ _ _ _ | fcvti => exact fcvti _ _ _ _
  | fcvtf => exact fcvtf _ _ _ _ | fabs => exact fabs _ _ _ _ | fneg => exact fneg _ _ _ _ | fclass => exact fclass _ _ _ _
  | _ => exact fun wf => absurd wf Bool.false_ne_true

/-- A coded instruction has one word or two (R60, R65). -/
theorem Coded.length {ws : List Nat} {i : Instr} (h : Coded ws i) : ws.length = 1 ∨ ws.length = 2 := by
  match ws, h with
  | [_], _ => exact .inl rfl
  | [_, _], _ => exact .inr rfl

/-- One word that is not the first of two decodes as what it codes, whatever follows it and wherever it lies (R66, R69). -/
theorem Coded.decode_one {w : Nat} {i : Instr} (h : Coded [w] i) (next : Option Nat) (ends : Bool) : decode w next ends = .ok i := by
  obtain ⟨-, hp, hd⟩ := h
  simp only [decode, hp, Bool.false_eq_true, if_false, hd]

/-- The two words of a long form decode as what they code, outside the end of a loop body (R65, R69). -/
theorem Coded.decode_two {p w : Nat} {i : Instr} (h : Coded [p, w] i) : decode p (some w) false = .ok i := by
  obtain ⟨-, hp, hs, hk, -, hw, hd⟩ := h
  have hk4 : fld p 22 2 < 4 := Nat.mod_lt _ (by decide)
  simp only [decode, hp, hs, hw, if_true, ne_eq, not_true_eq_false, decide_false, Bool.or_self, Bool.false_eq_true, if_false]
  unfold pxOf at hd
  generalize fld p 22 2 = n at hk hk4 hd
  obtain rfl | rfl | rfl : n = 0 ∨ n = 1 ∨ n = 2 := by omega
  all_goals exact hd

/-- The words of a coded instruction are numbers below 2^32. -/
theorem Coded.lt {ws : List Nat} {i : Instr} (h : Coded ws i) : ∀ w ∈ ws, w < 2 ^ 32 := by
  match ws, h with
  | [_], ⟨hw, _⟩ => simpa using hw
  | [_, _], ⟨hp, _, _, _, hw, _⟩ => simpa using ⟨hp, hw⟩

end Sys2Proof.Laws.Encoding

namespace Sys2Proof.Machine

open Sys2Proof.Laws.Encoding (Coded coded_encode)

/-! ## Words in memory -/

theorem length_bytesLE (n v : Nat) : (bytesLE n v).length = n := by
  induction n generalizing v with
  | zero => rfl
  | succ n ih => simp only [bytesLE, List.length_cons, ih]

/-- The bytes of a number hold it, modulo what they have room for (R2). -/
theorem ofBytes_bytesLE (n v : Nat) : ofBytes (bytesLE n v) = v % 256 ^ n := by
  induction n generalizing v with
  | zero => simp [bytesLE, ofBytes, Nat.mod_one]
  | succ n ih =>
    simp only [bytesLE, ofBytes, ih, BitVec.toNat_ofNat, Nat.pow_succ']
    exact Nat.mod_mul.symm

/-- The bytes of `n` addresses inside a range that was just written. -/
theorem Mem.readN_writeN {m : Mem} (hm : m.wf = true) (a : Nat) (l : List Byte) (i n : Nat) (h : i + n ≤ l.length) :
    (m.writeN a l).readN (a + i) n = (l.drop i).take n := by
  induction n generalizing i with
  | zero => rfl
  | succ n ih =>
    have hi : i < l.length := by omega
    have hr : (m.writeN a l).read (a + i) = l[i] := by
      rw [Mem.read_writeN a l hm, if_pos (by omega), Nat.add_sub_cancel_left, List.getD_eq_getElem?_getD,
        List.getElem?_eq_getElem hi, Option.getD_some]
    rw [List.drop_eq_getElem_cons hi, List.take_succ_cons, Mem.readN, hr, Nat.add_assoc, ih (i + 1) (by omega)]

/-- The words of a program as bytes (R60). -/
abbrev wordBytes (ws : List Nat) : List Byte := ws.flatMap fun w => bytesLE 4 w

theorem length_wordBytes (ws : List Nat) : (wordBytes ws).length = 4 * ws.length := by
  induction ws with
  | nil => rfl
  | cons w ws ih => rw [wordBytes, List.flatMap_cons, List.length_append, ih, length_bytesLE, List.length_cons]; omega

/-- The four bytes of word `j`. -/
theorem wordBytes_at (ws : List Nat) (j : Nat) (h : j < ws.length) : ((wordBytes ws).drop (4 * j)).take 4 = bytesLE 4 ws[j] := by
  induction ws generalizing j with
  | nil => exact absurd h (Nat.not_lt_zero j)
  | cons w ws ih =>
    have hw := length_bytesLE 4 w
    rw [wordBytes, List.flatMap_cons]
    cases j with
    | zero => rw [Nat.mul_zero, List.drop_zero, List.take_left' hw]; rfl
    | succ j =>
      rw [show 4 * (j + 1) = 4 + 4 * j by omega, ← List.drop_drop, List.drop_left' hw]
      exact ih j (Nat.lt_of_succ_lt_succ h)

/-! ## Fetch -/

/-- With no older word in the fetch buffer the fetch gives the word of the store (R192). -/
theorem fetchWord_of_no_stale {k : Core} (h : k.stale = []) (fresh a : Nat) :
    (k.fetchWord fresh a).toNat = k.mem.readLE a 4 % 2 ^ 32 := by
  simp only [Core.fetchWord, h, List.zipIdx_nil, List.foldr_nil, BitVec.toNat_ofNat]

/-- A core with the words `ws` stored at `pc`. -/
abbrev Core.withWords (k : Core) (pc : Nat) (ws : List Nat) : Core := { k with mem := k.mem.writeN pc (wordBytes ws) }

/-- The fetch of word `j` of words that were stored. -/
theorem fetchWord_withWords {k : Core} (hm : k.mem.wf = true) (hs : k.stale = []) (fresh pc : Nat) {ws : List Nat} {j : Nat}
    (hj : j < ws.length) (hw : ws[j] < 2 ^ 32) : ((k.withWords pc ws).fetchWord fresh (pc + 4 * j)).toNat = ws[j] := by
  have hl := length_wordBytes ws
  have hr : (k.mem.writeN pc (wordBytes ws)).readN (pc + 4 * j) 4 = bytesLE 4 ws[j] := by
    rw [Mem.readN_writeN hm pc _ _ 4 (by omega), wordBytes_at ws j hj]
  rw [fetchWord_of_no_stale (k := k.withWords pc ws) hs, Mem.readLE, hr, ofBytes_bytesLE]
  exact (Nat.mod_mod _ _).trans (Nat.mod_eq_of_lt hw)

/-- Coded words that are stored are fetched and decoded as what they code; one word also at the end of a loop body (R69, R113). -/
theorem words_decode_of_coded {k : Core} {i : Instr} (hm : k.mem.wf = true) (hs : k.stale = []) (pc fresh : Nat) :
    ∀ {ws : List Nat}, Coded ws i → pc + 4 * ws.length ≤ 0x30000 →
      let w := (k.withWords pc ws).words fresh pc
      decode w.1 w.2 false = .ok i ∧ (ws.length = 1 → ∀ ends, decode w.1 w.2 ends = .ok i)
  | [w], hc, _ => by
    have hw : ((k.withWords pc [w]).fetchWord fresh pc).toNat = w :=
      fetchWord_withWords (ws := [w]) (j := 0) hm hs fresh pc Nat.zero_lt_one (hc.lt w (by simp))
    simp only [Core.words, hw]
    exact ⟨hc.decode_one _ _, fun _ ends => hc.decode_one _ ends⟩
  | [p, w], hc, hfit => by
    have hp : ((k.withWords pc [p, w]).fetchWord fresh pc).toNat = p :=
      fetchWord_withWords (ws := [p, w]) (j := 0) hm hs fresh pc Nat.zero_lt_two (hc.lt p (by simp))
    have hw : ((k.withWords pc [p, w]).fetchWord fresh (pc + 4)).toNat = w :=
      fetchWord_withWords (ws := [p, w]) (j := 1) hm hs fresh pc Nat.one_lt_two (hc.lt w (by simp))
    have hpc : pc ≠ 0x2FFFC := by simp only [List.length_cons, List.length_nil] at hfit; omega
    simp only [Core.words, hp, hw, hpc, if_false]
    exact ⟨hc.decode_two, fun h => absurd h (by simp)⟩

/-- Settles O59: the words of a well-formed instruction are coded as it (`coded_encode`), a read of stored bytes gives them back, and
the decoder reads coded words as the instruction. -/
theorem storedInstructionsDecodeAsThemselves : Obligations.StoredInstructionsDecodeAsThemselves := by
  intro i k pc fresh hi hm hs _ hfit
  have hc : Coded (encode i) i := coded_encode i hi
  exact ⟨hc.length, words_decode_of_coded hm hs pc fresh hc hfit⟩

/-! ## Words of the specification's examples -/

/-- The one word of a well-formed instruction decodes as it, whatever follows it. -/
theorem decode_of_encode_one {i : Instr} {w : Nat} (hi : i.wf = true) (he : encode i = [w]) (next : Option Nat) (ends : Bool) :
    decode w next ends = .ok i :=
  Coded.decode_one (he ▸ coded_encode i hi) next ends

/-- The two words of a well-formed instruction decode as it. -/
theorem decode_of_encode_two {i : Instr} {p w : Nat} (hi : i.wf = true) (he : encode i = [p, w]) : decode p (some w) false = .ok i :=
  Coded.decode_two (he ▸ coded_encode i hi)

/-- The first word of a long form at the end of a loop body is refused, whatever follows it (R69). -/
theorem decode_longform_at_end {p : Nat} (hp : isPrefix p = true) (next : Option Nat) : decode p next true = .error .longform := by
  cases next <;> simp only [decode, hp, Bool.or_true, if_true]

/-- Settles O58: each word of an example is what the encoder gives for its instruction, so it decodes as that instruction; the words
that a check refuses are decoded. -/
theorem decodedWords : Obligations.DecodedWords := by
  refine ⟨fun next ends => ?_, ?_, ?_, ?_, ?_, ?_, ?_, fun _ _ => rfl, fun _ => rfl,
    decode_longform_at_end rfl⟩
  · refine ⟨?_, ?_, ?_, ?_, ?_, ?_, ?_, ?_, ?_, ?_, ?_, ?_, ?_, ?_, ?_⟩ <;> exact decode_of_encode_one rfl rfl next ends
  · exact decode_of_encode_two rfl rfl
  · exact decode_of_encode_two rfl rfl
  · exact decode_of_encode_two rfl rfl
  · exact decode_of_encode_two rfl rfl
  · exact decode_of_encode_two rfl rfl
  · exact decode_of_encode_two rfl rfl

/-! ## Issue -/

/-- Settles O10: every well-formed instruction issues in the one way of `issue`, whose false guard does nothing but take its place. -/
theorem falseGuardDoesNothing : Obligations.FalseGuardDoesNothing := by
  intro i s k sl hw hr hg hf
  obtain ⟨body, he⟩ := issues_wf hw
  simp only [Completes, he]
  exact issue_false_guard hr hg hf

end Sys2Proof.Machine

namespace Sys2Proof.Machine

/-! ## The step -/

section
variable {s : State} {c : Nat} {k : Core} {sl : Fin 8}

/-- The RUNNING slot's next instruction is the one that its words decode to (R69, R113, R192). -/
theorem nextInstr_of_decode_ok (hk : s.core? c = some k) (hr : k.running = some sl) {i : Instr} (hpc : (k.slot sl).pc < 0x30000)
    (hd : decode (k.words s.fresh (k.slot sl).pc).1 (k.words s.fresh (k.slot sl).pc).2 ((k.slot sl).endsBody (k.slot sl).pc) = .ok i) :
    s.nextInstr c = some i := by
  simp only [State.nextInstr, hk, hr, Nat.not_le.mpr hpc, if_false, hd]

theorem nextInstr_of_decode_error (hk : s.core? c = some k) (hr : k.running = some sl) {f : DecodeFault} (hpc : (k.slot sl).pc < 0x30000)
    (hd : decode (k.words s.fresh (k.slot sl).pc).1 (k.words s.fresh (k.slot sl).pc).2 ((k.slot sl).endsBody (k.slot sl).pc) = .error f) :
    s.nextInstr c = some (.notAnInstruction f) := by
  simp only [State.nextInstr, hk, hr, Nat.not_le.mpr hpc, if_false, hd]

theorem nextInstr_past_store (hk : s.core? c = some k) (hr : k.running = some sl) (hpc : 0x30000 ≤ (k.slot sl).pc) :
    s.nextInstr c = some .fetchPastLocalStore := by
  simp only [State.nextInstr, hk, hr, hpc, if_true]

/-- A step in which core `c` issues is its instruction, with that core as the current one. -/
theorem step_of_issue (ha : s.nextAct = .issue c) {i : Instr} (hi : s.nextInstr c = some i) : step s = exec i { s with cur := c } := by
  simp only [step, ha, hi]
end

/-- With no older word in the fetch buffer the two words that decide an instruction are those of the store (R192). -/
theorem words_of_no_stale {k : Core} (h : k.stale = []) (fresh : Nat) {pc : Nat} (hpc : pc ≠ 0x2FFFC) :
    k.words fresh pc = (k.mem.readLE pc 4 % 2 ^ 32, some (k.mem.readLE (pc + 4) 4 % 2 ^ 32)) := by
  simp only [Core.words, fetchWord_of_no_stale h, hpc, if_false]

/-- Settles O57: each kind of act is one case of the step, and an issue is `exec` of the slot's next instruction. -/
theorem stepRunsTheDecodedInstruction : Obligations.StepRunsTheDecodedInstruction := by
  refine ⟨fun s c k sl ha hk hr => ⟨fun i hpc hd => ?_, fun f hpc hd => ?_, fun hpc => ?_, fun hst hpc => ?_⟩, fun s i ha => ?_,
    fun s ha => ⟨?_, rfl⟩⟩
  · exact step_of_issue ha (nextInstr_of_decode_ok hk hr hpc hd)
  · exact step_of_issue ha (nextInstr_of_decode_error hk hr hpc hd)
  · exact step_of_issue ha (nextInstr_past_store hk hr hpc)
  · exact words_of_no_stale hst s.fresh hpc
  · simp only [step, ha]
  · simp only [step, ha]

/-! ## Holds and STALL -/

/-- What the issue of an instruction takes from its syntax: its head, its words and its registers. -/
def issueArgs (i : Instr) : Head × Nat × (Fin 8 → Uses) := (i.head, i.words, usesOf i)

/-- A meaning that is an issue with the instruction's own head, words and registers. -/
theorem exec_eq_issue {i : Instr} {h : Head} {n : Nat} {uses : Fin 8 → Uses} {body : Ctx → State → Res}
    (hi : issueArgs i = (h, n, uses)) (he : ∀ s, exec i s = issue h n uses body s) (s : State) :
    exec i s = issue i.head i.words (usesOf i) body s := by
  simp only [issueArgs, Prod.mk.injEq] at hi
  obtain ⟨rfl, rfl, rfl⟩ := hi
  exact he s

/-- The meaning of `i` is an issue whose own effect holds nothing back. -/
def NeverHolds (i : Instr) : Prop :=
  ∃ body, (∀ s, exec i s = issue i.head i.words (usesOf i) body s) ∧ ∀ c s, body c s ≠ .hold

theorem neverHolds_alu {i : Instr} {h : Head} {d a b : SReg} {lat : Nat} {f : Word → Word → Word}
    (he : ∀ s, exec i s = aluOp h d a b lat f s) (hi : issueArgs i = (h, 1, usesRRR d a b)) : NeverHolds i :=
  ⟨_, exec_eq_issue (body := fun x s => .ok (s.putS x d (f (x.rs a) (x.rs b)) lat) 0) hi he, fun _ _ => Res.noConfusion⟩

theorem neverHolds_sat {i : Instr} {h : Head} {d a b : SReg} {f : Int → Int → Int}
    (he : ∀ s, exec i s = satOp h d a b f s) (hi : issueArgs i = (h, 1, usesRRR d a b)) : NeverHolds i :=
  ⟨_, exec_eq_issue (body := fun x s => .ok (s.putS x d (sat64 (f (x.rs a).toInt (x.rs b).toInt)).1 1)
    (sat64 (f (x.rs a).toInt (x.rs b).toInt)).2) hi he, fun _ _ => Res.noConfusion⟩

/-- The plain arithmetic instructions have no hold of their own (R73). -/
theorem neverHolds_plain (h : Head) (d a b : SReg) : ∀ i ∈ [Instr.add h d a b, .sub h d a b, .and h d a b, .or h d a b,
    .xor h d a b, .sll h d a b, .adds h d a b, .subs h d a b], NeverHolds i := by
  simp only [List.forall_mem_cons, List.not_mem_nil, false_imp_iff, implies_true, and_true]
  exact ⟨neverHolds_alu (exec_add h d a b) rfl, neverHolds_alu (exec_sub h d a b) rfl, neverHolds_alu (exec_and h d a b) rfl,
    neverHolds_alu (exec_or h d a b) rfl, neverHolds_alu (exec_xor h d a b) rfl, neverHolds_alu (exec_sll h d a b) rfl,
    neverHolds_sat (exec_adds h d a b) rfl, neverHolds_sat (exec_subs h d a b) rfl⟩

section
variable {s : State} {i : Instr} {k : Core} {sl : Fin 8}

/-- With SCHK.EN set, the guard or a register read is in flight in the cycle of issue (R73). -/
def Stalls (s : State) (i : Instr) (k : Core) (sl : Fin 8) : Prop :=
  (((k.slot sl).schk && !(RegId.p sl i.head.gp).hardwired && k.inFlight (.p sl i.head.gp) (s.cyc s.cur))
    || ((k.slot sl).schk && (usesOf i sl).reads.any fun r => k.inFlight r (s.cyc s.cur))) = true

theorem stalls_of_early (hs : (k.slot sl).schk = true)
    (he : (i.head.gp ≠ 0 ∧ k.inFlight (.p sl i.head.gp) (s.cyc s.cur) = true) ∨
      ∃ r ∈ (usesOf i sl).reads, k.inFlight r (s.cyc s.cur) = true) : Stalls s i k sl := by
  unfold Stalls
  rcases he with ⟨h0, hf⟩ | hr
  · simp [hs, RegId.hardwired, h0, hf]
  · simp [hs, List.any_eq_true.mpr hr]

/-- A fault of the issue itself is one at the instruction's own address. -/
theorem faults_of_faultedAt {n : Nat} {cause : Cause} (h : exec i s = .next (faultedAt s n k sl cause)) :
    Faults i s n k sl cause (BitVec.ofNat 64 (k.slot sl).pc) := ⟨s.fresh, h⟩

/-- A well-formed instruction that stalls is held by a condition of its own, or faults with STALL before it has any effect. -/
theorem holdsBack_or_faults_of_stalls (hw : i.wf = true) (hr : Fetches s i.words k sl)
    (hf : ((k.view s.fresh).getP sl i.head.gp == i.head.neg) = false)
    (hp : (((usesOf i sl).reads ++ (usesOf i sl).writes).any fun r => k.isPending r) = false) (hl : Stalls s i k sl) :
    HoldsBack i s false ∨ Faults i s i.words k sl .stall (BitVec.ofNat 64 (k.slot sl).pc) := by
  obtain ⟨body, he⟩ := issues_wf hw
  obtain ⟨f, hi⟩ := issue_effect (body := body) hr hf hp
  rw [← he] at hi
  by_cases hb : body (ctxOf s i.words k sl) (s.seen sl i.words f) = .hold
  · left; simp only [hb] at hi; exact hi
  · right
    refine faults_of_faultedAt (hi.trans ?_)
    split
    · exact absurd ‹_› hb
    · exact if_pos hl
end

/-- Settles O11: the scoreboard and the STALL check of `issue`, for the registers that each instruction uses. -/
theorem busyRegistersHoldOrStall : Obligations.BusyRegistersHoldOrStall := by
  refine ⟨fun i s k sl r hw hr hg hf hu hp => ?_, fun i s k sl hw hr hs => ⟨fun ⟨h0, he⟩ hf => ?_, fun hf hp hl => ?_⟩⟩
  · obtain ⟨body, he⟩ := issues_wf hw
    exact (he s).trans (issue_pending hr hg hf (List.any_eq_true.mpr ⟨r, hu, hp⟩))
  · obtain ⟨body, hex⟩ := issues_wf hw
    have hg : ¬ GuardReads s i.head k sl := by simp [GuardReads, hs, RegId.hardwired, h0, he]
    exact faults_of_faultedAt ((hex s).trans (issue_guard_stall hr hg hf))
  · have hf := Bool.eq_false_iff.mpr hf
    have hp : (((usesOf i sl).reads ++ (usesOf i sl).writes).any fun r => k.isPending r) = false := by
      simpa only [List.any_eq_false, Bool.not_eq_true] using hp
    have hl := stalls_of_early hs hl
    refine ⟨holdsBack_or_faults_of_stalls hw hr hf hp hl, fun h d a b hi => ?_⟩
    obtain ⟨body, he, hb⟩ := neverHolds_plain h d a b i hi
    exact faults_of_faultedAt ((he s).trans (issue_stall hr hf hp hl fun f => hb _ _))

end Sys2Proof.Machine

namespace Sys2Proof.Machine

/-! ## Flags of element forms -/

/-- A property of the threaded state that every index keeps. -/
theorem vfoldGen_keeps {α σ : Type} {n : Nat} {f : Fin n → σ → α × σ} {P : σ → Prop} (hf : ∀ i x, P x → P (f i x).2) {x : σ} (hx : P x) :
    P (vfoldGen f x).2 := by
  have hfold : P ((List.finRange n).foldl (fun (acc : List α × σ) i => ((f i acc.2).1 :: acc.1, (f i acc.2).2)) ([], x)).2 :=
    List.foldlRecOn (motive := fun acc : List α × σ => P acc.2) _ _ hx fun acc h i _ => hf i acc.2 h
  simp only [vfoldGen]
  split
  · exact hfold
  · exact hx

/-- An element form whose elements raise no flag raises none. -/
theorem mapElems_flags {w : Nat} {mask : Word} {d : Vector Lane 64} {f : Nat → Fx → Nat × Fx}
    (hf : ∀ e y, y.flags = 0 → (f e y).2.flags = 0) {y : Fx} (hy : y.flags = 0) : (mapElems w mask d f y).2.flags = 0 := by
  refine vfoldGen_keeps (P := fun y : Fx => y.flags = 0) (fun i x hx => ?_) hy
  split
  · exact List.foldlRecOn (motive := fun acc : Lane × Fx => acc.2.flags = 0) _ _ hx fun acc h j _ => hf _ acc.2 h
  · exact hx

/-- No flag is raised before an instruction. -/
@[simp] theorem fx_flags (c : Ctx) (s : State) : (c.fx s).flags = 0 := by
  simp only [Ctx.fx]; split <;> rfl

/-! ## What a result leaves of the records of issue -/

theorem setS_records (k : Core) (sl : Fin 8) (r : SReg) (v : Word) :
    (k.setS sl r v).regs.pmc = k.regs.pmc ∧ (k.setS sl r v).regs.pmsel = k.regs.pmsel ∧ (k.setS sl r v).fpFree = k.fpFree := by
  cases r with
  | g n => by_cases h : n = 0 <;> simp [Core.setS, h]
  | t n => exact ⟨rfl, rfl, rfl⟩

theorem setP_records (k : Core) (sl : Fin 8) (n : PReg) (v : Bool) :
    (k.setP sl n v).regs.pmc = k.regs.pmc ∧ (k.setP sl n v).regs.pmsel = k.regs.pmsel ∧ (k.setP sl n v).fpFree = k.fpFree := by
  by_cases h : n = 0 <;> simp [Core.setP, Core.modSlot, h]

/-- A register write leaves the counters and the pipe. -/
theorem setReg_records (k : Core) (r : RegId) (v : RegVal) :
    (k.setReg r v).regs.pmc = k.regs.pmc ∧ (k.setReg r v).regs.pmsel = k.regs.pmsel ∧ (k.setReg r v).fpFree = k.fpFree := by
  unfold Core.setReg
  split
  · exact setS_records _ _ _ _
  · exact setS_records _ _ _ _
  · exact setP_records _ _ _ _
  all_goals exact ⟨rfl, rfl, rfl⟩

theorem writeFixed_records (k : Core) (r : RegId) (v : RegVal) (lat cyc : Nat) :
    (k.writeFixed r v lat cyc).regs.pmc = k.regs.pmc ∧ (k.writeFixed r v lat cyc).regs.pmsel = k.regs.pmsel ∧
      (k.writeFixed r v lat cyc).fpFree = k.fpFree := by
  simp only [Core.writeFixed]
  split
  · exact ⟨rfl, rfl, rfl⟩
  · split
    · exact setReg_records k r v
    · exact setReg_records k r v

/-- A core that takes a fixed-latency result: the pipe for 2 cc where the form needs it, the generator and the register (R72, R134). -/
def Core.takeResult (pipe : Bool) (g : Rng) (r : RegId) (v : RegVal) (lat cyc : Nat) (k : Core) : Core :=
  (({ k with fpFree := if pipe then cyc + 2 else k.fpFree } : Core).setRng g).writeFixed r v lat cyc

section
variable (pipe : Bool) (g : Rng) (r : RegId) (v : RegVal) (lat cyc : Nat) (k : Core)

theorem slot_takeResult (sl : Fin 8) : ∃ t p, (k.takeResult pipe g r v lat cyc).slot sl = { k.slot sl with t := t, p := p } :=
  slot_writeFixed _ r v lat cyc sl

theorem takeResult_records : (k.takeResult pipe g r v lat cyc).regs.pmc = k.regs.pmc ∧
    (k.takeResult pipe g r v lat cyc).regs.pmsel = k.regs.pmsel ∧
    (k.takeResult pipe g r v lat cyc).fpFree = if pipe then cyc + 2 else k.fpFree :=
  writeFixed_records _ r v lat cyc

theorem inflight_takeResult : (k.takeResult pipe g r v lat cyc).inflight = k.inflight ++ if lat ≤ 1 then [] else
    ([r].filter fun r => !r.hardwired).map fun r => ⟨r, cyc + lat, k.getReg r⟩ := by
  refine (inflight_writeFixed _ r v lat cyc).trans ?_
  have hg (q : RegId) : (({ k with fpFree := if pipe then cyc + 2 else k.fpFree } : Core).setRng g).getReg q = k.getReg q := by
    cases q <;> rfl
  simp only [hg]; rfl
end

/-- The state with the pipe taken, the generator moved on and the register written is one change of the core. -/
theorem takeResult_state (pipe : Bool) (g : Rng) (r : RegId) (v : RegVal) (lat : Nat) (c : Ctx) (s : State) :
    ((pipeTaken pipe c s).putRng c.c g).put c r v lat = s.modCore c.c (Core.takeResult pipe g r v lat c.cyc) := by
  cases pipe
  · simp only [pipeTaken, Bool.false_eq_true, if_false, State.putRng, State.put, modCore_modCore]; rfl
  · simp only [pipeTaken, if_true, State.putRng, State.put, modCore_modCore]; rfl

/-! ## Forms of result and their times -/

section
variable {i : Instr} {h : Head} {n : Nat} {uses : Fin 8 → Uses}

/-- A meaning that writes one register with a fixed latency, with the generator and flags that `y` gives, has the times of R71 to R73
and R134. -/
theorem times_of_write {body : Ctx → State → Res} {d : Fin 8 → RegId} {lat : Nat} {pipe flags : Bool} {v : Ctx → State → RegVal}
    {y : Ctx → State → Fx} (hi : issueArgs i = (h, n, uses)) (he : ∀ s, exec i s = issue h n uses body s)
    (hw : ∀ sl, (uses sl).writes = [d sl])
    (hr : ∀ (c : Ctx) (s : State) (f : Nat), v c { s with fresh := f } = v c s ∧ y c { s with fresh := f } = y c s)
    (hf : flags = false → ∀ c s, (y c s).flags = 0)
    (hb : ∀ c s k, s.core? c.c = some k → (pipe = true → k.fpFree ≤ c.cyc) →
      body c s = .ok (((pipeTaken pipe c s).putRng c.c (y c s).rng).put c (d c.sl) (v c s) lat) (y c s).flags) : Times i lat pipe flags := by
  simp only [issueArgs, Prod.mk.injEq] at hi
  obtain ⟨rfl, rfl, rfl⟩ := hi
  intro s k sl r ht hp
  have hv := fun f => hr (ctxOf s i.words k sl) (s.atIssue sl i.words) f
  generalize hV : v (ctxOf s i.words k sl) (s.atIssue sl i.words) = V at hv
  generalize hY : y (ctxOf s i.words k sl) (s.atIssue sl i.words) = Y at hv
  obtain ⟨x, p, hs⟩ := slot_takeResult pipe Y.rng (d sl) V lat (s.cyc s.cur) k sl
  obtain ⟨hc, hsel, hfp⟩ := takeResult_records pipe Y.rng (d sl) V lat (s.cyc s.cur) k
  have htrap : trapCause (Y.flags &&& (((k.takeResult pipe Y.rng (d sl) V lat (s.cyc s.cur)).slot sl).ftrap)) = none := by
    rw [hs]
    cases flags
    · rw [show Y.flags = 0 from hY ▸ hf rfl _ _]; simp [trapCause]
    · rw [show (k.slot sl).ftrap = 0 from ht rfl]; simp [trapCause]
  obtain ⟨t, q, h1, h2, h3, h4, h5⟩ := issue_times (body := body) (ni := s.nextId) r (fun f => by
    have hbody := hb (ctxOf s i.words k sl) (s.seen sl i.words f) k (seen_core r f) hp
    rw [takeResult_state, show v _ (s.seen sl i.words f) = V from (hv f).1, show y _ (s.seen sl i.words f) = Y from (hv f).2] at hbody
    exact hbody) htrap ⟨by rw [hs], hc, hsel⟩
  exact ⟨t, q, (he s).trans h1, h2, h3, h4.trans hfp, h5.trans (by rw [inflight_takeResult, hw])⟩

/-- A meaning that writes one register and raises no flag. -/
theorem times_put {d : Fin 8 → RegId} {lat : Nat} {v : Ctx → State → RegVal} (hi : issueArgs i = (h, n, uses))
    (he : ∀ s, exec i s = issue h n uses (fun c s => .ok (s.put c (d c.sl) (v c s) lat) 0) s) (hw : ∀ sl, (uses sl).writes = [d sl])
    (hr : ∀ (c : Ctx) (s : State) (f : Nat), v c { s with fresh := f } = v c s) : Times i lat false false := by
  refine times_of_write (y := fun c s => c.fx s) hi he hw (fun c s f => ⟨hr c s f, rfl⟩) (fun _ => fx_flags) fun c s k hk _ => ?_
  simp only [pipeTaken, Bool.false_eq_true, if_false, fx_core hk, putRng_same hk]

theorem times_alu {d a b : SReg} {lat : Nat} {f : Word → Word → Word} (he : ∀ s, exec i s = aluOp h d a b lat f s)
    (hi : issueArgs i = (h, 1, usesRRR d a b)) : Times i lat false false :=
  times_put (d := fun sl => sid sl d) (v := fun c _ => .word (f (c.rs a) (c.rs b))) hi he (fun _ => rfl) fun _ _ _ => rfl

theorem times_unary {d a : SReg} {f : Word → Word} (he : ∀ s, exec i s = unaryOp h d a f s)
    (hi : issueArgs i = (h, 1, usesRR d a)) : Times i 1 false false :=
  times_put (d := fun sl => sid sl d) (v := fun c _ => .word (f (c.rs a))) hi he (fun _ => rfl) fun _ _ _ => rfl

theorem times_imm {x : ImmX} {d a : SReg} {imm : BitVec 10} {f : Word → Word → Word} (he : ∀ s, exec i s = immOp h x d a imm f s)
    (hi : issueArgs i = (h, if x.present then 2 else 1, usesRR d a)) : Times i 1 false false :=
  times_put (d := fun sl => sid sl d) (v := fun c _ => .word (f (c.rs a) (immI x imm))) hi he (fun _ => rfl) fun _ _ _ => rfl

theorem times_cmp {d : PReg} {a b : SReg} {f : Word → Word → Bool} (he : ∀ s, exec i s = cmpOp h d a b f s)
    (hi : issueArgs i = (h, 1, fun sl => ⟨[sid sl a, sid sl b], [.p sl d]⟩)) : Times i 1 false false :=
  times_put (d := fun sl => .p sl d) (v := fun c _ => .pred (f (c.rs a) (c.rs b))) hi he (fun _ => rfl) fun _ _ _ => rfl

theorem times_cmpi {x : ImmX} {d : PReg} {a : SReg} {imm : BitVec 7} {f : Word → Word → Bool}
    (he : ∀ s, exec i s = cmpiOp h x d a imm f s)
    (hi : issueArgs i = (h, if x.present then 2 else 1, fun sl => ⟨[sid sl a], [.p sl d]⟩)) : Times i 1 false false :=
  times_put (d := fun sl => .p sl d) (v := fun c _ => .pred (f (c.rs a) (immCmp x imm))) hi he (fun _ => rfl) fun _ _ _ => rfl

theorem times_pred {d : PReg} {ps : List PReg} {f : Core → Fin 8 → Bool} (he : ∀ s, exec i s = predOp h d ps f s)
    (hi : issueArgs i = (h, 1, fun sl => ⟨ps.map (RegId.p sl), [.p sl d]⟩)) : Times i 1 false false :=
  times_put (d := fun sl => .p sl d) (v := fun c _ => .pred (f c.rd c.sl)) hi he (fun _ => rfl) fun _ _ _ => rfl

theorem times_masks {d : MReg} {ms : List MReg} {f : Core → Word} (he : ∀ s, exec i s = maskOp h d ms f s)
    (hi : issueArgs i = (h, 1, fun _ => ⟨ms.map RegId.m, [.m d]⟩)) : Times i 1 false false :=
  times_put (d := fun _ => .m d) (v := fun c _ => .word (f c.rd)) hi he (fun _ => rfl) fun _ _ _ => rfl

theorem times_maskGet {d : SReg} {a : MReg} {f : Word → Word} (he : ∀ s, exec i s = maskGet h d a f s)
    (hi : issueArgs i = (h, 1, fun sl => ⟨[.m a], [sid sl d]⟩)) : Times i 1 false false :=
  times_put (d := fun sl => sid sl d) (v := fun c _ => .word (f (c.rd.getM a))) hi he (fun _ => rfl) fun _ _ _ => rfl

theorem times_fcmp {x : VecX} {d : PReg} {a b : SReg} {f : Int → Bool} (he : ∀ s, exec i s = fcmpOp h x d a b f s)
    (hi : issueArgs i = (h, vxWords x, fun sl => ⟨[sid sl a, sid sl b], [.p sl d]⟩)) : Times i 4 false false :=
  times_put (d := fun sl => .p sl d) hi he (fun _ => rfl) fun _ _ _ => rfl

theorem times_sat {d a b : SReg} {f : Int → Int → Int} (he : ∀ s, exec i s = satOp h d a b f s)
    (hi : issueArgs i = (h, 1, usesRRR d a b)) : Times i 1 false true := by
  refine times_of_write (d := fun sl => sid sl d) (v := fun c _ => .word (sat64 (f (c.rs a).toInt (c.rs b).toInt)).1)
    (y := fun c s => ⟨(c.fx s).rng, (sat64 (f (c.rs a).toInt (c.rs b).toInt)).2⟩) hi he (fun _ => rfl) (fun _ _ _ => ⟨rfl, rfl⟩)
    (fun h => absurd h (by decide)) fun c s k hk _ => ?_
  simp only [pipeTaken, Bool.false_eq_true, if_false, fx_core hk, putRng_same hk]; rfl

/-- A scalar floating-point form; `flags`: it may raise flags. -/
theorem times_fp {d : SReg} {f : Ctx → State → Nat × Fx} (flags : Bool) (hi : issueArgs i = (h, n, uses))
    (he : ∀ s, exec i s = issue h n uses (fun c s => fpDone c s d (f c s)) s) (hw : ∀ sl, (uses sl).writes = [sid sl d])
    (hr : ∀ (c : Ctx) (s : State) (g : Nat), f c { s with fresh := g } = f c s)
    (hf : flags = false → ∀ c s, (f c s).2.flags = 0) : Times i 4 false flags :=
  times_of_write (v := fun c s => .word (BitVec.ofNat 64 (f c s).1)) (y := fun c s => (f c s).2) hi he hw
    (fun c s g => by rw [hr]; exact ⟨rfl, rfl⟩) hf fun _ _ _ _ _ => rfl

/-- A vector result of `V` with the generator and flags of `Y`. -/
theorem times_vec {d : VNum} {lat : Nat} {V : Ctx → State → VReg} {Y : Ctx → State → Fx} (flags : Bool)
    (hi : issueArgs i = (h, n, uses)) (he : ∀ s, exec i s = issue h n uses (fun c s => vecDone c s d (V c s) lat (Y c s)) s)
    (hw : ∀ sl, (uses sl).writes = [.v d])
    (hr : ∀ (c : Ctx) (s : State) (f : Nat), V c { s with fresh := f } = V c s ∧ Y c { s with fresh := f } = Y c s)
    (hf : flags = false → ∀ c s, (Y c s).flags = 0) : Times i lat false flags :=
  times_of_write (d := fun _ => .v d) (v := fun c s => .vec (V c s)) hi he hw
    (fun c s f => ⟨congrArg RegVal.vec (hr c s f).1, (hr c s f).2⟩) hf fun _ _ _ _ _ => rfl

theorem times_int {x : VecX} {d a b : VNum} {mk : MaskX} {w : Nat} {f : Int → Int → Int × Bool} (flags : Bool)
    (he : ∀ s, exec i s = intElem h x d a b mk w f s) (hi : issueArgs i = (h, vxWords x, usesV x d a b mk false))
    (hf : flags = false → ∀ u v, (f u v).2 = false) : Times i 2 false flags :=
  times_vec flags hi he (fun _ => rfl) (fun _ _ _ => ⟨rfl, rfl⟩) fun hfl c s =>
    mapElems_flags (fun e y hy => by simp [Fx.raise, hf hfl, satFlag, hy]) (fx_flags c s)

theorem times_lane {x : VecX} {d a b : VNum} {mk : MaskX} {f : Lane → Lane → Lane} (he : ∀ s, exec i s = laneOp h x d a b mk f s)
    (hi : issueArgs i = (h, vxWords x, usesV x d a b mk false)) : Times i 2 false false :=
  times_vec false hi he (fun _ => rfl) (fun _ _ _ => ⟨rfl, rfl⟩) fun _ c s => mapElems_flags (fun _ _ hy => hy) (fx_flags c s)

theorem times_move {d : VNum} {lat : Nat} {mask : Ctx → Word} {f : Ctx → Nat → Lane} (hi : issueArgs i = (h, n, uses))
    (he : ∀ s, exec i s = issue h n uses (fun c s => moveLanes c s d (mask c) lat (f c)) s) (hw : ∀ sl, (uses sl).writes = [.v d]) :
    Times i lat false false :=
  times_vec false hi he hw (fun _ _ _ => ⟨rfl, rfl⟩) fun _ c s => fx_flags c s

theorem times_cmpLanes {d : MReg} {lat : Nat} {w : Ctx → Nat} {mask : Ctx → Word} {f : Ctx → Nat → Bool} (hi : issueArgs i = (h, n, uses))
    (he : ∀ s, exec i s = issue h n uses (fun c s => cmpLanes c s d (mask c) (w c) lat (f c)) s)
    (hw : ∀ sl, (uses sl).writes = [.m d]) : Times i lat false false :=
  times_put (d := fun _ => .m d) hi he hw fun _ _ _ => rfl

/-- A form that needs the floating-point pipe takes it when it is free, and is held while it is busy (R134). -/
theorem times_pipe {d : VNum} {V : Ctx → State → VReg} {Y : Ctx → State → Fx} (hi : issueArgs i = (h, n, uses))
    (he : ∀ s, exec i s = issue h n uses (fun c s => fpPipe c s fun s => vecDone c s d (V c s) 4 (Y c s)) s)
    (hw : ∀ sl, (uses sl).writes = [.v d])
    (hr : ∀ (c : Ctx) (s : State) (f : Nat), V c { s with fresh := f } = V c s ∧ Y c { s with fresh := f } = Y c s) :
    Times i 4 true true ∧
      ∀ s k sl, Ready s i.head i.words (usesOf i) k sl → s.cyc s.cur < k.fpFree → HoldsBack i s false := by
  refine ⟨times_of_write (d := fun _ => .v d) (v := fun c s => .vec (V c (pipeTaken true c s))) (y := fun c s => Y c (pipeTaken true c s))
    hi he hw (fun c s f => ?_) (fun h => absurd h (by decide)) fun c s k hk hp => ?_, fun s k sl r hbusy => ?_⟩
  · exact ⟨congrArg RegVal.vec (hr c (pipeTaken true c s) f).1, (hr c (pipeTaken true c s) f).2⟩
  · simp only [fpPipe_free hk (hp rfl), pipeTaken, if_true]; rfl
  · refine holds_back_of (exec_eq_issue hi he) r fun f => ?_
    have hc : (s.seen sl i.words f).core? (ctxOf s i.words k sl).c = some k := seen_core r f
    simp only [fpPipe, hc, ctxOf_cyc, hbusy, if_true]

theorem times_fpElem {x : VecX} {d a b : VNum} {mk : MaskX} {w : Nat} {rd : Bool} {f : Nat → Nat → Nat → RMode → Bool → Fx → Nat × Fx}
    (he : ∀ s, exec i s = fpElem h x d a b mk w rd f s) (hi : issueArgs i = (h, vxWords x, usesV x d a b mk rd)) :
    Times i 4 true true ∧ ∀ s k sl, Ready s i.head i.words (usesOf i) k sl → s.cyc s.cur < k.fpFree → HoldsBack i s false :=
  times_pipe hi he (fun _ => rfl) fun _ _ _ => ⟨rfl, rfl⟩

theorem times_fpSign {x : VecX} {d a : VNum} {mk : MaskX} {f : Nat → Nat} (he : ∀ s, exec i s = fpSign h x d a mk f s)
    (hi : issueArgs i = (h, vxWords x, usesV2 d a mk)) :
    Times i 4 true true ∧ ∀ s k sl, Ready s i.head i.words (usesOf i) k sl → s.cyc s.cur < k.fpFree → HoldsBack i s false :=
  times_pipe hi he (fun _ => rfl) fun _ _ _ => ⟨rfl, rfl⟩

/-- A result that is written later leaves nothing in flight. -/
theorem times_later_of_write {body : Ctx → State → Res} {lat : Nat} {d : Fin 8 → RegId} {L : Ctx → Nat} {v : Ctx → State → RegVal}
    {y : Ctx → State → Fx} (hlat : lat ≤ 1) (hi : issueArgs i = (h, n, uses)) (he : ∀ s, exec i s = issue h n uses body s)
    (hr : ∀ (c : Ctx) (s : State) (f : Nat), v c { s with fresh := f } = v c s ∧ y c { s with fresh := f } = y c s)
    (hb : ∀ c s k, s.core? c.c = some k →
      body c s = .ok ((s.putRng c.c (y c s).rng).putLater c (d c.sl) (v c s) (L c) (y c s).flags) 0) : Times i lat false false := by
  simp only [issueArgs, Prod.mk.injEq] at hi
  obtain ⟨rfl, rfl, rfl⟩ := hi
  intro s k sl r _ _
  have hv := fun f => hr (ctxOf s i.words k sl) (s.atIssue sl i.words) f
  generalize hV : v (ctxOf s i.words k sl) (s.atIssue sl i.words) = V at hv
  generalize hY : y (ctxOf s i.words k sl) (s.atIssue sl i.words) = Y at hv
  obtain ⟨t, q, h1, h2, h3, h4, h5⟩ := issue_times (body := body) (ni := s.nextId + 1) (fl := 0)
    (F := fun q => { q.setRng Y.rng with results := q.results ++ [⟨s.nextId, sl, d sl, V, s.cyc s.cur + L (ctxOf s i.words k sl),
      s.cyc s.cur, Y.flags, (q.slot sl).ftrap, (k.slot sl).pc, false⟩] }) r (fun f => by
    rw [hb _ _ k (seen_core r f), show v _ (s.seen sl i.words f) = V from (hv f).1, show y _ (s.seen sl i.words f) = Y from (hv f).2]
    simp only [State.putLater, State.putResult, State.putRng, modCore_modCore]; rfl) (by simp [trapCause]) ⟨rfl, rfl, rfl⟩
  exact ⟨t, q, (he s).trans h1, h2, h3, h4, h5.trans (by rw [if_pos hlat, List.append_nil]; rfl)⟩

theorem times_div {d a b : SReg} {signed : Bool} {f : Bool → Word → Word → Word} (he : ∀ s, exec i s = divOp h d a b signed f s)
    (hi : issueArgs i = (h, 1, usesRRR d a b)) : Times i 0 false false := by
  refine times_later_of_write (d := fun sl => sid sl d) (L := fun c => divTime signed (c.rs a) (c.rs b))
    (v := fun c _ => .word (f signed (c.rs a) (c.rs b))) (y := fun c s => c.fx s) (by decide) hi he (fun _ _ _ => ⟨rfl, rfl⟩)
    fun c s k hk => ?_
  simp only [fx_core hk, putRng_same hk]

theorem times_fpLater {d : SReg} {f : Ctx → State → Nat × Fx} (hi : issueArgs i = (h, n, uses))
    (he : ∀ s, exec i s = issue h n uses (fun c s => fpLater c s d (f c s)) s)
    (hr : ∀ (c : Ctx) (s : State) (g : Nat), f c { s with fresh := g } = f c s) : Times i 0 false false :=
  times_later_of_write (d := fun sl => sid sl d) (L := fun _ => 14) (v := fun c s => .word (BitVec.ofNat 64 (f c s).1))
    (y := fun c s => (f c s).2) (by decide) hi he (fun c s g => by rw [hr]; exact ⟨rfl, rfl⟩) fun _ _ _ _ => rfl

theorem times_vecLater {d : VNum} {lat : Nat} {V : Ctx → State → VReg} {Y : Ctx → State → Fx} (hi : issueArgs i = (h, n, uses))
    (he : ∀ s, exec i s = issue h n uses (fun c s => vecLater c s d (V c s) lat (Y c s)) s)
    (hr : ∀ (c : Ctx) (s : State) (f : Nat), V c { s with fresh := f } = V c s ∧ Y c { s with fresh := f } = Y c s) :
    Times i 0 false false :=
  times_later_of_write (d := fun _ => .v d) (L := fun _ => lat) (v := fun c s => .vec (V c s)) (by decide) hi he
    (fun c s f => ⟨congrArg RegVal.vec (hr c s f).1, (hr c s f).2⟩) fun _ _ _ _ => rfl

theorem times_reduce {x : VecX} {d a : VNum} {mk : MaskX} {empty : Nat} {fix : Nat → Nat} {f : RMode → Nat → Nat → Fx → Nat × Fx}
    (he : ∀ s, exec i s = reduceLanes h x d a mk empty fix f s) (hi : issueArgs i = (h, vxWords x, usesV2 d a mk)) :
    Times i 0 false false := times_vecLater hi he fun _ _ _ => ⟨rfl, rfl⟩

theorem times_convert {x : VecX} {d a : VNum} {mk : MaskX} {sw dw : Nat} {f : RMode → Bool → Nat → Fx → Nat × Fx}
    (he : ∀ s, exec i s = convert h x d a mk sw dw f s) (hi : issueArgs i = (h, vxWords x, usesV2 d a mk)) :
    Times i 0 false false := times_vecLater hi he fun _ _ _ => ⟨rfl, rfl⟩

theorem times_block {x : VecX} {d a : VNum} {f : RMode → VReg → Fx → VReg × Fx} (he : ∀ s, exec i s = blockOp h x d a f s)
    (hi : issueArgs i = (h, vxWords x, fun _ => ⟨[.v a], [.v d]⟩)) : Times i 0 false false :=
  times_vecLater hi he fun _ _ _ => ⟨rfl, rfl⟩

end

end Sys2Proof.Machine

namespace Sys2Proof.Machine

/-! ## Control registers -/

/-- The core as a control-register instruction reads it: AMAX with the updates that are due (R182). -/
def Core.csrRead (csr : BitVec 10) (cyc : Nat) (k : Core) : Core := if csr = 0x030 then k.amaxApply cyc else k

/-- The same after the write of the register, where there is one (R128). -/
def Core.csrWritten (csr : BitVec 10) (cyc : Nat) (sl : Fin 8) (write : Bool) (v : Word) (k : Core) : Core :=
  if write then (k.csrRead csr cyc).writeCsr sl csr.toNat v else k.csrRead csr cyc

/-- What no control register below 0x050 holds: the counters, their selection, the pipe, the writes in flight and the time of issue. -/
def SameRecords (sl : Fin 8) (q k : Core) : Prop :=
  q.regs.pmc = k.regs.pmc ∧ q.regs.pmsel = k.regs.pmsel ∧ q.fpFree = k.fpFree ∧ q.inflight = k.inflight ∧
    (q.slot sl).nextIssue = (k.slot sl).nextIssue

theorem sameRecords_modSlot (k : Core) (sl : Fin 8) {f : Slot → Slot} (hf : ∀ x, (f x).nextIssue = x.nextIssue) :
    SameRecords sl (k.modSlot sl f) k := ⟨rfl, rfl, rfl, rfl, by rw [slot_modSlot_same, hf]⟩

theorem sameRecords_writeCsr (k : Core) (sl : Fin 8) {n : Nat} (hn : n < 0x050) (v : Word) : SameRecords sl (k.writeCsr sl n v) k := by
  have refl : SameRecords sl k k := ⟨rfl, rfl, rfl, rfl, rfl⟩
  unfold Core.writeCsr
  split
  case h_2 =>
    split
    · exact refl
    · exact sameRecords_modSlot k sl fun _ => rfl
  case h_16 | h_17 | h_18 | h_19 | h_20 => exact absurd hn (by decide)
  case h_11 | h_12 | h_13 | h_14 | h_15 | h_21 => exact ⟨rfl, rfl, rfl, rfl, rfl⟩
  all_goals exact sameRecords_modSlot k sl fun _ => rfl

theorem sameRecords_csrWritten (k : Core) (sl : Fin 8) {csr : BitVec 10} (hn : csr.toNat < 0x050) (cyc : Nat) (write : Bool) (v : Word) :
    SameRecords sl (k.csrWritten csr cyc sl write v) k := by
  have read : SameRecords sl (k.csrRead csr cyc) k := by
    unfold Core.csrRead; split <;> exact ⟨rfl, rfl, rfl, rfl, rfl⟩
  unfold Core.csrWritten
  split
  · obtain ⟨h1, h2, h3, h4, h5⟩ := sameRecords_writeCsr (k.csrRead csr cyc) sl hn v
    obtain ⟨g1, g2, g3, g4, g5⟩ := read
    exact ⟨h1.trans g1, h2.trans g2, h3.trans g3, h4.trans g4, h5.trans g5⟩
  · exact read

theorem csrRead_state (csr : BitVec 10) (cyc c : Nat) (s : State) :
    (if csr = 0x030 then s.modCore c fun k => k.amaxApply cyc else s) = s.modCore c (Core.csrRead csr cyc) := by
  unfold Core.csrRead; split
  · rfl
  · exact (modCore_id s c).symm

theorem csrWritten_state (csr : BitVec 10) (cyc c : Nat) (sl : Fin 8) (write : Bool) (v : Word) (s : State) :
    (if write then (s.modCore c (Core.csrRead csr cyc)).modCore c fun k => k.writeCsr sl csr.toNat v
      else s.modCore c (Core.csrRead csr cyc)) = s.modCore c (Core.csrWritten csr cyc sl write v) := by
  unfold Core.csrWritten; split
  · exact modCore_modCore _ _ _ _
  · rfl

/-- `issue_times` for an instruction whose meaning is an issue. -/
theorem exec_times {i : Instr} {body : Ctx → State → Res} (he : ∀ s, exec i s = issue i.head i.words (usesOf i) body s)
    {s : State} {k : Core} {sl : Fin 8} (r : Ready s i.head i.words (usesOf i) k sl) (F : Core → Core) (fl : BitVec 6) (ni : Nat)
    (hb : ∀ f, body (ctxOf s i.words k sl) (s.seen sl i.words f) =
      .ok (({ s.seen sl i.words f with nextId := ni } : State).modCore s.cur F) fl)
    (ht : trapCause (fl &&& ((F k).slot sl).ftrap) = none)
    (hk : ((F k).slot sl).nextIssue = (k.slot sl).nextIssue ∧ (F k).regs.pmc = k.regs.pmc ∧ (F k).regs.pmsel = k.regs.pmsel) :
    ∃ t q, exec i s = .next t ∧ t.core? s.cur = some q ∧ IssuedAt k q sl (s.cyc s.cur) i.head.stall.toNat ∧
      q.fpFree = (F k).fpFree ∧ q.inflight = (F k).inflight := by
  rw [he]; exact issue_times r hb ht hk

/-- A control-register instruction on a register other than FLAGS waits for nothing of its own, and has the times of one cycle. -/
theorem times_csr {i : Instr} {h : Head} {d a : SReg} {csr : BitVec 10} {always : Bool} {f : Word → Word → Word}
    (he : ∀ s, exec i s = csrOp h d a csr always f s) (hi : issueArgs i = (h, 1, usesRR d a)) (h0 : csr ≠ 0)
    (hn : csr.toNat < 0x050) : Times i 1 false false := by
  have hex := exec_eq_issue hi he
  intro s k sl r _ _
  let write := always || decide (a ≠ .g 0)
  let old := s.readCsr s.cur (k.csrRead csr (s.cyc s.cur)) sl csr.toNat
  let new := f old ((ctxOf s i.words k sl).rs a)
  obtain ⟨p1, p2, p3, p4, p5⟩ := sameRecords_csrWritten k sl hn (s.cyc s.cur) write new
  obtain ⟨c1, c2, c3⟩ := writeFixed_records (k.csrWritten csr (s.cyc s.cur) sl write new) (sid sl d) (.word old) 1 (s.cyc s.cur)
  obtain ⟨t', p', hs⟩ := slot_writeFixed (k.csrWritten csr (s.cyc s.cur) sl write new) (sid sl d) (.word old) 1 (s.cyc s.cur) sl
  obtain ⟨t, q, h1, h2, h3, h4, h5⟩ := exec_times hex r
    (fun q => (q.csrWritten csr (s.cyc s.cur) sl write new).writeFixed (sid sl d) (.word old) 1 (s.cyc s.cur)) 0 s.nextId (fun g => by
      have hc : (s.seen sl i.words g).core? s.cur = some k := seen_core r g
      simp only [ctxOf_c, ctxOf_cyc, ctxOf_sl, csrRead_state, core?_modCore_same, hc, Option.map_some, h0, decide_false, Bool.false_and,
        Bool.false_eq_true, if_false, csrWritten_state, State.putS, State.put]
      rw [modCore_modCore]
      rfl) (by simp [trapCause]) ⟨by rw [hs]; exact p5, c1.trans p1, c2.trans p2⟩
  refine ⟨t, q, h1, h2, h3, h4.trans (c3.trans p3), h5.trans ((inflight_writeFixed _ _ _ _ _).trans ?_)⟩
  rw [p4]; rfl

/-- RNGGET takes one value of the generator (R361). -/
theorem times_rngget (h : Head) (d : SReg) : Times (.rngget h d) 1 false false := by
  refine times_of_write (d := fun sl => sid sl d) (v := fun c s => .word ((c.fx s).rng.next.1.setWidth 64))
    (y := fun c s => ⟨(c.fx s).rng.next.2, 0⟩) (h := h) (n := 1) (uses := usesD d) rfl (exec_rngget h d) (fun _ => rfl)
    (fun _ _ _ => ⟨rfl, rfl⟩) (fun _ _ _ => rfl) fun c s k hk _ => ?_
  simp only [hk, fx_core hk, pipeTaken, Bool.false_eq_true, if_false]; rfl

end Sys2Proof.Machine

namespace Sys2Proof.Machine

/-! ## The times of the instructions -/

/-- The scalar, predicate and mask instructions of one cycle (R72). -/
theorem times_oneCycle (h : Head) (d a b : SReg) (im : ImmX) (c10 : BitVec 10) (c7 : BitVec 7) (sh : BitVec 6) (p q r : PReg)
    (ml ma mb : MReg) :
    ∀ i ∈ [Instr.add h d a b, .sub h d a b, .and h d a b, .or h d a b, .xor h d a b, .sll h d a b, .srl h d a b, .sra h d a b,
    .min h d a b, .max h d a b, .minu h d a b, .maxu h d a b, .andn h d a b, .orn h d a b, .peer h d a b, .peero h d a b, .clz h d a,
    .popc h d a, .sext8 h d a, .sext16 h d a, .sext32 h d a, .zext8 h d a, .zext16 h d a, .zext32 h d a, .bswap h d a, .ctz h d a,
    .pidx h d a, .addi h im d a c10, .andi h im d a c10, .ori h im d a c10, .xori h im d a c10, .lih h im d a c10, .li h im d c10,
    .slli h d a sh, .srli h d a sh, .srai h d a sh, .rori h d a sh, .cmpEq h p a b, .cmpNe h p a b, .cmpLt h p a b, .cmpGe h p a b,
    .cmpLtu h p a b, .cmpGeu h p a b, .cmpBits h p a b, .cmpNbits h p a b, .cmpiEq h im p a c7, .cmpiNe h im p a c7, .cmpiLt h im p a c7,
    .cmpiGe h im p a c7, .cmpiLtu h im p a c7, .cmpiGeu h im p a c7, .cmpiBits h im p a c7, .cmpiNbits h im p a c7, .pand h p q r,
    .por h p q r, .pxor h p q r, .pandn h p q r, .pnot h p q, .pmov h p q, .pset h p, .pclr h p, .mand h ml ma mb, .mor h ml ma mb,
    .mxor h ml ma mb, .mandn h ml ma mb, .mnot h ml ma, .mset h ml a, .mget h d ma, .mpop h d ma, .mfirst h d ma, .rngget h d],
      Times i 1 false false := by
  simp only [List.forall_mem_cons, List.not_mem_nil, false_imp_iff, implies_true, and_true]
  exact ⟨times_alu (exec_add h d a b) rfl, times_alu (exec_sub h d a b) rfl, times_alu (exec_and h d a b) rfl,
    times_alu (exec_or h d a b) rfl, times_alu (exec_xor h d a b) rfl, times_alu (exec_sll h d a b) rfl, times_alu (exec_srl h d a b) rfl,
    times_alu (exec_sra h d a b) rfl, times_alu (exec_min h d a b) rfl, times_alu (exec_max h d a b) rfl, times_alu (exec_minu h d a b) rfl,
    times_alu (exec_maxu h d a b) rfl, times_alu (exec_andn h d a b) rfl, times_alu (exec_orn h d a b) rfl,
    times_alu (exec_peer h d a b) rfl, times_alu (exec_peero h d a b) rfl, times_unary (exec_clz h d a) rfl,
    times_unary (exec_popc h d a) rfl, times_unary (exec_sext8 h d a) rfl, times_unary (exec_sext16 h d a) rfl,
    times_unary (exec_sext32 h d a) rfl, times_unary (exec_zext8 h d a) rfl, times_unary (exec_zext16 h d a) rfl,
    times_unary (exec_zext32 h d a) rfl, times_unary (exec_bswap h d a) rfl, times_unary (exec_ctz h d a) rfl,
    times_unary (exec_pidx h d a) rfl, times_imm (exec_addi h im d a c10) rfl, times_imm (exec_andi h im d a c10) rfl,
    times_imm (exec_ori h im d a c10) rfl, times_imm (exec_xori h im d a c10) rfl, times_imm (exec_lih h im d a c10) rfl,
    times_put (d := fun sl => sid sl d) (v := fun _ _ => .word (immI im c10)) rfl (exec_li h im d c10) (fun _ => rfl) (fun _ _ _ => rfl),
    times_unary (exec_slli h d a sh) rfl, times_unary (exec_srli h d a sh) rfl, times_unary (exec_srai h d a sh) rfl,
    times_unary (exec_rori h d a sh) rfl, times_cmp (exec_cmpEq h p a b) rfl, times_cmp (exec_cmpNe h p a b) rfl,
    times_cmp (exec_cmpLt h p a b) rfl, times_cmp (exec_cmpGe h p a b) rfl, times_cmp (exec_cmpLtu h p a b) rfl,
    times_cmp (exec_cmpGeu h p a b) rfl, times_cmp (exec_cmpBits h p a b) rfl, times_cmp (exec_cmpNbits h p a b) rfl,
    times_cmpi (exec_cmpiEq h im p a c7) rfl, times_cmpi (exec_cmpiNe h im p a c7) rfl, times_cmpi (exec_cmpiLt h im p a c7) rfl,
    times_cmpi (exec_cmpiGe h im p a c7) rfl, times_cmpi (exec_cmpiLtu h im p a c7) rfl, times_cmpi (exec_cmpiGeu h im p a c7) rfl,
    times_cmpi (exec_cmpiBits h im p a c7) rfl, times_cmpi (exec_cmpiNbits h im p a c7) rfl, times_pred (exec_pand h p q r) rfl,
    times_pred (exec_por h p q r) rfl, times_pred (exec_pxor h p q r) rfl, times_pred (exec_pandn h p q r) rfl,
    times_pred (exec_pnot h p q) rfl, times_pred (exec_pmov h p q) rfl, times_pred (exec_pset h p) rfl, times_pred (exec_pclr h p) rfl,
    times_masks (exec_mand h ml ma mb) rfl, times_masks (exec_mor h ml ma mb) rfl, times_masks (exec_mxor h ml ma mb) rfl,
    times_masks (exec_mandn h ml ma mb) rfl, times_masks (exec_mnot h ml ma) rfl,
    times_put (d := fun _ => .m ml) (v := fun c _ => .word (c.rs a)) rfl (exec_mset h ml a) (fun _ => rfl) (fun _ _ _ => rfl),
    times_maskGet (exec_mget h d ma) rfl, times_maskGet (exec_mpop h d ma) rfl, times_maskGet (exec_mfirst h d ma) rfl, times_rngget h d⟩

/-- The control-register instructions below 0x050 but FLAGS (R128). -/
theorem times_csrOps (h : Head) (d a : SReg) (csr : BitVec 10) (h0 : csr ≠ 0) (hn : csr.toNat < 0x050) :
    ∀ i ∈ [Instr.csrw h d a csr, .csrs h d a csr, .csrc h d a csr], Times i 1 false false := by
  simp only [List.forall_mem_cons, List.not_mem_nil, false_imp_iff, implies_true, and_true]
  exact ⟨times_csr (exec_csrw h d a csr) rfl h0 hn, times_csr (exec_csrs h d a csr) rfl h0 hn, times_csr (exec_csrc h d a csr) rfl h0 hn⟩

/-- The saturating scalar forms (R106). -/
theorem times_sats (h : Head) (d a b : SReg) :
    ∀ i ∈ [Instr.adds h d a b, .subs h d a b], Times i 1 false true := by
  simp only [List.forall_mem_cons, List.not_mem_nil, false_imp_iff, implies_true, and_true]
  exact ⟨times_sat (exec_adds h d a b) rfl, times_sat (exec_subs h d a b) rfl⟩

/-- The products take 3 cc. -/
theorem times_muls (h : Head) (d a b : SReg) :
    ∀ i ∈ [Instr.mul h d a b, .mulh h d a b, .mulhu h d a b], Times i 3 false false := by
  simp only [List.forall_mem_cons, List.not_mem_nil, false_imp_iff, implies_true, and_true]
  exact ⟨times_alu (exec_mul h d a b) rfl, times_alu (exec_mulh h d a b) rfl, times_alu (exec_mulhu h d a b) rfl⟩

/-- The scalar floating-point forms that may raise flags (R109, R110). -/
theorem times_fpRounded (h : Head) (d a b : SReg) (x : VecX) :
    ∀ i ∈ [Instr.fadd h x d a b, .fsub h x d a b, .fmul h x d a b, .fma h x d a b, .fcvti h x d a, .fcvtf h x d a], Times i 4 false true := by
  simp only [List.forall_mem_cons, List.not_mem_nil, false_imp_iff, implies_true, and_true]
  exact ⟨times_fp true rfl (exec_fadd h x d a b) (fun _ => rfl) (fun _ _ _ => rfl) (fun h => absurd h (by decide)),
    times_fp true rfl (exec_fsub h x d a b) (fun _ => rfl) (fun _ _ _ => rfl) (fun h => absurd h (by decide)),
    times_fp true rfl (exec_fmul h x d a b) (fun _ => rfl) (fun _ _ _ => rfl) (fun h => absurd h (by decide)),
    times_fp true rfl (exec_fma h x d a b) (fun _ => rfl) (fun _ _ _ => rfl) (fun h => absurd h (by decide)),
    times_fp true rfl (exec_fcvti h x d a) (fun _ => rfl) (fun _ _ _ => rfl) (fun h => absurd h (by decide)),
    times_fp true rfl (exec_fcvtf h x d a) (fun _ => rfl) (fun _ _ _ => rfl) (fun h => absurd h (by decide))⟩

/-- The scalar floating-point forms that round nothing. -/
theorem times_fpExact (h : Head) (d a b : SReg) (p : PReg) (x : VecX) :
    ∀ i ∈ [Instr.fmin h x d a b, .fmax h x d a b, .fabs h x d a, .fneg h x d a, .fclass h x d a, .feq h x p a b, .flt h x p a b,
    .fle h x p a b], Times i 4 false false := by
  simp only [List.forall_mem_cons, List.not_mem_nil, false_imp_iff, implies_true, and_true]
  exact ⟨times_fp false rfl (exec_fmin h x d a b) (fun _ => rfl) (fun _ _ _ => rfl) (fun _ c s => fx_flags c s),
    times_fp false rfl (exec_fmax h x d a b) (fun _ => rfl) (fun _ _ _ => rfl) (fun _ c s => fx_flags c s),
    times_fp false rfl (exec_fabs h x d a) (fun _ => rfl) (fun _ _ _ => rfl) (fun _ c s => fx_flags c s),
    times_fp false rfl (exec_fneg h x d a) (fun _ => rfl) (fun _ _ _ => rfl) (fun _ c s => fx_flags c s),
    times_fp false rfl (exec_fclass h x d a) (fun _ => rfl) (fun _ _ _ => rfl) (fun _ c s => fx_flags c s),
    times_fcmp (exec_feq h x p a b) rfl, times_fcmp (exec_flt h x p a b) rfl, times_fcmp (exec_fle h x p a b) rfl⟩

/-- The vector forms of 2 cc that raise no flag. -/
theorem times_vecTwo (h : Head) (ml : MReg) (x : VecX) (vd va vb : VNum) (mk : MaskX) :
    ∀ i ∈ [Instr.vaddI32 h x vd va vb mk, .vsubI32 h x vd va vb mk, .vmulI32 h x vd va vb mk, .vmulhI32 h x vd va vb mk,
    .vminI32 h x vd va vb mk, .vmaxI32 h x vd va vb mk, .vminuI32 h x vd va vb mk, .vabsI32 h x vd va mk, .vand h x vd va vb mk,
    .vor h x vd va vb mk, .vxor h x vd va vb mk, .vsll h x vd va vb mk, .vsrl h x vd va vb mk, .vsra h x vd va vb mk,
    .vaddI16 h x vd va vb mk, .vsubI16 h x vd va vb mk, .vmulI16 h x vd va vb mk, .vminI16 h x vd va vb mk, .vmaxI16 h x vd va vb mk,
    .vaddI8 h x vd va vb mk, .vsubI8 h x vd va vb mk, .vminI8 h x vd va vb mk, .vmaxI8 h x vd va vb mk, .vcmpI32 h x ml va vb mk,
    .viota h x vd mk], Times i 2 false false := by
  simp only [List.forall_mem_cons, List.not_mem_nil, false_imp_iff, implies_true, and_true]
  exact ⟨times_int false (exec_vaddI32 h x vd va vb mk) rfl (fun _ _ _ => rfl),
    times_int false (exec_vsubI32 h x vd va vb mk) rfl (fun _ _ _ => rfl),
    times_int false (exec_vmulI32 h x vd va vb mk) rfl (fun _ _ _ => rfl),
    times_int false (exec_vmulhI32 h x vd va vb mk) rfl (fun _ _ _ => rfl),
    times_int false (exec_vminI32 h x vd va vb mk) rfl (fun _ _ _ => rfl),
    times_int false (exec_vmaxI32 h x vd va vb mk) rfl (fun _ _ _ => rfl), times_lane (exec_vminuI32 h x vd va vb mk) rfl,
    times_vec false rfl (exec_vabsI32 h x vd va mk) (fun _ => rfl) (fun _ _ _ => ⟨rfl,
    rfl⟩) (fun _ c s => mapElems_flags (fun _ _ hy => hy) (fx_flags c s)), times_lane (exec_vand h x vd va vb mk) rfl,
    times_lane (exec_vor h x vd va vb mk) rfl, times_lane (exec_vxor h x vd va vb mk) rfl, times_lane (exec_vsll h x vd va vb mk) rfl,
    times_lane (exec_vsrl h x vd va vb mk) rfl, times_lane (exec_vsra h x vd va vb mk) rfl,
    times_int false (exec_vaddI16 h x vd va vb mk) rfl (fun _ _ _ => rfl),
    times_int false (exec_vsubI16 h x vd va vb mk) rfl (fun _ _ _ => rfl),
    times_int false (exec_vmulI16 h x vd va vb mk) rfl (fun _ _ _ => rfl),
    times_int false (exec_vminI16 h x vd va vb mk) rfl (fun _ _ _ => rfl),
    times_int false (exec_vmaxI16 h x vd va vb mk) rfl (fun _ _ _ => rfl),
    times_int false (exec_vaddI8 h x vd va vb mk) rfl (fun _ _ _ => rfl),
    times_int false (exec_vsubI8 h x vd va vb mk) rfl (fun _ _ _ => rfl),
    times_int false (exec_vminI8 h x vd va vb mk) rfl (fun _ _ _ => rfl),
    times_int false (exec_vmaxI8 h x vd va vb mk) rfl (fun _ _ _ => rfl), times_cmpLanes rfl (exec_vcmpI32 h x ml va vb mk) (fun _ => rfl),
    times_move rfl (exec_viota h x vd mk) (fun _ => rfl)⟩

/-- The saturating vector forms. -/
theorem times_vecSats (h : Head) (x : VecX) (vd va vb : VNum) (mk : MaskX) :
    ∀ i ∈ [Instr.vaddsI32 h x vd va vb mk, .vsubsI32 h x vd va vb mk, .vaddsI16 h x vd va vb mk, .vsubsI16 h x vd va vb mk,
    .vaddsI8 h x vd va vb mk, .vsubsI8 h x vd va vb mk], Times i 2 false true := by
  simp only [List.forall_mem_cons, List.not_mem_nil, false_imp_iff, implies_true, and_true]
  exact ⟨times_int true (exec_vaddsI32 h x vd va vb mk) rfl (fun h => absurd h (by decide)),
    times_int true (exec_vsubsI32 h x vd va vb mk) rfl (fun h => absurd h (by decide)),
    times_int true (exec_vaddsI16 h x vd va vb mk) rfl (fun h => absurd h (by decide)),
    times_int true (exec_vsubsI16 h x vd va vb mk) rfl (fun h => absurd h (by decide)),
    times_int true (exec_vaddsI8 h x vd va vb mk) rfl (fun h => absurd h (by decide)),
    times_int true (exec_vsubsI8 h x vd va vb mk) rfl (fun h => absurd h (by decide))⟩

/-- The vector forms of 4 cc outside the pipe. -/
theorem times_vecFour (h : Head) (ml : MReg) (x : VecX) (v : VecPfx) (vd va vb : VNum) (gd : GNum) (mk : MaskX) :
    ∀ i ∈ [Instr.vcmpF32 h x ml va vb mk, .vperm h x vd va vb mk, .vbcast h x vd va mk, .vbcastScalar h v vd mk, .vrot h x vd va mk,
    .vsel h x vd va vb ml, .vins h v vd, .vext h x gd va, .vhdrRead h v gd va, .vhdrWrite h v vd], Times i 4 false false := by
  simp only [List.forall_mem_cons, List.not_mem_nil, false_imp_iff, implies_true, and_true]
  exact ⟨times_cmpLanes rfl (exec_vcmpF32 h x ml va vb mk) (fun _ => rfl), times_move rfl (exec_vperm h x vd va vb mk) (fun _ => rfl),
    times_move rfl (exec_vbcast h x vd va mk) (fun _ => rfl), times_move rfl (exec_vbcastScalar h v vd mk) (fun _ => rfl),
    times_move rfl (exec_vrot h x vd va mk) (fun _ => rfl), times_move rfl (exec_vsel h x vd va vb ml) (fun _ => rfl),
    times_move rfl (exec_vins h v vd) (fun _ => rfl),
    times_put (d := fun _ => .g gd) (v := fun c _ => .word ((vat (c.rd.getV va).lanes (vxImm8 x) 0).signExtend 64)) rfl
      (exec_vext h x gd va) (fun _ => rfl) (fun _ _ _ => rfl),
    times_put (d := fun _ => .g gd) (v := fun c _ => .word (c.rd.getV va).header) rfl
      (exec_vhdrRead h v gd va) (fun _ => rfl) (fun _ _ _ => rfl),
    times_vec false rfl (exec_vhdrWrite h v vd) (fun _ => rfl) (fun _ _ _ => ⟨rfl, rfl⟩) (fun _ c s => fx_flags c s)⟩

/-- The floating-point element forms (R134). -/
theorem times_vecPipe (h : Head) (x : VecX) (vd va vb : VNum) (mk : MaskX) :
    ∀ i ∈ [Instr.vaddF32 h x vd va vb mk, .vsubF32 h x vd va vb mk, .vmulF32 h x vd va vb mk, .vfmaF32 h x vd va vb mk,
    .vfmsF32 h x vd va vb mk, .vfnmaF32 h x vd va vb mk, .vminF32 h x vd va vb mk, .vmaxF32 h x vd va vb mk, .vabsF32 h x vd va mk,
    .vnegF32 h x vd va mk, .vaddBf16 h x vd va vb mk, .vsubBf16 h x vd va vb mk, .vmulBf16 h x vd va vb mk, .vfmaBf16 h x vd va vb mk,
    .vminBf16 h x vd va vb mk, .vmaxBf16 h x vd va vb mk, .vaddE4m3 h x vd va vb mk, .vsubE4m3 h x vd va vb mk, .vmulE4m3 h x vd va vb mk,
    .vminE4m3 h x vd va vb mk, .vmaxE4m3 h x vd va vb mk, .vaddE5m2 h x vd va vb mk, .vsubE5m2 h x vd va vb mk, .vmulE5m2 h x vd va vb mk,
    .vminE5m2 h x vd va vb mk, .vmaxE5m2 h x vd va vb mk], Times i 4 true true ∧
      ∀ s k sl, Ready s i.head i.words (usesOf i) k sl → s.cyc s.cur < k.fpFree → HoldsBack i s false := by
  simp only [List.forall_mem_cons, List.not_mem_nil, false_imp_iff, implies_true, and_true]
  exact ⟨times_fpElem (exec_vaddF32 h x vd va vb mk) rfl, times_fpElem (exec_vsubF32 h x vd va vb mk) rfl,
    times_fpElem (exec_vmulF32 h x vd va vb mk) rfl, times_fpElem (exec_vfmaF32 h x vd va vb mk) rfl,
    times_fpElem (exec_vfmsF32 h x vd va vb mk) rfl, times_fpElem (exec_vfnmaF32 h x vd va vb mk) rfl,
    times_fpElem (exec_vminF32 h x vd va vb mk) rfl, times_fpElem (exec_vmaxF32 h x vd va vb mk) rfl,
    times_fpSign (exec_vabsF32 h x vd va mk) rfl, times_fpSign (exec_vnegF32 h x vd va mk) rfl,
    times_fpElem (exec_vaddBf16 h x vd va vb mk) rfl, times_fpElem (exec_vsubBf16 h x vd va vb mk) rfl,
    times_fpElem (exec_vmulBf16 h x vd va vb mk) rfl, times_fpElem (exec_vfmaBf16 h x vd va vb mk) rfl,
    times_fpElem (exec_vminBf16 h x vd va vb mk) rfl, times_fpElem (exec_vmaxBf16 h x vd va vb mk) rfl,
    times_fpElem (exec_vaddE4m3 h x vd va vb mk) rfl, times_fpElem (exec_vsubE4m3 h x vd va vb mk) rfl,
    times_fpElem (exec_vmulE4m3 h x vd va vb mk) rfl, times_fpElem (exec_vminE4m3 h x vd va vb mk) rfl,
    times_fpElem (exec_vmaxE4m3 h x vd va vb mk) rfl, times_fpElem (exec_vaddE5m2 h x vd va vb mk) rfl,
    times_fpElem (exec_vsubE5m2 h x vd va vb mk) rfl, times_fpElem (exec_vmulE5m2 h x vd va vb mk) rfl,
    times_fpElem (exec_vminE5m2 h x vd va vb mk) rfl, times_fpElem (exec_vmaxE5m2 h x vd va vb mk) rfl⟩

/-- The scoreboarded forms leave nothing in flight (R72). -/
theorem times_laters (h : Head) (d a b : SReg) (x : VecX) (vd va vb : VNum) (mk : MaskX) :
    ∀ i ∈ [Instr.div h d a b, .divu h d a b, .rem h d a b, .remu h d a b, .fdiv h x d a b, .fsqrt h x d a, .vrsumF32 h x vd va mk,
    .vrsumI32 h x vd va mk, .vrmaxF32 h x vd va mk, .vrmaxI32 h x vd va mk, .quantQb8 h x vd va, .quantQb4 h x vd va,
    .dequantQb8 h x vd va mk, .dequantQb4 h x vd va mk, .qtobaQb8 h x vd va, .qtobaQb4 h x vd va, .badd h x vd va vb,
    .balign h x vd va vb, .vcvtBf16F32 h x vd va mk, .vcvtI32F32 h x vd va mk, .vcvtF32I32 h x vd va mk], Times i 0 false false := by
  simp only [List.forall_mem_cons, List.not_mem_nil, false_imp_iff, implies_true, and_true]
  exact ⟨times_div (exec_div h d a b) rfl, times_div (exec_divu h d a b) rfl, times_div (exec_rem h d a b) rfl,
    times_div (exec_remu h d a b) rfl, times_fpLater rfl (exec_fdiv h x d a b) (fun _ _ _ => rfl),
    times_fpLater rfl (exec_fsqrt h x d a) (fun _ _ _ => rfl), times_reduce (exec_vrsumF32 h x vd va mk) rfl,
    times_reduce (exec_vrsumI32 h x vd va mk) rfl, times_reduce (exec_vrmaxF32 h x vd va mk) rfl,
    times_reduce (exec_vrmaxI32 h x vd va mk) rfl, times_block (exec_quantQb8 h x vd va) rfl, times_block (exec_quantQb4 h x vd va) rfl,
    times_vecLater rfl (exec_dequantQb8 h x vd va mk) (fun _ _ _ => ⟨rfl, rfl⟩),
    times_vecLater rfl (exec_dequantQb4 h x vd va mk) (fun _ _ _ => ⟨rfl, rfl⟩), times_block (exec_qtobaQb8 h x vd va) rfl,
    times_block (exec_qtobaQb4 h x vd va) rfl, times_vecLater rfl (exec_badd h x vd va vb) (fun _ _ _ => ⟨rfl, rfl⟩),
    times_vecLater rfl (exec_balign h x vd va vb) (fun _ _ _ => ⟨rfl, rfl⟩), times_convert (exec_vcvtBf16F32 h x vd va mk) rfl,
    times_convert (exec_vcvtI32F32 h x vd va mk) rfl, times_convert (exec_vcvtF32I32 h x vd va mk) rfl⟩

end Sys2Proof.Machine

namespace Sys2Proof.Machine

/-! ## A false guard -/

section
variable {h : Head} {n : Nat} {uses : Fin 8 → Uses} {body : Ctx → State → Res} {s : State} {k : Core} {sl : Fin 8}

/-- What the end of an instruction that changed nothing and raised no flag leaves of its core. -/
theorem core?_finish_nothing (r : Fetches s n k sl) (f stall pc last : Nat) :
    ((s.seen sl n f).finish s.cur sl stall pc last (.ok (s.seen sl n f) 0)).core? s.cur =
      some ((k.issued sl (s.cyc s.cur) stall).modSlot sl fun x => x.backEdge last) := by
  have hc : (s.seen sl n f).core? s.cur = some k := r.core
  have no : ∀ v : BitVec 6, trapCause (0 &&& v) = none := fun v => by simp [trapCause]
  have zero : ∀ v : BitVec 6, v ||| 0 = v := fun v => by simp
  simp only [State.finish, core?_modCore_same, hc, Option.map_some, no, cyc_seen, zero, modSlot_modSlot]

/-- An instruction whose guard is false records its issue, and nothing else of its times (R61, R71). -/
theorem issue_false_guard_times (r : Fetches s n k sl) (hg : GuardReads s h k sl)
    (hf : ((k.view s.fresh).getP sl h.gp == h.neg) = true) :
    ∃ t q, issue h n uses body s = .next t ∧ t.core? s.cur = some q ∧ IssuedAt k q sl (s.cyc s.cur) h.stall.toNat ∧
      q.fpFree = k.fpFree ∧ q.inflight = k.inflight := by
  obtain ⟨k0, h0, hr, hs, hm⟩ := fetches_core r
  obtain ⟨f, hs2⟩ := seen_or s sl n (k.inflight.isEmpty && k0.stale.isEmpty)
  have key : issue h n uses body s = .next ((s.seen sl n f).finish s.cur sl h.stall.toNat (k.slot sl).pc
      ((k.slot sl).pc + 4 * (n - 1)) (.ok (s.seen sl n f) 0)) := by
    simp only [issue, h0, hr, hm, r.core]
    simp only [← hs, r.fetch, GuardReads] at hg ⊢
    simp only [hs2, hg, hf, Bool.false_eq_true, if_false, if_true]
  obtain ⟨a1, a2, a3, a4⟩ := issuedAt_issued (k := k) (q := k) (sl := sl) (cyc := s.cyc s.cur) (gap := h.stall.toNat) rfl ⟨rfl, rfl⟩
  refine ⟨_, _, key, core?_finish_nothing r f _ _ _, ⟨a1, a2, ?_, a4⟩, fpFree_issued k _ _, inflight_issued k _ _⟩
  rw [slot_modSlot_same, backEdge_eq]
  exact a3

end

/-! ## Reads of a register with writes in flight (R73) -/

/-- A register write changes no other register. -/
theorem getReg_setReg_of_ne (k : Core) {q r : RegId} (h : q ≠ r) (v : RegVal) : (k.setReg q v).getReg r = k.getReg r := by
  cases q <;> cases v
  case g.word n w =>
    by_cases hn : n = 0
    · simp only [Core.setReg, Core.setS, hn, if_true]; cases r <;> rfl
    · simp only [Core.setReg, Core.setS, hn, if_false]
      cases r
      case g m => 
        have hm : n.val ≠ m.val := fun e => h (congrArg RegId.g (Fin.ext e))
        simp [Core.getReg, Core.getS, Vector.getElem_set_ne, hm]
      all_goals rfl
  case t.word sl n w =>
    simp only [Core.setReg, Core.setS]
    cases r
    case t sl' m =>
      by_cases hs : sl' = sl
      · subst hs
        have hm : n.val ≠ m.val := fun e => h (congrArg (RegId.t sl') (Fin.ext e))
        simp [Core.getReg, Core.getS, slot_modSlot_same, Vector.getElem_set_ne, hm]; rfl
      · simp only [Core.getReg, Core.getS, slot_modSlot_ne _ _ hs]; rfl
    case p sl' m =>
      by_cases hs : sl' = sl
      · subst hs; simp only [Core.getReg, Core.getP, slot_modSlot_same]; rfl
      · simp only [Core.getReg, Core.getP, slot_modSlot_ne _ _ hs]; rfl
    all_goals rfl
  case p.pred sl n b =>
    by_cases hn : n = 0
    · simp only [Core.setReg, Core.setP, hn, if_true]; cases r <;> rfl
    · simp only [Core.setReg, Core.setP, hn, if_false]
      cases r
      case p sl' m =>
        by_cases hs : sl' = sl
        · subst hs
          have hm : n.val ≠ m.val := fun e => h (congrArg (RegId.p sl') (Fin.ext e))
          simp [Core.getReg, Core.getP, slot_modSlot_same, Vector.getElem_set_ne, hm]; rfl
        · simp only [Core.getReg, Core.getP, slot_modSlot_ne _ _ hs]; rfl
      case t sl' m =>
        by_cases hs : sl' = sl
        · subst hs; simp only [Core.getReg, Core.getS, slot_modSlot_same]; rfl
        · simp only [Core.getReg, Core.getS, slot_modSlot_ne _ _ hs]; rfl
      all_goals rfl
  case v.vec n x =>
    cases r
    case v m =>
      have hm : n.val ≠ m.val := fun e => h (congrArg RegId.v (Fin.ext e))
      simp [Core.setReg, Core.getReg, Core.getV, Core.setV, Vector.getElem_set_ne, hm]
    all_goals rfl
  case m.word n w =>
    cases r
    case m m =>
      have hm : n.val ≠ m.val := fun e => h (congrArg RegId.m (Fin.ext e))
      simp [Core.setReg, Core.getReg, Core.getM, Core.setM, Vector.getElem_set_ne, hm]
    all_goals rfl
  all_goals cases r <;> rfl

/-- A register takes a value that is written to it, or keeps its own where it is hard-wired. -/
theorem getReg_setReg_same (k : Core) (r : RegId) (v : RegVal) : (k.setReg r v).getReg r = k.getReg r ∨ (k.setReg r v).getReg r = v := by
  cases r <;> cases v
  case g.word n w => by_cases h : n = 0 <;> simp [Core.setReg, Core.getReg, Core.setS, Core.getS, h]
  case t.word sl n w => right; simp [Core.setReg, Core.getReg, Core.setS, Core.getS, slot_modSlot_same]
  case p.pred sl n b => by_cases h : n = 0 <;> simp [Core.setReg, Core.getReg, Core.setP, Core.getP, h, slot_modSlot_same]
  case v.vec n x => right; simp [Core.setReg, Core.getReg, Core.getV]
  case m.word n w => right; simp [Core.setReg, Core.getReg, Core.getM, Core.setM]
  all_goals exact .inl rfl

/-- A read finds the newest value of a register, or the old value of a write in flight on it. -/
theorem getReg_view (k : Core) (f : Nat) (r : RegId) :
    (k.view f).getReg r = k.getReg r ∨ ∃ e ∈ k.inflight, e.reg = r ∧ (k.view f).getReg r = e.old := by
  unfold Core.view
  split
  · exact .inl rfl
  · refine List.foldrRecOn (motive := fun v : Core => v.getReg r = k.getReg r ∨ ∃ e ∈ k.inflight, e.reg = r ∧ v.getReg r = e.old)
      _ _ (.inl rfl) fun v hv x hx => ?_
    split
    · by_cases hr : x.1.reg = r
      · subst hr
        rcases getReg_setReg_same v x.1.reg x.1.old with h | h
        · rw [h]; exact hv
        · exact .inr ⟨x.1, List.fst_mem_of_mem_zipIdx hx, rfl, h⟩
      · rw [getReg_setReg_of_ne v hr]; exact hv
    · exact hv

theorem getReg_land_view (k : Core) (cyc f : Nat) (r : RegId) :
    ((k.land cyc).view f).getReg r = k.getReg r ∨
      ∃ e ∈ k.inflight, e.reg = r ∧ cyc < e.lands ∧ ((k.land cyc).view f).getReg r = e.old := by
  have hk : (k.land cyc).getReg r = k.getReg r := by cases r <;> rfl
  rcases getReg_view (k.land cyc) f r with h | ⟨e, he, hr, hv⟩
  · exact .inl (h.trans hk)
  · obtain ⟨hm, hl⟩ := List.mem_filter.mp he
    exact .inr ⟨e, hm, hr, of_decide_eq_true hl, hv⟩

end Sys2Proof.Machine

namespace Sys2Proof.Machine

/-! ## When a core issues -/

/-- A core that may issue has a RUNNING slot whose time has come, and neither it nor the core is stopped (R71, R73). -/
theorem issueReady_running {k : Core} {now cyc : Nat} (h : k.issueReady now cyc = true) :
    ∃ sl, k.running = some sl ∧ (k.slot sl).nextIssue ≤ cyc ∧ k.issueFrom ≤ cyc ∧ k.frozen = false ∧ k.halted = false := by
  unfold Core.issueReady at h
  split at h
  · exact absurd h Bool.false_ne_true
  · next sl hr =>
    simp only [Bool.and_eq_true, decide_eq_true_eq, Bool.not_eq_true'] at h
    obtain ⟨⟨⟨⟨hn, hf⟩, hz⟩, hh⟩, -⟩ := h
    exact ⟨sl, hr, hn, hf, hz, hh⟩

theorem issueReady_of_actsFirst {s : State} {c : Nat} {k : Core} (h : s.actsFirst c k = true) : k.issueReady s.now (s.cyc c) = true := by
  unfold State.actsFirst at h
  split at h
  · exact absurd h Bool.false_ne_true
  · simp only at h
    split at h
    · next hr =>
      simp only [Bool.and_eq_true] at hr
      exact hr.1.1
    · exact absurd h Bool.false_ne_true

/-- A core's own turn is an issue of that core, where it may issue, or an event. -/
theorem issueReady_of_coreAct {s : State} {c d : Nat} {k : Core} (h : s.coreAct c k = some (.issue d)) :
    c = d ∧ k.issueReady s.now (s.cyc c) = true := by
  simp only [State.coreAct] at h
  split at h
  · exact absurd h (by simp)
  split at h
  · exact absurd h (by simp)
  split at h
  · exact absurd h (by simp)
  split at h
  · exact absurd h (by simp)
  split at h
  · next hr =>
    simp only [Bool.and_eq_true] at hr
    exact ⟨by simpa using h, hr.1⟩
  · exact absurd h (by simp)

theorem issueReady_of_nextAct {s : State} {c : Nat} (h : s.nextAct = .issue c) :
    ∃ e ∈ s.cores, e.1 = c ∧ e.2.issueReady s.now (s.cyc c) = true := by
  unfold State.nextAct at h
  split at h
  · next e he =>
    obtain rfl : e.1 = c := by simpa using h
    exact ⟨e, List.mem_of_find?_eq_some he, rfl, issueReady_of_actsFirst (by simpa using List.find?_some he)⟩
  split at h
  · exact absurd h (by simp)
  split at h
  · exact absurd h (by simp)
  split at h
  · next a ha =>
    subst h
    obtain ⟨e, he, hact⟩ := List.exists_of_findSome?_eq_some ha
    obtain ⟨rfl, hr⟩ := issueReady_of_coreAct hact
    exact ⟨e, he, rfl, hr⟩
  split at h
  · exact absurd h (by simp)
  · exact absurd h (by simp)

/-! ## Counters (R363) -/

@[simp] theorem getElem_vgen {α : Type} {n : Nat} (f : Fin n → α) (i : Fin n) : (vgen f)[i] = f i := by simp [vgen]

/-- A counter adds the events of its selection and no others. -/
theorem pmc_count (k : Core) {ev : Nat} (n : Nat) (h : ev ≠ 0) (i : Fin 4) : (k.count ev n).regs.pmc[i] =
    if bits k.regs.pmsel (8 * i.val) 8 = ev then k.regs.pmc[i] + BitVec.ofNat 64 n else k.regs.pmc[i] := by
  unfold Core.count
  split
  · next hz =>
    have h0 : bits k.regs.pmsel (8 * i.val) 8 = 0 := by rw [hz]; simp [bits]
    exact (if_neg fun e => h (e.symm.trans h0)).symm
  · exact getElem_vgen _ i

/-- What the levels of a cycle and the selections are read from. -/
def SameLevels (q k : Core) : Prop :=
  q.regs.pmsel = k.regs.pmsel ∧ q.regs.pmselNew = k.regs.pmselNew ∧ q.running = k.running ∧ q.lastIssue = k.lastIssue ∧
    q.held = k.held ∧ q.computeFree = k.computeFree

theorem sameLevels_count (k : Core) (ev n : Nat) : SameLevels (k.count ev n) k := by
  unfold Core.count
  split <;> exact ⟨rfl, rfl, rfl, rfl, rfl, rfl⟩

/-- The count of an event that a core shows in a cycle, or does not. -/
def Core.countIf (k : Core) (on : Bool) (ev n : Nat) : Core := if on then k.count ev n else k

theorem sameLevels_countIf (k : Core) (on : Bool) (ev n : Nat) : SameLevels (k.countIf on ev n) k := by
  cases on
  · exact ⟨rfl, rfl, rfl, rfl, rfl, rfl⟩
  · exact sameLevels_count k ev n

theorem pmc_countIf (k : Core) (on : Bool) {ev : Nat} (n : Nat) (h : ev ≠ 0) (i : Fin 4) : (k.countIf on ev n).regs.pmc[i] =
    if on = true ∧ bits k.regs.pmsel (8 * i.val) 8 = ev then k.regs.pmc[i] + BitVec.ofNat 64 n else k.regs.pmc[i] := by
  cases on
  · simp [Core.countIf]
  · simpa [Core.countIf] using pmc_count k n h i

/-- The counts of `n` cycles of a core, `conflicts` bank conflicts among them, in the order in which it makes them. -/
def Core.countLevels (k : Core) (cyc n conflicts : Nat) : Core :=
  ((((((k.countIf true 1 n).countIf true 6 conflicts).countIf k.running.isSome 3 n).countIf
    (k.running.isSome && decide (k.lastIssue ≠ some cyc)) 4 n).countIf (k.held.any fun e => e.2) 5 n).countIf
    (decide (cyc < k.computeFree)) 8 n)

section
variable (k : Core) (on : Bool) (ev n : Nat)

theorem pmsel_countIf : (k.countIf on ev n).regs.pmsel = k.regs.pmsel := (sameLevels_countIf k on ev n).1
theorem pmselNew_countIf : (k.countIf on ev n).regs.pmselNew = k.regs.pmselNew := (sameLevels_countIf k on ev n).2.1
theorem running_countIf : (k.countIf on ev n).running = k.running := (sameLevels_countIf k on ev n).2.2.1
theorem lastIssue_countIf : (k.countIf on ev n).lastIssue = k.lastIssue := (sameLevels_countIf k on ev n).2.2.2.1
theorem held_countIf : (k.countIf on ev n).held = k.held := (sameLevels_countIf k on ev n).2.2.2.2.1
theorem computeFree_countIf : (k.countIf on ev n).computeFree = k.computeFree := (sameLevels_countIf k on ev n).2.2.2.2.2

end

theorem count_of_pmsel_eq_zero {k : Core} (h : k.regs.pmsel = 0) (ev n : Nat) : k.count ev n = k := if_pos h

theorem countIf_of_pmsel_eq_zero {k : Core} (h : k.regs.pmsel = 0) (on : Bool) (ev n : Nat) : k.countIf on ev n = k := by
  cases on
  · rfl
  · exact count_of_pmsel_eq_zero h ev n

theorem countLevels_of_pmsel_eq_zero {k : Core} (h : k.regs.pmsel = 0) (cyc n m : Nat) : k.countLevels cyc n m = k := by
  simp only [Core.countLevels, countIf_of_pmsel_eq_zero h]

/-- The core after the counts takes the selection that was written in this cycle. -/
theorem countCycle_eq (k : Core) (cyc m : Nat) {n : Nat} (h : n ≠ 0) : k.countCycle cyc n m =
    { k.countLevels cyc n m with regs := { (k.countLevels cyc n m).regs with
        pmsel := (k.countLevels cyc n m).regs.pmselNew.getD (k.countLevels cyc n m).regs.pmsel, pmselNew := none } } := by
  have inner : k.countLevels cyc n m = if k.regs.pmsel = 0 then k else
      let k := (k.count 1 n).count 6 m
      let k := if k.running.isSome then k.count 3 n else k
      let k := if k.running.isSome && decide (k.lastIssue ≠ some cyc) then k.count 4 n else k
      let scoreboard : Bool := match k.held with
        | some (_, b) => b
        | none => false
      let k := if scoreboard then k.count 5 n else k
      if cyc < k.computeFree then k.count 8 n else k := by
    split
    · next h0 => exact countLevels_of_pmsel_eq_zero h0 cyc n m
    · have scoreboard (q : Core) : (match q.held with | some (_, b) => b | none => false) = q.held.any fun e => e.2 := by
        cases q.held <;> rfl
      have fold (q : Core) (on : Bool) (ev : Nat) : (if on then q.count ev n else q) = q.countIf on ev n := rfl
      have always (q : Core) (ev n : Nat) : q.count ev n = q.countIf true ev n := rfl
      have compute (q : Core) : (if cyc < q.computeFree then q.count 8 n else q) = q.countIf (decide (cyc < q.computeFree)) 8 n := by
        simp only [Core.countIf, decide_eq_true_eq]
      simp only [scoreboard, fold, compute]
      simp only [always, running_countIf, lastIssue_countIf, held_countIf, computeFree_countIf, Core.countLevels]
  rw [inner]; exact if_neg h

theorem pmc_countLevels (k : Core) (cyc n m : Nat) (i : Fin 4) :
    let ev := bits k.regs.pmsel (8 * i.val) 8
    let on : Bool := ev = 1 || (ev = 3 && k.running.isSome) || (ev = 4 && k.running.isSome && decide (k.lastIssue ≠ some cyc))
        || (ev = 5 && k.held.any fun e => e.2) || (ev = 8 && decide (cyc < k.computeFree))
    (ev ≠ 6 → (k.countLevels cyc n m).regs.pmc[i] = if on then k.regs.pmc[i] + BitVec.ofNat 64 n else k.regs.pmc[i]) ∧
      (ev = 6 → (k.countLevels cyc n m).regs.pmc[i] = k.regs.pmc[i] + BitVec.ofNat 64 m) := by
  have step (q : Core) (on : Bool) {ev : Nat} (n : Nat) (h : ev ≠ 0) := pmc_countIf q on n h i
  simp only [Core.countLevels, step _ _ _ (show 1 ≠ 0 by decide), step _ _ _ (show 6 ≠ 0 by decide), step _ _ _ (show 3 ≠ 0 by decide),
    step _ _ _ (show 4 ≠ 0 by decide), step _ _ _ (show 5 ≠ 0 by decide), step _ _ _ (show 8 ≠ 0 by decide), pmsel_countIf]
  generalize bits k.regs.pmsel (8 * i.val) 8 = ev
  refine ⟨fun h6 => ?_, fun h6 => ?_⟩
  · by_cases h1 : ev = 1
    · subst h1; simp
    by_cases h3 : ev = 3
    · subst h3; simp
    by_cases h4 : ev = 4
    · subst h4; simp
    by_cases h5 : ev = 5
    · subst h5; simp
    · simp [h1, h3, h4, h5, h6, and_comm]
  · subst h6; simp

end Sys2Proof.Machine

namespace Sys2Proof.Machine

/-! ## Time -/

theorem aget_map {α β : Type} (f : Nat → α → β) (c : Nat) (l : List (Nat × α)) :
    aget c (l.map fun e => (e.1, f e.1 e.2)) = (aget c l).map (f c) := by
  induction l with
  | nil => rfl
  | cons e l ih =>
    simp only [List.map_cons, aget]
    split
    · next h => subst h; rfl
    · exact ih

theorem cycOff_countIf (k : Core) (on : Bool) (ev n : Nat) : (k.countIf on ev n).cycOff = k.cycOff := by
  unfold Core.countIf Core.count
  split
  · split <;> rfl
  · rfl

theorem cycOff_countCycle (k : Core) (cyc n m : Nat) : (k.countCycle cyc n m).cycOff = k.cycOff := by
  by_cases h : n = 0
  · simp only [Core.countCycle, h, if_true]
  · rw [countCycle_eq k cyc m h]
    simp only [Core.countLevels, cycOff_countIf]

/-- Each core counts its own cycles while time advances. -/
theorem core?_tick {s : State} {c : Nat} {k : Core} (h : s.core? c = some k) :
    ∃ m, s.tick.core? c = some (k.countCycle (s.cyc c) (s.tick.cyc c - s.cyc c) m) := by
  let t : State := { s with now := s.now + 1, fresh := s.fresh + 1 }
  have hq : s.tick.core? c = some (k.countCycle (s.cyc c) (t.cyc c - s.cyc c) (Config.bankConflicts (s.fresh + c))) := by
    refine (aget_map (fun d q => q.countCycle (s.cyc d) (t.cyc d - s.cyc d) (Config.bankConflicts (s.fresh + d))) c s.cores).trans ?_
    rw [show aget c s.cores = some k from h]; rfl
  have ht : s.tick.cyc c = t.cyc c := by
    simp only [State.cyc, hq, show t.core? c = some k from h, cycOff_countCycle]; rfl
  rw [ht]
  exact ⟨_, hq⟩

end Sys2Proof.Machine

namespace Sys2Proof.Machine

/-! ## What a tick counts -/

/-- The counters of a core after a tick: the levels of its cycles, and a free number of bank conflicts (R363). -/
theorem counters_tick {s : State} {c : Nat} {k : Core} (h : s.core? c = some k) : ∃ q, s.tick.core? c = some q ∧
    let n := s.tick.cyc c - s.cyc c
    q.regs.pmsel = (if n = 0 then k.regs.pmsel else k.regs.pmselNew.getD k.regs.pmsel) ∧
    ∀ i : Fin 4,
      let ev := bits k.regs.pmsel (8 * i.val) 8
      let on : Bool := ev = 1 || (ev = 3 && k.running.isSome) || (ev = 4 && k.running.isSome && decide (k.lastIssue ≠ some (s.cyc c)))
        || (ev = 5 && k.held.any fun e => e.2) || (ev = 8 && decide (s.cyc c < k.computeFree))
      (ev ≠ 6 → q.regs.pmc[i] = if on then k.regs.pmc[i] + BitVec.ofNat 64 n else k.regs.pmc[i]) ∧
      (ev = 6 → ∃ m, q.regs.pmc[i] = k.regs.pmc[i] + BitVec.ofNat 64 m) := by
  obtain ⟨m, hq⟩ := core?_tick h
  refine ⟨_, hq, ?_⟩
  generalize s.tick.cyc c - s.cyc c = n
  by_cases hn : n = 0
  · subst hn
    rw [show k.countCycle (s.cyc c) 0 m = k from if_pos rfl]
    exact ⟨rfl, fun i => ⟨fun _ => by simp, fun _ => ⟨0, by simp⟩⟩⟩
  · rw [countCycle_eq k (s.cyc c) m hn]
    refine ⟨?_, fun i => ?_⟩
    · simp only [hn, if_false, Core.countLevels, pmsel_countIf, pmselNew_countIf]
    · obtain ⟨levels, conflicts⟩ := pmc_countLevels k (s.cyc c) n m i
      exact ⟨levels, fun h6 => ⟨m, conflicts h6⟩⟩

/-! ## What other events count -/

/-- Core `q` has the counters of core `k` with `n` events `ev` more. -/
def Counted (k q : Core) (ev n : Nat) : Prop :=
  ∀ i : Fin 4, bits k.regs.pmsel (8 * i.val) 8 = ev → q.regs.pmc[i] = k.regs.pmc[i] + BitVec.ofNat 64 n

/-- A core counts an event among changes that leave the counters. -/
theorem counted_of_count {k j q : Core} {ev n : Nat} (h : ev ≠ 0) (hs : j.regs.pmsel = k.regs.pmsel) (hj : j.regs.pmc = k.regs.pmc)
    (hq : q.regs.pmc = (j.count ev n).regs.pmc) : Counted k q ev n := by
  intro i hi
  rw [← hs] at hi
  have := pmc_count j n h i
  rw [if_pos hi] at this
  simp only [hq, ← hj]
  exact this

theorem counted_count {k : Core} (j : Core) {ev n : Nat} (h : ev ≠ 0) (hs : j.regs.pmsel = k.regs.pmsel) (hj : j.regs.pmc = k.regs.pmc) :
    Counted k (j.count ev n) ev n := counted_of_count h hs hj rfl

theorem counted_matrixWrite (k : Core) (fresh : Nat) {e : MEntry} {m : MmaMode} {n : ANum} {a : Nat} {b : Word} (h : e.cmd = .mma m n a b) :
    Counted k (k.matrixWrite fresh e).1 7 (mmaRows b) := by
  unfold Core.matrixWrite
  rw [h]
  simp only
  split
  · exact counted_of_count (j := k.setAcc n _) (by decide) rfl rfl rfl
  · split
    · exact counted_of_count (j := k.setAcc n _) (by decide) rfl rfl rfl
    · exact counted_of_count (j := k.setAcc n _) (by decide) rfl rfl rfl

theorem counted_correct (k : Core) (a n : Nat) : Counted k (k.correct a n) 16 (k.soft.filter fun e => (wordsOf a n).contains e.1).length := by
  unfold Core.correct
  split
  · next h =>
    intro i _
    rw [List.isEmpty_iff.mp h]
    simp
  · exact counted_count { k with soft := _ } (by decide) rfl rfl

theorem counted_place (k : Core) (m : BitVec 320) (sl : Fin 8) (cyc : Nat) : Counted k (k.place m sl cyc) 18 1 :=
  counted_count ((k.clearT sl fun _ => true).modSlot sl _) (by decide) rfl rfl

/-- A message that arrives while no slot is free is held. -/
theorem counted_doorArrive {s u : State} {c : Nat} {k : Core} {m : BitVec 320} (h : s.core? c = some k) (hu : s.doorArrive c m = (u, none))
    (hf : k.freeSlot = none) : ∃ q, u.core? c = some q ∧ Counted k q 19 1 := by
  simp only [State.doorArrive, h, hf, ite_self] at hu
  split at hu
  · exact absurd (congrArg Prod.snd hu) (by simp)
  split at hu
  · exact absurd (congrArg Prod.snd hu) (by simp)
  · obtain rfl := congrArg Prod.fst hu
    refine ⟨_, (core?_modCore_same _ _ _).trans (congrArg (Option.map _) h), counted_count _ (by decide) rfl rfl⟩

theorem counted_translated {s : State} {c : Nat} {k : Core} {t : Access} {y : Xlate} (h : s.core? c = some k) (ht : t.missed = some y) :
    ∃ q, (s.translated c t).core? c = some q ∧ Counted k q 17 1 := by
  have fill : (k.fillTlb y).regs = k.regs := by unfold Core.fillTlb; split <;> rfl
  have hc : (s.translated c t).core? c = some ((if t.walk.isSome then k else k.fillTlb y).count 17 1) := by
    simp only [State.translated, ht]
    split <;> exact (core?_modCore_same _ _ _).trans (by rw [h]; simp [*])
  refine ⟨_, hc, counted_count _ (by decide) ?_ ?_⟩ <;> split <;> simp only [fill]

/-! ## Requests -/

/-- The counters of core `c` are the same in `u` as in `s`. -/
def CountersKept (c : Nat) (s u : State) : Prop :=
  ∀ k, s.core? c = some k → ∃ q, u.core? c = some q ∧ q.regs.pmc = k.regs.pmc

namespace CountersKept

variable {c : Nat} {s t u : State}

theorem refl (c : Nat) (s : State) : CountersKept c s s := fun k h => ⟨k, h, rfl⟩

theorem trans (h : CountersKept c s t) (g : CountersKept c t u) : CountersKept c s u := fun k hk => by
  obtain ⟨q, hq, e⟩ := h k hk
  obtain ⟨r, hr, e'⟩ := g q hq
  exact ⟨r, hr, e'.trans e⟩

theorem same (hc : u.cores = s.cores) : CountersKept c s u := fun k hk => ⟨k, by simpa [State.core?, hc] using hk, rfl⟩

theorem ite {p : Prop} [Decidable p] (h : p → CountersKept c s t) (g : ¬p → CountersKept c s u) : CountersKept c s (if p then t else u) := by
  split
  · next hp => exact h hp
  · next hp => exact g hp

theorem modCore (s : State) (c : Nat) {f : Core → Core} (h : ∀ k, (f k).regs.pmc = k.regs.pmc) : CountersKept c s (s.modCore c f) :=
  fun k hk => ⟨f k, (core?_modCore_same s c f).trans (by rw [hk]; rfl), h k⟩

theorem putReq (s : State) (c : Nat) (q : Req) : CountersKept c s (s.putReq (.core c) q) := modCore s c fun _ => rfl

theorem finj (s : State) (c kind cls n : Nat) : CountersKept c s (s.finj c kind cls n).2 := by
  simp only [State.finj]
  split
  · exact refl c s
  · exact modCore s c fun _ => rfl

theorem delayMsg (c : Nat) (s : State) (id : Nat) : CountersKept c s (s.delayMsg id) := same rfl

theorem contend (c : Nat) : ∀ (fuel : Nat) (movers done : List Nat) (s : State), CountersKept c s (State.contend fuel movers done s)
  | 0, _, _, s => refl c s
  | fuel + 1, movers, done, s => by
    simp only [State.contend]
    split
    · exact (delayMsg c s _).trans (contend c fuel _ _ _)
    · exact refl c s

theorem entered (c : Nat) (s : State) (p : Packet) : CountersKept c s (s.entered p) :=
  trans (ite (fun _ => delayMsg c s p.id) fun _ => refl c s) (contend c _ _ _ _)

theorem postAt (s : State) (c wait : Nat) (dst : Node) (pre nf post : Nat) (cls : BitVec 3) (body : Body) :
    CountersKept c s (s.postAt wait (.core c) dst pre nf post cls body) := by
  refine trans ?_ (entered c _ _)
  exact (finj s c 2 cls.toNat nf).trans (same rfl)

/-- The first attempt of a request is no retransmission: it counts nothing. -/
theorem attempt (s : State) (c : Nat) {q : Req} (h : q.att = 0) (extra : Nat) : CountersKept c s (s.attempt (.core c) q extra) := by
  have bump : CountersKept c s (if (q.att = 0 && q.wr) = true then s.bumpSerial (.core c) q.rid else s) :=
    ite (fun _ => modCore s c fun _ => rfl) fun _ => refl c s
  simp only [State.attempt]
  refine ite (fun _ => ?_) fun _ => trans ?_ (postAt _ c _ _ _ _ _ _ _) <;>
  · refine trans ?_ (finj _ c _ _ _)
    exact ite (fun _ => bump.trans (putReq _ c _)) fun ha => absurd h ha

theorem transmit (s : State) (c : Nat) {q : Req} (h : q.att = 0) (extra : Nat) : CountersKept c s (s.transmit (.core c) q extra) := by
  unfold State.transmit
  split
  · exact putReq s c _
  · exact attempt s c (q := { q with waits := false }) h extra

theorem injection (s : State) (c : Nat) (cls : BitVec 3) (nf : Nat) : CountersKept c s (s.injection (.core c) cls nf).2.2 := by
  simp only [State.injection]
  split
  · exact finj s c 0 cls.toNat 1
  · exact (finj s c 0 cls.toNat 1).trans (finj _ c 2 cls.toNat nf)

end CountersKept

/-- A request that takes an entry is counted once, when it is sent. -/
theorem counted_sendReq {s : State} {c : Nat} {k : Core} {r : Req} (h : s.core? c = some k) (ha : r.att = 0) (he : r.takesEntry = true)
    (extra : Nat) : ∃ q, (s.sendReq (.core c) r extra).core? c = some q ∧ Counted k q 11 1 := by
  let r' : Req := { r with id := s.nextId }
  have he' : r'.takesEntry = true := he
  let j : Core := { k with reqs := k.reqs ++ [r'] }
  let t : State := (s.modReqs (.core c) fun l => l ++ [r']).newId.modCore c fun k => k.count 11 1
  have ht : t.core? c = some (j.count 11 1) := by
    refine (core?_modCore_same _ _ _).trans ?_
    rw [show (s.modReqs (.core c) fun l => l ++ [r']).newId.core? c = some j from
      (core?_modCore_same s c _).trans (congrArg (Option.map _) h)]
    rfl
  have injected (b : Bool) : CountersKept c t (if b = true then t.injection (.core c) r'.cls r'.op.flits else (false, false, t)).2.2 := by
    cases b
    · exact .refl c t
    · exact .injection t c _ _
  have kept : CountersKept c t (s.sendReq (.core c) r extra) := by
    simp only [State.sendReq]
    rw [if_pos he']
    refine .ite (fun _ => .ite (fun _ => injected _) fun _ => (injected _).trans (.same rfl)) fun _ =>
      .ite (fun _ => .refl c t) fun _ => .transmit t c (q := r') ha extra
  obtain ⟨q, hq, hp⟩ := kept _ ht
  exact ⟨q, hq, counted_of_count (j := j) (by decide) rfl rfl hp⟩

end Sys2Proof.Machine

namespace Sys2Proof.Machine

/-- Settles O3: the times of each form of result; the record of a false guard; reads among writes in flight, by induction on the writes;
the conditions of an issue; and what each event counts. -/
theorem issueTimesAreRight : Obligations.IssueTimesAreRight := by
  refine ⟨fun h d a b im c10 c7 sh p q r ml ma mb csr x v vd va vb gd mk s k sl => ⟨?_, ?_, ?_, ?_, ?_, ?_, ?_, ?_, ?_, ?_, ?_⟩,
    fun i s k sl hw hr hg hf => ?_, fun k cyc f r => ⟨fun landed => ?_, getReg_land_view k cyc f r⟩, fun s c hs => ?_,
    fun k ev n hev => pmc_count k n hev, fun s c k hk => counters_tick hk, fun s c k hk => ⟨?_, ?_, ?_, ?_, ?_, ?_⟩⟩
  · exact times_oneCycle h d a b im c10 c7 sh p q r ml ma mb
  · exact fun h0 hn => times_csrOps h d a csr h0 hn
  · exact times_sats h d a b
  · exact times_muls h d a b
  · exact times_fpRounded h d a b x
  · exact times_fpExact h d a b p x
  · exact times_vecTwo h ml x vd va vb mk
  · exact times_vecSats h x vd va vb mk
  · exact times_vecFour h ml x v vd va vb gd mk
  · intro i hi
    obtain ⟨times, busy⟩ := times_vecPipe h x vd va vb mk i hi
    exact ⟨times, busy s k sl⟩
  · exact times_laters h d a b x vd va vb mk
  · obtain ⟨body, he⟩ := issues_wf hw
    rw [he]
    exact issue_false_guard_times hr hg hf
  · obtain same | ⟨e, he, hreg, hlands, -⟩ := getReg_land_view k cyc f r
    · exact same
    · exact absurd (landed e he hreg) (Nat.not_le.mpr hlands)
  · obtain ⟨e, he, rfl, hready⟩ := issueReady_of_nextAct hs
    exact ⟨e, he, rfl, issueReady_running hready⟩
  · exact fun fresh e m n a b he => counted_matrixWrite k fresh he
  · exact fun a n => counted_correct k a n
  · exact fun m sl => counted_place k m sl (s.cyc c)
  · exact fun m u hu hf => counted_doorArrive hk hu hf
  · exact fun t y ht => counted_translated hk ht
  · exact fun r extra ha he => counted_sendReq hk ha he extra

end Sys2Proof.Machine

namespace Sys2Proof.Machine

/-! ## Elements of a vector -/

theorem vat_of_lt {α : Type} {n : Nat} (v : Vector α n) {i : Nat} (h : i < n) (d : α) : vat v i d = v[i] := by
  simp [vat, h]

theorem vat_of_le {α : Type} {n : Nat} (v : Vector α n) {i : Nat} (h : n ≤ i) (d : α) : vat v i d = d := by
  simp [vat, h]

/-- A vector of the default reads the default, in bounds and beyond. -/
theorem vat_replicate_default {α : Type} (n i : Nat) (d : α) : vat (Vector.replicate n d) i d = d := by
  obtain h | h := Nat.lt_or_ge i n
  · rw [vat_of_lt _ h, Vector.getElem_replicate]
  · exact vat_of_le _ h d

theorem vat_setIfInBounds {α : Type} {n : Nat} (v : Vector α n) (i j : Nat) (a d : α) :
    vat (v.setIfInBounds i a) j d = if i = j ∧ j < n then a else vat v j d := by
  obtain h | h := Nat.lt_or_ge j n
  · simp [vat_of_lt _ h, Vector.getElem_setIfInBounds, h]
  · rw [vat_of_le _ h, vat_of_le _ h, if_neg (by omega)]

/-- A field reads what was put there, modulo its width. -/
theorem extractLsb'_putBits_same {w : Nat} (v : BitVec w) (lo len x : Nat) (h : lo + len ≤ w) :
    (putBits v lo len x).extractLsb' lo len = BitVec.ofNat len x := by
  ext i hi
  rw [BitVec.getElem_extractLsb', getLsbD_putBits v lo len x _ h, if_pos (by omega), Nat.add_sub_cancel_left]
  simp [BitVec.getElem_eq_testBit_toNat, hi]

/-! ## The state after power-on (R393) -/

theorem port_reset {p : Nat} (h : p < 64) : State.reset.port p = Port.reset p := by
  rw [State.port, vat_of_lt _ h]
  exact Vector.getElem_ofFn h

theorem part_reset (e : Nat) : State.reset.part e = PartEntry.reset := vat_replicate_default 48 e _

/-- No core is listed, and the memory of every port is empty. -/
theorem memOk_reset : State.reset.memOk := by
  refine ⟨fun e he => absurd he List.not_mem_nil, fun e he => absurd he List.not_mem_nil, fun p => ?_⟩
  have hp : State.reset.ports[p] = Port.reset p := Vector.getElem_ofFn p.isLt
  rw [hp]
  rfl

/-! ## A core as the open wave makes it (R88 to R90, R97) -/

section
variable (idle : Core) (e cols : Nat) (p : PartEntry) (im : Image) (c : Nat)

@[simp] theorem slot_openCore (sl : Fin 8) : (openCore idle e cols p im c).slot sl = Slot.reset := Vector.getElem_replicate sl.isLt

@[simp] theorem getS_openCore (sl : Fin 8) (r : SReg) : (openCore idle e cols p im c).getS sl r = 0 := by
  cases r with
  | g n =>
    have hg : (openCore idle e cols p im c).regs.g[n] = 0 := Vector.getElem_replicate n.isLt
    rw [Core.getS, hg, ite_self]
  | t n =>
    rw [Core.getS, slot_openCore]
    exact Vector.getElem_replicate n.isLt

/-- p0 is fixed at 1, and the others are 0. -/
theorem getP_openCore (sl : Fin 8) (q : PReg) : (openCore idle e cols p im c).getP sl q = true ↔ q = 0 := by
  have hq : Slot.reset.p[q] = false := Vector.getElem_replicate q.isLt
  rw [Core.getP, slot_openCore, hq]
  simp

@[simp] theorem getV_openCore (v : VNum) : (openCore idle e cols p im c).getV v = VReg.reset := Vector.getElem_replicate v.isLt

@[simp] theorem getM_openCore (m : MReg) : (openCore idle e cols p im c).getM m = 0 := Vector.getElem_replicate m.isLt

/-- Every door entry comes from the reset table or from a door record whose PEND and reserved bits were cleared (R3, R311). -/
theorem doorPend_openCore (d : Nat) : (vat (openCore idle e cols p im c).tables.doors d 0).extractLsb' 16 11 = 0 := by
  refine List.foldlRecOn (motive := fun doors : Vector (BitVec 32) 32 => (vat doors d 0).extractLsb' 16 11 = 0) _ _ ?_
    fun doors hd record _ => ?_
  · rw [show Tables.reset.doors = Vector.replicate 32 0 from rfl, vat_replicate_default]
    rfl
  · rw [vat_setIfInBounds]
    split
    · exact extractLsb'_putBits_same record.entry 16 11 0 (by decide)
    · exact hd

/-- Without segments nothing is loaded (R88). -/
theorem mem_openCore_of_no_segs {im : Image} (h : im.segs = []) : (openCore idle e cols p im c).mem = [] := by
  simp only [openCore, h, List.filter_nil, List.foldl_nil]

end

/-- Settles O56: the state after power-on by its ports and slot-table entries; a core of the open wave register by register, and its doors by
induction on the door records that are loaded into them. -/
theorem resetIsRight : Obligations.ResetIsRight := by
  refine ⟨memOk_reset, rfl, rfl, rfl, fun e _ => congrArg PartEntry.st (part_reset e), fun p hp => ?_,
    fun idle e cols p im c => ⟨getS_openCore idle e cols p im c, getV_openCore idle e cols p im c, getM_openCore idle e cols p im c,
      getP_openCore idle e cols p im c, fun sl => ?_, rfl, rfl, rfl, rfl, rfl, rfl, rfl, rfl, rfl, doorPend_openCore idle e cols p im c,
      fun h a => ?_⟩⟩
  · rw [port_reset hp]
    exact ⟨rfl, rfl, fun _ => rfl⟩
  · rw [slot_openCore]
    exact ⟨rfl, rfl, rfl, rfl⟩
  · rw [mem_openCore_of_no_segs idle e cols p c h]
    rfl

end Sys2Proof.Machine

namespace Sys2Proof.Machine

/-! ## Integer elements (R35, R137) -/

/-- The low bits of a word as arithmetic. -/
theorem bits_low {w : Nat} (v : BitVec w) (len : Nat) : bits v 0 len = v.toNat % 2 ^ len := by
  rw [bits_eq, Nat.pow_zero, Nat.div_one]

/-- A clamp to signed `w` bits by its bounds, and when it clamps. -/
theorem satSigned_eq_clamp {w : Nat} (hw : 0 < w) (v : Int) :
    ((satSigned w v).1.toInt, (satSigned w v).2) =
      (max (-(2 ^ (w - 1) : Int)) (min (2 ^ (w - 1) - 1) v), decide (v < -(2 ^ (w - 1) : Int)) || decide ((2 ^ (w - 1) : Int) ≤ v)) := by
  have hp : (0 : Int) < 2 ^ (w - 1) := Int.pow_pos (by decide)
  by_cases low : v < -(2 ^ (w - 1) : Int)
  · have least : max (-(2 ^ (w - 1) : Int)) (min (2 ^ (w - 1) - 1) v) = -(2 ^ (w - 1) : Int) := by omega
    simp only [satSigned, if_pos low]
    rw [BitVec.toInt_ofInt_eq_self hw (by omega) (by omega), least, decide_eq_true low, Bool.true_or]
  · by_cases high : (2 ^ (w - 1) : Int) ≤ v
    · have greatest : max (-(2 ^ (w - 1) : Int)) (min (2 ^ (w - 1) - 1) v) = 2 ^ (w - 1) - 1 := by omega
      simp only [satSigned, if_neg low, if_pos (show v > 2 ^ (w - 1) - 1 by omega)]
      rw [BitVec.toInt_ofInt_eq_self hw (by omega) (by omega), greatest, decide_eq_true high, Bool.or_true]
    · have within : max (-(2 ^ (w - 1) : Int)) (min (2 ^ (w - 1) - 1) v) = v := by omega
      simp only [satSigned, if_neg low, if_neg (show ¬ v > 2 ^ (w - 1) - 1 by omega)]
      rw [BitVec.toInt_ofInt_eq_self hw (by omega) (by omega), within, decide_eq_false low, decide_eq_false high, Bool.or_false]

theorem ite_lt_eq_min (a b : Int) : (if b < a then b else a) = min a b := by omega

theorem ite_lt_eq_max (a b : Int) : (if a < b then b else a) = max a b := by omega

/-- The magnitude of a lane: the negation of a negative one, which −2^31 leaves as it is. -/
theorem ofNat_natAbs_toInt (l : Lane) : BitVec.ofNat 32 l.toInt.natAbs = if l.msb then -l else l := by
  apply BitVec.eq_of_toNat_eq
  rw [BitVec.toInt_eq_msb_cond, BitVec.toNat_ofNat]
  have := l.isLt
  by_cases negative : l.msb = true
  · rw [if_pos negative, if_pos negative, BitVec.toNat_neg]
    omega
  · rw [if_neg negative, if_neg negative]
    omega

section
variable {i : Instr} {h : Head} {x : VecX} {d a b : VNum} {mk : MaskX}

/-- An integer form by another description of its elements. -/
theorem int_lanes_of_eq {w : Nat} {f g : Int → Int → Int × Bool} (he : ∀ s, exec i s = intElem h x d a b mk w f s)
    (hf : ∀ a b, f a b = g a b) : IntLanes i h x d a b mk w g := by
  obtain rfl : f = g := funext fun a => funext (hf a)
  exact int_lanes_of he

/-- A form on lanes by another description of them. -/
theorem bit_lanes_of_eq {f g : Lane → Lane → Lane} (he : ∀ s, exec i s = laneOp h x d a b mk f s)
    (hf : ∀ a b, f a b = g a b) : BitLanes i h x d a b mk g := by
  obtain rfl : f = g := funext fun a => funext (hf a)
  exact bit_lanes_of he

/-- VMIN of each width. -/
theorem min_lanes_of {w : Nat} (he : ∀ s, exec i s = intElem h x d a b mk w (fun a b => (if b < a then b else a, false)) s) :
    IntLanes i h x d a b mk w fun a b => (min a b, false) :=
  int_lanes_of_eq he fun a b => congrArg (·, false) (ite_lt_eq_min a b)

/-- VMAX of each width. -/
theorem max_lanes_of {w : Nat} (he : ∀ s, exec i s = intElem h x d a b mk w (fun a b => (if a < b then b else a, false)) s) :
    IntLanes i h x d a b mk w fun a b => (max a b, false) :=
  int_lanes_of_eq he fun a b => congrArg (·, false) (ite_lt_eq_max a b)

/-- VABS.i32. -/
theorem forms_vabsI32 : Forms (.vabsI32 h x d a mk) h (vxWords x) (usesV2 d a mk) (fun _ => .v d) false fun c k y =>
    lanesBy 32 (c.mask mk) (k.getV d) (fun e y =>
      let l := vat (c.rd.getV a).lanes e 0
      ((if l.msb then -l else l).toNat, y)) y := by
  refine forms_of (lat := 2) (exec_vabsI32 h x d a mk) fun c s k hk _ => ?_
  simp only [fx_core hk, vOld_core hk, vecDone, lanesBy, ofNat_natAbs_toInt]
  rfl

end

/-- Settles O38: each form by the lemma of its form; the clamps, the least and the greatest element and the magnitude by their own bounds,
and the amount of a shift as the low five bits. -/
theorem integerLanesAreRight : Obligations.IntegerLanesAreRight := by
  intro h x d a b mk clamp ints lanes
  have low5 (b : Lane) : bits b 0 5 = b.toNat % 32 := bits_low b 5
  have clamped {w : Nat} (hw : 0 < w) (v : Int) : ((satSigned w v).1.toInt, (satSigned w v).2) = clamp w v := satSigned_eq_clamp hw v
  exact ⟨int_lanes_of (exec_vaddI32 h x d a b mk), int_lanes_of (exec_vsubI32 h x d a b mk), int_lanes_of (exec_vmulI32 h x d a b mk),
    int_lanes_of (exec_vmulhI32 h x d a b mk), min_lanes_of (exec_vminI32 h x d a b mk), max_lanes_of (exec_vmaxI32 h x d a b mk),
    int_lanes_of_eq (exec_vaddsI32 h x d a b mk) fun a b => clamped (by decide) (a + b),
    int_lanes_of_eq (exec_vsubsI32 h x d a b mk) fun a b => clamped (by decide) (a - b),
    int_lanes_of (exec_vaddI16 h x d a b mk), int_lanes_of (exec_vsubI16 h x d a b mk), int_lanes_of (exec_vmulI16 h x d a b mk),
    int_lanes_of_eq (exec_vaddsI16 h x d a b mk) fun a b => clamped (by decide) (a + b),
    int_lanes_of_eq (exec_vsubsI16 h x d a b mk) fun a b => clamped (by decide) (a - b),
    min_lanes_of (exec_vminI16 h x d a b mk), max_lanes_of (exec_vmaxI16 h x d a b mk),
    int_lanes_of (exec_vaddI8 h x d a b mk), int_lanes_of (exec_vsubI8 h x d a b mk),
    int_lanes_of_eq (exec_vaddsI8 h x d a b mk) fun a b => clamped (by decide) (a + b),
    int_lanes_of_eq (exec_vsubsI8 h x d a b mk) fun a b => clamped (by decide) (a - b),
    min_lanes_of (exec_vminI8 h x d a b mk), max_lanes_of (exec_vmaxI8 h x d a b mk),
    bit_lanes_of (exec_vand h x d a b mk), bit_lanes_of (exec_vor h x d a b mk), bit_lanes_of (exec_vxor h x d a b mk),
    bit_lanes_of_eq (exec_vsll h x d a b mk) fun a b => congrArg (a <<< ·) (low5 b),
    bit_lanes_of_eq (exec_vsrl h x d a b mk) fun a b => congrArg (a >>> ·) (low5 b),
    bit_lanes_of_eq (exec_vsra h x d a b mk) fun a b => congrArg a.sshiftRight (low5 b),
    bit_lanes_of_eq (exec_vminuI32 h x d a b mk) fun a b => ite_congr (propext BitVec.ult_iff_lt) (fun _ => rfl) fun _ => rfl,
    forms_vabsI32⟩

end Sys2Proof.Machine

namespace Sys2Proof.Machine

/-! ## The sign of an FP32 element (R37, R138) -/

/-- ABS of FP32 clears the sign bit; a NaN becomes canonical. -/
theorem fpAbs_fp32 (v : Nat) : fpAbs fp32 v = if (Num.ofBits fp32 v).isNan then 0x7FC00000 else v % 2 ^ 31 := rfl

/-- NEG of FP32 inverts the sign bit; a NaN becomes canonical. -/
theorem fpNeg_fp32 (v : Nat) : fpNeg fp32 v = if (Num.ofBits fp32 v).isNan then 0x7FC00000 else (v + 2 ^ 31) % 2 ^ 32 := by
  have flip : fp32.sign (!fp32.isNeg v) + v % 2 ^ 31 = (v + 2 ^ 31) % 2 ^ 32 := by
    by_cases odd : v / 2 ^ 31 % 2 = 1
    · rw [show fp32.isNeg v = true from decide_eq_true odd, show fp32.sign (!true) = 0 from rfl]
      omega
    · rw [show fp32.isNeg v = false from decide_eq_false odd, show fp32.sign (!false) = 2 ^ 31 from rfl]
      omega
  rw [fpNeg, ← flip]
  rfl

/-- A form on the signs of FP32 elements by another description of them. -/
theorem fp_sign_of_eq {i : Instr} {h : Head} {x : VecX} {d a : VNum} {mk : MaskX} {f g : Nat → Nat}
    (he : ∀ s, exec i s = fpSign h x d a mk f s) (hf : ∀ v, f v = g v) :
    Forms i h (vxWords x) (usesV2 d a mk) (fun _ => .v d) true fun c k y =>
      lanesBy 32 (c.mask mk) (k.getV d) (fun e y => (g (vecElem 32 (c.rd.getV a).lanes e), y)) y := by
  obtain rfl : f = g := funext hf
  exact fp_sign_of he

/-- Settles O39: every form by the lemma of the floating-point element forms, and the two signs by what ABS and NEG do to an encoding. -/
theorem floatingPointLanesAreRight : Obligations.FloatingPointLanesAreRight := by
  intro h x d a b mk fp fma sat sign
  -- Each form is elaborated before it meets its clause: from the clause alone the operation of the form cannot be read off.
  exact ⟨(fp_lanes_of (exec_vaddF32 h x d a b mk) :), (fp_lanes_of (exec_vsubF32 h x d a b mk) :), (fp_lanes_of (exec_vmulF32 h x d a b mk) :),
    (fp_lanes_of (exec_vfmaF32 h x d a b mk) :), (fp_lanes_of (exec_vfmsF32 h x d a b mk) :), (fp_lanes_of (exec_vfnmaF32 h x d a b mk) :),
    (fp_lanes_of (exec_vminF32 h x d a b mk) :), (fp_lanes_of (exec_vmaxF32 h x d a b mk) :),
    (fp_lanes_of (exec_vaddBf16 h x d a b mk) :), (fp_lanes_of (exec_vsubBf16 h x d a b mk) :), (fp_lanes_of (exec_vmulBf16 h x d a b mk) :),
    (fp_lanes_of (exec_vfmaBf16 h x d a b mk) :), (fp_lanes_of (exec_vminBf16 h x d a b mk) :), (fp_lanes_of (exec_vmaxBf16 h x d a b mk) :),
    (fp_lanes_of (exec_vaddE4m3 h x d a b mk) :), (fp_lanes_of (exec_vsubE4m3 h x d a b mk) :), (fp_lanes_of (exec_vmulE4m3 h x d a b mk) :),
    (fp_lanes_of (exec_vminE4m3 h x d a b mk) :), (fp_lanes_of (exec_vmaxE4m3 h x d a b mk) :),
    (fp_lanes_of (exec_vaddE5m2 h x d a b mk) :), (fp_lanes_of (exec_vsubE5m2 h x d a b mk) :), (fp_lanes_of (exec_vmulE5m2 h x d a b mk) :),
    (fp_lanes_of (exec_vminE5m2 h x d a b mk) :), (fp_lanes_of (exec_vmaxE5m2 h x d a b mk) :),
    (fp_sign_of_eq (exec_vabsF32 h x d a mk) fpAbs_fp32 :), (fp_sign_of_eq (exec_vnegF32 h x d a mk) fpNeg_fp32 :)⟩

end Sys2Proof.Machine

namespace Sys2Proof.Machine

/-! ## Masks of conditions (R140) -/

/-- The number whose bits below `n` are those of `f`. -/
def bitsBelow (n : Nat) (f : Nat → Bool) : Nat := (List.range n).foldl (fun acc i => if f i then acc + 2 ^ i else acc) 0

theorem bitsBelow_succ (n : Nat) (f : Nat → Bool) :
    bitsBelow (n + 1) f = if f n then bitsBelow n f + 2 ^ n else bitsBelow n f := by
  simp only [bitsBelow, List.range_succ, List.foldl_append, List.foldl_cons, List.foldl_nil]

theorem bitsBelow_lt (n : Nat) (f : Nat → Bool) : bitsBelow n f < 2 ^ n := by
  induction n with
  | zero => exact Nat.one_pos
  | succ n ih =>
    rw [bitsBelow_succ, Nat.pow_succ]
    split <;> omega

theorem testBit_bitsBelow {n e : Nat} (f : Nat → Bool) (he : e < n) : (bitsBelow n f).testBit e = f e := by
  induction n with
  | zero => exact absurd he (Nat.not_lt_zero e)
  | succ n ih =>
    rw [bitsBelow_succ]
    obtain below | rfl := Nat.lt_succ_iff_lt_or_eq.mp he
    · split
      · rw [Nat.add_comm, Nat.testBit_two_pow_add_gt below, ih below]
      · exact ih below
    · have top : (bitsBelow e f).testBit e = false := Nat.testBit_lt_two_pow (bitsBelow_lt e f)
      by_cases set : f e = true
      · rw [if_pos set, Nat.add_comm, Nat.testBit_two_pow_add_eq, top, set, Bool.not_false]
      · rw [if_neg set, top, Bool.eq_false_iff.mpr set]

section
variable {i : Instr} {h : Head} {n : Nat} {uses : Fin 8 → Uses}

/-- A compare writes the enabled bits of its mask, and keeps the others. -/
theorem compares_lanes_of {d : MReg} {mask : Ctx → Word} {w lat : Nat} {f : Ctx → Nat → Bool} {s : State} {k : Core} {sl : Fin 8}
    (he : ∀ s, exec i s = issue h n uses (fun c s => cmpLanes c s d (mask c) w lat (f c)) s) (r : Ready s h n uses k sl) :
    ∃ v : Word, (∀ e, e < 64 → v.getLsbD e =
        if (mask (ctxOf s n k sl)).getLsbD e then (List.range (32 / w)).all fun j => f (ctxOf s n k sl) (e * (32 / w) + j)
        else (k.getM d).getLsbD e) ∧
      Completes i s n k sl (onCore fun q => q.takes (.m d) (.word v)) := by
  refine ⟨BitVec.ofNat 64 (bitsBelow 64 fun e =>
    if (mask (ctxOf s n k sl)).getLsbD e then (List.range (32 / w)).all fun j => f (ctxOf s n k sl) (e * (32 / w) + j)
    else (k.getM d).getLsbD e), fun e h64 => ?_, ?_⟩
  · rw [BitVec.getLsbD_ofNat, testBit_bitsBelow _ h64, decide_eq_true h64, Bool.true_and]
  · simp only [Completes, he]
    refine issue_put (lat := lat) r fun g => ?_
    have hc : (s.seen sl n g).core? (ctxOf s n k sl).c = some k := seen_core r g
    simp only [cmpLanes, hc]
    rfl

end

/-- The integer conditions by the two orders. -/
theorem intCond_eq (n w a b : Nat) : intCond n w a b =
    if n = 0 then a == b else if n = 1 then !(a == b) else if n = 2 then BitVec.slt (BitVec.ofNat w a) (BitVec.ofNat w b)
    else if n = 3 then !BitVec.slt (BitVec.ofNat w a) (BitVec.ofNat w b) else if n = 4 then decide (a < b) else !decide (a < b) := by
  match n with
  | 0 => rfl
  | 1 => rfl
  | 2 => rfl
  | 3 => exact (decide_eq_decide.mpr Int.not_lt.symm).trans decide_not
  | 4 => rfl
  | n + 5 => exact (decide_eq_decide.mpr Nat.not_lt.symm).trans decide_not

/-! ## Moves (R141, R142) -/

section
variable {i : Instr} {h : Head} {n : Nat} {uses : Fin 8 → Uses}

/-- A move by another description of its mask and its lanes. -/
theorem moves_of_eq {d : VNum} {mask mask' : Ctx → Word} {f g : Ctx → Nat → Lane} {lat : Nat}
    (he : ∀ s, exec i s = issue h n uses (fun c s => moveLanes c s d (mask c) lat (f c)) s) (hm : ∀ c, mask c = mask' c)
    (hf : ∀ c e, f c e = g c e) : Moves i h n uses d mask' g := by
  obtain rfl : mask = mask' := funext hm
  obtain rfl : f = g := funext fun c => funext (hf c)
  exact moves_of he

end

/-- The mask of one lane; none beyond the 64 lanes. -/
theorem ofNat_two_pow (e : Nat) : BitVec.ofNat 64 (2 ^ e) = BitVec.twoPow 64 e := by
  apply BitVec.eq_of_toNat_eq
  rw [BitVec.toNat_ofNat, BitVec.toNat_twoPow]

/-- The 42 bits of a header. -/
theorem and_header_mask (v : Word) : v &&& 0x3FFFFFFFFFF = (v.extractLsb' 0 42).setWidth 64 := by
  apply BitVec.eq_of_toNat_eq
  calc (v &&& 0x3FFFFFFFFFF).toNat = v.toNat % 2 ^ 42 := Nat.and_two_pow_sub_one_eq_mod v.toNat 42
    _ = ((v.extractLsb' 0 42).setWidth 64).toNat := by
      rw [BitVec.toNat_setWidth, BitVec.extractLsb'_toNat, Nat.shiftRight_zero]
      omega

/-- VHDR, writing. -/
theorem forms_vhdrWrite (h : Head) (p : VecPfx) (d : VNum) :
    Forms (.vhdrWrite h p d) h 2 (fun sl => ⟨[sid sl p.xb], [.v d]⟩) (fun _ => .v d) false fun c k y =>
      (.vec { k.getV d with header := (c.rs p.xb).extractLsb' 0 42 |>.setWidth 64 }, y) := by
  refine forms_of (lat := 4) (exec_vhdrWrite h p d) fun c s k hk _ => ?_
  simp only [fx_core hk, vOld_core hk, vecDone, and_header_mask]
  rfl

/-- The greater of two signed lanes (R143). -/
theorem reduces_vrmaxI32 (h : Head) (x : VecX) (d a : VNum) (mk : MaskX) :
    Reduces (.vrmaxI32 h x d a mk) h x d a mk 0x80000000 (fun v => v)
      (fun _ a b y => (if (BitVec.ofNat 32 a).toInt < (BitVec.ofNat 32 b).toInt then b else a, y)) := by
  simp only [← BitVec.slt_iff_toInt_lt]
  exact reduces_of (exec_vrmaxI32 h x d a mk)

/-- Settles O40: a compare by the bits of its mask, the moves, the two reads and the header by the lemmas of their forms, and the reductions
by theirs. -/
theorem comparesMovesAndReductionsAreRight : Obligations.ComparesMovesAndReductionsAreRight := by
  intro h x p md d a b gd mk m lane cond compare wi wf ff reads
  refine ⟨fun s k sl r => ?_, fun s k sl r => compares_lanes_of (exec_vcmpF32 h x md a b mk) r,
    moves_of_eq (exec_vperm h x d a b mk) (fun _ => rfl) fun c e => congrArg (fun j => vat (c.rd.getV a).lanes j 0) ?_,
    moves_of (exec_vbcast h x d a mk), moves_of (exec_vbcastScalar h p d mk), moves_of (exec_vrot h x d a mk),
    moves_of (exec_viota h x d mk), moves_of (exec_vsel h x d a b m),
    moves_of_eq (exec_vins h p d) (fun _ => ofNat_two_pow _) (fun _ _ => rfl),
    computes_of (exec_vext h x gd a) fun _ _ => rfl, computes_of (exec_vhdrRead h p gd a) fun _ _ => rfl, forms_vhdrWrite h p d,
    reduces_of (exec_vrsumF32 h x d a mk), reduces_of (exec_vrsumI32 h x d a mk), reduces_of (exec_vrmaxF32 h x d a mk),
    reduces_vrmaxI32 h x d a mk⟩
  · obtain ⟨v, bit, completes⟩ := compares_lanes_of (exec_vcmpI32 h x md a b mk) r
    refine ⟨v, fun e he => (bit e he).trans ?_, completes⟩
    simp only [intCond_eq]
    rfl
  · exact bits_low _ 6

end Sys2Proof.Machine

namespace Sys2Proof.Machine

/-! ## Conversions that are exact or clamp (R144, R145) -/

/-- Rounding to nearest reads neither the generator nor the flags. -/
theorem round_rne_value (f : FpFmt) (v : Num) (sat : Bool) (x y : Fx) : (round f v .rne sat x).1 = (round f v .rne sat y).1 := by
  cases v with
  | nan => rfl
  | inf neg =>
    simp only [round, Fx.draw]
    by_cases noInf : f.infBits.isNone = true
    · simp only [if_pos noInf]
      cases sat <;> rfl
    · simp only [if_neg noInf]
  | fin neg m e =>
    simp only [round, Fx.draw]
    by_cases zero : m = 0
    · simp only [if_pos zero]
    · simp only [if_neg zero]

/-- The clamp to a byte by its three cases, and when it clamps. -/
theorem satSigned_byte (v : Nat) :
    let n := (BitVec.ofNat 32 v).toInt
    ((satSigned 8 n).1.toNat, (satSigned 8 n).2) =
      (if n < -128 then 0x80 else if 127 < n then 0x7F else v % 256, decide (n < -128) || decide (127 < n)) := by
  intro n
  have hn : n % 256 = (v % 256 : Nat) := by
    simp only [n, BitVec.toInt_eq_msb_cond, BitVec.toNat_ofNat]
    split <;> omega
  have half : (2 : Int) ^ (8 - 1) = 128 := rfl
  by_cases low : n < -128
  · simp only [satSigned, half, if_pos low, decide_eq_true low, Bool.true_or]
    rfl
  · by_cases high : 127 < n
    · simp only [satSigned, half, if_neg low, if_pos (show n > 128 - 1 from high), if_pos high, decide_eq_true high, Bool.or_true]
      rfl
    · have byte : (BitVec.ofInt 8 n).toNat = v % 256 := by
        rw [BitVec.toNat_ofInt]
        omega
      simp only [satSigned, half, if_neg low, if_neg (show ¬ n > 128 - 1 from high), if_neg high, decide_eq_false low,
        decide_eq_false high, Bool.or_false, byte]

section
variable {i : Instr} {h : Head} {x : VecX} {d a : VNum} {mk : MaskX} {sw dw : Nat}

/-- A conversion by another description of its elements. -/
theorem converts_of_eq {f : RMode → Bool → Nat → Fx → Nat × Fx} {g : RMode → Nat → Fx → Nat × Fx}
    (he : ∀ s, exec i s = convert h x d a mk sw dw f s) (hf : ∀ m v y, f m (vxSat x) v y = g m v y) :
    Converts i h x d a mk sw dw g := by
  obtain rfl : (fun m v y => f m (vxSat x) v y) = g := funext fun m => funext fun v => funext (hf m v)
  exact converts_of he

end

/-- Settles O41: every conversion by the lemma of its form; the exact ones do not depend on the generator, and the clamp to a byte is the
model's clamp to signed 8 bits. -/
theorem conversionsAreRight : Obligations.ConversionsAreRight := by
  intro h x d a mk narrow widen value
  have exactly (p q : FpFmt) (v : Nat) (y : Fx) : ((fpConv p q v .rne false y).1, y) = (value p q v, y) :=
    congrArg (·, y) (round_rne_value q (Num.ofBits p v) false y ⟨Rng.reset, 0⟩)
  exact ⟨converts_of_eq (exec_vcvtBf16F32 h x d a mk) fun _ _ _ => rfl, converts_of_eq (exec_vcvtE4m3F32 h x d a mk) fun _ _ _ => rfl,
    converts_of_eq (exec_vcvtE5m2F32 h x d a mk) fun _ _ _ => rfl, converts_of_eq (exec_vcvtE4m3Bf16 h x d a mk) fun _ _ _ => rfl,
    converts_of_eq (exec_vcvtE5m2Bf16 h x d a mk) fun _ _ _ => rfl, converts_of_eq (exec_vcvtF32Bf16 h x d a mk) fun _ => exactly _ _,
    converts_of_eq (exec_vcvtF32E4m3 h x d a mk) fun _ => exactly _ _, converts_of_eq (exec_vcvtF32E5m2 h x d a mk) fun _ => exactly _ _,
    converts_of_eq (exec_vcvtBf16E4m3 h x d a mk) fun _ => exactly _ _, converts_of_eq (exec_vcvtBf16E5m2 h x d a mk) fun _ => exactly _ _,
    converts_of_eq (exec_vcvtI32F32 h x d a mk) fun _ _ _ => rfl, converts_of_eq (exec_vcvtF32I32 h x d a mk) fun _ _ _ => rfl,
    converts_of_eq (exec_vcvtBf16Q4 h x d a mk) fun _ v y => congrArg (·, y) (round_rne_value bf16 (Num.ofInt v) false y ⟨Rng.reset, 0⟩),
    converts_of_eq (exec_vcvtI8I32 h x d a mk) fun _ v y => congrArg (fun r => (r.1, y.raise (satFlag r.2))) (satSigned_byte v),
    converts_of_eq (exec_vcvtI32I8 h x d a mk) fun _ _ _ => rfl⟩

end Sys2Proof.Machine

namespace Sys2Proof.Machine

/-! ## Blocks and codes (R147 to R149) -/

/-- A nibble of a register as arithmetic. -/
theorem vecNibble_eq (v : Vector Lane 64) (j : Nat) : vecNibble v j = (vat v (j / 8) 0).toNat / 2 ^ (4 * (j % 8)) % 16 := bits_eq _ _ 4

section
variable {i : Instr} {h : Head} {n : Nat} {uses : Fin 8 → Uses} {d : VNum} {mk : MaskX}

/-- A form that writes the enabled elements of its destination later: the other lanes and the header stay. -/
theorem lanes_later_of {w lat : Nat} {f : Ctx → Nat → Fx → Nat × Fx}
    (he : ∀ s, exec i s = issue h n uses (fun c s => vecLater c s d
      { s.vOld c.c d with lanes := (mapElems w (c.mask mk) (s.vOld c.c d).lanes (f c) (c.fx s)).1 } lat
      (mapElems w (c.mask mk) (s.vOld c.c d).lanes (f c) (c.fx s)).2) s) :
    FormsLater i h n uses (fun _ => .v d) (fun c k y => lanesBy w (c.mask mk) (k.getV d) (f c) y) fun _ => lat := by
  refine forms_later_of he fun c s k hk => ?_
  simp only [fx_core hk, vOld_core hk, vecLater, lanesBy]

/-- A form that writes a whole register later, with flags that do not depend on the earlier ones. -/
theorem register_later_of {lat : Nat} {v : Ctx → VReg} {fl : Ctx → BitVec 6}
    (he : ∀ s, exec i s = issue h n uses (fun c s => vecLater c s d (v c) lat ((c.fx s).raise (fl c))) s) :
    FormsLater i h n uses (fun _ => .v d) (fun c _ y => (.vec (v c), y.raise (fl c))) fun _ => lat := by
  refine forms_later_of he fun c s k hk => ?_
  simp only [fx_core hk, vecLater]

end

/-- Settles O42: the blocks of one register by the lemma of their form, BADD and BALIGN as whole registers with their flags, and DEQUANT,
VLUT and VDQW as enabled elements, a code being a nibble of its lane. -/
theorem blockInstructionsAreRight : Obligations.BlockInstructionsAreRight := by
  intro h x d a b kn mk keep dequant nibble
  refine ⟨blocks_of (exec_quantQb8 h x d a), blocks_of (exec_quantQb4 h x d a), blocks_of (exec_qtobaQb8 h x d a),
    blocks_of (exec_qtobaQb4 h x d a), lanes_later_of (exec_dequantQb8 h x d a mk), lanes_later_of (exec_dequantQb4 h x d a mk),
    register_later_of (exec_badd h x d a b), ?_, ?_, ?_⟩
  · have low16 (v : Word) : v.extractLsb' 0 16 = v.setWidth 16 := (BitVec.setWidth_eq_extractLsb' (by decide)).symm
    simp only [low16]
    exact register_later_of (exec_balign h x d a b)
  · simp only [keep, nibble, ← vecNibble_eq]
    exact lanes_later_of (exec_vlut h x d a kn mk)
  · have low4 (l : Lane) : bits l 0 4 = l.toNat % 16 := bits_low l 4
    simp only [keep, nibble, ← vecNibble_eq, ← low4]
    exact lanes_later_of (exec_vdqw h x d a b mk)

end Sys2Proof.Machine

namespace Sys2Proof.Machine

/-! ## The queue of the special-function unit (R152) -/

section
variable {i : Instr} {h : Head} {n : Nat} {uses : Fin 8 → Uses} {fn : SfuFn} {d : VNum} {rm : Rm}

/-- With 8 requests queued, a request is held. -/
theorem sfuQueue_full {c : Ctx} {s : State} {k : Core} {old a b : VReg} {mask : Word} (hk : s.core? c.c = some k)
    (full : 8 ≤ k.sfu.length) : sfuQueue c s fn d old a b mask rm = .hold := by
  simp only [sfuQueue, hk, full, if_true]

/-- A request of the special-function unit keeps the old destination for the lanes that it does not write: held with 8 requests queued,
queued with its operands with fewer. -/
theorem holds_and_queues_of {a b : Ctx → VReg} {mask : Ctx → Word}
    (he : ∀ s, exec i s = issue h n uses (fun c s => sfuQueue c s fn d (s.vOld c.c d) (a c) (b c) (mask c) rm) s) :
    (∀ s k sl, Ready s h n uses k sl → 8 ≤ k.sfu.length → HoldsBack i s false) ∧
      Queues i h n uses fn d (fun c k => (k.getV d, a c, b c)) mask rm := by
  refine ⟨fun s k sl r full => holds_back_of he r fun f => ?_, queues_of he fun c s k hk => by rw [vOld_core hk]⟩
  have hc : (s.seen sl n f).core? (ctxOf s n k sl).c = some k := seen_core r f
  exact sfuQueue_full hc full

end

/-- Settles O43: every request by what the queue does with 8 entries and with fewer, with its own operands. -/
theorem specialFunctionsAreQueued : Obligations.SpecialFunctionsAreQueued := by
  intro h x p d a b mk holds one draws merges
  obtain ⟨divHolds, divQueues⟩ := holds_and_queues_of (exec_vdiv h x d a b mk)
  obtain ⟨drawHolds, drawQueues⟩ := holds_and_queues_of (exec_vdraw h p d a mk)
  obtain ⟨mergeHolds, mergeQueues⟩ := holds_and_queues_of (exec_dmerge h x d a b)
  exact ⟨holds_and_queues_of (exec_vexp h x d a mk), holds_and_queues_of (exec_vexp2 h x d a mk),
    holds_and_queues_of (exec_vlog h x d a mk), holds_and_queues_of (exec_vlog2 h x d a mk),
    holds_and_queues_of (exec_vrcp h x d a mk), holds_and_queues_of (exec_vrsqrt h x d a mk),
    holds_and_queues_of (exec_vsqrt h x d a mk), holds_and_queues_of (exec_vtanh h x d a mk),
    holds_and_queues_of (exec_vsigm h x d a mk), holds_and_queues_of (exec_verf h x d a mk),
    holds_and_queues_of (exec_vsin h x d a mk), holds_and_queues_of (exec_vcos h x d a mk),
    divHolds, divQueues, drawHolds, drawQueues, mergeHolds, mergeQueues⟩

end Sys2Proof.Machine

namespace Sys2Proof.Machine

/-! ## The matrix queue (R157 to R159) -/

section
variable {i : Instr} {h : Head} {n : Nat} {uses : Fin 8 → Uses} {check : Ctx → Core → Option (Cause × Word)} {snap : Bool} {cmd : Ctx → MCmd}

/-- With 16 commands not dispatched, a matrix command is held. -/
theorem matQueue_full {c : Ctx} {s : State} {k : Core} {check : Core → Option (Cause × Word)} {cmd : MCmd} (hk : s.core? c.c = some k)
    (full : 16 ≤ k.matrix.countP fun m => !m.dispatched) : matQueue c s check snap cmd = .hold := by
  simp only [matQueue, withCore, hk, full, if_true]

/-- With room in the queue, a matrix command whose check fails faults with what the check gives. -/
theorem matQueue_fault {c : Ctx} {s : State} {k : Core} {check : Core → Option (Cause × Word)} {cmd : MCmd} {f : Cause × Word}
    (hk : s.core? c.c = some k) (room : k.matrix.countP (fun m => !m.dispatched) < 16) (hf : check k = some f) :
    matQueue c s check snap cmd = .fault f.1 f.2 := by
  simp only [matQueue, withCore, hk, Nat.not_le.mpr room, if_false, hf]

/-- A matrix command is held while the queue is full, and queued with its operands while it is not. -/
theorem holds_and_queues_matrix_of (he : ∀ s, exec i s = issue h n uses (fun c s => matQueue c s (check c) snap (cmd c)) s) :
    (∀ s k sl, Ready s h n uses k sl → 16 ≤ k.matrix.countP (fun m => !m.dispatched) → HoldsBack i s false) ∧
      QueuesMatrix i h n uses check snap cmd := by
  refine ⟨fun s k sl r full => holds_back_of he r fun f => ?_, queues_matrix_of he⟩
  have hc : (s.seen sl n f).core? (ctxOf s n k sl).c = some k := seen_core r f
  exact matQueue_full hc full

/-- A ready matrix command whose check fails faults, and queues nothing. -/
theorem faults_of_check {s : State} {k : Core} {sl : Fin 8} {f : Cause × Word}
    (he : ∀ s, exec i s = issue h n uses (fun c s => matQueue c s (check c) snap (cmd c)) s) (r : Ready s h n uses k sl)
    (room : k.matrix.countP (fun m => !m.dispatched) < 16) (hf : check (ctxOf s n k sl) k = some f) : Faults i s n k sl f.1 f.2 := by
  refine faults_of he r fun g => ?_
  have hc : (s.seen sl n g).core? (ctxOf s n k sl).c = some k := seen_core r g
  exact matQueue_fault hc room hf

end

/-- Settles O44: every command by what the queue does with 16 undispatched entries and with fewer, with its own check and operands. -/
theorem matrixCommandsAreQueued : Obligations.MatrixCommandsAreQueued := by
  intro h x n pr d a b vd va vb g z first full mma plain drain
  exact ⟨holds_and_queues_matrix_of (exec_mmaF8f8 h n a b), holds_and_queues_matrix_of (exec_mmaB16b16 h n a b),
    holds_and_queues_matrix_of (exec_mmaF8i4 h pr a b), holds_and_queues_matrix_of (exec_mmaB16i4 h pr a b),
    holds_and_queues_matrix_of (exec_mmaB16l4 h pr a b), holds_and_queues_matrix_of (exec_mmaQb8 h n a b),
    holds_and_queues_matrix_of (exec_mmaQb4 h n a b), holds_and_queues_matrix_of (exec_mldw h a b),
    holds_and_queues_matrix_of (exec_mswap h), holds_and_queues_matrix_of (exec_mldk h n va),
    holds_and_queues_matrix_of (exec_mcolq h pr va vb), holds_and_queues_matrix_of (exec_mzero h n),
    holds_and_queues_matrix_of (exec_mmovaToVector h vd n g), holds_and_queues_matrix_of (exec_mmovaToAcc h n va g),
    holds_and_queues_matrix_of (exec_mrsum h vd n), holds_and_queues_matrix_of (exec_mchk h d n),
    holds_and_queues_matrix_of (exec_msync h d), holds_and_queues_matrix_of (exec_mdrainF32 h x vd n g z),
    holds_and_queues_matrix_of (exec_mdrainBf16 h x vd n g z), holds_and_queues_matrix_of (exec_mdrainE4m3 h x vd n g z),
    holds_and_queues_matrix_of (exec_mdrainE5m2 h x vd n g z), holds_and_queues_matrix_of (exec_mdrainQb8 h x vd n g z),
    holds_and_queues_matrix_of (exec_mdrainQb4 h x vd n g z), holds_and_queues_matrix_of (exec_mdrainBa32 h x vd n g z)⟩

end Sys2Proof.Machine

namespace Sys2Proof.Machine

/-! ## The checks of matrix operands (R167, R175, R187) -/

/-- A minimum kept in an option is the minimum from its first value on. -/
theorem foldl_min_some {α : Type} (g : α → Nat) (l : List α) (y : Nat) :
    (l.foldl (fun m e => match m with
      | none => some (g e)
      | some y => some (min (g e) y)) (some y)) = some ((l.map g).foldl min y) := by
  induction l generalizing y with
  | nil => rfl
  | cons e l ih => rw [List.foldl_cons, ih, List.map_cons, List.foldl_cons, Nat.min_comm]

/-- The lowest byte at or above 0x3_0000 is the least over the ranges that reach it. -/
theorem overRange_eq_min? (l : List (Nat × Nat)) :
    overRange l = ((l.filter fun e => decide (0x30000 < e.1 + e.2)).map fun e => max e.1 0x30000).min? := by
  unfold overRange
  cases l.filter fun e => decide (0x30000 < e.1 + e.2) with
  | nil => rfl
  | cons e l => exact foldl_min_some (fun e => max e.1 0x30000) l _

/-- Ranges below 0x3_0000 reach no byte there. -/
theorem overRange_of_within {l : List (Nat × Nat)} (within : ∀ e ∈ l, e.1 + e.2 ≤ 0x30000) : overRange l = none := by
  rw [overRange_eq_min?, List.min?_eq_none_iff, List.map_eq_nil_iff, List.filter_eq_nil_iff]
  intro e he
  have := within e he
  simp only [decide_eq_true_eq]
  omega

/-- Ranges that are not empty reach first the lowest byte at or above 0x3_0000 that lies in one of them. -/
theorem overRange_of_lowest {l : List (Nat × Nat)} {y : Nat} (high : 0x30000 ≤ y) (covered : ∃ e ∈ l, e.1 ≤ y ∧ y < e.1 + e.2)
    (lowest : ∀ z, 0x30000 ≤ z → z < y → ∀ e ∈ l, ¬ (e.1 ≤ z ∧ z < e.1 + e.2)) (nonempty : ∀ e ∈ l, 0 < e.2) :
    overRange l = some y := by
  rw [overRange_eq_min?, List.min?_eq_some_iff]
  have least {e : Nat × Nat} (he : e ∈ l) (reaches : 0x30000 < e.1 + e.2) : y ≤ max e.1 0x30000 := by
    have := nonempty e he
    refine Nat.le_of_not_lt fun lower => ?_
    exact lowest (max e.1 0x30000) (by omega) lower e he (by omega)
  constructor
  · obtain ⟨e, he, start, stop⟩ := covered
    have reaches : 0x30000 < e.1 + e.2 := by omega
    have := least he reaches
    exact List.mem_map.mpr ⟨e, List.mem_filter.mpr ⟨he, decide_eq_true reaches⟩, by omega⟩
  · intro b hb
    obtain ⟨e, he, rfl⟩ := List.mem_map.mp hb
    obtain ⟨he, reaches⟩ := List.mem_filter.mp he
    exact least he (of_decide_eq_true reaches)

/-- The first range that the slot may not read is denied. -/
theorem rangesDenied_of_first {k : Core} {pre post : List (Nat × Nat)} {e : Nat × Nat} (before : ∀ q ∈ pre, k.allowed false q.1 q.2 = true)
    (denied : k.allowed false e.1 e.2 = false) : k.rangesDenied (pre ++ e :: post) = some e.1 := by
  have first : (pre ++ e :: post).find? (fun e => !k.allowed false e.1 e.2) = some e :=
    List.find?_eq_some_iff_append.mpr ⟨by rw [denied]; rfl, pre, post, rfl, fun q hq => by rw [before q hq]; rfl⟩
  rw [Core.rangesDenied, first]
  rfl

section
variable {k : Core} {a : Word} {strideBad : Bool} {stride : Nat} {l : Unit → List (Nat × Nat)}

theorem matCheck_misaligned (h : a.toNat % 16 ≠ 0) : k.matCheck a strideBad stride l = some (.lalign, a) := if_pos h

theorem matCheck_stride (h : a.toNat % 16 = 0) (bad : strideBad = true) :
    k.matCheck a strideBad stride l = some (.lalign, if 2 ^ 18 ≤ a.toNat then a else a + BitVec.ofNat 64 stride) := by
  rw [Core.matCheck, if_neg (not_not_intro h), if_pos bad]

theorem matCheck_past (h : a.toNat % 16 = 0) (sound : strideBad = false) (past : 2 ^ 18 ≤ a.toNat) :
    k.matCheck a strideBad stride l = some (.lrange, a) := by
  rw [Core.matCheck, if_neg (not_not_intro h), sound, if_neg Bool.false_ne_true, if_pos past]

theorem matCheck_reaches {x : Nat} (h : a.toNat % 16 = 0) (sound : strideBad = false) (below : a.toNat < 2 ^ 18)
    (reaches : overRange (l ()) = some x) : k.matCheck a strideBad stride l = some (.lrange, BitVec.ofNat 64 x) := by
  rw [Core.matCheck, if_neg (not_not_intro h), sound, if_neg Bool.false_ne_true, if_neg (Nat.not_le.mpr below), reaches]

theorem matCheck_denied {x : Nat} (h : a.toNat % 16 = 0) (sound : strideBad = false) (below : a.toNat < 2 ^ 18)
    (within : overRange (l ()) = none) (denied : k.rangesDenied (l ()) = some x) :
    k.matCheck a strideBad stride l = some (.tnone, BitVec.ofNat 64 x) := by
  rw [Core.matCheck, if_neg (not_not_intro h), sound, if_neg Bool.false_ne_true, if_neg (Nat.not_le.mpr below), within, denied]
  rfl

end

/-- The operand checks of MMA and MLDW in their order: `fails` is what a failing check does, `bad` refuses the layout, and the stride is
checked where the source is `strided`. -/
structure ChecksOperands (fails : Cause → Word → Prop) (k : Core) (a here : Word) (stride : Nat) (bad strided : Prop)
    (l : List (Nat × Nat)) : Prop where
  layout : bad → fails .margs here
  aligned : ¬ bad → a.toNat % 16 ≠ 0 → fails .lalign a
  strideAligned : ¬ bad → a.toNat % 16 = 0 → strided → stride % 16 ≠ 0 →
    fails .lalign (if 2 ^ 18 ≤ a.toNat then a else a + BitVec.ofNat 64 stride)
  past : ¬ bad → a.toNat % 16 = 0 → (strided → stride % 16 = 0) → 2 ^ 18 ≤ a.toNat → fails .lrange a
  within : ¬ bad → a.toNat % 16 = 0 → (strided → stride % 16 = 0) → a.toNat < 2 ^ 18 → ∀ y, overRange l = some y →
    fails .lrange (BitVec.ofNat 64 y)
  rights : ¬ bad → a.toNat % 16 = 0 → (strided → stride % 16 = 0) → a.toNat < 2 ^ 18 → overRange l = none →
    ∀ y, k.rangesDenied l = some y → fails .tnone (BitVec.ofNat 64 y)

/-- A check that refuses `bad` layouts and is `matCheck` for the others makes them in this order. -/
theorem checksOperands_of {fails : Cause → Word → Prop} {k : Core} {a here : Word} {stride : Nat} {bad strided : Prop}
    {l : List (Nat × Nat)} {check : Option (Cause × Word)} {strideBad : Bool} (hf : ∀ c w, check = some (c, w) → fails c w)
    (refuses : bad → check = some (.margs, here)) (goesOn : ¬ bad → check = k.matCheck a strideBad stride fun _ => l)
    (hs : strideBad = true ↔ strided ∧ stride % 16 ≠ 0) : ChecksOperands fails k a here stride bad strided l := by
  have sound (h : strided → stride % 16 = 0) : strideBad = false :=
    Bool.eq_false_iff.mpr fun ht => (hs.mp ht).2 (h (hs.mp ht).1)
  refine ⟨fun hb => hf _ _ (refuses hb), fun hb ha => hf _ _ ?_, fun hb ha st hst => hf _ _ ?_, fun hb ha st past => hf _ _ ?_,
    fun hb ha st below y hy => hf _ _ ?_, fun hb ha st below hn y hy => hf _ _ ?_⟩ <;> rw [goesOn hb]
  · exact matCheck_misaligned ha
  · exact matCheck_stride ha (hs.mpr ⟨st, hst⟩)
  · exact matCheck_past ha (sound st) past
  · exact matCheck_reaches ha (sound st) below hy
  · exact matCheck_denied ha (sound st) below hn hy

/-- The ranges of the statement: the row range of R171 and, in the QB modes, the two header tables. -/
theorem mmaRanges_eq (m : MmaMode) (a : Nat) (b : Word) : mmaRanges m a b =
    ((List.range (bits b 0 5)).map fun r => (a + r * bits b 16 16, 256)) ++
      if m = .qb8 ∨ m = .qb4 then [(8 * bits b 32 15, 8 * (if m = .qb8 then 4 else 8) * bits b 0 5),
        (8 * bits b 48 15, 8 * (if m = .qb8 then 4 else 8) * 16)] else [] := by
  cases m <;> rfl

theorem checksOperands_mma {fails : Cause → Word → Prop} {k : Core} {pc : Nat} {m : MmaMode} {a b : Word}
    (hf : ∀ c w, k.mmaCheck pc m a b = some (c, w) → fails c w) :
    ChecksOperands fails k a (BitVec.ofNat 64 pc) (bits b 16 16) (bits b 0 5 = 0 ∨ 16 < bits b 0 5) True (mmaRanges m a.toNat b) := by
  have layout : (decide (mmaRows b = 0) || decide (16 < mmaRows b)) = true ↔ bits b 0 5 = 0 ∨ 16 < bits b 0 5 := by
    rw [Bool.or_eq_true, decide_eq_true_eq, decide_eq_true_eq, mmaRows]
  exact checksOperands_of (strideBad := decide (mmaStride b % 16 ≠ 0)) hf (fun hb => if_pos (layout.mpr hb))
    (fun hb => if_neg (mt layout.mp hb)) (by rw [decide_eq_true_eq, mmaStride, true_and])

theorem ldwEw_eq (b : Word) : ldwEw b = if bits b 0 2 = 0 then 8 else if bits b 0 2 = 1 then 16 else 4 := by
  unfold ldwEw
  split <;> simp_all

theorem ldwRanges_eq (a : Nat) (b : Word) : ldwRanges a b =
    if b.getLsbD 2 then [(a, bits b 6 6 * (128 * 2 ^ bits b 4 2) * ldwEw b / 8)]
    else (List.range (if b.getLsbD 3 then 128 * 2 ^ bits b 4 2 else bits b 6 6)).map fun j =>
      (a + j * bits b 16 16, ((if b.getLsbD 3 then bits b 6 6 else 128 * 2 ^ bits b 4 2) * ldwEw b + 7) / 8) := rfl

/-- The layouts that MLDW refuses (R167). -/
theorem ldwLayout_iff (b : Word) : (bits b 0 2 = 3 || bits b 4 2 = 3 || ldwNc b = 0 || decide (32 < ldwNc b)
      || decide (32768 < ldwNc b * ldwK b * ldwEw b) || (ldwZ b && !([4, 8, 16, 32].contains (ldwNc b)))) = true ↔
    bits b 0 2 = 3 ∨ bits b 4 2 = 3 ∨ bits b 6 6 = 0 ∨ 32 < bits b 6 6 ∨ 32768 < bits b 6 6 * (128 * 2 ^ bits b 4 2) * ldwEw b ∨
      b.getLsbD 2 = true ∧ bits b 6 6 ≠ 4 ∧ bits b 6 6 ≠ 8 ∧ bits b 6 6 ≠ 16 ∧ bits b 6 6 ≠ 32 := by
  simp only [Bool.or_eq_true, Bool.and_eq_true, decide_eq_true_eq, Bool.not_eq_true', or_assoc, List.contains_cons, List.contains_nil,
    Bool.or_false, Bool.or_eq_false_iff, beq_eq_false_iff_ne]
  rfl

theorem checksOperands_ldw {fails : Cause → Word → Prop} {k : Core} {pc : Nat} {a b : Word}
    (hf : ∀ c w, k.ldwCheck pc a b = some (c, w) → fails c w) :
    ChecksOperands fails k a (BitVec.ofNat 64 pc) (bits b 16 16) (bits b 0 2 = 3 ∨ bits b 4 2 = 3 ∨ bits b 6 6 = 0 ∨ 32 < bits b 6 6 ∨
        32768 < bits b 6 6 * (128 * 2 ^ bits b 4 2) * ldwEw b ∨
        b.getLsbD 2 = true ∧ bits b 6 6 ≠ 4 ∧ bits b 6 6 ≠ 8 ∧ bits b 6 6 ≠ 16 ∧ bits b 6 6 ≠ 32)
      (b.getLsbD 2 = false) (ldwRanges a.toNat b) :=
  checksOperands_of (strideBad := !ldwZ b && decide (ldwStride b % 16 ≠ 0)) hf (fun hb => if_pos ((ldwLayout_iff b).mpr hb))
    (fun hb => if_neg (mt (ldwLayout_iff b).mp hb))
    (by rw [Bool.and_eq_true, Bool.not_eq_true', decide_eq_true_eq, ldwZ, ldwStride])

/-- Settles O45: MMA and MLDW by their checks in order; the first byte past the store by `overRange_of_lowest`, and the first range that
is denied by `rangesDenied_of_first`. -/
theorem matrixOperandsAreChecked : Obligations.MatrixOperandsAreChecked := by
  intro h n pr a b s k sl c p v stride here checks ready room
  have checks_of {i : Instr} {bad strided : Prop} {l : List (Nat × Nat)}
      (hc : ChecksOperands (Faults i s 1 k sl) k (c.rs a) here stride bad strided l) : checks i bad strided l := by
    refine ⟨hc.layout, fun hb => ⟨hc.aligned hb, hc.strideAligned hb, fun ha hs => ⟨hc.past hb ha hs, fun below => ⟨?_, ?_⟩⟩⟩⟩
    · exact fun y high covered lowest nonempty => hc.within hb ha hs below y (overRange_of_lowest high covered lowest nonempty)
    · rintro within pre e post rfl before denied
      exact hc.rights hb ha hs below (overRange_of_within within) e.1 (rangesDenied_of_first before denied)
  refine ⟨?_, checks_of ?_⟩
  · intro i m him rows blocks tables
    refine checks_of ?_
    have mma {i : Instr} {nn : ANum} (he : ∀ s, exec i s = mmaOp h m nn a b s) :
        ChecksOperands (Faults i s 1 k sl) k (c.rs a) here stride (rows = 0 ∨ 16 < rows) True (mmaRanges m p v) :=
      checksOperands_mma fun _ _ => faults_of_check he ready room
    rw [← mmaRanges_eq]
    simp only [List.mem_cons, List.not_mem_nil, or_false, Prod.mk.injEq] at him
    rcases him with ⟨rfl, rfl⟩ | ⟨rfl, rfl⟩ | ⟨rfl, rfl⟩ | ⟨rfl, rfl⟩ | ⟨rfl, rfl⟩ | ⟨rfl, rfl⟩ | ⟨rfl, rfl⟩
    · exact mma (exec_mmaF8f8 h n a b)
    · exact mma (exec_mmaB16b16 h n a b)
    · exact mma (exec_mmaF8i4 h pr a b)
    · exact mma (exec_mmaB16i4 h pr a b)
    · exact mma (exec_mmaB16l4 h pr a b)
    · exact mma (exec_mmaQb8 h n a b)
    · exact mma (exec_mmaQb4 h n a b)
  · rw [← ldwEw_eq, ← ldwRanges_eq]
    exact checksOperands_ldw fun _ _ => faults_of_check (exec_mldw h a b) ready room

end Sys2Proof.Machine

namespace Sys2Proof.Machine

/-! ## Dispatch (R160, R161) -/

/-- Condition 4 of R160: a later command waits for the registers of an earlier one, but for MMAs on the same accumulators. -/
theorem waitsFor_iff (x e : MCmd) : x.waitsFor e = true ↔
    ((∃ r ∈ e.writes, r ∈ x.reads ∨ r ∈ x.writes) ∨ ∃ r ∈ e.reads, r ∈ x.writes) ∧
      ¬ (x.isMma = true ∧ e.isMma = true ∧ x.writes = e.writes) := by
  rw [MCmd.waitsFor, Bool.and_eq_true, and_comm]
  refine and_congr ?_ ?_
  · simp only [Bool.or_eq_true, List.any_eq_true, List.contains_iff_mem]
  · simp only [Bool.not_eq_true', ← Bool.not_eq_true, Bool.and_eq_true, decide_eq_true_eq, and_assoc]

/-- A condition on a pipe that the command may need. -/
theorem not_or_decide_iff {a : Bool} {p : Prop} [Decidable p] : (!a || decide p) = true ↔ (a = true → p) := by
  cases a <;> simp

section
variable {s : State} {c cyc : Nat} {k : Core} {pre post : List MEntry} {x : MEntry}

/-- The oldest undispatched command is taken when the conditions of R160 hold. -/
theorem dispatchable_of_oldest (hm : k.matrix = pre ++ x :: post) (before : ∀ e ∈ pre, e.dispatched = true)
    (waiting : x.dispatched = false) {free : Prop} [Decidable free]
    (hf : free ↔ x.issued < cyc ∧ k.lastDispatch < cyc ∧ (x.cmd.loadPipe = true → k.loadFree ≤ cyc) ∧
      (x.cmd.computePipe = true → k.computeFree ≤ cyc) ∧ ∀ e ∈ k.matrix, e.dispatched = true → ¬ x.cmd.waitsFor e.cmd = true) :
    k.dispatchable cyc = if free then some x else none := by
  have oldest : (k.matrix.find? fun m => !m.dispatched) = some x :=
    List.find?_eq_some_iff_append.mpr ⟨by rw [waiting]; rfl, pre, post, hm, fun e he => by rw [before e he]; rfl⟩
  simp only [Core.dispatchable, oldest]
  refine ite_congr (propext ?_) (fun _ => rfl) fun _ => rfl
  simp only [hf, Bool.and_eq_true, decide_eq_true_eq, not_or_decide_iff, Bool.not_eq_true', ← Bool.not_eq_true, List.any_eq_true,
    List.mem_filter, not_exists, not_and, and_assoc]

theorem exec_matrixDispatch_none (hk : s.core? c = some k) (h : k.dispatchable (s.cyc c) = none) :
    exec (.matrixDispatch c) s = .fault .noSuchItem := by
  simp only [exec_matrixDispatch, execMatrixDispatch, coreEvent, hk, h, Option.bind_some, Option.map_none]

theorem exec_matrixDispatch_some (hk : s.core? c = some k) (h : k.dispatchable (s.cyc c) = some x) :
    exec (.matrixDispatch c) s = .next (s.matrixDispatch c x) := by
  simp only [exec_matrixDispatch, execMatrixDispatch, coreEvent, hk, h, Option.bind_some, Option.map_some]

/-- The last completion of the dispatched commands of a slot (R186). -/
def Core.syncTime (k : Core) (sl : Fin 8) (cyc : Nat) : Nat :=
  (k.matrix.filter fun e => decide (e.slot = sl) && e.dispatched).foldl (fun m e => max m e.completeAt) cyc

theorem foldl_max_ge {α : Type} (f : α → Nat) (l : List α) (m : Nat) :
    m ≤ l.foldl (fun m e => max m (f e)) m ∧ ∀ e ∈ l, f e ≤ l.foldl (fun m e => max m (f e)) m := by
  induction l generalizing m with
  | nil => exact ⟨Nat.le_refl m, fun e he => absurd he List.not_mem_nil⟩
  | cons a l ih =>
    obtain ⟨start, rest⟩ := ih (max m (f a))
    refine ⟨by rw [List.foldl_cons]; omega, fun e he => ?_⟩
    rw [List.foldl_cons]
    rcases List.mem_cons.mp he with rfl | he
    · omega
    · exact rest e he

/-- MSYNC completes now, or with the last dispatched command of its slot. -/
theorem syncTime_ge (k : Core) (sl : Fin 8) (cyc : Nat) :
    cyc ≤ k.syncTime sl cyc ∧ ∀ e ∈ k.matrix, e.slot = sl → e.dispatched = true → e.completeAt ≤ k.syncTime sl cyc := by
  obtain ⟨start, each⟩ := foldl_max_ge MEntry.completeAt (k.matrix.filter fun e => decide (e.slot = sl) && e.dispatched) cyc
  exact ⟨start, fun e he hs hd => each e (List.mem_filter.mpr ⟨he, by rw [decide_eq_true hs, hd]; rfl⟩)⟩

/-- The core after a dispatch: the entry has its time, and the pipes are taken; a drain has also formed its value (R160, R180). -/
theorem core?_matrixDispatch (hk : s.core? c = some k) (x : MEntry) : ∃ g u v f, (s.matrixDispatch c x).core? c = some { k with
    regs := { k.regs with rng := g, amaxQ := u }
    matrix := k.matrix.map fun e => if e.id = x.id then
      { e with dispatched := true, result := v, flags := f, completeAt :=
        if x.cmd.isSync then k.syncTime x.slot (s.cyc c) else s.cyc c + x.cmd.occ + x.cmd.lat } else e
    lastDispatch := s.cyc c
    loadFree := if x.cmd.loadPipe then s.cyc c + x.cmd.occ else k.loadFree
    computeFree := if x.cmd.computePipe then s.cyc c + x.cmd.occ else k.computeFree } :=
  ⟨_, _, _, _, by rw [State.matrixDispatch, core?_modCore_same, hk]; rfl⟩

end

end Sys2Proof.Machine

namespace Sys2Proof.Machine

/-! ## What an operand read and a register write leave (R190, R376, R377) -/

theorem count_eq (k : Core) (ev n : Nat) : ∃ p, k.count ev n = { k with regs := { k.regs with pmc := p } } := by
  unfold Core.count
  split
  · exact ⟨k.regs.pmc, rfl⟩
  · exact ⟨_, rfl⟩

theorem correct_eq (k : Core) (a n : Nat) : ∃ p soft, k.correct a n = { k with regs := { k.regs with pmc := p }, soft := soft } := by
  unfold Core.correct
  split
  · exact ⟨k.regs.pmc, k.soft, rfl⟩
  · obtain ⟨p, h⟩ := count_eq { k with soft := k.soft.filter fun e => !(wordsOf a n).contains e.1 } 16
      (k.soft.filter fun e => (wordsOf a n).contains e.1).length
    exact ⟨p, _, h⟩

/-- A read changes only the records of errors, of injections and of counts. -/
theorem injectRead_eq (k : Core) (a n : Nat) : ∃ p f soft bad, k.injectRead a n =
    { k with regs := { k.regs with pmc := p, finj := f }, soft := soft, badWords := bad } := by
  obtain ⟨p, soft, h⟩ := correct_eq k a n
  unfold Core.injectRead
  rw [h]
  simp only
  split
  · split
    · exact ⟨_, _, _, _, rfl⟩
    · split
      · obtain ⟨p', h'⟩ := count_eq { k with regs := { k.regs with pmc := p, finj := putBits k.regs.finj 0 1 0 }, soft := soft } 16 1
        exact ⟨p', _, _, _, h'⟩
      · exact ⟨_, _, _, _, rfl⟩
  · exact ⟨_, _, _, _, rfl⟩

theorem injectReads_eq (k : Core) (l : List (Nat × Nat)) : ∃ p f soft bad, l.foldl (fun q e => q.injectRead e.1 e.2) k =
    { k with regs := { k.regs with pmc := p, finj := f }, soft := soft, badWords := bad } := by
  induction l generalizing k with
  | nil => exact ⟨k.regs.pmc, k.regs.finj, k.soft, k.badWords, rfl⟩
  | cons e l ih =>
    obtain ⟨p, f, soft, bad, h⟩ := injectRead_eq k e.1 e.2
    obtain ⟨p', f', soft', bad', h'⟩ := ih (k.injectRead e.1 e.2)
    exact ⟨p', f', soft', bad', by rw [List.foldl_cons, h', h]⟩

/-- The core as a command completes in it: its operands have been read, and AMAX is up to date (R162, R182). -/
def Core.completing (k : Core) (cmd : MCmd) (cyc : Nat) : Core := (cmd.ranges.foldl (fun q e => q.injectRead e.1 e.2) k).amaxApply cyc

theorem completing_eq (k : Core) (cmd : MCmd) (cyc : Nat) : ∃ p f soft bad m u, k.completing cmd cyc =
    { k with regs := { k.regs with pmc := p, finj := f, amax := m, amaxQ := u }, soft := soft, badWords := bad } := by
  obtain ⟨p, f, soft, bad, h⟩ := injectReads_eq k cmd.ranges
  exact ⟨p, f, soft, bad, _, _, by rw [Core.completing, h, Core.amaxApply]⟩

/-- A scalar register other than g0 holds the word that was written. -/
theorem getReg_setReg_sid (k : Core) (sl : Fin 8) {d : SReg} (hd : d ≠ .g 0) (w : Word) :
    (k.setReg (sid sl d) (.word w)).getReg (sid sl d) = .word w := by
  cases d with
  | g n =>
    have hn : n ≠ 0 := fun e => hd (congrArg SReg.g e)
    simp [sid, Core.setReg, Core.getReg, Core.setS, Core.getS, hn]
  | t n => simp [sid, Core.setReg, Core.getReg, Core.setS, Core.getS, slot_modSlot_same]

theorem getV_setReg (k : Core) (d : VNum) (v : VReg) : (k.setReg (.v d) (.vec v)).getV d = v := by
  simp [Core.setReg, Core.getV, Core.setV]

/-! ## Elements -/

theorem vat_vgen {α : Type} {n : Nat} (f : Fin n → α) {i : Nat} (h : i < n) (d : α) : vat (vgen f) i d = f ⟨i, h⟩ := by
  rw [vat_of_lt _ h]
  exact getElem_vgen f ⟨i, h⟩

theorem getElem_set_index {α : Type} {n : Nat} (v : Vector α n) (i j : Fin n) (a : α) : (v.set i a)[j] = if i = j then a else v[j] := by
  simp [Vector.getElem_set, Fin.ext_iff]

/-- A digit of a number that is written out with base `B`, the lowest digit first. -/
theorem foldr_range_digit {B : Nat} {f : Nat → Nat} (hf : ∀ i, f i < B) (n j : Nat) (h : j < n) :
    (List.range n).foldr (fun i acc => acc * B + f i) 0 / B ^ j % B = f j := by
  have hB : 0 < B := Nat.lt_of_le_of_lt (Nat.zero_le _) (hf 0)
  induction n generalizing f j with
  | zero => exact absurd h (Nat.not_lt_zero j)
  | succ n ih =>
    rw [List.range_succ_eq_map, List.foldr_cons, List.foldr_map]
    cases j with
    | zero => rw [Nat.pow_zero, Nat.div_one, Nat.mul_add_mod', Nat.mod_eq_of_lt (hf 0)]
    | succ j =>
      rw [Nat.pow_succ', ← Nat.div_div_eq_div_mul, Nat.mul_comm _ B, Nat.mul_add_div hB, Nat.div_eq_of_lt (hf 0), Nat.add_zero]
      exact ih (f := fun i => f (i + 1)) (fun i => hf (i + 1)) j (Nat.lt_of_succ_lt_succ h)

/-- The bits that a list of positions sets. -/
theorem testBit_foldl_or {α : Type} (g : α → Nat) (l : List α) (v r : Nat) :
    (l.foldl (fun acc e => acc ||| 2 ^ g e) v).testBit r = true ↔ v.testBit r = true ∨ ∃ e ∈ l, g e = r := by
  induction l generalizing v with
  | nil => simp
  | cons e l ih =>
    rw [List.foldl_cons, ih, Nat.testBit_or, Bool.or_eq_true, Nat.testBit_two_pow, decide_eq_true_eq, or_assoc]
    simp only [List.mem_cons, or_and_right, exists_or, exists_eq_left]

/-! ## The local store as a command reads it (R163) -/

/-- A command since whose issue nothing was written reads the store as it is. -/
theorem unitRead_unwritten (fresh : Nat) (m : Mem) (a n : Nat) : unitRead fresh [m] a n = m.readN a n := by
  induction n generalizing a with
  | zero => rfl
  | succ n ih => rw [unitRead, ih]; rfl

/-! ## What a command writes (R162) -/

/-- The matrix registers and the local store. -/
structure MatState where
  acc : Vector Acc 4
  wa : BitVec 32768
  ws : BitVec 32768
  kb : Vector (BitVec 256) 4
  mem : Mem

def Core.mat (k : Core) : MatState := ⟨k.regs.acc, k.regs.wa, k.regs.ws, k.regs.kb, k.mem⟩

section
variable (k : Core)

@[simp] theorem mat_count (ev n : Nat) : (k.count ev n).mat = k.mat := by
  obtain ⟨p, h⟩ := count_eq k ev n
  rw [h]
  rfl

@[simp] theorem mat_clearBad (f : Fin 5 → Nat → Bool) : (k.clearBad f).mat = k.mat := rfl

@[simp] theorem mat_setAcc (n : ANum) (a : Acc) : (k.setAcc n a).mat = { k.mat with acc := k.mat.acc.set n a } := rfl

theorem mat_setS (sl : Fin 8) (r : SReg) (w : Word) : (k.setS sl r w).mat = k.mat := by
  cases r with
  | g n =>
    simp only [Core.setS]
    split <;> rfl
  | t n => rfl

theorem mat_setP (sl : Fin 8) (n : PReg) (b : Bool) : (k.setP sl n b).mat = k.mat := by
  unfold Core.setP
  split <;> rfl

/-- A write of a register changes no matrix register: codebooks are written by their command. -/
@[simp] theorem mat_setReg (r : RegId) (v : RegVal) : (k.setReg r v).mat = k.mat := by
  unfold Core.setReg
  split
  · exact mat_setS _ _ _ _
  · exact mat_setS _ _ _ _
  · exact mat_setP _ _ _ _
  all_goals rfl

end

section
variable {k : Core} {fresh : Nat} {x : MEntry}

/-- The rows that an MMA reads. -/
def mmaInput (fresh : Nat) (vs : List Mem) (a : Nat) (b : Word) : List (List Byte) :=
  (List.range (mmaRows b)).map fun r => unitRead fresh vs (a + r * mmaStride b) 256

/-- What an MMA of a QB mode forms (R173). -/
def MatState.mmaQb (k : MatState) (fresh : Nat) (vs : List Mem) (m : MmaMode) (n : ANum) (a : Nat) (b : Word) : Acc × Fx :=
  Machine.mmaQb m b (mmaInput fresh vs a b) (unitRead fresh vs (mmaAH b) (8 * m.blocks * mmaRows b))
    (unitRead fresh vs (mmaWH b) (8 * m.blocks * 16)) k.wa k.acc[n]

/-- What an MMA of another mode forms (R172). -/
def MatState.mmaFp (k : MatState) (fresh : Nat) (vs : List Mem) (m : MmaMode) (n : ANum) (a : Nat) (b : Word) : Acc × Acc × Fx :=
  Machine.mmaFp m b (mmaInput fresh vs a b) k.wa k.kb k.acc[n] k.acc[n + 1]

theorem matrixWrite_mmaQb {m : MmaMode} {n : ANum} {a : Nat} {b : Word} (hx : x.cmd = .mma m n a b) (hm : m.isQb = true) :
    (k.matrixWrite fresh x).1.mat = { k.mat with acc := k.mat.acc.set n (k.mat.mmaQb fresh x.snap m n a b).1 } ∧
      (k.matrixWrite fresh x).2 = (k.mat.mmaQb fresh x.snap m n a b).2.flags := by
  simp only [Core.matrixWrite, hx, hm, if_true, mat_clearBad, mat_count, mat_setAcc]
  exact ⟨rfl, rfl⟩

theorem matrixWrite_mmaFp {m : MmaMode} {n : ANum} {a : Nat} {b : Word} (hx : x.cmd = .mma m n a b) (hm : m.isQb = false) :
    let r := k.mat.mmaFp fresh x.snap m n a b
    let one := k.mat.acc.set n r.1
    (k.matrixWrite fresh x).1.mat = { k.mat with acc := if m.pair then one.set (pairOf n) r.2.1 else one } ∧
      (k.matrixWrite fresh x).2 = r.2.2.flags := by
  simp only [Core.matrixWrite, hx, hm, Bool.false_eq_true, if_false]
  refine ⟨?_, rfl⟩
  split <;> simp only [mat_clearBad, mat_count, mat_setAcc] <;> rfl

/-- MLDW takes the bytes from its address to the last that its rows reach. -/
theorem matrixWrite_mldw {a : Nat} {b : Word} (hx : x.cmd = .mldw a b) : ∃ len, (∀ e ∈ ldwRanges a b, e.1 + e.2 ≤ a + len) ∧
    (k.matrixWrite fresh x).1.mat = { k.mat with ws := ldwPlane b (ofBytes (unitRead fresh x.snap a len)) k.mat.ws } := by
  obtain ⟨-, each⟩ := foldl_max_ge (fun e : Nat × Nat => e.1 + e.2 - a) (ldwRanges a b) 0
  refine ⟨_, fun e he => Nat.sub_le_iff_le_add'.mp (each e he), ?_⟩
  simp only [Core.matrixWrite, hx, mat_clearBad]
  rfl

theorem matrixWrite_mswap (hx : x.cmd = .mswap) : (k.matrixWrite fresh x).1.mat = { k.mat with wa := k.mat.ws, ws := k.mat.wa } := by
  simp only [Core.matrixWrite, hx]
  rfl

theorem matrixWrite_mldk {n : ANum} {va : VReg} (hx : x.cmd = .mldk n va) : (k.matrixWrite fresh x).1.mat = { k.mat with
    kb := k.mat.kb.set n (BitVec.ofNat 256 ((List.range 8).foldr (fun i acc => acc * 2 ^ 32 + (vat va.lanes i 0).toNat) 0)) } := by
  simp only [Core.matrixWrite, hx, mat_clearBad]
  rfl

theorem matrixWrite_mcolq {n : ANum} {va vb : VReg} (hx : x.cmd = .mcolq n va vb) : (k.matrixWrite fresh x).1.mat =
    let r := colQ k.mat.acc[n] k.mat.acc[n + 1] va vb
    { k.mat with acc := (k.mat.acc.set n r.1).set (pairOf n) r.2.1 } := by
  simp only [Core.matrixWrite, hx, mat_clearBad, mat_setAcc]
  rfl

theorem matrixWrite_mzero {n : ANum} (hx : x.cmd = .mzero n) :
    (k.matrixWrite fresh x).1.mat = { k.mat with acc := k.mat.acc.set n Acc.reset } := by
  simp only [Core.matrixWrite, hx, mat_clearBad, mat_setAcc]

theorem matrixWrite_toVector {d : VNum} {n : ANum} {g : Fin 4} (hx : x.cmd = .toVector d n g) : ∃ h,
    (k.matrixWrite fresh x).1 = k.setReg (.v d) (.vec ⟨vgen fun i => vat k.regs.acc[n].lanes (64 * g.val + i.val) 0, h⟩) := by
  simp only [Core.matrixWrite, hx]
  exact ⟨_, rfl⟩

theorem matrixWrite_toAcc {n : ANum} {va : VReg} {g : Fin 4} (hx : x.cmd = .toAcc n va g) : ∃ xs cls, (k.matrixWrite fresh x).1.mat =
    { k.mat with acc := k.mat.acc.set n { k.mat.acc[n] with
      lanes := vgen fun i => if i.val / 64 = g.val then vat va.lanes (i.val % 64) 0 else k.mat.acc[n].lanes[i], x := xs, cls := cls } } := by
  simp only [Core.matrixWrite, hx, mat_clearBad, mat_setAcc]
  exact ⟨_, _, rfl⟩

theorem matrixWrite_mrsum {d : VNum} {n : ANum} (hx : x.cmd = .mrsum d n) : (k.matrixWrite fresh x).1 =
    k.setReg (.v d) (.vec { k.getV d with
      lanes := vgen fun i => if i.val < 16 then vat k.regs.acc[n].rs i.val 0 else (k.getV d).lanes[i] }) := by
  simp only [Core.matrixWrite, hx]
  rfl

theorem matrixWrite_mchk {d : SReg} {n : ANum} (hx : x.cmd = .mchk d n) :
    (k.matrixWrite fresh x).1 = k.setReg (sid x.slot d) (.word (k.mchk n)) := by
  simp only [Core.matrixWrite, hx]

theorem matrixWrite_msync {d : SReg} (hx : x.cmd = .msync d) : (k.matrixWrite fresh x).1 = k.setReg (sid x.slot d) (.word 0) := by
  simp only [Core.matrixWrite, hx]

end

end Sys2Proof.Machine

namespace Sys2Proof.Machine

theorem acc_setReg (k : Core) (r : RegId) (v : RegVal) (n : ANum) : (k.setReg r v).acc n = k.acc n :=
  congrArg (fun m : MatState => m.acc[n]) (mat_setReg k r v)

section
variable {k : Core} {fresh : Nat} {x : MEntry} {out : DrainFmt} {d : VNum} {n : ANum} {g : Nat} {z ba : Bool} {rm : Rm} {sat : Bool}

/-- MDRAIN clears the rows that it has drained where Z says so (R181). -/
theorem matrixWrite_mdrain (hx : x.cmd = .mdrain out d n g z ba rm sat) : ∃ rs xs cls, (k.matrixWrite fresh x).1.mat =
    { k.mat with acc := if z then k.mat.acc.set n ⟨vgen fun i =>
      if decide (out.rows * g ≤ i.val / 16) && decide (i.val / 16 < out.rows * g + out.rows) then 0 else k.mat.acc[n].lanes[i], rs, xs, cls⟩
      else k.mat.acc } := by
  cases z with
  | true => cases hv : x.result <;>
    simp only [Core.matrixWrite, hx, hv, if_true, mat_clearBad, mat_setAcc, mat_setReg, acc_setReg] <;> exact ⟨_, _, _, rfl⟩
  | false => cases hv : x.result <;> simp only [Core.matrixWrite, hx, hv, Bool.false_eq_true, if_false, mat_setReg] <;>
    exact ⟨Acc.reset.rs, Acc.reset.x, Acc.reset.cls, trivial⟩

theorem getV_matrixWrite_mdrain {v : VReg} (hx : x.cmd = .mdrain out d n g z ba rm sat) (hv : x.result = some v) :
    (k.matrixWrite fresh x).1.getV d = v := by
  simp only [Core.matrixWrite, hx, hv]
  split
  · exact getV_setReg k d v
  · exact getV_setReg k d v

end

/-- The matrix registers outside `w` and the local store are the same. -/
structure MatState.KeptBut (w : List MatReg) (q k : MatState) : Prop where
  acc : ∀ n : Fin 4, MatReg.acc n ∉ w → q.acc[n] = k.acc[n]
  wa : MatReg.wa ∉ w → q.wa = k.wa
  ws : MatReg.ws ∉ w → q.ws = k.ws
  kb : ∀ n : Fin 4, MatReg.kb n ∉ w → q.kb[n] = k.kb[n]
  mem : q.mem = k.mem

theorem MatState.KeptBut.refl (w : List MatReg) (k : MatState) : KeptBut w k k :=
  ⟨fun _ _ => rfl, fun _ => rfl, fun _ => rfl, fun _ _ => rfl, rfl⟩

theorem MatState.KeptBut.set_acc {w : List MatReg} {k : MatState} {v : Vector Acc 4} (h : KeptBut w { k with acc := v } k) {n : Fin 4}
    (hn : .acc n ∈ w) (a : Acc) : KeptBut w { k with acc := v.set n a } k := by
  refine ⟨fun m hm => ?_, fun _ => rfl, fun _ => rfl, fun _ _ => rfl, rfl⟩
  have other : n ≠ m := fun e => hm (e ▸ hn)
  exact (getElem_set_index v n m a).trans ((if_neg other).trans (h.acc m hm))

/-- A command changes no matrix register but those that it writes, and no byte of the local store (R160, R162). -/
theorem matrixWrite_keptBut (k : Core) (fresh : Nat) (x : MEntry) : MatState.KeptBut x.cmd.writes (k.matrixWrite fresh x).1.mat k.mat := by
  cases hx : x.cmd with
  | mma m n a b =>
    cases hm : m.isQb with
    | true =>
      rw [(matrixWrite_mmaQb hx hm).1]
      exact (MatState.KeptBut.refl _ k.mat).set_acc (by cases m <;> simp [MCmd.writes, MmaMode.accs, MmaMode.pair]) _
    | false =>
      rw [(matrixWrite_mmaFp hx hm).1]
      cases hp : m.pair with
      | true =>
        simp only [MCmd.writes, MmaMode.accs, hp, if_true]
        exact ((MatState.KeptBut.refl _ k.mat).set_acc (by simp) _).set_acc (by simp) _
      | false =>
        simp only [MCmd.writes, MmaMode.accs, hp, Bool.false_eq_true, if_false]
        exact (MatState.KeptBut.refl _ k.mat).set_acc (by simp) _
  | mldw a b =>
    obtain ⟨len, -, h⟩ := matrixWrite_mldw (k := k) (fresh := fresh) hx
    rw [h]
    exact ⟨fun _ _ => rfl, fun _ => rfl, fun hn => absurd (List.mem_singleton.mpr rfl) hn, fun _ _ => rfl, rfl⟩
  | mswap =>
    rw [matrixWrite_mswap hx]
    exact ⟨fun _ _ => rfl, fun hn => absurd (List.mem_cons_self ..) hn, fun hn => absurd (by simp [MCmd.writes]) hn, fun _ _ => rfl, rfl⟩
  | mldk n va =>
    rw [matrixWrite_mldk hx]
    refine ⟨fun _ _ => rfl, fun _ => rfl, fun _ => rfl, fun m hm => ?_, rfl⟩
    have other : n ≠ m := fun e => hm (e ▸ List.mem_singleton.mpr rfl)
    exact (getElem_set_index _ n m _).trans (if_neg other)
  | mcolq n va vb =>
    rw [matrixWrite_mcolq hx]
    exact ((MatState.KeptBut.refl _ k.mat).set_acc (by simp [MCmd.writes]) _).set_acc (by simp [MCmd.writes]) _
  | mzero n =>
    rw [matrixWrite_mzero hx]
    exact (MatState.KeptBut.refl _ k.mat).set_acc (List.mem_singleton.mpr rfl) _
  | toVector d n g =>
    obtain ⟨h, hw⟩ := matrixWrite_toVector (k := k) (fresh := fresh) hx
    rw [hw, mat_setReg]
    exact .refl _ _
  | toAcc n va g =>
    obtain ⟨xs, cls, h⟩ := matrixWrite_toAcc (k := k) (fresh := fresh) hx
    rw [h]
    exact (MatState.KeptBut.refl _ k.mat).set_acc (List.mem_singleton.mpr rfl) _
  | mrsum d n =>
    rw [matrixWrite_mrsum hx, mat_setReg]
    exact .refl _ _
  | mchk d n =>
    rw [matrixWrite_mchk hx, mat_setReg]
    exact .refl _ _
  | msync d =>
    rw [matrixWrite_msync hx, mat_setReg]
    exact .refl _ _
  | mdrain out d n g z ba rm sat =>
    obtain ⟨rs, xs, cls, h⟩ := matrixWrite_mdrain (k := k) (fresh := fresh) hx
    rw [h]
    cases z with
    | true => exact (MatState.KeptBut.refl _ k.mat).set_acc (List.mem_singleton.mpr rfl) _
    | false => exact .refl _ _

/-- The bits of MCHK: the accumulator's rows below 16, and the shared rows (R185). -/
theorem getLsbD_mchk (k : Core) (n : ANum) {r : Nat} (h : r < 64) : (k.mchk n).getLsbD r = true ↔
    ∃ v, r < 16 ∧ ((n.castSucc, r), v) ∈ k.regs.badRows ∨ ((4, r), v) ∈ k.regs.badRows := by
  rw [Core.mchk, BitVec.getLsbD_ofNat, decide_eq_true h, Bool.true_and, testBit_foldl_or]
  simp only [Nat.zero_testBit, Bool.false_eq_true, false_or, List.mem_filter, Bool.or_eq_true, decide_eq_true_eq]
  constructor
  · rintro ⟨⟨⟨w, r'⟩, v⟩, ⟨hm, ⟨rfl, hr⟩ | rfl⟩, rfl⟩
    · exact ⟨v, .inl ⟨hr, hm⟩⟩
    · exact ⟨v, .inr hm⟩
  · rintro ⟨v, ⟨hr, hm⟩ | hm⟩
    · exact ⟨_, ⟨hm, .inl ⟨rfl, hr⟩⟩, rfl⟩
    · exact ⟨_, ⟨hm, .inr rfl⟩, rfl⟩

/-- Word `j` of a codebook is lane `j` of the register that MLDK loads (R169). -/
theorem extractLsb'_codebook (v : VReg) {j : Nat} (h : j < 8) : (BitVec.ofNat 256
    ((List.range 8).foldr (fun i acc => acc * 2 ^ 32 + (vat v.lanes i 0).toNat) 0)).extractLsb' (32 * j) 32 = vat v.lanes j 0 := by
  apply BitVec.eq_of_toNat_eq
  have digit := foldr_range_digit (B := 2 ^ 32) (f := fun i => (vat v.lanes i 0).toNat) (fun i => (vat v.lanes i 0).isLt) 8 j h
  have cut : 2 ^ 256 = (2 ^ 32) ^ j * (2 ^ 32 * (2 ^ 32) ^ (7 - j)) := by
    rw [← Nat.pow_succ', ← Nat.pow_add, ← Nat.pow_mul, show 32 * (j + (7 - j).succ) = 256 by omega]
  rw [BitVec.extractLsb'_toNat, BitVec.toNat_ofNat, Nat.shiftRight_eq_div_pow, Nat.pow_mul, cut, Nat.mod_mul_right_div_self,
    Nat.mod_mul_right_mod]
  exact digit

/-! ## Completion (R161, R162) -/

section
variable {s : State} {c : Nat} {k : Core} {x : MEntry}

theorem exec_matrixCompletion_due (hk : s.core? c = some k)
    (due : (k.matrix.find? fun m => m.dispatched && decide (m.completeAt ≤ s.cyc c) && decide (m.id = x.id)) = some x) :
    exec (.matrixCompletion c x.id) s = .next (s.matrixComplete c x) := by
  simp only [exec_matrixCompletion, execMatrixCompletion, coreEvent, hk, due, Option.bind_some, Option.map_some]

/-- The queue without the entry `x`. -/
def Core.dropMatrix (k : Core) (x : MEntry) : Core := { k with matrix := k.matrix.filter fun e => decide (e.id ≠ x.id) }

/-- The reads of a command that completes, as one value of its core. -/
theorem modCore_completing (hk : s.core? c = some k) (cmd : MCmd) :
    (s.modCore c fun q => (cmd.ranges.foldl (fun q e => q.injectRead e.1 e.2) q).amaxApply (s.cyc c)) =
      s.modCore c fun _ => k.completing cmd (s.cyc c) :=
  modCore_congr fun q hq => by rw [Option.some.inj (hq.symm.trans hk), Core.completing]

theorem slot_completing (k : Core) (cmd : MCmd) (cyc : Nat) (sl : Fin 8) : (k.completing cmd cyc).slot sl = k.slot sl := by
  obtain ⟨p, f, soft, bad, m, u, h⟩ := completing_eq k cmd cyc
  rw [h]
  rfl

/-- An uncorrectable word in its operands stops a command, and its slot faults (R162, log 15). -/
theorem matrixComplete_bad (hk : s.core? c = some k) {w : Nat} (bad : (k.completing x.cmd (s.cyc c)).badRanges x.cmd.ranges = some w) :
    s.matrixComplete c x = ((s.modCore c fun _ =>
      { (k.completing x.cmd (s.cyc c)).dropMatrix x with
        matrix := ((k.completing x.cmd (s.cyc c)).dropMatrix x).matrix.filter fun e => decide (e.slot ≠ x.slot) || e.dispatched }).faultSlot c
          x.slot .uels ⟨BitVec.ofNat 64 w, (k.slot x.slot).pc, some x.issued, false, 0, 0, 0⟩).settleWaits c := by
  simp only [State.matrixComplete, modCore_completing hk, core?_modCore_same, hk, Option.map_some, bad, modCore_modCore, slot_completing]
  rfl

/-- A command whose operands are sound leaves the queue and writes its results (R162). -/
theorem matrixComplete_sound (hk : s.core? c = some k) (sound : (k.completing x.cmd (s.cyc c)).badRanges x.cmd.ranges = none) :
    s.matrixComplete c x =
      (({ s.modCore c fun _ => ((k.completing x.cmd (s.cyc c)).matrixWrite s.fresh x).1.dropMatrix x with
        fresh := s.fresh + 1 }.raiseFlags c x.slot ((k.completing x.cmd (s.cyc c)).matrixWrite s.fresh x).2 x.trapEn x.pc
        x.issued).settleWaits c) := by
  simp only [State.matrixComplete, modCore_completing hk, core?_modCore_same, hk, Option.map_some, sound, modCore_modCore]
  rfl

end

/-! ## The results of a completed command (R159, R162) -/

/-- Core `j` holds what core `k` holds of a command's operands: the matrix registers and the store, the vectors, and the rows that are out
of step. -/
structure Core.SameOperands (j k : Core) : Prop where
  mat : j.mat = k.mat
  vector : ∀ d, j.getV d = k.getV d
  badRows : j.regs.badRows = k.regs.badRows

/-- Reading its operands changes none of them. -/
theorem sameOperands_completing (k : Core) (cmd : MCmd) (cyc : Nat) : (k.completing cmd cyc).SameOperands k := by
  obtain ⟨p, f, soft, bad, m, u, h⟩ := completing_eq k cmd cyc
  rw [h]
  exact ⟨rfl, fun _ => rfl, rfl⟩

theorem getElem_set_same {α : Type} {n : Nat} (v : Vector α n) (i : Fin n) (a : α) : (v.set i a)[i] = a :=
  (getElem_set_index v i i a).trans (if_pos rfl)

theorem getElem_set_pairOf (v : Vector Acc 4) (n : ANum) (a b : Acc) : ((v.set n a).set (pairOf n) b)[n] = a := by
  have other : pairOf n ≠ n := by revert n; decide
  exact (getElem_set_index _ _ _ b).trans ((if_neg other).trans (getElem_set_same v n a))

theorem isQb_iff (m : MmaMode) : m.isQb = true ↔ m = .qb8 ∨ m = .qb4 := by
  cases m <;> simp [MmaMode.isQb]

section
variable {j k : Core} (same : j.SameOperands k) {fresh : Nat} {x : MEntry}
include same

theorem Core.SameOperands.acc (n : ANum) : j.regs.acc[n] = k.regs.acc[n] := congrArg (fun q : MatState => q.acc[n]) same.mat

/-- A command changes no matrix register but those that it writes, and no byte of the local store (R160). -/
theorem result_keptBut : MatState.KeptBut x.cmd.writes (j.matrixWrite fresh x).1.mat k.mat :=
  same.mat ▸ matrixWrite_keptBut j fresh x

/-- An MMA of a QB mode since whose issue nothing was written (R173). -/
theorem result_mmaQb {m : MmaMode} {n : ANum} {a : Nat} {b : Word} (hx : x.cmd = .mma m n a b) (snap : x.snap = [k.mem])
    (hm : m = .qb8 ∨ m = .qb4) :
    let rows := (List.range (bits b 0 5)).map fun r => k.mem.readN (a + r * bits b 16 16) 256
    let r := mmaQb m b rows (k.mem.readN (8 * bits b 32 15) (8 * m.blocks * bits b 0 5)) (k.mem.readN (8 * bits b 48 15) (8 * m.blocks * 16))
      k.regs.wa k.regs.acc[n]
    (j.matrixWrite fresh x).1.regs.acc[n] = r.1 ∧ (j.matrixWrite fresh x).2 = r.2.flags := by
  obtain ⟨hw, hf⟩ := matrixWrite_mmaQb (k := j) (fresh := fresh) hx ((isQb_iff m).mpr hm)
  simp only [same.mat, snap, MatState.mmaQb, mmaInput, unitRead_unwritten] at hw hf
  exact ⟨(congrArg (fun q : MatState => q.acc[n]) hw).trans (getElem_set_same _ n _), hf⟩

/-- An MMA of another mode since whose issue nothing was written (R172). -/
theorem result_mmaFp {m : MmaMode} {n : ANum} {a : Nat} {b : Word} (hx : x.cmd = .mma m n a b) (snap : x.snap = [k.mem])
    (hm : m.isQb = false) :
    let rows := (List.range (bits b 0 5)).map fun r => k.mem.readN (a + r * bits b 16 16) 256
    let r := mmaFp m b rows k.regs.wa k.regs.kb k.regs.acc[n] k.regs.acc[n + 1]
    (j.matrixWrite fresh x).1.regs.acc[n] = r.1 ∧ (m.pair = true → (j.matrixWrite fresh x).1.regs.acc[n + 1] = r.2.1) ∧
      (j.matrixWrite fresh x).2 = r.2.2.flags := by
  obtain ⟨hw, hf⟩ := matrixWrite_mmaFp (k := j) (fresh := fresh) hx hm
  simp only [same.mat, snap, MatState.mmaFp, mmaInput, unitRead_unwritten] at hw hf
  refine ⟨(congrArg (fun q : MatState => q.acc[n]) hw).trans ?_, fun hp => (congrArg (fun q : MatState => q.acc[n + 1]) hw).trans ?_, hf⟩
  · cases m.pair with
    | true => exact getElem_set_pairOf _ n _ _
    | false => exact getElem_set_same _ n _
  · simp only [hp, if_true]
    exact getElem_set_same _ (pairOf n) _

/-- An MLDW since whose issue nothing was written (R165). -/
theorem result_mldw {a : Nat} {b : Word} (hx : x.cmd = .mldw a b) (snap : x.snap = [k.mem]) :
    ∃ len, (∀ e ∈ ldwRanges a b, e.1 + e.2 ≤ a + len) ∧
      (j.matrixWrite fresh x).1.regs.ws = ldwPlane b (ofBytes (k.mem.readN a len)) k.regs.ws := by
  obtain ⟨len, reach, h⟩ := matrixWrite_mldw (k := j) (fresh := fresh) hx
  rw [same.mat, snap, unitRead_unwritten] at h
  exact ⟨len, reach, congrArg MatState.ws h⟩

theorem result_mcolq {n : ANum} {va vb : VReg} (hx : x.cmd = .mcolq n va vb) :
    let r := colQ k.regs.acc[n] k.regs.acc[n + 1] va vb
    (j.matrixWrite fresh x).1.regs.acc[n] = r.1 ∧ (j.matrixWrite fresh x).1.regs.acc[n + 1] = r.2.1 := by
  have h := matrixWrite_mcolq (k := j) (fresh := fresh) hx
  rw [same.mat] at h
  exact ⟨(congrArg (fun q : MatState => q.acc[n]) h).trans (getElem_set_pairOf _ n _ _),
    (congrArg (fun q : MatState => q.acc[n + 1]) h).trans (getElem_set_same _ (pairOf n) _)⟩

theorem result_mswap (hx : x.cmd = .mswap) :
    (j.matrixWrite fresh x).1.regs.wa = k.regs.ws ∧ (j.matrixWrite fresh x).1.regs.ws = k.regs.wa := by
  have h := matrixWrite_mswap (k := j) (fresh := fresh) hx
  rw [same.mat] at h
  exact ⟨congrArg MatState.wa h, congrArg MatState.ws h⟩

theorem result_toVector {d : VNum} {n : ANum} {g : Fin 4} (hx : x.cmd = .toVector d n g) {e : Nat} (he : e < 64) :
    vat ((j.matrixWrite fresh x).1.getV d).lanes e 0 = vat k.regs.acc[n].lanes (64 * g.val + e) 0 := by
  obtain ⟨header, h⟩ := matrixWrite_toVector (k := j) (fresh := fresh) hx
  rw [h, getV_setReg, vat_vgen _ he, same.acc]

theorem result_toAcc {n : ANum} {v : VReg} {g : Fin 4} (hx : x.cmd = .toAcc n v g) {e : Nat} (he : e < 256) :
    vat (j.matrixWrite fresh x).1.regs.acc[n].lanes e 0 =
      if e / 64 = g.val then vat v.lanes (e % 64) 0 else vat k.regs.acc[n].lanes e 0 := by
  obtain ⟨xs, cls, h⟩ := matrixWrite_toAcc (k := j) (fresh := fresh) hx
  rw [same.mat] at h
  have acc : (j.matrixWrite fresh x).1.regs.acc[n] = _ := (congrArg (fun q : MatState => q.acc[n]) h).trans (getElem_set_same _ n _)
  rw [acc, vat_vgen _ he, vat_of_lt _ he]
  rfl

theorem result_mrsum {d : VNum} {n : ANum} (hx : x.cmd = .mrsum d n) {e : Nat} (he : e < 64) :
    vat ((j.matrixWrite fresh x).1.getV d).lanes e 0 = if e < 16 then vat k.regs.acc[n].rs e 0 else vat (k.getV d).lanes e 0 := by
  rw [matrixWrite_mrsum hx, getV_setReg, vat_vgen _ he, same.acc, same.vector, vat_of_lt (k.getV d).lanes he]
  rfl

/-- A drain with Z clears the rows that it has drained (R181). -/
theorem result_mdrain {out : DrainFmt} {d : VNum} {n : ANum} {g : Nat} {z ba : Bool} {rm : Rm} {sat : Bool}
    (hx : x.cmd = .mdrain out d n g z ba rm sat) (hz : z = true) {e : Nat} (he : e < 256) :
    vat (j.matrixWrite fresh x).1.regs.acc[n].lanes e 0 =
      if out.rows * g ≤ e / 16 ∧ e / 16 < out.rows * g + out.rows then 0 else vat k.regs.acc[n].lanes e 0 := by
  obtain ⟨rs, xs, cls, h⟩ := matrixWrite_mdrain (k := j) (fresh := fresh) hx
  rw [same.mat, if_pos hz] at h
  have acc : (j.matrixWrite fresh x).1.regs.acc[n] = _ := (congrArg (fun q : MatState => q.acc[n]) h).trans (getElem_set_same _ n _)
  rw [acc, vat_vgen _ he, vat_of_lt _ he]
  simp only [Bool.and_eq_true, decide_eq_true_eq]
  rfl

theorem result_mchk {d : SReg} {n : ANum} (hx : x.cmd = .mchk d n) (hd : d ≠ .g 0) :
    ∃ w : Word, (j.matrixWrite fresh x).1.getReg (sid x.slot d) = .word w ∧ ∀ r, r < 64 →
      (w.getLsbD r = true ↔ ∃ v, r < 16 ∧ ((n.castSucc, r), v) ∈ k.regs.badRows ∨ ((4, r), v) ∈ k.regs.badRows) := by
  refine ⟨j.mchk n, ?_, fun r hr => same.badRows ▸ getLsbD_mchk j n hr⟩
  rw [matrixWrite_mchk hx]
  exact getReg_setReg_sid j x.slot hd _

end

section
variable {k : Core} {fresh : Nat} {x : MEntry}

theorem result_mzero {n : ANum} (hx : x.cmd = .mzero n) : (k.matrixWrite fresh x).1.regs.acc[n] = Acc.reset :=
  (congrArg (fun q : MatState => q.acc[n]) (matrixWrite_mzero (k := k) (fresh := fresh) hx)).trans (getElem_set_same _ n _)

theorem result_mldk {n : ANum} {v : VReg} (hx : x.cmd = .mldk n v) {i : Nat} (hi : i < 8) :
    ((k.matrixWrite fresh x).1.regs.kb[n]).extractLsb' (32 * i) 32 = vat v.lanes i 0 := by
  have kb : (k.matrixWrite fresh x).1.regs.kb[n] = _ :=
    (congrArg (fun q : MatState => q.kb[n]) (matrixWrite_mldk (k := k) (fresh := fresh) hx)).trans (getElem_set_same _ n _)
  rw [kb, extractLsb'_codebook v hi]

theorem result_msync {d : SReg} (hx : x.cmd = .msync d) (hd : d ≠ .g 0) :
    (k.matrixWrite fresh x).1.getReg (sid x.slot d) = .word 0 := by
  rw [matrixWrite_msync hx]
  exact getReg_setReg_sid k x.slot hd 0

end

/-- Settles O46: a dispatch by the conditions of R160 on the oldest command and by what it changes; a completion by what it leaves, and
by the result of each command. -/
theorem matrixEventsAreRight : Obligations.MatrixEventsAreRight := by
  refine ⟨?_, ?_⟩
  · intro s c k pre post x hk hm before waiting others load compute conflicts free occ lat
    classical
    have hload : load = x.cmd.loadPipe := rfl
    have hcompute : compute = x.cmd.computePipe := rfl
    have hocc : occ = x.cmd.occ := rfl
    have hlat : lat = x.cmd.lat := by simp only [lat]; cases x.cmd <;> rfl
    have taken : k.dispatchable (s.cyc c) = if free then some x else none :=
      dispatchable_of_oldest hm before waiting (by simp only [waitsFor_iff]; rfl)
    refine ⟨fun hn => exec_matrixDispatch_none hk (taken.trans (if_neg hn)), fun hf => ?_⟩
    obtain ⟨g, u, v, f, hq⟩ := core?_matrixDispatch hk x
    have hx : x ∈ k.matrix := hm ▸ List.mem_append_right pre (List.mem_cons_self ..)
    obtain ⟨now, earlier⟩ := syncTime_ge k x.slot (s.cyc c)
    refine ⟨_, _, _, exec_matrixDispatch_some hk (taken.trans (if_pos hf)), hq, List.mem_map.mpr ⟨x, hx, if_pos rfl⟩, rfl, rfl, rfl,
      fun hs => ?_, fun hs => ?_, rfl, rfl, rfl, fun e he => ?_, rfl, rfl, fun r => rfl⟩
    · rw [hs, hocc, hlat]; rfl
    · rw [hs]
      exact ⟨now, fun e he hes => earlier e (hm ▸ List.mem_append_left _ he) hes (before e he)⟩
    · have kept : e ∈ k.matrix := by
        rw [hm]
        rcases List.mem_append.mp he with h | h
        · exact List.mem_append_left _ h
        · exact List.mem_append_right _ (List.mem_cons_of_mem _ h)
      exact List.mem_map.mpr ⟨e, kept, if_neg (others e he)⟩
  · intro s c k x hk due q0 leaves
    have same : q0.SameOperands k := sameOperands_completing k x.cmd (s.cyc c)
    have completes := exec_matrixCompletion_due hk due
    refine ⟨fun w bad => completes.trans (congrArg _ (matrixComplete_bad hk bad)), ?_⟩
    intro sound q
    have kept : MatState.KeptBut x.cmd.writes q.mat k.mat := result_keptBut same
    refine ⟨completes.trans (congrArg _ (matrixComplete_sound hk sound)), kept.acc, kept.wa, kept.ws, kept.kb, kept.mem,
      fun m n a b hx snap => ?_, fun _ _ hx snap => result_mldw same hx snap, fun _ _ _ hx => result_mcolq same hx,
      fun _ hx => result_mzero hx, fun hx => result_mswap same hx, fun _ _ hx _ hj => result_mldk hx hj,
      fun _ _ _ hx _ he => result_toVector same hx he, fun _ _ _ hx _ he => result_toAcc same hx he,
      fun _ _ hx _ he => result_mrsum same hx he,
      fun _ _ _ _ _ _ _ _ _ hx hv => ⟨getV_matrixWrite_mdrain hx hv, fun hz _ he => result_mdrain same hx hz he⟩,
      fun _ _ hx hd => result_mchk same hx hd, fun _ hx hd => result_msync hx hd⟩
    have floats (hm : m.isQb = false) := result_mmaFp (fresh := s.fresh) same hx snap hm
    refine ⟨fun hm => result_mmaQb same hx snap hm, ?_, ?_,
      fun not8 not4 => (floats (Bool.eq_false_iff.mpr fun hm => ((isQb_iff m).mp hm).elim not8 not4)).2.2⟩
    · rintro (rfl | rfl) <;> exact (floats rfl).1
    · rintro (rfl | rfl | rfl) <;> exact ⟨(floats rfl).1, (floats rfl).2.1 rfl⟩

end Sys2Proof.Machine
